-- ==== Sys2Proof/Word.lean ====
section
/-! DEFINITION. The word types of the SN3 and the plainest operations on them: bit fields, masks of lanes,
little-endian bytes (R3), and the sparse finite map that every sparse store of the model is kept in. -/

namespace Sys2Proof

abbrev Byte := BitVec 8
abbrev Word := BitVec 32
abbrev DWord := BitVec 64
/-- One bit per lane of a gang. -/
abbrev Mask := BitVec 32

/-- A sparse store: pairs of key and value with strictly rising keys (`wfD`). -/
abbrev Map (α : Type) := List (Nat × α)

namespace Map

/-- The value listed at `k`, if any. -/
def find? {α : Type} : Map α → Nat → Option α
  | [], _ => none
  | (j, a) :: m, k => if j = k then some a else find? m k

/-- The value at `k`, or `d` where nothing is listed. -/
def getD {α : Type} (m : Map α) (k : Nat) (d : α) : α := (find? m k).getD d

/-- Lists `a` at `k`, in key order. -/
def put {α : Type} : Map α → Nat → α → Map α
  | [], k, a => [(k, a)]
  | (j, b) :: m, k, a =>
    if j = k then (k, a) :: m else if k < j then (k, a) :: (j, b) :: m else (j, b) :: put m k a

/-- Lists nothing at `k`. -/
def del {α : Type} (m : Map α) (k : Nat) : Map α := m.filter (fun e => e.1 != k)

/-- Writes `a` at `k` of a store that reads `d` where nothing is listed: canonical, so writing `d` unlists. -/
def setD {α : Type} [DecidableEq α] (m : Map α) (k : Nat) (a d : α) : Map α :=
  if a = d then del m k else put m k a

/-- Applies `f` to the value listed at `k`, if any. -/
def adjust {α : Type} (m : Map α) (k : Nat) (f : α → α) : Map α :=
  match find? m k with
  | none => m
  | some a => put m k (f a)

/-- The lowest key at or above `k` that is not listed, counted with fuel. -/
def lowestFree {α : Type} (m : Map α) : Nat → Nat → Option Nat
  | _, 0 => none
  | k, n + 1 => match find? m k with
    | none => some k
    | some _ => lowestFree m (k + 1) n

/-- Keys rise strictly and lie at or above `lo`. -/
def risingFrom {α : Type} : Nat → Map α → Bool
  | _, [] => true
  | lo, (k, _) :: m => decide (lo ≤ k) && risingFrom (k + 1) m

/-- The canonical form of a store whose unlisted keys read `d`. -/
def wfD {α : Type} [DecidableEq α] (d : α) (m : Map α) : Bool :=
  risingFrom 0 m && m.all (fun e => decide (e.2 ≠ d))

end Map

/-- Bits `lo + w - 1 : lo` of a number. -/
def bitsN (x lo w : Nat) : Nat := (x >>> lo) % 2 ^ w

/-- Little-endian value of a list of bytes (R3). -/
def leNat : List Byte → Nat
  | [] => 0
  | b :: bs => b.toNat + 256 * leNat bs

/-- The `n` low bytes of `x`, least significant first (R3). -/
def leBytes : Nat → Nat → List Byte
  | 0, _ => []
  | n + 1, x => BitVec.ofNat 8 x :: leBytes n (x / 256)

/-- The lanes of a mask in ascending order. -/
def lanes (m : Mask) : List Nat := (List.range 32).filter (fun l => m.getLsbD l)

/-- The mask of one lane. -/
def laneBit (l : Nat) : Mask := 1#32 <<< l

/-- The mask of the lanes of `m` at which `f` holds. -/
def maskOf (m : Mask) (f : Nat → Bool) : Mask :=
  (lanes m).foldl (fun a l => if f l then a ||| laneBit l else a) 0

/-- Number of ones. -/
def popc {w : Nat} (x : BitVec w) : Nat := ((List.range w).filter (fun k => x.getLsbD k)).length

/-- The lowest lane of a mask, 32 when it is empty. -/
def lowLane (m : Mask) : Nat := (lanes m).headD 32

/-- Ceiling division. -/
def cdiv (a b : Nat) : Nat := (a + b - 1) / b

end Sys2Proof
end

