-- ==== Sys2Proof/Syntax.lean ====
section
/-! DEFINITION. The syntax of Gelot: the eight instruction formats of R257 to R264 as records that keep every bit of
an instruction word but OPC and FMT, and Instr, with one constructor per row of the opcode table. The rows from
CLAUSE_FETCH on are the part's own events, which no instruction word encodes; their arguments are what the outside
world, or the order in which the part's units act, decides. -/

namespace Sys2Proof

/-- GP and GN of R257. -/
structure Guard where
  gp : BitVec 4
  gn : Bool
  deriving DecidableEq, Repr

/-- The RRR fields (R257, R258): `func` is FUNC, `sd` is FN bit 5. -/
structure RRR where
  g : Guard
  d : BitVec 8
  a : BitVec 8
  b : BitVec 8
  c : BitVec 8
  type : BitVec 4
  rnd : BitVec 2
  sat : Bool
  sa : Bool
  sb : Bool
  sc : Bool
  func : BitVec 5
  sd : Bool
  deriving DecidableEq, Repr

/-- The RRI fields (R259). -/
structure RRI where
  g : Guard
  d : BitVec 8
  a : BitVec 8
  imm : BitVec 32
  deriving DecidableEq, Repr

/-- The MEM fields (R25, R259). -/
structure MEM where
  g : Guard
  d : BitVec 8
  a : BitVec 8
  b : BitVec 8
  size : BitVec 3
  ord : BitVec 2
  scope : BitVec 3
  off : BitVec 16
  deriving DecidableEq, Repr

/-- The BR fields (R260). -/
structure BR where
  g : Guard
  d : BitVec 8
  a : BitVec 8
  off : BitVec 32
  deriving DecidableEq, Repr

/-- The XL fields (R261): `gw` is G, `rsv` the reserved bits 55:54. -/
structure XL where
  g : Guard
  d : BitVec 8
  a : BitVec 8
  b : BitVec 8
  px : BitVec 4
  type : BitVec 4
  rnd : BitVec 2
  gw : Bool
  sa : Bool
  sb : Bool
  sd : Bool
  rsv : BitVec 2
  fn : BitVec 8
  deriving DecidableEq, Repr

/-- The ENG fields (R262): `rsv` is the reserved bits 55:54. -/
structure ENG where
  g : Guard
  d : BitVec 8
  a : BitVec 8
  b : BitVec 8
  c : BitVec 8
  tile : BitVec 6
  rsv : BitVec 2
  sa : Bool
  sb : Bool
  sc : Bool
  sd : Bool
  scope : BitVec 3
  dec : Bool
  deriving DecidableEq, Repr

/-- The GR fields (R263): `rsv` is the reserved bit 63. -/
structure GR where
  g : Guard
  d : BitVec 8
  a : BitVec 8
  b : BitVec 8
  c : BitVec 8
  cur : BitVec 3
  dir : Bool
  px : BitVec 4
  strict : Bool
  sb : Bool
  ord : BitVec 2
  scope : BitVec 3
  rsv : Bool
  deriving DecidableEq, Repr

/-- The SYS fields (R264). -/
structure SYS where
  g : Guard
  d : BitVec 8
  a : BitVec 8
  sel : BitVec 6
  sa : Bool
  sd : Bool
  imm : BitVec 24
  deriving DecidableEq, Repr

/-- One constructor per row of the opcode table. -/
inductive Instr where
  /-- BRA (R272). -/
  | bra (f : BR)
  /-- BRX (R275). -/
  | brx (f : RRR)
  /-- CALL (R273). -/
  | call (f : BR)
  /-- CALLX (R273). -/
  | callx (f : RRR)
  /-- RET (R274). -/
  | ret (f : BR)
  /-- EXIT (R276). -/
  | exit (f : BR)
  /-- WAITG (R278). -/
  | waitg (f : XL)
  /-- YIELD (R279). -/
  | yieldp (f : SYS)
  /-- MARK (R280). -/
  | mark (f : SYS)
  /-- SLEEP (R279). -/
  | sleep (f : SYS)
  /-- LOOPD (R281). -/
  | loopd (f : RRR)
  /-- NOP (R282). -/
  | nop (f : RRR)
  /-- ADD (R284). -/
  | add (f : RRR)
  /-- SUB (R284). -/
  | sub (f : RRR)
  /-- ADDC (R284). -/
  | addc (f : RRR)
  /-- SUBB (R284). -/
  | subb (f : RRR)
  /-- MUL (R284). -/
  | mul (f : RRR)
  /-- MULH (R284). -/
  | mulh (f : RRR)
  /-- MULW (R284). -/
  | mulw (f : RRR)
  /-- MAD (R284). -/
  | mad (f : RRR)
  /-- DIV (R285). -/
  | div (f : RRR)
  /-- REM (R285). -/
  | rem (f : RRR)
  /-- MIN (R284). -/
  | min (f : RRR)
  /-- MAX (R284). -/
  | max (f : RRR)
  /-- ABS (R284). -/
  | abs (f : RRR)
  /-- NEG (R284). -/
  | neg (f : RRR)
  /-- AND (R284). -/
  | andr (f : RRR)
  /-- OR (R284). -/
  | orr (f : RRR)
  /-- XOR (R284). -/
  | xorr (f : RRR)
  /-- ANDN (R284). -/
  | andn (f : RRR)
  /-- NOT (R284). -/
  | notr (f : RRR)
  /-- SHL (R286). -/
  | shl (f : RRR)
  /-- SHR (R286). -/
  | shr (f : RRR)
  /-- SAR (R286). -/
  | sar (f : RRR)
  /-- ROT (R286). -/
  | rot (f : RRR)
  /-- CLZ (R284). -/
  | clz (f : RRR)
  /-- POPC (R284). -/
  | popc (f : RRR)
  /-- BREV (R284). -/
  | brev (f : RRR)
  /-- BFE (R287). -/
  | bfe (f : RRR)
  /-- BFI (R287). -/
  | bfi (f : RRR)
  /-- SEL (R288). -/
  | sel (f : RRR)
  /-- MOV (R288). -/
  | mov (f : RRR)
  /-- MKADDR (R288). -/
  | mkaddr (f : RRR)
  /-- ADDA (R288). -/
  | adda (f : RRR)
  /-- VRDI (R290). -/
  | vrdi (f : RRR)
  /-- VWRI (R290). -/
  | vwri (f : RRR)
  /-- VGROW (R291). -/
  | vgrow (f : RRI)
  /-- MOVI_V (R289). -/
  | moviV (f : RRI)
  /-- MOVI_S (R289). -/
  | moviS (f : RRI)
  /-- MOVH_V (R289). -/
  | movhV (f : RRI)
  /-- MOVH_S (R289). -/
  | movhS (f : RRI)
  /-- ADD_IMM_V (R289). -/
  | addImmV (f : RRI)
  /-- ADD_IMM_S (R289). -/
  | addImmS (f : RRI)
  /-- SHL_IMM_V (R289). -/
  | shlImmV (f : RRI)
  /-- SHL_IMM_S (R289). -/
  | shlImmS (f : RRI)
  /-- SHR_IMM_V (R289). -/
  | shrImmV (f : RRI)
  /-- SHR_IMM_S (R289). -/
  | shrImmS (f : RRI)
  /-- SAR_IMM_V (R289). -/
  | sarImmV (f : RRI)
  /-- SAR_IMM_S (R289). -/
  | sarImmS (f : RRI)
  /-- AND_IMM_V (R289). -/
  | andImmV (f : RRI)
  /-- AND_IMM_S (R289). -/
  | andImmS (f : RRI)
  /-- OR_IMM_V (R289). -/
  | orImmV (f : RRI)
  /-- OR_IMM_S (R289). -/
  | orImmS (f : RRI)
  /-- CMP (R292). -/
  | cmp (f : RRR)
  /-- FCMP (R293). -/
  | fcmp (f : RRR)
  /-- PAND (R294). -/
  | pand (f : RRR)
  /-- POR (R294). -/
  | por (f : RRR)
  /-- PXOR (R294). -/
  | pxor (f : RRR)
  /-- PNOT (R294). -/
  | pnot (f : RRR)
  /-- PMOV (R294). -/
  | pmov (f : RRR)
  /-- FADD (R302). -/
  | fadd (f : RRR)
  /-- FSUB (R302). -/
  | fsub (f : RRR)
  /-- FMUL (R302). -/
  | fmul (f : RRR)
  /-- FMULZ (R233). -/
  | fmulz (f : RRR)
  /-- FMIN (R304). -/
  | fmin (f : RRR)
  /-- FFMA (R305). -/
  | ffma (f : RRR)
  /-- FMAX (R304). -/
  | fmax (f : RRR)
  /-- FDIV (R303). -/
  | fdiv (f : RRR)
  /-- FSQRT (R303). -/
  | fsqrt (f : RRR)
  /-- FRCP (R303). -/
  | frcp (f : RRR)
  /-- FRSQ (R303). -/
  | frsq (f : RRR)
  /-- FEXP2 (R303). -/
  | fexp2 (f : RRR)
  /-- FLOG2 (R303). -/
  | flog2 (f : RRR)
  /-- FRND (R306). -/
  | frnd (f : RRR)
  /-- FCLASS (R307). -/
  | fclass (f : RRR)
  /-- FADDX (R231). -/
  | faddx (f : RRR)
  /-- FSUBX (R231). -/
  | fsubx (f : RRR)
  /-- FMULX (R231). -/
  | fmulx (f : RRR)
  /-- DWADD (R309). -/
  | dwadd (f : RRR)
  /-- DWMUL (R309). -/
  | dwmul (f : RRR)
  /-- DWRND (R310). -/
  | dwrnd (f : RRR)
  /-- CVT (R312). -/
  | cvt (f : RRR)
  /-- PACK (R314). -/
  | pack (f : RRR)
  /-- UNPACK (R315). -/
  | unpack (f : RRR)
  /-- SCALEQ (R313). -/
  | scaleq (f : RRR)
  /-- DOT4 (R316). -/
  | dot4 (f : RRR)
  /-- DOT8 (R316). -/
  | dot8 (f : RRR)
  /-- DOTF8 (R317). -/
  | dotf8 (f : RRR)
  /-- XSECT (R318). -/
  | xsect (f : RRR)
  /-- SCMP (R295). -/
  | scmp (f : RRR)
  /-- SEQB (R295). -/
  | seqb (f : RRR)
  /-- SFIND (R295). -/
  | sfind (f : RRR)
  /-- CRC (R296). -/
  | crc (f : RRR)
  /-- HMIX (R297). -/
  | hmix (f : RRR)
  /-- BSWAP (R295). -/
  | bswap (f : RRR)
  /-- LD_V (R343). -/
  | ldV (f : MEM)
  /-- LD_S (R343). -/
  | ldS (f : MEM)
  /-- ST_V (R343). -/
  | stV (f : MEM)
  /-- ST_S (R343). -/
  | stS (f : MEM)
  /-- LDC (R344). -/
  | ldc (f : MEM)
  /-- PREF_V (R345). -/
  | prefV (f : MEM)
  /-- PREF_S (R345). -/
  | prefS (f : MEM)
  /-- AADD (R348). -/
  | aadd (f : MEM)
  /-- AMIN (R348). -/
  | amin (f : MEM)
  /-- AMAX (R348). -/
  | amax (f : MEM)
  /-- AAND (R348). -/
  | aand (f : MEM)
  /-- AOR (R348). -/
  | aor (f : MEM)
  /-- AXOR (R348). -/
  | axor (f : MEM)
  /-- AXCHG (R348). -/
  | axchg (f : MEM)
  /-- ACAS (R348). -/
  | acas (f : MEM)
  /-- ACAS2 (R348). -/
  | acas2 (f : MEM)
  /-- AFADD (R349). -/
  | afadd (f : MEM)
  /-- AMAXE (R350). -/
  | amaxe (f : MEM)
  /-- FENCE (R351). -/
  | fence (f : MEM)
  /-- PIN (R354). -/
  | pin (f : RRR)
  /-- UNPIN (R355). -/
  | unpin (f : RRR)
  /-- RECLAIM (R357). -/
  | reclaim (f : ENG)
  /-- HARVEST (R359). -/
  | harvest (f : SYS)
  /-- TLBINV (R359). -/
  | tlbinv (f : SYS)
  /-- VOTE (R322). -/
  | vote (f : XL)
  /-- SHFL (R323). -/
  | shfl (f : XL)
  /-- MATCH (R324). -/
  | matchKey (f : XL)
  /-- SCAN (R325). -/
  | scan (f : XL)
  /-- REDI (R325). -/
  | redi (f : XL)
  /-- REDF (R326). -/
  | redf (f : XL)
  /-- REDX (R326). -/
  | redx (f : XL)
  /-- SEGRED (R327). -/
  | segred (f : XL)
  /-- BINIT (R331). -/
  | binit (f : ENG)
  /-- BJOIN (R332). -/
  | bjoin (f : ENG)
  /-- BLEAVE (R332). -/
  | bleave (f : ENG)
  /-- BARV (R333). -/
  | barv (f : ENG)
  /-- BARW (R334). -/
  | barw (f : ENG)
  /-- BARAW (R334). -/
  | baraw (f : ENG)
  /-- BATCH (R337). -/
  | batch (f : ENG)
  /-- BWAIT (R338). -/
  | bwait (f : ENG)
  /-- GADDE (R364). -/
  | gadde (f : GR)
  /-- GDELE (R364). -/
  | gdele (f : GR)
  /-- GSETE (R364). -/
  | gsete (f : GR)
  /-- GLDE (R365). -/
  | glde (f : GR)
  /-- GFIND (R365). -/
  | gfind (f : GR)
  /-- GDEG (R365). -/
  | gdeg (f : GR)
  /-- GVER (R365). -/
  | gver (f : GR)
  /-- GLDV (R366). -/
  | gldv (f : GR)
  /-- GSTV (R366). -/
  | gstv (f : GR)
  /-- GOPEN (R367). -/
  | gopen (f : GR)
  /-- GNEXT (R368). -/
  | gnext (f : GR)
  /-- GSKIP (R368). -/
  | gskip (f : GR)
  /-- GPOS (R368). -/
  | gpos (f : GR)
  /-- GCLOSE (R368). -/
  | gclose (f : GR)
  /-- CPASYNC (R372). -/
  | cpasync (f : ENG)
  /-- CPASYNC_DEC (R198). -/
  | cpasyncDec (f : ENG)
  /-- WBIND (R373). -/
  | wbind (f : ENG)
  /-- WUNBIND (R373). -/
  | wunbind (f : ENG)
  /-- XFORM_COPY2D (R374). -/
  | xformCopy2d (f : ENG)
  /-- XFORM_TRANSPOSE (R374). -/
  | xformTranspose (f : ENG)
  /-- XFORM_CONVERT (R374). -/
  | xformConvert (f : ENG)
  /-- XFORM_EXPAND (R374). -/
  | xformExpand (f : ENG)
  /-- XFORM_CSR2SPR (R374). -/
  | xformCsr2spr (f : ENG)
  /-- XFORM_CRC (R374). -/
  | xformCrc (f : ENG)
  /-- MPASS (R375). -/
  | mpass (f : ENG)
  /-- MQUERY (R376). -/
  | mquery (f : ENG)
  /-- AZERO (R378). -/
  | azero (f : ENG)
  /-- ADRAIN_T (R378). -/
  | adrainT (f : ENG)
  /-- ADRAIN_PLAIN (R378). -/
  | adrainPlain (f : ENG)
  /-- AFILL_T (R378). -/
  | afillT (f : ENG)
  /-- AFILL_PLAIN (R378). -/
  | afillPlain (f : ENG)
  /-- TXV (R378). -/
  | txv (f : ENG)
  /-- VXT (R378). -/
  | vxt (f : ENG)
  /-- LAUNCH (R379). -/
  | launch (f : ENG)
  /-- SYSR (R382). -/
  | sysr (f : SYS)
  /-- SYSW (R382). -/
  | sysw (f : SYS)
  /-- TRAP (R383). -/
  | trap (f : SYS)
  /-- BREAK (R383). -/
  | brk (f : SYS)
  /-- RETT (R384). -/
  | rett (f : SYS)
  /-- RETT_SKIP (R384). -/
  | rettSkip (f : SYS)
  /-- RETT_KILL (R384). -/
  | rettKill (f : SYS)
  /-- RETT_KILLG (R384). -/
  | rettKillg (f : SYS)
  /-- RETT_SEL (R384). -/
  | rettSel (f : SYS)
  /-- MAPPG (R385). -/
  | mappg (f : SYS)
  /-- OBJNEW (R386). -/
  | objnew (f : SYS)
  /-- OBJSET_SIZE (R387). -/
  | objsetSize (f : SYS)
  /-- OBJSET_PERM (R387). -/
  | objsetPerm (f : SYS)
  /-- OBJSET_CTAB (R387). -/
  | objsetCtab (f : SYS)
  /-- OBJSET_UNPOIS (R387). -/
  | objsetUnpois (f : SYS)
  /-- OBJSET_DIRTY (R387). -/
  | objsetDirty (f : SYS)
  /-- CTRRD (R388). -/
  | ctrrd (f : SYS)
  /-- CLAUSE_FETCH (R253). -/
  | clauseFetch (p : Nat)
  /-- HANDLER_VECTOR (R142). -/
  | handlerVector (p : Nat)
  /-- HOST_SERVICE_REQUEST (R157). -/
  | hostServiceRequest
  /-- ACTIVE_SET_SWAP (R84). -/
  | activeSetSwap (q : Nat)
  /-- PATH_URGENT (R86). -/
  | pathUrgent (p : Nat)
  /-- SLEEP_EXPIRE (R279). -/
  | sleepExpire (p : Nat)
  /-- LENS_SAMPLE (R100). -/
  | lensSample (q : Nat) (slot : Nat) (reload : Nat)
  /-- LONG_LATENCY_COMPLETE (R255). -/
  | longLatencyComplete (g : Nat) (op : Nat)
  /-- GRAPH_OP_COMPLETE (R181). -/
  | graphOpComplete (g : Nat) (op : Nat)
  /-- GRAPH_MUTATION_COMMIT (R176). -/
  | graphMutationCommit (g : Nat) (op : Nat)
  /-- GRAPH_SWEEP (R189). -/
  | graphSweep (oid : Nat)
  /-- GANG_RETIRE (R119). -/
  | gangRetire (g : Nat)
  /-- CREW_SLOT_RELEASE (R120). -/
  | crewSlotRelease (c : Nat)
  /-- VGROW_GRANT (R91). -/
  | vgrowGrant (g : Nat)
  /-- GROWTH_DEADLOCK_BREAK (R92). -/
  | growthDeadlockBreak (core : Nat)
  /-- PRIORITY_PREEMPT (R93). -/
  | priorityPreempt
  /-- DRAIN_COMPLETE (R94). -/
  | drainComplete (c : Nat)
  /-- CREW_PLACE (R80). -/
  | crewPlace
  /-- CREW_RESUME (R96). -/
  | crewResume (k : Nat)
  /-- LAUNCH_PORT_WRITE (R58). -/
  | launchPortWrite (off : Nat) (data : List (BitVec 8))
  /-- LAUNCH_ACCEPT (R61). -/
  | launchAccept (port : Nat)
  /-- WAIT_COUNT_POLL (R60). -/
  | waitCountPoll
  /-- SVCFULL_TIMEOUT (R57). -/
  | svcfullTimeout
  /-- RANGE_LOCK_ACQUIRE (R162). -/
  | rangeLockAcquire (p : Nat)
  /-- COPY_COMPLETE (R197). -/
  | copyComplete (op : Nat)
  /-- WINDOW_FILL_COMPLETE (R201). -/
  | windowFillComplete (op : Nat)
  /-- WINDOW_SCATTER_COMPLETE (R203). -/
  | windowScatterComplete (op : Nat)
  /-- PRISM_TRANSFORM_COMPLETE (R212). -/
  | prismTransformComplete (cluster : Nat)
  /-- MATRIX_GRANT (R89). -/
  | matrixGrant (cluster : Nat)
  /-- PASS_COMPLETE (R217). -/
  | passComplete (op : Nat)
  /-- TILE_OP_PERFORM (R218). -/
  | tileOpPerform (core : Nat) (tile : Nat)
  /-- RECLAIM_SEARCH (R166). -/
  | reclaimSearch (oid : Nat)
  /-- DIRTY_FLUSH_TIMEOUT (R154). -/
  | dirtyFlushTimeout (oid : Nat) (page : Nat)
  /-- SHOOTDOWN_COMPLETE (R153). -/
  | shootdownComplete (oid : Nat)
  /-- HARVEST_COMPLETE (R359). -/
  | harvestComplete (p : Nat)
  /-- PAGER_MAP (R159). -/
  | pagerMap (oid : Nat) (page : Nat)
  /-- MIGRATION_END (R161). -/
  | migrationEnd (outcome : Nat) (bad : List Nat)
  /-- MIGREQ_WRITE (R160). -/
  | migreqWrite (data : List (BitVec 8))
  /-- HSANSWER_WRITE (R157). -/
  | hsanswerWrite (v : BitVec 64)
  /-- SHOOT_WRITE (R168). -/
  | shootWrite (v : BitVec 32)
  /-- OBJTBASE_WRITE (R168). -/
  | objtbaseWrite (v : BitVec 32)
  /-- OBJTCNT_WRITE (R168). -/
  | objtcntWrite (v : BitVec 32)
  /-- PINOVF_WRITE (R168). -/
  | pinovfWrite (v : BitVec 32)
  /-- SAVEPOOL_WRITE (R95). -/
  | savepoolWrite (v : BitVec 32)
  /-- FEATACC_WRITE (R52). -/
  | feataccWrite (n : Nat) (v : BitVec 32)
  /-- LAUNCHEN_WRITE (R68). -/
  | launchenWrite (v : BitVec 32)
  /-- HANDLER_INSTALL_WRITE (R68). -/
  | handlerInstallWrite (n : Nat) (v : BitVec 64)
  /-- CLKCEIL_WRITE (R37). -/
  | clkceilWrite (v : BitVec 32)
  /-- PWRCAP_WRITE (R37). -/
  | pwrcapWrite (v : BitVec 32)
  /-- CLOCK_STEP_CHANGE (R34). -/
  | clockStepChange
  /-- THERMAL_DEMAND_RISE (R34). -/
  | thermalDemandRise (degc : Nat) (die : Nat)
  /-- THERMAL_DEMAND_FALL (R34). -/
  | thermalDemandFall (degc : Nat) (die : Nat)
  /-- POWER_DEMAND_RISE (R34). -/
  | powerDemandRise (watts : Nat)
  /-- POWER_DEMAND_FALL (R34). -/
  | powerDemandFall (watts : Nat)
  /-- THERMAL_TRIP (R36). -/
  | thermalTrip (degc : Nat) (die : Nat)
  /-- RAILS_GOOD (R32). -/
  | railsGood
  /-- BOOT_IMAGE_CHECK (R66). -/
  | bootImageCheck (reason : Nat) (svn : BitVec 32)
  /-- FWLOAD_CHECK_START (R66). -/
  | fwloadCheckStart
  /-- FWLOAD_CHECK_WRITE_START (R66). -/
  | fwloadCheckWriteStart
  /-- FW_CHECK_DONE (R66). -/
  | fwCheckDone (reason : Nat) (svn : BitVec 32)
  /-- PERST_DEASSERT (R54). -/
  | perstDeassert
  /-- DIE_TRAINED (R56). -/
  | dieTrained (d : Nat)
  /-- DIE_TRAIN_FAIL (R55). -/
  | dieTrainFail (d : Nat)
  /-- HOST_RESET (R36). -/
  | hostReset
  /-- COLD_RESET (R5). -/
  | coldReset
  /-- ATTREQ_WRITE (R69). -/
  | attreqWrite (v : BitVec 32)
  /-- ATTEST_REPORT_DONE (R69). -/
  | attestReportDone
  /-- CHECKPOINT_SAVE_GO (R71). -/
  | checkpointSaveGo (v : BitVec 32)
  /-- CHECKPOINT_SAVE_DONE (R71). -/
  | checkpointSaveDone
  /-- CHECKPOINT_RESTORE_GO (R72). -/
  | checkpointRestoreGo (v : BitVec 32)
  /-- CHECKPOINT_RESTORE_DONE (R72). -/
  | checkpointRestoreDone
  /-- SCAN_TEST_START (R73). -/
  | scanTestStart (core : Nat)
  /-- SCAN_TEST_DONE (R73). -/
  | scanTestDone (core : Nat) (sig : Nat) (ok : Bool)
  /-- UNCORRECTABLE_ERROR (R74). -/
  | uncorrectableError (src : Nat) (loc : Nat) (sect : Nat)
  /-- CORRECTABLE_ERROR (R74). -/
  | correctableError (die : Nat) (src : Nat)
  /-- TRACECTL_WRITE (R103). -/
  | tracectlWrite (v : BitVec 64)
  /-- BKPT_RELEASE (R105). -/
  | bkptRelease (n : Nat) (v : BitVec 32)
  /-- WATCHPOINT_WRITE (R106). -/
  | watchpointWrite (n : Nat) (hi : Bool) (v : BitVec 64)
  /-- APERTURE_READ (R50). -/
  | apertureRead (off : Nat) (len : Nat)
  /-- APERTURE_WRITE (R50). -/
  | apertureWrite (off : Nat) (data : List (BitVec 8))
  /-- REGISTER_WRITE (R4). -/
  | registerWrite (off : Nat) (v : BitVec 64)
  /-- ZALAK_FLIT_RECEIVE (R40). -/
  | zalakFlitReceive (port : Nat) (flit : List (BitVec 8))
  /-- ZALAK_REPLAY (R40). -/
  | zalakReplay (port : Nat) (seq : Nat)
  /-- LINK_LOST (R44). -/
  | linkLost (port : Nat)
  /-- ACK_TIMEOUT (R41). -/
  | ackTimeout (port : Nat)
  /-- PORT_TRAIN_RETRY (R38). -/
  | portTrainRetry (port : Nat)
  /-- PORT_TRAINED (R46). -/
  | portTrained (port : Nat) (cap : Bool)
  /-- ZALAK_READ_REQUEST (R155). -/
  | zalakReadRequest (port : Nat)
  /-- ZALAK_READ_DATA (R39). -/
  | zalakReadData (port : Nat)
  /-- ZALAK_WRITE_REQUEST (R155). -/
  | zalakWriteRequest (port : Nat)
  /-- ZALAK_WRITE_ACK (R343). -/
  | zalakWriteAck (port : Nat)
  /-- ZALAK_ATOMIC_REQUEST (R155). -/
  | zalakAtomicRequest (port : Nat)
  /-- ZALAK_ATOMIC_RESULT (R39). -/
  | zalakAtomicResult (port : Nat)
  /-- ZALAK_STREAM_BLOCK (R46). -/
  | zalakStreamBlock (port : Nat)
  /-- ZALAK_GATHER_REQUEST (R205). -/
  | zalakGatherRequest (port : Nat)
  /-- ZALAK_ERROR_RESPONSE (R155). -/
  | zalakErrorResponse (port : Nat)
  /-- RAIL_REMOVED (R32). -/
  | railRemoved (rail : Nat)
  /-- CHECKPOINT_TARGET_STOPPED (R70). -/
  | checkpointTargetStopped
  deriving DecidableEq, Repr

end Sys2Proof
end

