-- ==== Sys2Proof/Decode.lean ====
section
/-! DEFINITION. The decoder: instruction words to Instr, total on any 64 bits, and the encoder back (R22, R257 to R264,
R266, R268). The field records keep every bit, so what decode refuses is row 2 of R269 for OPC and FMT, and a FUNC,
SEL or TILE code that names no member. The values of the other fields are judged by Machine/Operands.lean. -/

namespace Sys2Proof

/-- OPC (R257). -/
def opcOf (w : DWord) : Nat := (w.extractLsb' 0 8).toNat
/-- FMT (R22). -/
def fmtOf (w : DWord) : Nat := (w.extractLsb' 13 3).toNat
def guardOf (w : DWord) : Guard := { gp := w.extractLsb' 8 4, gn := w.getLsbD 12 }
def dOf (w : DWord) : BitVec 8 := w.extractLsb' 16 8
def aOf (w : DWord) : BitVec 8 := w.extractLsb' 24 8
def bOf (w : DWord) : BitVec 8 := w.extractLsb' 32 8
def cOf (w : DWord) : BitVec 8 := w.extractLsb' 40 8

/-- R258. -/
def rrrOf (w : DWord) : RRR :=
  { g := guardOf w, d := dOf w, a := aOf w, b := bOf w, c := cOf w, type := w.extractLsb' 48 4,
    rnd := w.extractLsb' 52 2, sat := w.getLsbD 54, sa := w.getLsbD 55, sb := w.getLsbD 56, sc := w.getLsbD 57,
    func := w.extractLsb' 58 5, sd := w.getLsbD 63 }
/-- R259. -/
def rriOf (w : DWord) : RRI := { g := guardOf w, d := dOf w, a := aOf w, imm := w.extractLsb' 32 32 }
/-- R25. -/
def memOf (w : DWord) : MEM :=
  { g := guardOf w, d := dOf w, a := aOf w, b := bOf w, size := w.extractLsb' 40 3, ord := w.extractLsb' 43 2,
    scope := w.extractLsb' 45 3, off := w.extractLsb' 48 16 }
/-- R260. -/
def brOf (w : DWord) : BR := { g := guardOf w, d := dOf w, a := aOf w, off := w.extractLsb' 32 32 }
/-- R261. -/
def xlOf (w : DWord) : XL :=
  { g := guardOf w, d := dOf w, a := aOf w, b := bOf w, px := w.extractLsb' 40 4, type := w.extractLsb' 44 4,
    rnd := w.extractLsb' 48 2, gw := w.getLsbD 50, sa := w.getLsbD 51, sb := w.getLsbD 52, sd := w.getLsbD 53,
    rsv := w.extractLsb' 54 2, fn := w.extractLsb' 56 8 }
/-- R262. -/
def engOf (w : DWord) : ENG :=
  { g := guardOf w, d := dOf w, a := aOf w, b := bOf w, c := cOf w, tile := w.extractLsb' 48 6,
    rsv := w.extractLsb' 54 2, sa := w.getLsbD 56, sb := w.getLsbD 57, sc := w.getLsbD 58, sd := w.getLsbD 59,
    scope := w.extractLsb' 60 3, dec := w.getLsbD 63 }
/-- R263. -/
def grOf (w : DWord) : GR :=
  { g := guardOf w, d := dOf w, a := aOf w, b := bOf w, c := cOf w, cur := w.extractLsb' 48 3, dir := w.getLsbD 51,
    px := w.extractLsb' 52 4, strict := w.getLsbD 56, sb := w.getLsbD 57, ord := w.extractLsb' 58 2,
    scope := w.extractLsb' 60 3, rsv := w.getLsbD 63 }
/-- R264. -/
def sysOf (w : DWord) : SYS :=
  { g := guardOf w, d := dOf w, a := aOf w, sel := w.extractLsb' 32 6, sa := w.getLsbD 38, sd := w.getLsbD 39,
    imm := w.extractLsb' 40 24 }

/-- The RRR opcodes of R266 and R267. -/
def decodeRRR (o : Nat) (f : RRR) : Option Instr :=
  match o with
  | 0x02 => some (.brx f)
  | 0x04 => some (.callx f)
  | 0x0B => some (.loopd f)
  | 0x0F => some (.nop f)
  | 0x10 =>
    match f.func.toNat with
    | 0 => some (.add f)
    | 1 => some (.sub f)
    | 2 => some (.addc f)
    | 3 => some (.subb f)
    | _ => none
  | 0x11 =>
    match f.func.toNat with
    | 0 => some (.mul f)
    | 1 => some (.mulh f)
    | 2 => some (.mulw f)
    | 3 => some (.mad f)
    | _ => none
  | 0x12 =>
    match f.func.toNat with
    | 0 => some (.div f)
    | 1 => some (.rem f)
    | _ => none
  | 0x13 =>
    match f.func.toNat with
    | 0 => some (.min f)
    | 1 => some (.max f)
    | 2 => some (.abs f)
    | 3 => some (.neg f)
    | _ => none
  | 0x14 =>
    match f.func.toNat with
    | 0 => some (.andr f)
    | 1 => some (.orr f)
    | 2 => some (.xorr f)
    | 3 => some (.andn f)
    | 4 => some (.notr f)
    | _ => none
  | 0x15 =>
    match f.func.toNat with
    | 0 => some (.shl f)
    | 1 => some (.shr f)
    | 2 => some (.sar f)
    | 3 => some (.rot f)
    | _ => none
  | 0x16 =>
    match f.func.toNat with
    | 0 => some (.clz f)
    | 1 => some (.popc f)
    | 2 => some (.brev f)
    | _ => none
  | 0x17 =>
    match f.func.toNat with
    | 0 => some (.bfe f)
    | 1 => some (.bfi f)
    | _ => none
  | 0x18 => some (.sel f)
  | 0x19 => some (.mov f)
  | 0x1A => some (.mkaddr f)
  | 0x1B => some (.adda f)
  | 0x1C => some (.vrdi f)
  | 0x1D => some (.vwri f)
  | 0x30 => some (.cmp f)
  | 0x31 => some (.fcmp f)
  | 0x32 => some (.pand f)
  | 0x33 => some (.por f)
  | 0x34 => some (.pxor f)
  | 0x35 => some (.pnot f)
  | 0x36 => some (.pmov f)
  | 0x40 => some (.fadd f)
  | 0x41 => some (.fsub f)
  | 0x42 => some (.fmul f)
  | 0x43 => some (.fmulz f)
  | 0x44 => some (.fmin f)
  | 0x45 => some (.ffma f)
  | 0x46 => some (.fmax f)
  | 0x47 => some (.fdiv f)
  | 0x48 => some (.fsqrt f)
  | 0x49 => some (.frcp f)
  | 0x4A => some (.frsq f)
  | 0x4B => some (.fexp2 f)
  | 0x4C => some (.flog2 f)
  | 0x4D => some (.frnd f)
  | 0x4E => some (.fclass f)
  | 0x50 => some (.faddx f)
  | 0x51 => some (.fsubx f)
  | 0x52 => some (.fmulx f)
  | 0x53 => some (.dwadd f)
  | 0x54 => some (.dwmul f)
  | 0x55 => some (.dwrnd f)
  | 0x60 => some (.cvt f)
  | 0x61 => some (.pack f)
  | 0x62 => some (.unpack f)
  | 0x63 => some (.scaleq f)
  | 0x64 => some (.dot4 f)
  | 0x65 => some (.dot8 f)
  | 0x66 => some (.dotf8 f)
  | 0x67 => some (.xsect f)
  | 0x70 => some (.scmp f)
  | 0x71 => some (.seqb f)
  | 0x72 => some (.sfind f)
  | 0x73 => some (.crc f)
  | 0x74 => some (.hmix f)
  | 0x75 => some (.bswap f)
  | 0xA1 => some (.pin f)
  | 0xA2 => some (.unpin f)
  | _ => none

/-- The RRI opcodes of R266 and R267. -/
def decodeRRI (o : Nat) (f : RRI) : Option Instr :=
  match o with
  | 0x1E => some (.vgrow f)
  | 0x20 => some (.moviV f)
  | 0x21 => some (.moviS f)
  | 0x22 => some (.movhV f)
  | 0x23 => some (.movhS f)
  | 0x24 => some (.addImmV f)
  | 0x25 => some (.addImmS f)
  | 0x26 => some (.shlImmV f)
  | 0x27 => some (.shlImmS f)
  | 0x28 => some (.shrImmV f)
  | 0x29 => some (.shrImmS f)
  | 0x2A => some (.sarImmV f)
  | 0x2B => some (.sarImmS f)
  | 0x2C => some (.andImmV f)
  | 0x2D => some (.andImmS f)
  | 0x2E => some (.orImmV f)
  | 0x2F => some (.orImmS f)
  | _ => none

/-- The MEM opcodes of R266 and R267. -/
def decodeMEM (o : Nat) (f : MEM) : Option Instr :=
  match o with
  | 0x80 => some (.ldV f)
  | 0x81 => some (.ldS f)
  | 0x82 => some (.stV f)
  | 0x83 => some (.stS f)
  | 0x84 => some (.ldc f)
  | 0x85 => some (.prefV f)
  | 0x86 => some (.prefS f)
  | 0x90 => some (.aadd f)
  | 0x91 => some (.amin f)
  | 0x92 => some (.amax f)
  | 0x93 => some (.aand f)
  | 0x94 => some (.aor f)
  | 0x95 => some (.axor f)
  | 0x96 => some (.axchg f)
  | 0x97 => some (.acas f)
  | 0x98 => some (.acas2 f)
  | 0x99 => some (.afadd f)
  | 0x9A => some (.amaxe f)
  | 0xA0 => some (.fence f)
  | _ => none

/-- The BR opcodes of R266 and R267. -/
def decodeBR (o : Nat) (f : BR) : Option Instr :=
  match o with
  | 0x01 => some (.bra f)
  | 0x03 => some (.call f)
  | 0x05 => some (.ret f)
  | 0x06 => some (.exit f)
  | _ => none

/-- The XL opcodes of R266 and R267. -/
def decodeXL (o : Nat) (f : XL) : Option Instr :=
  match o with
  | 0x07 => some (.waitg f)
  | 0xB0 => some (.vote f)
  | 0xB1 => some (.shfl f)
  | 0xB2 => some (.matchKey f)
  | 0xB3 => some (.scan f)
  | 0xB4 => some (.redi f)
  | 0xB5 => some (.redf f)
  | 0xB6 => some (.redx f)
  | 0xB7 => some (.segred f)
  | _ => none

/-- The ENG opcodes of R266 and R267. -/
def decodeENG (o : Nat) (f : ENG) : Option Instr :=
  match o with
  | 0xA3 => some (.reclaim f)
  | 0xC0 => some (.binit f)
  | 0xC1 => some (.bjoin f)
  | 0xC2 => some (.bleave f)
  | 0xC3 => some (.barv f)
  | 0xC4 => some (.barw f)
  | 0xC5 => some (.baraw f)
  | 0xC6 => some (.batch f)
  | 0xC7 => some (.bwait f)
  | 0xE0 => some (if f.dec then .cpasyncDec f else .cpasync f)
  | 0xE1 => some (.wbind f)
  | 0xE2 => some (.wunbind f)
  | 0xE3 =>
    match f.tile.toNat with
    | 0 => some (.xformCopy2d f)
    | 1 => some (.xformTranspose f)
    | 2 => some (.xformConvert f)
    | 3 => some (.xformExpand f)
    | 4 => some (.xformCsr2spr f)
    | 5 => some (.xformCrc f)
    | _ => none
  | 0xE4 => some (.mpass f)
  | 0xE5 => some (.mquery f)
  | 0xE6 => some (.azero f)
  | 0xE7 => some (if f.sd then .adrainPlain f else .adrainT f)
  | 0xE8 => some (if f.sd then .afillPlain f else .afillT f)
  | 0xE9 => some (.txv f)
  | 0xEA => some (.vxt f)
  | 0xEB => some (.launch f)
  | _ => none

/-- The GR opcodes of R266 and R267. -/
def decodeGR (o : Nat) (f : GR) : Option Instr :=
  match o with
  | 0xD0 => some (.gadde f)
  | 0xD1 => some (.gdele f)
  | 0xD2 => some (.gsete f)
  | 0xD3 => some (.glde f)
  | 0xD4 => some (.gfind f)
  | 0xD5 => some (.gdeg f)
  | 0xD6 => some (.gver f)
  | 0xD7 => some (.gldv f)
  | 0xD8 => some (.gstv f)
  | 0xD9 => some (.gopen f)
  | 0xDA => some (.gnext f)
  | 0xDB => some (.gskip f)
  | 0xDC => some (.gpos f)
  | 0xDD => some (.gclose f)
  | _ => none

/-- The SYS opcodes of R266 and R267. -/
def decodeSYS (o : Nat) (f : SYS) : Option Instr :=
  match o with
  | 0x08 => some (.yieldp f)
  | 0x09 => some (.mark f)
  | 0x0A => some (.sleep f)
  | 0xA4 => some (.harvest f)
  | 0xA5 => some (.tlbinv f)
  | 0xF0 => some (.sysr f)
  | 0xF1 => some (.sysw f)
  | 0xF2 => some (.trap f)
  | 0xF3 => some (.brk f)
  | 0xF4 =>
    match f.sel.toNat with
    | 0 => some (.rett f)
    | 1 => some (.rettSkip f)
    | 2 => some (.rettKill f)
    | 3 => some (.rettKillg f)
    | 4 => some (.rettSel f)
    | _ => none
  | 0xF5 => some (.mappg f)
  | 0xF6 => some (.objnew f)
  | 0xF7 =>
    match f.sel.toNat with
    | 0 => some (.objsetSize f)
    | 1 => some (.objsetPerm f)
    | 2 => some (.objsetCtab f)
    | 3 => some (.objsetUnpois f)
    | 4 => some (.objsetDirty f)
    | _ => none
  | 0xF8 => some (.ctrrd f)
  | _ => none

/-- The format R267 gives an opcode; none where R266 assigns none. -/
def fmtOfOpc (o : Nat) : Option Nat :=
  match o with
  | 0x02 | 0x04 | 0x0B | 0x0F | 0x10 | 0x11 | 0x12 | 0x13 | 0x14 | 0x15 | 0x16 | 0x17 | 0x18 | 0x19 | 0x1A | 0x1B | 0x1C | 0x1D | 0x30 | 0x31 | 0x32 | 0x33 | 0x34 | 0x35 | 0x36 | 0x40 | 0x41 | 0x42 | 0x43 | 0x44 | 0x45 | 0x46 | 0x47 | 0x48 | 0x49 | 0x4A | 0x4B | 0x4C | 0x4D | 0x4E | 0x50 | 0x51 | 0x52 | 0x53 | 0x54 | 0x55 | 0x60 | 0x61 | 0x62 | 0x63 | 0x64 | 0x65 | 0x66 | 0x67 | 0x70 | 0x71 | 0x72 | 0x73 | 0x74 | 0x75 | 0xA1 | 0xA2 => some 0
  | 0x1E | 0x20 | 0x21 | 0x22 | 0x23 | 0x24 | 0x25 | 0x26 | 0x27 | 0x28 | 0x29 | 0x2A | 0x2B | 0x2C | 0x2D | 0x2E | 0x2F => some 1
  | 0x80 | 0x81 | 0x82 | 0x83 | 0x84 | 0x85 | 0x86 | 0x90 | 0x91 | 0x92 | 0x93 | 0x94 | 0x95 | 0x96 | 0x97 | 0x98 | 0x99 | 0x9A | 0xA0 => some 2
  | 0x01 | 0x03 | 0x05 | 0x06 => some 3
  | 0x07 | 0xB0 | 0xB1 | 0xB2 | 0xB3 | 0xB4 | 0xB5 | 0xB6 | 0xB7 => some 4
  | 0xA3 | 0xC0 | 0xC1 | 0xC2 | 0xC3 | 0xC4 | 0xC5 | 0xC6 | 0xC7 | 0xE0 | 0xE1 | 0xE2 | 0xE3 | 0xE4 | 0xE5 | 0xE6 | 0xE7 | 0xE8 | 0xE9 | 0xEA | 0xEB => some 5
  | 0xD0 | 0xD1 | 0xD2 | 0xD3 | 0xD4 | 0xD5 | 0xD6 | 0xD7 | 0xD8 | 0xD9 | 0xDA | 0xDB | 0xDC | 0xDD => some 6
  | 0x08 | 0x09 | 0x0A | 0xA4 | 0xA5 | 0xF0 | 0xF1 | 0xF2 | 0xF3 | 0xF4 | 0xF5 | 0xF6 | 0xF7 | 0xF8 => some 7
  | _ => none

/-- One instruction word (R257): FMT must be the format of OPC (R22). -/
def decode (w : DWord) : Option Instr :=
  match fmtOf w with
  | 0 => decodeRRR (opcOf w) (rrrOf w)
  | 1 => decodeRRI (opcOf w) (rriOf w)
  | 2 => decodeMEM (opcOf w) (memOf w)
  | 3 => decodeBR (opcOf w) (brOf w)
  | 4 => decodeXL (opcOf w) (xlOf w)
  | 5 => decodeENG (opcOf w) (engOf w)
  | 6 => decodeGR (opcOf w) (grOf w)
  | _ => decodeSYS (opcOf w) (sysOf w)

/-- The word that bytes at rising addresses hold (R24), decoded. -/
def decodeBytes (bs : List Byte) : Option Instr :=
  if bs.length < 8 then none else decode (BitVec.ofNat 64 (leNat (bs.take 8)))

/-- The host's numbering: bit 0 is the least significant bit of the first word, which is R24's own. -/
def decodeTableWord (_nbits w : Nat) : Option Instr := decode (BitVec.ofNat 64 w)

def b1 (x : Bool) : BitVec 1 := BitVec.ofBool x

def packRRR (o : BitVec 8) (f : RRR) : DWord :=
  b1 f.sd ++ f.func ++ b1 f.sc ++ b1 f.sb ++ b1 f.sa ++ b1 f.sat ++ f.rnd ++ f.type ++ f.c ++ f.b ++ f.a ++ f.d ++
    0#3 ++ b1 f.g.gn ++ f.g.gp ++ o
def packRRI (o : BitVec 8) (f : RRI) : DWord := f.imm ++ f.a ++ f.d ++ 1#3 ++ b1 f.g.gn ++ f.g.gp ++ o
def packMEM (o : BitVec 8) (f : MEM) : DWord :=
  f.off ++ f.scope ++ f.ord ++ f.size ++ f.b ++ f.a ++ f.d ++ 2#3 ++ b1 f.g.gn ++ f.g.gp ++ o
def packBR (o : BitVec 8) (f : BR) : DWord := f.off ++ f.a ++ f.d ++ 3#3 ++ b1 f.g.gn ++ f.g.gp ++ o
def packXL (o : BitVec 8) (f : XL) : DWord :=
  f.fn ++ f.rsv ++ b1 f.sd ++ b1 f.sb ++ b1 f.sa ++ b1 f.gw ++ f.rnd ++ f.type ++ f.px ++ f.b ++ f.a ++ f.d ++
    4#3 ++ b1 f.g.gn ++ f.g.gp ++ o
def packENG (o : BitVec 8) (f : ENG) : DWord :=
  b1 f.dec ++ f.scope ++ b1 f.sd ++ b1 f.sc ++ b1 f.sb ++ b1 f.sa ++ f.rsv ++ f.tile ++ f.c ++ f.b ++ f.a ++ f.d ++
    5#3 ++ b1 f.g.gn ++ f.g.gp ++ o
def packGR (o : BitVec 8) (f : GR) : DWord :=
  b1 f.rsv ++ f.scope ++ f.ord ++ b1 f.sb ++ b1 f.strict ++ f.px ++ b1 f.dir ++ f.cur ++ f.c ++ f.b ++ f.a ++ f.d ++
    6#3 ++ b1 f.g.gn ++ f.g.gp ++ o
def packSYS (o : BitVec 8) (f : SYS) : DWord :=
  f.imm ++ b1 f.sd ++ b1 f.sa ++ f.sel ++ f.a ++ f.d ++ 7#3 ++ b1 f.g.gn ++ f.g.gp ++ o

/-- The word of an instruction; none for the part's events, which no word encodes. -/
def encode (i : Instr) : Option DWord :=
  match i with
  | .bra f => some (packBR 0x01#8 f)
  | .brx f => some (packRRR 0x02#8 f)
  | .call f => some (packBR 0x03#8 f)
  | .callx f => some (packRRR 0x04#8 f)
  | .ret f => some (packBR 0x05#8 f)
  | .exit f => some (packBR 0x06#8 f)
  | .waitg f => some (packXL 0x07#8 f)
  | .yieldp f => some (packSYS 0x08#8 f)
  | .mark f => some (packSYS 0x09#8 f)
  | .sleep f => some (packSYS 0x0A#8 f)
  | .loopd f => some (packRRR 0x0B#8 f)
  | .nop f => some (packRRR 0x0F#8 f)
  | .add f => some (packRRR 0x10#8 f)
  | .sub f => some (packRRR 0x10#8 f)
  | .addc f => some (packRRR 0x10#8 f)
  | .subb f => some (packRRR 0x10#8 f)
  | .mul f => some (packRRR 0x11#8 f)
  | .mulh f => some (packRRR 0x11#8 f)
  | .mulw f => some (packRRR 0x11#8 f)
  | .mad f => some (packRRR 0x11#8 f)
  | .div f => some (packRRR 0x12#8 f)
  | .rem f => some (packRRR 0x12#8 f)
  | .min f => some (packRRR 0x13#8 f)
  | .max f => some (packRRR 0x13#8 f)
  | .abs f => some (packRRR 0x13#8 f)
  | .neg f => some (packRRR 0x13#8 f)
  | .andr f => some (packRRR 0x14#8 f)
  | .orr f => some (packRRR 0x14#8 f)
  | .xorr f => some (packRRR 0x14#8 f)
  | .andn f => some (packRRR 0x14#8 f)
  | .notr f => some (packRRR 0x14#8 f)
  | .shl f => some (packRRR 0x15#8 f)
  | .shr f => some (packRRR 0x15#8 f)
  | .sar f => some (packRRR 0x15#8 f)
  | .rot f => some (packRRR 0x15#8 f)
  | .clz f => some (packRRR 0x16#8 f)
  | .popc f => some (packRRR 0x16#8 f)
  | .brev f => some (packRRR 0x16#8 f)
  | .bfe f => some (packRRR 0x17#8 f)
  | .bfi f => some (packRRR 0x17#8 f)
  | .sel f => some (packRRR 0x18#8 f)
  | .mov f => some (packRRR 0x19#8 f)
  | .mkaddr f => some (packRRR 0x1A#8 f)
  | .adda f => some (packRRR 0x1B#8 f)
  | .vrdi f => some (packRRR 0x1C#8 f)
  | .vwri f => some (packRRR 0x1D#8 f)
  | .vgrow f => some (packRRI 0x1E#8 f)
  | .moviV f => some (packRRI 0x20#8 f)
  | .moviS f => some (packRRI 0x21#8 f)
  | .movhV f => some (packRRI 0x22#8 f)
  | .movhS f => some (packRRI 0x23#8 f)
  | .addImmV f => some (packRRI 0x24#8 f)
  | .addImmS f => some (packRRI 0x25#8 f)
  | .shlImmV f => some (packRRI 0x26#8 f)
  | .shlImmS f => some (packRRI 0x27#8 f)
  | .shrImmV f => some (packRRI 0x28#8 f)
  | .shrImmS f => some (packRRI 0x29#8 f)
  | .sarImmV f => some (packRRI 0x2A#8 f)
  | .sarImmS f => some (packRRI 0x2B#8 f)
  | .andImmV f => some (packRRI 0x2C#8 f)
  | .andImmS f => some (packRRI 0x2D#8 f)
  | .orImmV f => some (packRRI 0x2E#8 f)
  | .orImmS f => some (packRRI 0x2F#8 f)
  | .cmp f => some (packRRR 0x30#8 f)
  | .fcmp f => some (packRRR 0x31#8 f)
  | .pand f => some (packRRR 0x32#8 f)
  | .por f => some (packRRR 0x33#8 f)
  | .pxor f => some (packRRR 0x34#8 f)
  | .pnot f => some (packRRR 0x35#8 f)
  | .pmov f => some (packRRR 0x36#8 f)
  | .fadd f => some (packRRR 0x40#8 f)
  | .fsub f => some (packRRR 0x41#8 f)
  | .fmul f => some (packRRR 0x42#8 f)
  | .fmulz f => some (packRRR 0x43#8 f)
  | .fmin f => some (packRRR 0x44#8 f)
  | .ffma f => some (packRRR 0x45#8 f)
  | .fmax f => some (packRRR 0x46#8 f)
  | .fdiv f => some (packRRR 0x47#8 f)
  | .fsqrt f => some (packRRR 0x48#8 f)
  | .frcp f => some (packRRR 0x49#8 f)
  | .frsq f => some (packRRR 0x4A#8 f)
  | .fexp2 f => some (packRRR 0x4B#8 f)
  | .flog2 f => some (packRRR 0x4C#8 f)
  | .frnd f => some (packRRR 0x4D#8 f)
  | .fclass f => some (packRRR 0x4E#8 f)
  | .faddx f => some (packRRR 0x50#8 f)
  | .fsubx f => some (packRRR 0x51#8 f)
  | .fmulx f => some (packRRR 0x52#8 f)
  | .dwadd f => some (packRRR 0x53#8 f)
  | .dwmul f => some (packRRR 0x54#8 f)
  | .dwrnd f => some (packRRR 0x55#8 f)
  | .cvt f => some (packRRR 0x60#8 f)
  | .pack f => some (packRRR 0x61#8 f)
  | .unpack f => some (packRRR 0x62#8 f)
  | .scaleq f => some (packRRR 0x63#8 f)
  | .dot4 f => some (packRRR 0x64#8 f)
  | .dot8 f => some (packRRR 0x65#8 f)
  | .dotf8 f => some (packRRR 0x66#8 f)
  | .xsect f => some (packRRR 0x67#8 f)
  | .scmp f => some (packRRR 0x70#8 f)
  | .seqb f => some (packRRR 0x71#8 f)
  | .sfind f => some (packRRR 0x72#8 f)
  | .crc f => some (packRRR 0x73#8 f)
  | .hmix f => some (packRRR 0x74#8 f)
  | .bswap f => some (packRRR 0x75#8 f)
  | .ldV f => some (packMEM 0x80#8 f)
  | .ldS f => some (packMEM 0x81#8 f)
  | .stV f => some (packMEM 0x82#8 f)
  | .stS f => some (packMEM 0x83#8 f)
  | .ldc f => some (packMEM 0x84#8 f)
  | .prefV f => some (packMEM 0x85#8 f)
  | .prefS f => some (packMEM 0x86#8 f)
  | .aadd f => some (packMEM 0x90#8 f)
  | .amin f => some (packMEM 0x91#8 f)
  | .amax f => some (packMEM 0x92#8 f)
  | .aand f => some (packMEM 0x93#8 f)
  | .aor f => some (packMEM 0x94#8 f)
  | .axor f => some (packMEM 0x95#8 f)
  | .axchg f => some (packMEM 0x96#8 f)
  | .acas f => some (packMEM 0x97#8 f)
  | .acas2 f => some (packMEM 0x98#8 f)
  | .afadd f => some (packMEM 0x99#8 f)
  | .amaxe f => some (packMEM 0x9A#8 f)
  | .fence f => some (packMEM 0xA0#8 f)
  | .pin f => some (packRRR 0xA1#8 f)
  | .unpin f => some (packRRR 0xA2#8 f)
  | .reclaim f => some (packENG 0xA3#8 f)
  | .harvest f => some (packSYS 0xA4#8 f)
  | .tlbinv f => some (packSYS 0xA5#8 f)
  | .vote f => some (packXL 0xB0#8 f)
  | .shfl f => some (packXL 0xB1#8 f)
  | .matchKey f => some (packXL 0xB2#8 f)
  | .scan f => some (packXL 0xB3#8 f)
  | .redi f => some (packXL 0xB4#8 f)
  | .redf f => some (packXL 0xB5#8 f)
  | .redx f => some (packXL 0xB6#8 f)
  | .segred f => some (packXL 0xB7#8 f)
  | .binit f => some (packENG 0xC0#8 f)
  | .bjoin f => some (packENG 0xC1#8 f)
  | .bleave f => some (packENG 0xC2#8 f)
  | .barv f => some (packENG 0xC3#8 f)
  | .barw f => some (packENG 0xC4#8 f)
  | .baraw f => some (packENG 0xC5#8 f)
  | .batch f => some (packENG 0xC6#8 f)
  | .bwait f => some (packENG 0xC7#8 f)
  | .gadde f => some (packGR 0xD0#8 f)
  | .gdele f => some (packGR 0xD1#8 f)
  | .gsete f => some (packGR 0xD2#8 f)
  | .glde f => some (packGR 0xD3#8 f)
  | .gfind f => some (packGR 0xD4#8 f)
  | .gdeg f => some (packGR 0xD5#8 f)
  | .gver f => some (packGR 0xD6#8 f)
  | .gldv f => some (packGR 0xD7#8 f)
  | .gstv f => some (packGR 0xD8#8 f)
  | .gopen f => some (packGR 0xD9#8 f)
  | .gnext f => some (packGR 0xDA#8 f)
  | .gskip f => some (packGR 0xDB#8 f)
  | .gpos f => some (packGR 0xDC#8 f)
  | .gclose f => some (packGR 0xDD#8 f)
  | .cpasync f => some (packENG 0xE0#8 f)
  | .cpasyncDec f => some (packENG 0xE0#8 f)
  | .wbind f => some (packENG 0xE1#8 f)
  | .wunbind f => some (packENG 0xE2#8 f)
  | .xformCopy2d f => some (packENG 0xE3#8 f)
  | .xformTranspose f => some (packENG 0xE3#8 f)
  | .xformConvert f => some (packENG 0xE3#8 f)
  | .xformExpand f => some (packENG 0xE3#8 f)
  | .xformCsr2spr f => some (packENG 0xE3#8 f)
  | .xformCrc f => some (packENG 0xE3#8 f)
  | .mpass f => some (packENG 0xE4#8 f)
  | .mquery f => some (packENG 0xE5#8 f)
  | .azero f => some (packENG 0xE6#8 f)
  | .adrainT f => some (packENG 0xE7#8 f)
  | .adrainPlain f => some (packENG 0xE7#8 f)
  | .afillT f => some (packENG 0xE8#8 f)
  | .afillPlain f => some (packENG 0xE8#8 f)
  | .txv f => some (packENG 0xE9#8 f)
  | .vxt f => some (packENG 0xEA#8 f)
  | .launch f => some (packENG 0xEB#8 f)
  | .sysr f => some (packSYS 0xF0#8 f)
  | .sysw f => some (packSYS 0xF1#8 f)
  | .trap f => some (packSYS 0xF2#8 f)
  | .brk f => some (packSYS 0xF3#8 f)
  | .rett f => some (packSYS 0xF4#8 f)
  | .rettSkip f => some (packSYS 0xF4#8 f)
  | .rettKill f => some (packSYS 0xF4#8 f)
  | .rettKillg f => some (packSYS 0xF4#8 f)
  | .rettSel f => some (packSYS 0xF4#8 f)
  | .mappg f => some (packSYS 0xF5#8 f)
  | .objnew f => some (packSYS 0xF6#8 f)
  | .objsetSize f => some (packSYS 0xF7#8 f)
  | .objsetPerm f => some (packSYS 0xF7#8 f)
  | .objsetCtab f => some (packSYS 0xF7#8 f)
  | .objsetUnpois f => some (packSYS 0xF7#8 f)
  | .objsetDirty f => some (packSYS 0xF7#8 f)
  | .ctrrd f => some (packSYS 0xF8#8 f)
  | .clauseFetch _ => none
  | .handlerVector _ => none
  | .hostServiceRequest => none
  | .activeSetSwap _ => none
  | .pathUrgent _ => none
  | .sleepExpire _ => none
  | .lensSample _ _ _ => none
  | .longLatencyComplete _ _ => none
  | .graphOpComplete _ _ => none
  | .graphMutationCommit _ _ => none
  | .graphSweep _ => none
  | .gangRetire _ => none
  | .crewSlotRelease _ => none
  | .vgrowGrant _ => none
  | .growthDeadlockBreak _ => none
  | .priorityPreempt => none
  | .drainComplete _ => none
  | .crewPlace => none
  | .crewResume _ => none
  | .launchPortWrite _ _ => none
  | .launchAccept _ => none
  | .waitCountPoll => none
  | .svcfullTimeout => none
  | .rangeLockAcquire _ => none
  | .copyComplete _ => none
  | .windowFillComplete _ => none
  | .windowScatterComplete _ => none
  | .prismTransformComplete _ => none
  | .matrixGrant _ => none
  | .passComplete _ => none
  | .tileOpPerform _ _ => none
  | .reclaimSearch _ => none
  | .dirtyFlushTimeout _ _ => none
  | .shootdownComplete _ => none
  | .pagerMap _ _ => none
  | .migrationEnd _ _ => none
  | .migreqWrite _ => none
  | .hsanswerWrite _ => none
  | .shootWrite _ => none
  | .objtbaseWrite _ => none
  | .objtcntWrite _ => none
  | .pinovfWrite _ => none
  | .savepoolWrite _ => none
  | .feataccWrite _ _ => none
  | .launchenWrite _ => none
  | .handlerInstallWrite _ _ => none
  | .clkceilWrite _ => none
  | .pwrcapWrite _ => none
  | .clockStepChange => none
  | .thermalDemandRise _ _ => none
  | .thermalDemandFall _ _ => none
  | .powerDemandRise _ => none
  | .powerDemandFall _ => none
  | .thermalTrip _ _ => none
  | .railsGood => none
  | .bootImageCheck _ _ => none
  | .fwloadCheckStart => none
  | .fwloadCheckWriteStart => none
  | .fwCheckDone _ _ => none
  | .perstDeassert => none
  | .dieTrained _ => none
  | .dieTrainFail _ => none
  | .hostReset => none
  | .coldReset => none
  | .attreqWrite _ => none
  | .attestReportDone => none
  | .checkpointSaveGo _ => none
  | .checkpointSaveDone => none
  | .checkpointRestoreGo _ => none
  | .checkpointRestoreDone => none
  | .scanTestStart _ => none
  | .scanTestDone _ _ _ => none
  | .uncorrectableError _ _ _ => none
  | .correctableError _ _ => none
  | .tracectlWrite _ => none
  | .bkptRelease _ _ => none
  | .watchpointWrite _ _ _ => none
  | .apertureRead _ _ => none
  | .apertureWrite _ _ => none
  | .registerWrite _ _ => none
  | .zalakFlitReceive _ _ => none
  | .zalakReplay _ _ => none
  | .linkLost _ => none
  | .ackTimeout _ => none
  | .portTrainRetry _ => none
  | .portTrained _ _ => none
  | .zalakReadRequest _ => none
  | .zalakReadData _ => none
  | .zalakWriteRequest _ => none
  | .zalakWriteAck _ => none
  | .zalakAtomicRequest _ => none
  | .zalakAtomicResult _ => none
  | .zalakStreamBlock _ => none
  | .zalakGatherRequest _ => none
  | .zalakErrorResponse _ => none
  | .railRemoved _ => none
  | .harvestComplete _ => none
  | .checkpointTargetStopped => none

/-- The member code that a family's constructor must hold in its own field (R268, R374, R381): what decode tells
members by. -/
def memberOk (i : Instr) : Bool :=
  match i with
  | .add f => f.func.toNat == 0
  | .sub f => f.func.toNat == 1
  | .addc f => f.func.toNat == 2
  | .subb f => f.func.toNat == 3
  | .mul f => f.func.toNat == 0
  | .mulh f => f.func.toNat == 1
  | .mulw f => f.func.toNat == 2
  | .mad f => f.func.toNat == 3
  | .div f => f.func.toNat == 0
  | .rem f => f.func.toNat == 1
  | .min f => f.func.toNat == 0
  | .max f => f.func.toNat == 1
  | .abs f => f.func.toNat == 2
  | .neg f => f.func.toNat == 3
  | .andr f => f.func.toNat == 0
  | .orr f => f.func.toNat == 1
  | .xorr f => f.func.toNat == 2
  | .andn f => f.func.toNat == 3
  | .notr f => f.func.toNat == 4
  | .shl f => f.func.toNat == 0
  | .shr f => f.func.toNat == 1
  | .sar f => f.func.toNat == 2
  | .rot f => f.func.toNat == 3
  | .clz f => f.func.toNat == 0
  | .popc f => f.func.toNat == 1
  | .brev f => f.func.toNat == 2
  | .bfe f => f.func.toNat == 0
  | .bfi f => f.func.toNat == 1
  | .cpasync f => !f.dec
  | .cpasyncDec f => f.dec
  | .xformCopy2d f => f.tile.toNat == 0
  | .xformTranspose f => f.tile.toNat == 1
  | .xformConvert f => f.tile.toNat == 2
  | .xformExpand f => f.tile.toNat == 3
  | .xformCsr2spr f => f.tile.toNat == 4
  | .xformCrc f => f.tile.toNat == 5
  | .adrainT f => !f.sd
  | .adrainPlain f => f.sd
  | .afillT f => !f.sd
  | .afillPlain f => f.sd
  | .rett f => f.sel.toNat == 0
  | .rettSkip f => f.sel.toNat == 1
  | .rettKill f => f.sel.toNat == 2
  | .rettKillg f => f.sel.toNat == 3
  | .rettSel f => f.sel.toNat == 4
  | .objsetSize f => f.sel.toNat == 0
  | .objsetPerm f => f.sel.toNat == 1
  | .objsetCtab f => f.sel.toNat == 2
  | .objsetUnpois f => f.sel.toNat == 3
  | .objsetDirty f => f.sel.toNat == 4
  | .bra _ => true
  | .brx _ => true
  | .call _ => true
  | .callx _ => true
  | .ret _ => true
  | .exit _ => true
  | .waitg _ => true
  | .yieldp _ => true
  | .mark _ => true
  | .sleep _ => true
  | .loopd _ => true
  | .nop _ => true
  | .sel _ => true
  | .mov _ => true
  | .mkaddr _ => true
  | .adda _ => true
  | .vrdi _ => true
  | .vwri _ => true
  | .vgrow _ => true
  | .moviV _ => true
  | .moviS _ => true
  | .movhV _ => true
  | .movhS _ => true
  | .addImmV _ => true
  | .addImmS _ => true
  | .shlImmV _ => true
  | .shlImmS _ => true
  | .shrImmV _ => true
  | .shrImmS _ => true
  | .sarImmV _ => true
  | .sarImmS _ => true
  | .andImmV _ => true
  | .andImmS _ => true
  | .orImmV _ => true
  | .orImmS _ => true
  | .cmp _ => true
  | .fcmp _ => true
  | .pand _ => true
  | .por _ => true
  | .pxor _ => true
  | .pnot _ => true
  | .pmov _ => true
  | .fadd _ => true
  | .fsub _ => true
  | .fmul _ => true
  | .fmulz _ => true
  | .fmin _ => true
  | .ffma _ => true
  | .fmax _ => true
  | .fdiv _ => true
  | .fsqrt _ => true
  | .frcp _ => true
  | .frsq _ => true
  | .fexp2 _ => true
  | .flog2 _ => true
  | .frnd _ => true
  | .fclass _ => true
  | .faddx _ => true
  | .fsubx _ => true
  | .fmulx _ => true
  | .dwadd _ => true
  | .dwmul _ => true
  | .dwrnd _ => true
  | .cvt _ => true
  | .pack _ => true
  | .unpack _ => true
  | .scaleq _ => true
  | .dot4 _ => true
  | .dot8 _ => true
  | .dotf8 _ => true
  | .xsect _ => true
  | .scmp _ => true
  | .seqb _ => true
  | .sfind _ => true
  | .crc _ => true
  | .hmix _ => true
  | .bswap _ => true
  | .ldV _ => true
  | .ldS _ => true
  | .stV _ => true
  | .stS _ => true
  | .ldc _ => true
  | .prefV _ => true
  | .prefS _ => true
  | .aadd _ => true
  | .amin _ => true
  | .amax _ => true
  | .aand _ => true
  | .aor _ => true
  | .axor _ => true
  | .axchg _ => true
  | .acas _ => true
  | .acas2 _ => true
  | .afadd _ => true
  | .amaxe _ => true
  | .fence _ => true
  | .pin _ => true
  | .unpin _ => true
  | .reclaim _ => true
  | .harvest _ => true
  | .tlbinv _ => true
  | .vote _ => true
  | .shfl _ => true
  | .matchKey _ => true
  | .scan _ => true
  | .redi _ => true
  | .redf _ => true
  | .redx _ => true
  | .segred _ => true
  | .binit _ => true
  | .bjoin _ => true
  | .bleave _ => true
  | .barv _ => true
  | .barw _ => true
  | .baraw _ => true
  | .batch _ => true
  | .bwait _ => true
  | .gadde _ => true
  | .gdele _ => true
  | .gsete _ => true
  | .glde _ => true
  | .gfind _ => true
  | .gdeg _ => true
  | .gver _ => true
  | .gldv _ => true
  | .gstv _ => true
  | .gopen _ => true
  | .gnext _ => true
  | .gskip _ => true
  | .gpos _ => true
  | .gclose _ => true
  | .wbind _ => true
  | .wunbind _ => true
  | .mpass _ => true
  | .mquery _ => true
  | .azero _ => true
  | .txv _ => true
  | .vxt _ => true
  | .launch _ => true
  | .sysr _ => true
  | .sysw _ => true
  | .trap _ => true
  | .brk _ => true
  | .mappg _ => true
  | .objnew _ => true
  | .ctrrd _ => true
  | .clauseFetch _ => true
  | .handlerVector _ => true
  | .hostServiceRequest => true
  | .activeSetSwap _ => true
  | .pathUrgent _ => true
  | .sleepExpire _ => true
  | .lensSample _ _ _ => true
  | .longLatencyComplete _ _ => true
  | .graphOpComplete _ _ => true
  | .graphMutationCommit _ _ => true
  | .graphSweep _ => true
  | .gangRetire _ => true
  | .crewSlotRelease _ => true
  | .vgrowGrant _ => true
  | .growthDeadlockBreak _ => true
  | .priorityPreempt => true
  | .drainComplete _ => true
  | .crewPlace => true
  | .crewResume _ => true
  | .launchPortWrite _ _ => true
  | .launchAccept _ => true
  | .waitCountPoll => true
  | .svcfullTimeout => true
  | .rangeLockAcquire _ => true
  | .copyComplete _ => true
  | .windowFillComplete _ => true
  | .windowScatterComplete _ => true
  | .prismTransformComplete _ => true
  | .matrixGrant _ => true
  | .passComplete _ => true
  | .tileOpPerform _ _ => true
  | .reclaimSearch _ => true
  | .dirtyFlushTimeout _ _ => true
  | .shootdownComplete _ => true
  | .pagerMap _ _ => true
  | .migrationEnd _ _ => true
  | .migreqWrite _ => true
  | .hsanswerWrite _ => true
  | .shootWrite _ => true
  | .objtbaseWrite _ => true
  | .objtcntWrite _ => true
  | .pinovfWrite _ => true
  | .savepoolWrite _ => true
  | .feataccWrite _ _ => true
  | .launchenWrite _ => true
  | .handlerInstallWrite _ _ => true
  | .clkceilWrite _ => true
  | .pwrcapWrite _ => true
  | .clockStepChange => true
  | .thermalDemandRise _ _ => true
  | .thermalDemandFall _ _ => true
  | .powerDemandRise _ => true
  | .powerDemandFall _ => true
  | .thermalTrip _ _ => true
  | .railsGood => true
  | .bootImageCheck _ _ => true
  | .fwloadCheckStart => true
  | .fwloadCheckWriteStart => true
  | .fwCheckDone _ _ => true
  | .perstDeassert => true
  | .dieTrained _ => true
  | .dieTrainFail _ => true
  | .hostReset => true
  | .coldReset => true
  | .attreqWrite _ => true
  | .attestReportDone => true
  | .checkpointSaveGo _ => true
  | .checkpointSaveDone => true
  | .checkpointRestoreGo _ => true
  | .checkpointRestoreDone => true
  | .scanTestStart _ => true
  | .scanTestDone _ _ _ => true
  | .uncorrectableError _ _ _ => true
  | .correctableError _ _ => true
  | .tracectlWrite _ => true
  | .bkptRelease _ _ => true
  | .watchpointWrite _ _ _ => true
  | .apertureRead _ _ => true
  | .apertureWrite _ _ => true
  | .registerWrite _ _ => true
  | .zalakFlitReceive _ _ => true
  | .zalakReplay _ _ => true
  | .linkLost _ => true
  | .ackTimeout _ => true
  | .portTrainRetry _ => true
  | .portTrained _ _ => true
  | .zalakReadRequest _ => true
  | .zalakReadData _ => true
  | .zalakWriteRequest _ => true
  | .zalakWriteAck _ => true
  | .zalakAtomicRequest _ => true
  | .zalakAtomicResult _ => true
  | .zalakStreamBlock _ => true
  | .zalakGatherRequest _ => true
  | .zalakErrorResponse _ => true
  | .railRemoved _ => true
  | .harvestComplete _ => true
  | .checkpointTargetStopped => true

end Sys2Proof
end

