-- ==== Sys2Proof/Config.lean ====
section
/-! DEFINITION. What an implementation fixes, and the free values: constants without a body for every value the spec
leaves open after an operation that goes on. Nothing in Lean can evaluate one, so a statement about one holds for
every value. Each is named in a row of the assumption log. -/

namespace Sys2Proof.Config

/-- Capacities of R2, R79, R107. -/
abbrev coresMax : Nat := 128
abbrev crewSlots : Nat := 16
abbrev gangSlots : Nat := 64
abbrev pathEntries : Nat := 512
abbrev vBytesPerCore : Nat := 524288
abbrev sRegsPerCore : Nat := 4096
abbrev tRegsPerCore : Nat := 512
abbrev tilesPerCore : Nat := 64
abbrev granules : Nat := 48
abbrev granuleBytes : Nat := 65536
abbrev framesPerDie : Nat := 786432
/-- R51: FEATURES0 publishes bits 0 to 10; FEATURES1 reads zero. -/
abbrev features0 : Nat := 0x7FF

/-- What a byte of device, scratchpad or host memory that nothing has written reads as. The spec gives no power-on
contents: DESIGN CHOICE, log entry 3. -/
abbrev emptyByte : Byte := 0

/-- The time in ns since the last host reset at a tick of the model (R62, R74, R101): the spec's clock is not modelled. -/
opaque nsAt : Nat → BitVec 64
/-- Which of several lanes' values stands when lanes of one store name one location (R239, R343, R366). -/
opaque pick : Nat → Nat → Nat
/-- Which translation an access uses, among the one the tables give and those that caches still hold (R153). -/
opaque useOld : Nat → Nat → Nat
/-- Whether the host completes an AtomicOp with an unsupported-request status (R348). -/
opaque hostRefuses : Nat → Nat → Bool
/-- Whether an engine operation releases its locks before its writes are seen by accesses that acquire nothing (R399, R408). -/
opaque opensFirst : Nat → Nat → Bool
/-- Bytes of a free graph block that R189 leaves to the controller. -/
opaque blockByte : Nat → Nat → BitVec 8
/-- The cycles that pass in a core (below 1024) or a die (1024 and above) during a step (R76, R99): time is not modelled. -/
opaque cycles : Nat → Nat → Nat
/-- What a step adds to a counter whose event is a matter of caches or of DRAM alone (R76, R413). -/
opaque timedCount : Nat → Nat → Nat
/-- Whether what an outstanding long-latency operation writes in one lane is seen already (R20). -/
opaque seenEarly : Nat → Nat → Bool
/-- Whether a path that has exited did so within the last 64 cycles (R100). -/
opaque justExited : Nat → Bool
/-- The digest of the boot ROM's bytes, which the spec does not give (R67). -/
opaque romDigest : BitVec 512
/-- A byte of the flash after a write of it has failed (R66). -/
opaque flashByte : Nat → Nat → BitVec 8
/-- The identity key's signature over a byte string, 132 bytes (R69). -/
opaque sign : List Byte → List Byte
/-- A word whose value the spec does not state: one read from a poisoned sector of an accumulator store by an ADRAIN to
a T register or by a pass. -/
opaque freeWord : Nat → BitVec 32
/-- Which live port of a peer carries an object address (R42): the spec names a hash and does not give it. -/
opaque routeHash : BitVec 64 → Nat
/-- Contents of reserved or unstated bytes the part delivers to the host (certificate at 0x1400, SCANLOG layout). -/
opaque openByte : Nat → BitVec 8

end Sys2Proof.Config
end

