-- ==== Sys2Proof/Machine/State.lean ====
section
/-! DEFINITION. The state of the SN3 as plain data, the reasons a step can stop, and the state after cold reset. Stores
are sparse maps (Word.lean) whose unlisted keys read a stated default; log entries name every default and every reset
value the spec does not give. -/

namespace Sys2Proof.Machine

/-- Trap codes of R138; `firstTouch` is code 0x00. -/
inductive TrapCode where
  | firstTouch | illegalOp | illegalClause | priv | bounds | objectInvalid | protect | align | poison | rangeLocked
  | remoteLost | pageHost | uniformSplit | pairAlign | pathLimit | gwaitMismatch | engineAbort | barrierMember
  | graphBounds | cursorState | fpEnabled | user | brk | watch
  deriving DecidableEq, Repr

/-- A word a clause fetch delivered (R254), the code its fetch failed with (R269 row 1), or that a peer has still to answer. -/
inductive Fetched where
  | word (w : DWord)
  | bad (c : TrapCode)
  | wait
  | lost (code : Nat)
  deriving DecidableEq, Repr

/-- A clause in the course of execution (R252 to R254): the header's address and fields, the words read when the clause
began, the slot reached, and the number of this execution, by which R126 counts clauses. -/
structure Clause where
  hdr : DWord
  n : Nat
  cls : Nat
  yld : Nat
  sets : List Nat
  words : List Fetched
  slot : Nat
  uid : Nat
  deriving DecidableEq, Repr

/-- KIND of R132. -/
inductive PathKind where
  | ordinary | user | sup
  deriving DecidableEq, Repr

/-- Trap record and lane-address block (R141). `clause` is the clause the faulting instruction stands in, `none` for a
fault of a header or of a word's fetch, after which `hdr` is fetched again (R384). `stray` as in `Path`; `met` says that the path stood
for every live lane of its gang, or had met the gang's wait before, so that a .g instruction executed again does not wait (R122). -/
structure TrapRec where
  code : TrapCode
  cslot : Nat
  fmask : Mask
  pc : DWord
  rmask : Mask
  lcode : List TrapCode
  extra : List Word
  laddr : List DWord
  clause : Option Clause
  hdr : DWord
  stray : Bool
  met : Bool
  deriving DecidableEq, Repr

/-- Why a path waits. The first seven are WAIT of R132; the others wait within one instruction or clause boundary. -/
inductive Wait where
  | none
  | barrier (off : Nat) (phase : Word)
  | gang
  | batch (n : Word)
  | growth (nv : Nat)
  | parked (tag : Nat)
  | held (n : Nat)
  | sleep
  | flush
  | fetchHost (tag : Nat)
  | locks (n : Nat)
  | table
  | port (c : Nat)
  | batchSlot
  | arrival
  | tile (t : Nat)
  | migration (oid : Nat)
  | peer
  | zport (p : Nat)
  deriving DecidableEq, Repr

/-- The head of a release sequence (R244): its widest scope, and its writer (`path` is a `Prog.uid`) and where that stood when it
was performed. -/
structure Head where
  scope : Nat
  path : Nat
  gang : Nat
  crew : Nat
  cluster : Nat
  deriving DecidableEq, Repr

/-- A head that a read has met, with where its reader stood at that read (R240): its cluster, and whether PATH scope
takes the writer in. -/
structure Seen where
  head : Head
  cluster : Nat
  own : Bool
  deriving DecidableEq, Repr

/-- What program order has brought a path to (R238): the path's number and those of the paths whose program order it
continues, the outstanding operations of its gang that precede in it (by `LaneOp.id`), the widest release FENCE passed, and the
heads its reads have met (R244). -/
structure Prog where
  uid : Nat
  kin : List Nat
  ops : List Nat
  rel : Option Nat
  seen : List Seen
  deriving DecidableEq, Repr

/-- The parked lanes of a side (R142). `xfer` marks lanes parked at a transfer not yet made. -/
structure Parked where
  pc : DWord
  mask : Mask
  depth : Nat
  clause : Option Clause
  xfer : Bool
  stray : Bool
  prog : Prog
  deriving DecidableEq, Repr

/-- A deferred side (R115). `wait` is what it waited for when it was pushed aside (R116); the other fields are those of
`Path`. -/
structure Side where
  pc : DWord
  mask : Mask
  depth : Nat
  clause : Option Clause
  wait : Wait
  kind : PathKind
  parked : Option Parked
  trap : Option TrapRec
  stray : Bool
  arrived : Option Word
  prog : Prog
  again : Bool
  deriving DecidableEq, Repr

/-- The release sequences of one byte: every head so far, and those whose sequence the byte's present value belongs
to. -/
structure Rel where
  heads : List Head
  now : List Head
  deriving DecidableEq, Repr

/-- A path-table entry (R110, R132) of the core and index that its key names. `slot` is its active slot (R83);
`rett` the RETT that takes effect at clause end (R384) with the lanes it kills; `issued` the lanes of a per-lane engine
instruction that have issued; `limit` the lanes a transfer made after `.skip` is limited to (R142); `prog` its program order (R238);
`arrived` the phase its BARAW has recorded and waits for (R334); `again`: its clause goes on after RETT at the instruction that
trapped (R384); `claimed`: the urgent pending path that has claimed its slot (R86). `stray`: the exact target of the branch that led
here lies outside 0 to 2^40 − 1 (R260). -/
structure Path where
  gang : Nat
  pc : DWord
  mask : Mask
  depth : Nat
  stamp : Nat
  kind : PathKind
  wait : Wait
  clause : Option Clause
  defer : List Side
  parked : Option Parked
  trap : Option TrapRec
  vectored : Bool
  rett : Option (Nat × Mask)
  noWatch : Bool
  issued : Mask
  limit : Option Mask
  slot : Option Nat
  urgent : Option Nat
  swapHint : Bool
  claimed : Option Nat
  stray : Bool
  prog : Prog
  arrived : Option Word
  again : Bool
  deriving DecidableEq, Repr

/-- A cursor register (R188); unlisted registers are closed, all zero. `root` is the model's WALK: the root block of the
list at the snapshot. -/
structure Cursor where
  oid : Nat
  st : Nat
  dir : Nat
  slot : Nat
  vtx : Nat
  snap : Nat
  ver : Nat
  rank : Nat
  deg : Nat
  root : Nat
  deriving DecidableEq, Repr

/-- A filled pin register (R164); unlisted registers are empty. -/
structure Pin where
  oid : Nat
  min : Nat
  deriving DecidableEq, Repr

/-- A batch (R195): operations outstanding and the status byte of R196. -/
structure Batch where
  num : Word
  pending : Nat
  status : BitVec 8
  deriving DecidableEq, Repr

/-- An arrival-table entry (R134). -/
structure Arrival where
  off : Nat
  phase : Word
  mask : Mask
  deriving DecidableEq, Repr

/-- A register write that a long-latency operation makes when it completes. -/
inductive RegWrite where
  | v (n lane : Nat) (x : Word)
  | s (n : Nat) (x : Word)
  | p (n lane : Nat) (b : Bool)
  deriving DecidableEq, Repr

/-- Graph requests waiting at the controllers. -/
inductive GraphKind where
  | gadde | gdele | gsete | glde | gfind | gdeg | gver | gldv | gstv | gopen | gnext | gskip
  deriving DecidableEq, Repr

/-- One lane of a graph request: two operands and a third. -/
structure GraphLane where
  lane : Nat
  u : Nat
  v : Nat
  p : Nat
  deriving DecidableEq, Repr

/-- A graph instruction that has issued and is not yet performed in the lanes of `todo`. `oids` are the objects it reads or
mutates, `head` the release that a mutation is (R191). -/
structure GraphReq where
  kind : GraphKind
  oids : List Nat
  dir : Nat
  strict : Bool
  cur : Nat
  d : Nat
  px : Nat
  head : Head
  todo : List GraphLane
  deriving DecidableEq, Repr

/-- What a long-latency operation still has to do. `peer` waits for the answers to the messages of `tags`. -/
inductive OpBody where
  | writes (ws : List RegWrite)
  | peer (tags : List Nat) (ws : List RegWrite)
  | graph (r : GraphReq)
  deriving DecidableEq, Repr

/-- An outstanding lane long-latency operation (R255): its lanes, its clause's flags, the V, S and P registers it will
write, the operations that precede it in program order (R238), and the cursor register it moves (R187). -/
structure LaneOp where
  id : Nat
  path : Nat
  mask : Mask
  uid : Nat
  sets : List Nat
  body : OpBody
  dv : List Nat
  ds : List Nat
  dp : List Nat
  store : Bool
  after : List Nat
  cur : Option Nat
  deriving DecidableEq, Repr

/-- A store that was lost on its way to a peer (R44): its operation, lane and address, and the trap code of the peer's
error response, 0 where there was none. -/
structure Lost where
  op : Nat
  lane : Nat
  addr : DWord
  code : Nat
  deriving DecidableEq, Repr

/-- A gang (R124). V keys are 32·n + lane; T keys 256·n + 8·row + word; VH and cursor keys 32·n + lane. Every unlisted
register reads zero (R81). -/
structure Gang where
  core : Nat
  slot : Nat
  crew : Nat
  no : Nat
  stamp : Nat
  nv : Nat
  ns : Nat
  nt : Nat
  live : Mask
  killed : Mask
  ftz : Bool
  fpx : Bool
  scopeMiss : Bool
  v : Map Word
  s : Map Word
  p : Map Mask
  t : Map Word
  vh : Map Word
  flags : Map (BitVec 6)
  rng : Map Word
  cur : Map Cursor
  pins : Map Pin
  openB : Batch
  closed : List Batch
  undeliv : BitVec 8
  arr : List Arrival
  tpend : BitVec 8
  tabort : BitVec 8
  ops : List LaneOp
  nextOp : Nat
  lost : List Lost
  deriving DecidableEq, Repr

/-- A resident crew: its run, number in the run, gang count, scratchpad granules and accumulator tiles in
crew-relative order (R405, R125). `bars` are the offsets of the barrier objects its barrier unit has updated, `gone`
its retired gangs; `area` is the first granule and the size of the save area a drain has taken (R95). -/
structure Crew where
  run : Nat
  no : Nat
  ng : Nat
  gran : List Nat
  tiles : List Nat
  draining : Bool
  area : Nat × Nat
  bars : List Nat
  gone : List Gang
  deriving DecidableEq, Repr

/-- A pre-empted crew: its save area's first granule and granules in SAVEPOOL and the core it stood on; `sameCore` when
it should return there (R72), `saved` when the checkpoint save in progress has stopped it (R71), `released` the breakpoints released since (R105). `nvs` are the V allocations of its gangs that have not retired, `npaths` their entries;
`hidG` and `hidP` (with the gang's number) keep of gangs and paths what no image holds, `rels` the release sequences of its scratchpad
by crew-relative byte (R96, R244). -/
structure PreCrew where
  run : Nat
  no : Nat
  gran : Nat
  size : Nat
  core : Nat
  sameCore : Bool
  saved : Bool
  ng : Nat
  nvs : List Nat
  npaths : Nat
  tiles : List Nat
  scratch : List Nat
  bars : List Nat
  gone : List Gang
  released : List Nat
  hidG : List Gang
  hidP : List (Nat × Path)
  rels : Map Rel
  deriving DecidableEq, Repr

/-- A path that has exited in an active slot, as a Lens record shows it (R100): its entry, its class, the path at its EXIT. -/
structure Exited where
  pk : Nat
  cls : Nat
  quad : Nat
  path : Path
  deriving DecidableEq, Repr

/-- An instruction that a Lens has tagged (R100): where it stands, the lanes and the record of its selection. `tried`: it was selected in
the step before; `next`: the number of the gang's next operation before that; `ops`: once it has issued, the operations it began. -/
structure LensTag where
  pk : Nat
  gang : Nat
  pc : DWord
  cslot : Nat
  mask : Mask
  bytes : List Byte
  tried : Bool
  next : Nat
  ops : Option (List Nat)
  deriving DecidableEq, Repr

/-- A launch record (R59). -/
structure LaunchRec where
  code : Nat
  entry : Nat
  handler : Nat
  crews : Nat
  gangs : Nat
  vinit : Nat
  vmax : Nat
  sregs : Nat
  tiles : Nat
  acc : Nat
  scratch : Nat
  ctl : Nat
  waits : List Nat
  signal : Nat
  compl : Nat
  arg : DWord
  tag : Word
  bytes : List Byte
  deriving DecidableEq, Repr

/-- A live run (R60). `left` are the WAIT objects that no poll has read as zero yet. -/
structure Run where
  lr : LaunchRec
  cls : Nat
  left : List Nat
  eligible : Bool
  next : Nat
  retired : Nat
  tFirst : Option DWord
  tLast : Option DWord
  killed : Nat
  killCode : Option TrapCode
  remoteLost : Bool
  deriving DecidableEq, Repr

/-- A window binding (R200 to R203): the fill that made it, its window's die, its record, the kept indices (`none` all
ones), empty until the fill is performed, its lost and its written lines. -/
structure Binding where
  op : Nat
  die : Nat
  index : DWord
  isize : Nat
  data : DWord
  count : Nat
  esize : Nat
  idx : List (Option Nat)
  lost : List Nat
  written : List Nat
  deriving DecidableEq, Repr

/-- A byte on its way: `bad` when it comes from a poisoned sector, `ok` false when a link lost it. -/
structure Cell where
  b : Byte
  bad : Bool
  ok : Bool
  deriving DecidableEq, Repr

/-- A range-lock entry (R162): 64-byte lines `lo` to `hi` of an object, alias ranges kept as Plain ranges. -/
structure Lock where
  cluster : Nat
  op : Nat
  oid : Nat
  lo : Nat
  hi : Nat
  deriving DecidableEq, Repr

/-- What an engine operation does. `old` is the binding that a fill unbinds first, `sb` and `db` the bindings of windows that a copy
reads and writes through (R204). -/
inductive EngKind where
  | copy (src dst : DWord) (n : Nat) (sb db : Option Binding)
  | decode (src dst : DWord) (n : Nat)
  | fill (win : Nat) (new : Binding) (old : Option Binding)
  | scatter (win : Nat) (b : Binding)
  | xform (t : Nat) (record : List Byte)
  | pass (tile steps : Nat) (a b : DWord) (fmt : List Byte)
  | azero (tile : Nat)
  | drainT (tile t row col : Nat)
  | fillT (tile row col : Nat) (words : List Word)
  | drainPlain (tile : Nat) (dst : DWord) (row n : Nat)
  | fillPlain (tile : Nat) (src : DWord) (row n : Nat)
  | reclaim (oid : Nat)
  deriving DecidableEq, Repr

/-- An engine operation from issue to completion: its gang with the gang's age stamp, its crew, the batch it joined, the
barrier it holds open; `cancelled` marks an ADRAIN whose pass aborted (R217), `refused` the pages (identifier · 2^24 +
page) whose host service request was refused (R159), `st` the status bits earned so far. Once it has read its sources and released
its locks while its writes are not yet seen (R399), `held` holds what it read, by the number of the read, and `late` the entries it
had. -/
structure EngOp where
  gang : Nat
  stamp : Nat
  crew : Nat
  batch : Option Word
  bar : Option Nat
  kind : EngKind
  cancelled : Bool
  refused : List Nat
  st : BitVec 8
  held : List (Nat × List (List Cell))
  late : List Lock
  deriving DecidableEq, Repr

/-- A reservation-table entry (R88); `byp` counts grants to others while this entry was oldest and grantable (R89). -/
structure Resv where
  op : Nat
  cls : Nat
  age : Nat
  core : Nat
  byp : Nat
  deriving DecidableEq, Repr

/-- An object-table entry (R146). -/
structure ObjEnt where
  size : Nat
  kind : Nat
  perm : Nat
  home : Nat
  flags : Nat
  ctab : Nat
  peer : Nat
  rid : Nat
  extptr : Nat
  next : Nat
  extcap : Nat
  dirtyptr : Nat
  link : Nat
  ok : Bool
  deriving DecidableEq, Repr

/-- A cached translation (R153): holder (core, or 1000 + die), page, object entry and page target. -/
structure Xlat where
  holder : Nat
  oid : Nat
  page : Nat
  ent : ObjEnt
  target : Option Nat
  deriving DecidableEq, Repr

/-- Dirty state of a page (R154) as the translation entry of the agent `holder` records it, with the run whose write dirtied it. -/
structure Dirty where
  holder : Nat
  oid : Nat
  page : Nat
  run : Nat
  deriving DecidableEq, Repr

/-- A shoot-down in progress (R153): who waits for it. -/
inductive ShootFor where
  | reg | lanes (g : Nat) (m : Mask) | internal
  deriving DecidableEq, Repr

structure Shoot where
  oid : Nat
  who : ShootFor
  deriving DecidableEq, Repr

/-- A HARVEST in progress in the lanes of a gang's path (R359): one identifier, or every one. -/
structure Harv where
  gang : Nat
  mask : Mask
  oid : Option Nat
  deriving DecidableEq, Repr

/-- A reclaim-pending object (R166): the engine operations that report its completion, whether its first search has ended, whether
it stands on the deferred-reclaim list, and whether it is being freed. -/
structure Reclaim where
  oid : Nat
  die : Nat
  ops : List Nat
  searched : Bool
  listed : Bool
  freeing : Bool
  deriving DecidableEq, Repr

/-- A host service request (R157): `posted` once it stands in the ring; `eng` the engine operation that stalls on it. -/
structure Svc where
  tag : Nat
  kind : Nat
  oid : Nat
  page : Nat
  eng : Option Nat
  posted : Bool
  deriving DecidableEq, Repr

/-- A migration in progress (R160): object, pages, status object, and the target frame of each page in order. -/
structure Migr where
  oid : Nat
  first : Nat
  count : Nat
  status : Nat
  frames : List Nat
  deriving DecidableEq, Repr

/-- A Zalak message (R39). -/
structure Msg where
  addr : DWord
  tgt : Nat
  src : Nat
  op : Nat
  flags : Nat
  tag : Nat
  len : Nat
  rsvOk : Bool
  data : List Byte
  deriving DecidableEq, Repr

/-- A Zalak port (R38 to R41, R46). `tx` holds unacknowledged flits with their sequence numbers, `rx` the messages
received whole and not yet executed, `part` the message being received. `freed` counts the receive buffers freed and not yet
told, `credit` those the far side has told, `resend` the flit that its last link-control flit named, `errs` the messages whose
error response waits for room. -/
structure ZPort where
  up : Bool
  peerCap : Bool
  txSeq : Nat
  rxSeq : Nat
  tx : List (Nat × List Byte)
  part : Option (Msg × Nat)
  rx : List Msg
  discard : Bool
  replayAt : Nat
  resend : Option Nat
  replays : Nat
  freed : Nat
  credit : Nat
  errs : List Msg
  retries : DWord
  lostCnt : DWord
  protoErr : DWord
  deriving DecidableEq, Repr

/-- What a request to a peer belongs to: a lane, an engine operation, a poll of a run's WAIT object (R60), the host, the
part's own writes (R60 to R62), or a path's fetch of a word of its clause (`uid` is its `Prog.uid`). -/
inductive PeerFor where
  | lane (gang path op lane : Nat)
  | eng (op pos : Nat)
  | poll (run oid : Nat)
  | host
  | part
  | fetch (gang path uid : Nat)
  deriving DecidableEq, Repr

/-- A part of the answer to a read of stream blocks (R46, R47): symbols expanded on the way, a block as it stands, or so many
symbols of a block found bad. -/
inductive Seg where
  | syms (bs : List Byte)
  | block (bs : List Byte)
  | bad (n : Nat)
  deriving DecidableEq, Repr

/-- A request sent to a peer (R44): its tag, port and OP, what it belongs to, its address, and its outcome: the bytes of
the answer, or the peer's trap code where the request failed or was lost; `sofar` holds data of messages before the last.
`stream` marks a read that asks for stream blocks, whose answer `segs` holds (R46). -/
structure PeerOp where
  tag : Nat
  port : Nat
  op : Nat
  owner : PeerFor
  addr : DWord
  n : Nat
  answer : Option (List Byte)
  fail : Option Nat
  sofar : List Byte
  stream : Bool
  segs : List Seg
  deriving DecidableEq, Repr

/-- What happens once a write of the part itself has been performed, beside the write: a ring's NEXT count advances (R103), or a run
ends (R60). -/
inductive DevMark where
  | lensNext | markNext
  | endRun (run : Nat)
  deriving DecidableEq, Repr

/-- A write of the part itself that found no room yet, a page or a Zalak port (R62): its address, the bytes it stores or the
count it adds, whether it adds, and the scope of the release it is. With a `mark` it stores nothing, but is what follows the writes
before it. -/
structure DevPut where
  addr : Nat
  bytes : List Byte
  add : Bool
  rel : Option Nat
  mark : Option DevMark
  deriving DecidableEq, Repr

/-- A performance counter (R75). -/
structure Ctr where
  evsel : Word
  count : DWord
  deriving DecidableEq, Repr

/-- The management registers (R37, R51 to R54, R64, R66, R68 to R74, R95, R103 to R106, R168, R412) and Dyfiow's own
state: demands of R34, measurements of R67, rails of R32; `restored` from a restore until LAUNCHEN is set (R72),
`removed` the physical cores that scan tests have removed (R73), `flash` and `fwCopy` the image in flash and the one verified
in staging (R66), `ckptGo` TARGET, DIR and CKPTADDR as the last
accepted GO found them (R70) and `ckptTime` the time at which it came (R72), `tripSaved` once the save after a trip has been taken (R36), `streamCap` the part's own stream-block
capability (R46), `spread` the port that the last access through each slot of a peer's route took, 64 for none (R42). -/
structure Mgmt where
  clkStep : Nat
  demThermal : Nat
  demPower : Nat
  clkCeil : Nat
  pwrCap : Nat
  tempTrips : Nat
  tempDie : Nat
  tempDegc : Nat
  tripped : Bool
  featAcc0 : Word
  featAcc1 : Word
  svcFull : Bool
  svcRed : Bool
  fwRec : Bool
  featLock : Bool
  hndMiss : Bool
  hndLock : Bool
  dieFail : BitVec 8
  dieTrained : BitVec 8
  trainTries : Map Nat
  launchEn : Bool
  ftHndl : DWord
  phHndl : DWord
  ftInst : Bool
  phInst : Bool
  lpErr : Word
  apErr : Word
  rejTag : Word
  rejPort : Nat
  rejStatus : Nat
  ovf : Map Word
  fwReason : Nat
  fwState : Nat
  fwSvn : Word
  fwToFlash : Bool
  staging : Map Byte
  flash : Map Byte
  fwCopy : Map Byte
  m0 : BitVec 512
  m1 : BitVec 512
  m2 : BitVec 512
  m3 : BitVec 512
  attNonce : Map Byte
  attReq : Word
  attReport : Map Byte
  ckptBusy : Bool
  ckptDone : Bool
  ckptFail : Bool
  ckptTarget : Bool
  ckptDir : Bool
  ckptAddr : DWord
  ckptGo : Bool × Bool × DWord
  ckptTime : DWord
  ckptProg : Word
  ckptPois : Word
  restored : Bool
  tripSaved : Bool
  streamCap : Bool
  scanCtl : Word
  scanLog : Nat × Nat
  errRing : Map Byte
  errCnt : Word
  savePool : Nat
  traceCtl : DWord
  markNext : Word
  lensNext : Word
  markRead : Word
  lensRead : Word
  markDrop : Nat
  lensDrop : Nat
  bkptAddr : Map DWord
  bkptCtl : Map Word
  watchAddr : Map DWord
  watchCtl : Map Word
  objtBase : Nat
  objtCnt : Nat
  pinOvf : Nat
  hsRing : DWord
  hsNext : Word
  hsRead : Word
  apertab : Map DWord
  apertureSize : Nat
  hostReady : Bool
  removed : List Nat
  railMain : Bool
  railAux : Bool
  pgood : Bool
  msix : Map Nat
  fabricNo : Nat
  routes : Map (List Nat)
  spread : Map (List Nat)
  deriving DecidableEq, Repr

/-- What the step does next when the tape is not empty: an event of the part or the outside world, or the next
instruction of a quadrant (core·4 + quadrant). -/
inductive Move where
  | event (i : Instr)
  | issue (q : Nat)
  deriving DecidableEq, Repr

/-- The machine. Keys: paths core·512 + index, gangs core·64 + slot, crews core·16 + slot, tile words
(core·64 + tile)·16384 + 128·row + column, clusters core / 4 while every core is dealt (R405). `mem` is device memory by
physical address (frame·65536 + byte, R146), bounce frames of die d standing at frames 2^23 + 4096·d; `plain` is the
Plain by offset; `poison` and `plainPoison` are by sector, `rels` by
byte (Machine/Memory.lean). `lensTags` are the instructions a Lens has
tagged; `arrivals` the ports of the waiting launch records in the order these arrived (R60); `exits` the path that last exited in an active slot, by 8 · (core·4 + quadrant) + slot (R100); `devQ` the
part's writes that wait for room. The fields `tape`, `cur`, `tick` and `free` are the model's own. -/
structure State where
  tape : List Move
  cur : Nat
  tick : Nat
  free : Nat
  mem : Map Byte
  poison : Map Bool
  plain : Map Byte
  plainPoison : Map Bool
  rels : Map Rel
  acc : Map Word
  accPoison : Map Bool
  hostMem : Map Byte
  paths : Map Path
  gangs : Map Gang
  crews : Map Crew
  pre : List PreCrew
  runs : Map Run
  nextRun : Nat
  stampCnt : Nat
  nextUid : Nat
  lq : Map (List (List Byte))
  spill : Map (List (List Byte))
  spillCnt : Map Nat
  stalled : List (Nat × List Byte)
  arrivals : List Nat
  deal : List Nat
  outOfService : List Nat
  scanning : Option Nat
  eng : Map EngOp
  nextEng : Nat
  locks : List Lock
  tileQ : Map (List Nat)
  resv : Map (List Resv)
  granted : Map Nat
  prism : Map (List Nat)
  binds : Map Binding
  xlats : List Xlat
  dirty : List Dirty
  shoots : List Shoot
  harvs : List Harv
  reclaims : List Reclaim
  svcs : List Svc
  nextTag : Nat
  bounce : Map Nat
  pool : Map Nat
  migr : Option Migr
  migrQ : List (List Byte)
  zports : Map ZPort
  peerOps : List PeerOp
  nextPeerTag : Nat
  ctrs : Map Ctr
  lens : Map Nat
  lensTags : List LensTag
  exits : Map Exited
  devQ : List DevPut
  ckpt : Map Byte
  hostRead : List Byte
  hostEp : Bool
  mg : Mgmt
  deriving DecidableEq, Repr

/-- Why the machine stops. -/
inductive Fault where
  /-- `exec` was given an instruction while no path stands at it. No step does that; safe. -/
  | noPath
  deriving DecidableEq, Repr

/-- Why an instruction has no meaning here. -/
inductive Refusal where
  /-- An instruction the model does not give a meaning yet; safe. -/
  | notModelled (mnemonic : String)
  deriving DecidableEq, Repr

/-- Management registers after a cold reset (R5 and the Reset columns). -/
def Mgmt.reset : Mgmt :=
  { clkStep := 6, demThermal := 0, demPower := 0, clkCeil := 0, pwrCap := 2400, tempTrips := 0, tempDie := 0,
    tempDegc := 0, tripped := false, featAcc0 := 0, featAcc1 := 0, svcFull := false, svcRed := false, fwRec := false,
    featLock := false, hndMiss := false, hndLock := false, dieFail := 0, dieTrained := 0, trainTries := [],
    launchEn := false, ftHndl := 0, phHndl := 0, ftInst := false, phInst := false, lpErr := 0, apErr := 0,
    rejTag := 0, rejPort := 0, rejStatus := 0, ovf := [], fwReason := 0, fwState := 0, fwSvn := 0, fwToFlash := false,
    staging := [], flash := [], fwCopy := [], m0 := 0, m1 := 0, m2 := 0, m3 := 0, attNonce := [], attReq := 0, attReport := [],
    ckptBusy := false, ckptDone := false, ckptFail := false, ckptTarget := false, ckptDir := false, ckptAddr := 0, ckptGo := (false, false, 0), ckptTime := 0,
    ckptProg := 0, ckptPois := 0, restored := false, tripSaved := false, streamCap := true,
    scanCtl := 0, scanLog := (0, 0), errRing := [], errCnt := 0, savePool := 0,
    traceCtl := 0, markNext := 0, lensNext := 0, markRead := 0, lensRead := 0, markDrop := 0, lensDrop := 0,
    bkptAddr := [], bkptCtl := [], watchAddr := [], watchCtl := [], objtBase := 0, objtCnt := 0, pinOvf := 0,
    hsRing := 0, hsNext := 0, hsRead := 0, apertab := [], apertureSize := 17179869184, hostReady := false, removed := [],
    railMain := false, railAux := false, pgood := false, msix := [], fabricNo := 0, routes := [],
    spread := [] }

/-- The machine right after a cold reset: nothing trained, dealt, resident or queued, every register at its reset
value, the tape empty. -/
def State.reset : State :=
  { tape := [], cur := 0, tick := 0, free := 0, mem := [], poison := [], plain := [], plainPoison := [], rels := [], acc := [], accPoison := [],
    hostMem := [], paths := [], gangs := [], crews := [], pre := [], runs := [], nextRun := 0, stampCnt := 0,
    nextUid := 0, lq := [], spill := [], spillCnt := [], stalled := [], arrivals := [], deal := [], outOfService := [], scanning := none, eng := [],
    nextEng := 0, locks := [], tileQ := [], resv := [], granted := [], prism := [], binds := [], xlats := [],
    dirty := [], shoots := [], harvs := [], reclaims := [], svcs := [], nextTag := 0, bounce := [], pool := [], migr := none, migrQ := [],
    zports := [], peerOps := [], nextPeerTag := 0, ctrs := [], lens := [], lensTags := [], exits := [], devQ := [], ckpt := [], hostRead := [],
    hostEp := false, mg := Mgmt.reset }

end Sys2Proof.Machine
end

