-- ==== Sys2Proof/Machine/Access.lean ====
section
/-! DEFINITION. One home for every register and table of the state: the accessors through which the machine reads and
writes them. -/

namespace Sys2Proof.Machine

/-- An empty batch numbered `n` (R195). -/
def Batch.fresh (n : Word) : Batch := { num := n, pending := 0, status := 0 }

/-- A gang slot that nothing occupies. VH starts at zero as the other registers do: R124 sends its reset values to R81, which
does not name VH (DESIGN CHOICE, log entry 2). -/
def Gang.blank : Gang :=
  { core := 0, slot := 0, crew := 0, no := 0, stamp := 0, nv := 0, ns := 0, nt := 0, live := 0, killed := 0,
    ftz := false, fpx := false, scopeMiss := false, v := [], s := [], p := [], t := [], vh := [], flags := [],
    rng := [], cur := [], pins := [], openB := Batch.fresh 1, closed := [], undeliv := 0, arr := [],
    tpend := 0, tabort := 0, ops := [], nextOp := 0, lost := [] }

/-- The program order of a path that has made no access. -/
def Prog.fresh (uid : Nat) : Prog := { uid := uid, kin := [], ops := [], rel := none, seen := [] }

def addTo {α : Type} [DecidableEq α] (xs ys : List α) : List α := ys.foldl (fun a h => if a.contains h then a else a ++ [h]) xs

/-- The program order of a path that continues another's under a number of its own (R238). -/
def Prog.fork (p : Prog) (uid : Nat) : Prog := { p with uid := uid, kin := p.uid :: p.kin }

/-- The program order of a path that two paths have merged into (R113, R238). -/
def Prog.join (a b : Prog) (uid : Nat) : Prog :=
  { uid := uid, kin := addTo (a.uid :: a.kin) (b.uid :: b.kin), ops := addTo a.ops b.ops,
    rel := match a.rel, b.rel with
      | some x, some y => some (max x y)
      | some x, none => some x
      | none, r => r,
    seen := addTo a.seen b.seen }

/-- An ordinary path of gang `g` at `pc` with nothing begun. -/
def Path.at (g : Nat) (pc : DWord) (mask : Mask) (depth stamp : Nat) : Path :=
  { gang := g, pc := pc, mask := mask, depth := depth, stamp := stamp, kind := .ordinary, wait := .none, clause := none,
    defer := [], parked := none, trap := none, vectored := true, rett := none, noWatch := false, issued := 0,
    limit := none, slot := none, urgent := none, swapHint := false, claimed := none, stray := false, prog := Prog.fresh 0,
    arrived := none, again := false }

def LaunchRec.blank : LaunchRec :=
  { code := 0, entry := 0, handler := 0xFFFFFFFF, crews := 0, gangs := 0, vinit := 1, vmax := 1, sregs := 0, tiles := 0,
    acc := 0, scratch := 0, ctl := 0, waits := [], signal := 0, compl := 0, arg := 0, tag := 0, bytes := [] }

def Run.blank : Run :=
  { lr := LaunchRec.blank, cls := 0, left := [], eligible := false, next := 0, retired := 0, tFirst := none, tLast := none,
    killed := 0, killCode := none, remoteLost := false }

def Crew.blank : Crew :=
  { run := 0, no := 0, ng := 0, gran := [], tiles := [], draining := false, area := (0, 0), bars := [], gone := [] }

def ObjEnt.blank : ObjEnt :=
  { size := 0, kind := 0, perm := 0, home := 0, flags := 0, ctab := 0, peer := 0, rid := 0, extptr := 0, next := 0,
    extcap := 0, dirtyptr := 0, link := 0, ok := false }

def gangAt (s : State) (k : Nat) : Gang := (Map.find? s.gangs k).getD Gang.blank
def pathAt (s : State) (k : Nat) : Path := (Map.find? s.paths k).getD (Path.at 0 0 0 0 0)
def crewAt (s : State) (k : Nat) : Crew := (Map.find? s.crews k).getD Crew.blank
def runAt (s : State) (k : Nat) : Run := (Map.find? s.runs k).getD Run.blank

def onGang (s : State) (k : Nat) (f : Gang → Gang) : State := { s with gangs := Map.adjust s.gangs k f }
def onPath (s : State) (k : Nat) (f : Path → Path) : State := { s with paths := Map.adjust s.paths k f }
def onCrew (s : State) (k : Nat) (f : Crew → Crew) : State := { s with crews := Map.adjust s.crews k f }
def onRun (s : State) (k : Nat) (f : Run → Run) : State := { s with runs := Map.adjust s.runs k f }
def onMg (s : State) (f : Mgmt → Mgmt) : State := { s with mg := f s.mg }
def setPath (s : State) (k : Nat) (p : Path) : State := { s with paths := Map.put s.paths k p }
def delPath (s : State) (k : Nat) : State := { s with paths := Map.del s.paths k }

/-- V[n][l]. -/
def rv (g : Gang) (n l : Nat) : Nat := (Map.getD g.v (32 * n + l) 0).toNat
def wv (g : Gang) (n l x : Nat) : Gang := { g with v := Map.setD g.v (32 * n + l) (BitVec.ofNat 32 x) 0 }
/-- S[n]. -/
def rs (g : Gang) (n : Nat) : Nat := (Map.getD g.s n 0).toNat
def ws (g : Gang) (n x : Nat) : Gang := { g with s := Map.setD g.s n (BitVec.ofNat 32 x) 0 }
/-- P[n][l]. -/
def rp (g : Gang) (n l : Nat) : Bool := (Map.getD g.p n 0).getLsbD l
def setLane (m : Mask) (l : Nat) (b : Bool) : Mask := if b then m ||| laneBit l else m &&& ~~~ laneBit l
def wp (g : Gang) (n l : Nat) (b : Bool) : Gang := { g with p := Map.setD g.p n (setLane (Map.getD g.p n 0) l b) 0 }
/-- T[n] row i word j. -/
def rt (g : Gang) (n i j : Nat) : Nat := (Map.getD g.t (256 * n + 8 * i + j) 0).toNat
def wt (g : Gang) (n i j x : Nat) : Gang := { g with t := Map.setD g.t (256 * n + 8 * i + j) (BitVec.ofNat 32 x) 0 }
/-- VH[n][l]. -/
def rvh (g : Gang) (n l : Nat) : Nat := (Map.getD g.vh (32 * n + l) 0).toNat
def wvh (g : Gang) (n l x : Nat) : Gang := { g with vh := Map.setD g.vh (32 * n + l) (BitVec.ofNat 32 x) 0 }
/-- Lane l's sticky flags, XE in bit 5 down to INVALID in bit 0 (R121). -/
def rfl' (g : Gang) (l : Nat) : BitVec 6 := Map.getD g.flags l 0
def wfl (g : Gang) (l : Nat) (x : BitVec 6) : Gang := { g with flags := Map.setD g.flags l x 0 }
/-- Lane l's stochastic-rounding state (R226). -/
def rrng (g : Gang) (l : Nat) : Word := Map.getD g.rng l 0
def wrng (g : Gang) (l : Nat) (x : Word) : Gang := { g with rng := Map.setD g.rng l x 0 }

/-- A V or S operand of `w` registers, the low half in the even register (R127). -/
def rvw (g : Gang) (n l w : Nat) : Nat := if w = 2 then rv g n l + 2 ^ 32 * rv g (n + 1) l else rv g n l
def rsw (g : Gang) (n w : Nat) : Nat := if w = 2 then rs g n + 2 ^ 32 * rs g (n + 1) else rs g n
def wvw (g : Gang) (n l w x : Nat) : Gang := if w = 2 then wv (wv g n l x) (n + 1) l (x / 2 ^ 32) else wv g n l x
def wsw (g : Gang) (n w x : Nat) : Gang := if w = 2 then ws (ws g n x) (n + 1) (x / 2 ^ 32) else ws g n x

/-- The value lane `l` reads of a register field, by the field's S flag. -/
def src (g : Gang) (sf : Bool) (code : BitVec 8) (w l : Nat) : Nat :=
  if sf then rsw g code.toNat w else rvw g code.toNat l w

/-- Writes `val l` to a destination in each lane of `m`; an S destination takes the lowest lane's value (R125). -/
def putD (g : Gang) (sd : Bool) (code : BitVec 8) (w : Nat) (m : Mask) (val : Nat → Nat) : Gang :=
  if sd then
    match lanes m with
    | [] => g
    | l :: _ => wsw g code.toNat w (val l)
  else (lanes m).foldl (fun h l => wvw h code.toNat l w (val l)) g

/-- Writes a predicate in each lane of `m`. -/
def putP (g : Gang) (n : Nat) (m : Mask) (val : Nat → Bool) : Gang :=
  (lanes m).foldl (fun h l => wp h n l (val l)) g

/-- The physical core of a logical core (R55), its cluster and its die (R29, R405). -/
def physOf (s : State) (core : Nat) : Nat := s.deal.getD core 0
def clusterOf (s : State) (core : Nat) : Nat := physOf s core / 4
def dieOf (s : State) (core : Nat) : Nat := physOf s core / 16

/-- A logical core in service (R55, R56, R73). -/
def coreUp (s : State) (core : Nat) : Bool :=
  decide (core < s.deal.length) && s.mg.dieTrained.getLsbD (dieOf s core) && !s.mg.dieFail.getLsbD (dieOf s core) &&
    !s.outOfService.contains core && !s.mg.tripped

/-- An accepted feature (R51, R53). -/
def feature (s : State) (b : Nat) : Bool := s.mg.featAcc0.getLsbD b

/-- A count register of R75: key 16·c + n for core counters, 0x10000 + 64·d + n for die counters. -/
def ctrAt (s : State) (k : Nat) : Ctr := Map.getD s.ctrs k { evsel := 0, count := 0 }
def putCtr (s : State) (k : Nat) (c : Ctr) : State :=
  { s with ctrs := Map.setD s.ctrs k c { evsel := 0, count := 0 } }

/-- Adds `n` to one counter: a wrap sets OVF (R75). -/
def bumpCtr (s : State) (k n : Nat) : State :=
  let c := ctrAt s k
  let t := c.count.toNat + n
  putCtr s k { evsel := if t < 2 ^ 64 then c.evsel else c.evsel ||| 0x40000000, count := BitVec.ofNat 64 t }

/-- The listed counters from key `lo` to `hi` that count `code` for quadrant `q` (R75, R76). -/
def bumpRange (s : State) (lo hi code n : Nat) (q : Option Nat) : State :=
  let hit := s.ctrs.filter (fun e => decide (lo ≤ e.1 ∧ e.1 < hi) && e.2.evsel.getLsbD 31 &&
    (e.2.evsel.extractLsb' 0 10).toNat == code &&
    (match q with
     | none => true
     | some q => e.2.evsel.extractLsb' 26 4 == 0 || e.2.evsel.getLsbD (26 + q)))
  if n = 0 then s else hit.foldl (fun t e => bumpCtr t e.1 n) s

/-- A core event (R76). -/
def bumpCore (s : State) (core q code n : Nat) : State := bumpRange s (16 * core) (16 * core + 16) code n (some q)
/-- A die counts the events of its own kind: below 0x130 those of a compute die, from there on those of an I/O die (R75, R76). -/
def dieCounts (die code : Nat) : Bool := code == 0x100 || decide (die < 8 ∧ code < 0x130) || decide (die = 8 ∨ die = 9) && decide (0x130 ≤ code)

/-- A die event (R76). -/
def bumpDie (s : State) (die code n : Nat) : State :=
  if dieCounts die code then bumpRange s (0x10000 + 64 * die) (0x10000 + 64 * die + 64) code n none else s

/-- The quadrant of a gang (R82). -/
def quadOf (s : State) (gk : Nat) : Nat := ((gangAt s gk).no + (crewAt s (gangAt s gk).crew).no) % 4

/-- Signals an MSI-X vector (R48): the number of times each has been signalled. -/
def signal (s : State) (v : Nat) : State :=
  onMg s (fun m => { m with msix := Map.put m.msix v (Map.getD m.msix v 0 + 1) })

/-- The next free value (log entry on free values): advances the counter the opaque constants are applied to. -/
def useFree (s : State) : State := { s with free := s.free + 1 }

/-- Entries of a map whose key lies from `lo` below `hi`. -/
def inRange {α : Type} (m : Map α) (lo hi : Nat) : Map α := m.filter (fun e => decide (lo ≤ e.1 ∧ e.1 < hi))
def pathsOfGang (s : State) (gk : Nat) : Map Path := s.paths.filter (fun e => e.2.gang == gk)
def gangsOfCrew (s : State) (ck : Nat) : Map Gang := s.gangs.filter (fun e => e.2.crew == ck)

/-- Insertion by a strict order on keys: `x` before the first element it precedes. -/
def insertBy {α : Type} (lt : α → α → Bool) (x : α) : List α → List α
  | [] => [x]
  | y :: ys => if lt x y then x :: y :: ys else y :: insertBy lt x ys
/-- Stable insertion sort. -/
def sortBy {α : Type} (lt : α → α → Bool) (xs : List α) : List α := xs.foldl (fun a x => insertBy lt x a) []
/-- The first of the least elements. -/
def leastBy {α : Type} (lt : α → α → Bool) (xs : List α) : Option α := (sortBy lt xs).head?
/-- The distinct elements, first occurrence kept. -/
def nubN : List Nat → List Nat
  | [] => []
  | x :: xs => x :: (nubN xs).filter (· != x)

/-- R84: oldest by stamp, then by lowest path-table index. -/
def older (a b : Nat × Path) : Bool := decide (a.2.stamp < b.2.stamp) || (a.2.stamp == b.2.stamp && decide (a.1 < b.1))

end Sys2Proof.Machine
end

