-- ==== Sys2Proof/Machine/Memory.lean ====
section
/-! DEFINITION. Object addresses, the object table, translation, the check of R151, and the reads and writes of bytes of
the Plain, of device memory and of host memory. -/

namespace Sys2Proof.Machine

/-- Identifier and offset of an object address (R144). -/
def oidOf (a : Nat) : Nat := a / 2 ^ 40 % 2 ^ 24
def offOf (a : Nat) : Nat := a % 2 ^ 40
def addrOf (oid off : Nat) : Nat := 2 ^ 40 * oid + off
def aliasId : Nat := 0xFFFFFE
def plainId : Nat := 0xFFFFFF

inductive AccKind where
  | read | write | atomic | fetch
  deriving DecidableEq, Repr

/-- Who uses an object, for the admission table of R148. -/
inductive Use where
  | lane | targets | fetch | engine | window | stream | host
  deriving DecidableEq, Repr

/-- The agent of an access: its crew (for the alias), the holder of its translations, its gang slot, its mode, whether watchpoints are
suppressed (R106), and the lane, or for a fetch the number of the path, that chooses its translation for itself (R153). -/
structure Who where
  crew : Option Nat
  core : Nat
  slot : Nat
  sup : Bool
  use : Use
  noWatch : Bool
  run : Nat
  lane : Nat := 0
  deriving DecidableEq, Repr

/-- Where a byte lies. `none` is a page that nothing maps. -/
inductive Loc where
  | plain (o : Nat) | dev (x : Nat) | host (x : Nat) | none
  deriving DecidableEq, Repr

/-- The location of byte `i` of an access of up to 16 bytes, which never crosses a page (natural alignment). -/
def Loc.plus (l : Loc) (i : Nat) : Loc :=
  match l with
  | .plain o => .plain (o + i)
  | .dev x => .dev (x + i)
  | .host x => .host (x + i)
  | .none => .none

/-- The key of a byte in `rels`. -/
def relKey : Loc → Nat
  | .plain o => 4 * o
  | .dev x => 4 * x + 1
  | .host x => 4 * x + 2
  | .none => 3

/-- Writes to `n` bytes from a location on that are neither atomics nor releases belong to no release sequence (R244). -/
def dropRels (s : State) (l : Loc) (n : Nat) : State :=
  if s.rels.isEmpty then s
  else { s with rels := (List.range n).foldl (fun m i => Map.adjust m (relKey (l.plus i)) (fun r => { r with now := [] })) s.rels }

/-- A write that is neither an atomic nor a release belongs to no release sequence (R244). -/
def dropRel (s : State) (l : Loc) : State :=
  if s.rels.isEmpty then s else { s with rels := Map.adjust s.rels (relKey l) (fun r => { r with now := [] }) }

/-- The keys of the bytes of an access. -/
def relKeys (l : Loc) (peer : Option Nat) (k : Nat) : List Nat :=
  (List.range k).map (fun i => match peer with
    | some a => 4 * (a + i) + 3
    | none => relKey (l.plus i))

def relAt (s : State) (key : Nat) : Rel := Map.getD s.rels key { heads := [], now := [] }

/-- What a write does to the release sequences of its bytes: `h` is set where it is a release write. -/
def relWrite (s : State) (keys : List Nat) (h : Option Head) (atomic : Bool) : State :=
  { s with rels := keys.foldl (fun m k =>
      let r := Map.getD m k ({ heads := [], now := [] } : Rel)
      let hs := addTo r.heads h.toList
      Map.setD m k { heads := hs, now := if atomic then hs else h.toList } { heads := [], now := [] }) s.rels }

/-- `n` bytes from `a` on of the part of a byte store whose keys are `a` or more. -/
def bytesFrom : Map Byte → Nat → Nat → List Byte
  | _, _, 0 => []
  | [], _, n + 1 => List.replicate (n + 1) Config.emptyByte
  | (j, b) :: m, a, n + 1 => if j = a then b :: bytesFrom m (a + 1) n else Config.emptyByte :: bytesFrom ((j, b) :: m) (a + 1) n

/-- `n` bytes of a byte store. -/
def mapBytes (m : Map Byte) (a n : Nat) : List Byte := bytesFrom (m.dropWhile (fun e => decide (e.1 < a))) a n

/-- `n` bytes of a byte store as a little-endian number. -/
def mapNat (m : Map Byte) (a n : Nat) : Nat := leNat (mapBytes m a n)

/-- The canonical form of a byte store: keys strictly rising, no entry equal to what an unlisted address reads as. -/
def Memory.wf (m : Map Byte) : Bool := Map.wfD Config.emptyByte m

/-- Writes bytes from `a` on. -/
def mapPut (m : Map Byte) (a : Nat) : List Byte → Map Byte
  | [] => m
  | b :: bs => mapPut (Map.setD m a b Config.emptyByte) (a + 1) bs

def memNat (s : State) (a n : Nat) : Nat := mapNat s.mem a n
/-- The part's own writes of device memory and of the Plain. -/
def memPut (s : State) (a : Nat) (bs : List Byte) : State :=
  dropRels { s with mem := mapPut s.mem a bs } (.dev a) bs.length
def plainNat (s : State) (a n : Nat) : Nat := mapNat s.plain a n
def plainPut (s : State) (a : Nat) (bs : List Byte) : State :=
  dropRels { s with plain := mapPut s.plain a bs } (.plain a) bs.length

/-- Alias offset to Plain offset (R405). -/
def aliasToPlain (s : State) (ck b : Nat) : Nat :=
  (ck / 16) * 0x400000 + (crewAt s ck).gran.getD (b / 65536) 0 * 65536 + b % 65536

/-- The canonical form of an address: an alias address as its Plain address (R145, R162). -/
def canon (s : State) (w : Who) (a : Nat) : Nat :=
  if oidOf a = aliasId then
    match w.crew with
    | some ck => addrOf plainId (aliasToPlain s ck (offOf a))
    | none => a
  else a

/-- R145. -/
def inScratch (s : State) (w : Who) (a k : Nat) : Bool :=
  if oidOf a = aliasId then
    match w.crew with
    | some ck => decide (offOf a + k ≤ (crewAt s ck).gran.length * 65536)
    | none => false
  else
    decide (offOf a + k ≤ 0x20000000 ∧ offOf a % 0x400000 + k ≤ 0x300000) && coreUp s (offOf a / 0x400000)

/-- A frame that exists (R30). -/
def frameOk (f : Nat) : Bool := decide (f < 2 ^ 23 ∧ f % 2 ^ 20 < Config.framesPerDie)
/-- Device physical address of an entry of the object table (R147). -/
def entryAddr (s : State) (oid : Nat) : Nat := s.mg.objtBase * 65536 + 64 * oid

/-- R146 and the reserved values of R150 at one entry. Identifier 1 is synthesised (R147). -/
def entryOf (s : State) (oid : Nat) : ObjEnt :=
  if oid = 1 then
    { ObjEnt.blank with size := 64 * s.mg.objtCnt, kind := 1, perm := 0xB, ok := decide (1 < s.mg.objtCnt) }
  else if oid = 0 ∨ s.mg.objtCnt ≤ oid then ObjEnt.blank
  else
    let bs := mapBytes s.mem (entryAddr s oid) 64
    let n := fun o k => leNat ((bs.drop o).take k)
    let e : ObjEnt :=
      { size := n 0 8, kind := n 8 1, perm := n 9 1, home := n 10 1, flags := n 11 1, ctab := n 12 4, peer := n 16 4,
        rid := n 20 4, extptr := n 24 8, next := n 32 4, extcap := n 36 4, dirtyptr := n 40 8, link := n 48 4, ok := false }
    { e with ok :=
        decide (e.size ≤ 2 ^ 40 ∧ 1 ≤ e.kind ∧ e.kind ≤ 6 ∧ e.perm < 16 ∧ e.home ≤ 2 ∧ e.flags < 16 ∧ e.ctab < 2 ^ 24 ∧
          e.peer < 1024 ∧ e.rid < 2 ^ 24 ∧ e.extptr % 16 = 0 ∧ e.next ≤ e.extcap ∧ e.dirtyptr % 8 = 0 ∧ n 52 12 = 0) &&
        (!(e.flags % 2 == 1) || e.kind == 5) && (e.kind != 2 || feature s 0) &&
        (e.home != 2 ||
          (feature s 6 && decide (e.next = 0 ∧ e.extcap = 0 ∧ e.extptr = 0 ∧ e.dirtyptr = 0) &&
            !(e.rid == 1 || e.rid == aliasId || e.rid == plainId) && e.peer != s.mg.fabricNo)) }

def putEntry (s : State) (oid off : Nat) (bs : List Byte) : State := memPut s (entryAddr s oid + off) bs

/-- An extent record (R149): first page, pages, target, and whether it breaks R149. The bits of TARGET are held to R149
whether or not RES is set (DESIGN CHOICE, log entry 39). -/
structure Ext where
  first : Nat
  n : Nat
  target : Nat
  ok : Bool
  deriving DecidableEq, Repr

def extAt (s : State) (e : ObjEnt) (i lo : Nat) : Ext :=
  let bs := mapBytes s.mem (e.extptr + 16 * i) 16
  let f := leNat (bs.take 4)
  let n := leNat ((bs.drop 4).take 4)
  let t := leNat (bs.drop 8)
  { first := f, n := n, target := t,
    ok := decide (lo ≤ f ∧ f + n ≤ 2 ^ 24 ∧ 1 ≤ n ∧ bitsN t 48 15 = 0) &&
      (e.home != 0 || (decide (bitsN t 23 25 = 0) && frameOk (t % 2 ^ 23) && frameOk (t % 2 ^ 23 + n - 1) &&
        (t % 2 ^ 23 / 2 ^ 20 == (t % 2 ^ 23 + n - 1) / 2 ^ 20))) }

/-- Another resident extent, of this object or another, names a frame of extent `i` of a device-homed object (R149, R150). -/
def frameShared (s : State) (oid i : Nat) (x : Ext) : Bool :=
  x.target.testBit 63 && (List.range s.mg.objtCnt).any (fun j =>
    let e := entryOf s j
    decide (2 ≤ j) && e.ok && e.home == 0 && (List.range e.next).any (fun k =>
      let y := extAt s e k 0
      (j != oid || k != i) && y.target.testBit 63 &&
        decide (x.target % 2 ^ 23 < y.target % 2 ^ 23 + y.n ∧ y.target % 2 ^ 23 < x.target % 2 ^ 23 + x.n)))

/-- Extent `i` of an object keeps R149. -/
def extFine (s : State) (oid : Nat) (e : ObjEnt) (i : Nat) (x : Ext) : Bool := x.ok && (e.home != 0 || !frameShared s oid i x)

/-- The page's target: `none` where an extent met breaks R149, `some none` where the page is non-resident. -/
def walkExt (s : State) (oid : Nat) (e : ObjEnt) (page : Nat) : Nat → Nat → Nat → Option (Option Nat)
  | 0, _, _ => some none
  | k + 1, i, lo =>
    let x := extAt s e i lo
    if !extFine s oid e i x then none
    else if page < x.first then some none
    else if page < x.first + x.n then
      if x.target.testBit 63 then some (some (x.target % 2 ^ 48 + (page - x.first))) else some none
    else walkExt s oid e page k (i + 1) (x.first + x.n)

def pageTarget (s : State) (oid : Nat) (e : ObjEnt) (page : Nat) : Option (Option Nat) :=
  if oid = 1 then if frameOk (s.mg.objtBase + page) then some (some (s.mg.objtBase + page)) else none
  else walkExt s oid e page e.next 0 0

/-- A cached entry that the features accepted now still admit (R53): a GRAPH object or a peer's takes its feature. -/
def stillFine (s : State) (e : ObjEnt) : Bool := (e.kind != 2 || feature s 0) && (e.home != 2 || feature s 6)

/-- The translations of a page that the caches of an agent's core and die hold (R153). -/
def cachedFor (s : State) (w : Who) (oid page : Nat) : List (ObjEnt × Option (Option Nat)) :=
  (s.xlats.filter (fun x => dieOf s x.holder == dieOf s w.core && x.oid == oid && x.page == page && stillFine s x.ent)).map
    (fun x => (x.ent, some x.target))

/-- An object entry and a page's target as an access uses them: the tables as they stand, or a translation that a cache of the
agent's die holds and no shoot-down has removed, for each lane of an instruction and each page of an engine operation independently
(R153). -/
def lookup (s : State) (w : Who) (oid page : Nat) : ObjEnt × Option (Option Nat) :=
  let e := entryOf s oid
  let t := pageTarget s oid e page
  match (cachedFor s w oid page).filter (fun x => x != (e, t)) with
  | [] => (e, t)
  | x :: xs => (((e, t) :: x :: xs)[Config.useOld s.tick ((oid * 2 ^ 24 + page) * 64 + w.lane) % (xs.length + 2)]?).getD (e, t)

/-- The bounce frame that stands for a page (R159): a frame number past every real frame. -/
def bounceOf (s : State) (oid page : Nat) : Option Nat := Map.find? s.bounce (oid * 2 ^ 24 + page)

/-- The location of a byte that passed its check. A page under an extent that breaks R149 has none, like a non-resident one, which an
operation of an engine or of the part may meet after its issue (DESIGN CHOICE, log entry 28). -/
def locate (s : State) (w : Who) (a : Nat) : Loc :=
  let c := canon s w a
  let oid := oidOf c
  let off := offOf c
  if oid = plainId then .plain off
  else match bounceOf s oid (off / 65536) with
    | some f => .dev (f * 65536 + off % 65536)
    | none =>
      match lookup s w oid (off / 65536) with
      | (e, some (some t)) => if e.home = 1 then .host (t * 65536 + off % 65536) else .dev (t * 65536 + off % 65536)
      | _ => .none

def readByte (s : State) : Loc → Byte
  | .plain o => Map.getD s.plain o Config.emptyByte
  | .dev x => Map.getD s.mem x Config.emptyByte
  | .host x => Map.getD s.hostMem x Config.emptyByte
  | .none => 0

def setByte (s : State) (b : Byte) : Loc → State
  | .plain o => { s with plain := Map.setD s.plain o b Config.emptyByte }
  | .dev x => { s with mem := Map.setD s.mem x b Config.emptyByte }
  | .host x => { s with hostMem := Map.setD s.hostMem x b Config.emptyByte }
  | .none => s

def writeByte (s : State) (b : Byte) (l : Loc) : State := dropRel (setByte s b l) l

def poisonedAt (s : State) : Loc → Bool
  | .plain o => Map.getD s.plainPoison (o / 64) false
  | .dev x => Map.getD s.poison (x / 64) false
  | _ => false

def setPoison (s : State) (b : Bool) : Loc → State
  | .plain o => { s with plainPoison := Map.setD s.plainPoison (o / 64) b false }
  | .dev x => { s with poison := Map.setD s.poison (x / 64) b false }
  | _ => s

/-- The ports a peer's accesses may take (R42, R43). -/
def livePorts (s : State) (peer : Nat) : List Nat :=
  (Map.getD s.mg.routes peer []).filter (fun p => match Map.find? s.zports p with
    | some z => z.up
    | none => false)

/-- The port that slot `i` of a peer's route stands on: the one its last access took while that is live, else the first live one of
the route from place `i` (R42). -/
def slotPort (s : State) (peer i : Nat) : Option Nat :=
  let ps := Map.getD s.mg.routes peer []
  let live := livePorts s peer
  match ((Map.getD s.mg.spread peer [])[i]?).filter (live.contains ·) with
  | some p => some p
  | none => (ps.drop i ++ ps.take i).find? (live.contains ·)

/-- R42: the port of an address, by a hash of its 64-byte line over the slots of the route. -/
def portOf (s : State) (peer a : Nat) : Option Nat :=
  slotPort s peer (Config.routeHash (BitVec.ofNat 64 (a / 64)) % (Map.getD s.mg.routes peer []).length)

/-- Notes that slot's port when an access of an address takes it: a line stays on it while it stays live (R42). -/
def noteSpread (s : State) (peer a port : Nat) : State :=
  let n := (Map.getD s.mg.routes peer []).length
  let old := Map.getD s.mg.spread peer []
  let i := Config.routeHash (BitVec.ofNat 64 (a / 64)) % n
  onMg s (fun m => { m with spread := Map.put m.spread peer ((List.range n).map (fun j => if j = i then port else old.getD j 64)) })

/-- R148: 0 no, 1 yes, 2 PROTECT. -/
def admits (kind : Nat) (u : Use) (k : AccKind) : Nat :=
  match u with
  | .host => if kind = 2 ∧ k ≠ .read then 0 else 1
  | .fetch => if kind = 4 then 1 else 0
  | .targets => if kind = 6 then 1 else 0
  | .engine => if kind = 1 then 1 else 0
  | .window => if kind = 1 ∨ kind = 3 then 1 else 0
  | .stream => if kind = 5 then 1 else 0
  | .lane =>
    match kind with
    | 1 => 1
    | 6 => 1
    | 3 => if k = .atomic then 0 else 1
    | 4 => if k = .read then 1 else 2
    | 5 => if k = .read then 1 else 2
    | _ => 0

/-- R148: a read or fetch needs R or X, a store W, an atomic both; SUP objects need supervisor mode. -/
def permits (perm : Nat) (k : AccKind) (sup : Bool) : Bool :=
  (match k with
   | .read => perm.testBit 0
   | .write => perm.testBit 1
   | .atomic => perm.testBit 0 && perm.testBit 1
   | .fetch => perm.testBit 2) && (sup || !perm.testBit 3)

/-- Watchpoints whose range a lane access of a matching kind overlaps (R106). -/
def watchHits (s : State) (w : Who) (a k : Nat) (kind : AccKind) : List Nat :=
  if (w.use ≠ .lane ∧ w.use ≠ .targets) ∨ w.noWatch then []
  else (List.range 4).filter (fun n =>
    let c := Map.getD s.mg.watchCtl n 0
    let sz := 2 ^ (c.extractLsb' 6 5).toNat
    let b := (Map.getD s.mg.watchAddr n 0).toNat / sz * sz
    let meets := fun x => decide (x < b + sz ∧ b < x + k)
    c.getLsbD 31 && (meets a || meets (canon s w a)) &&
      (match kind with
       | .read => c.getLsbD 30
       | .write => c.getLsbD 29
       | .atomic => c.getLsbD 30 || c.getLsbD 29
       | .fetch => false) &&
      (!c.getLsbD 28 || ((c.extractLsb' 16 8).toNat == w.core && (c.extractLsb' 0 6).toNat == w.slot)))

/-- R163: an access overlaps a registered line. Continuation pieces of an alias range carry their identifier plus 2^24. -/
def lockedBy (s : State) (c k : Nat) : Bool :=
  s.locks.any (fun x => x.oid % 2 ^ 24 == oidOf c && decide (x.lo ≤ (offOf c + k - 1) / 64 ∧ offOf c / 64 ≤ x.hi))

/-- The binding of a window (R200), by identifier. -/
def bindOf (s : State) (oid : Nat) : Option Binding := Map.find? s.binds oid

/-- R151. Answers the first failing check. -/
def check (s : State) (w : Who) (a k : Nat) (kind : AccKind) : Option TrapCode :=
  let id := oidOf a
  let off := offOf a
  let lane := w.use = .lane ∨ w.use = .targets
  if id = 0 then some .objectInvalid
  else if id = aliasId ∨ id = plainId then
    if kind = .fetch then some .protect
    else if w.use = .targets then some .objectInvalid
    else if off % k ≠ 0 then some .align
    else if !inScratch s w a k then some .bounds
    else if watchHits s w a k kind ≠ [] then some .watch
    else if lane ∧ lockedBy s (canon s w a) k then some .rangeLocked
    else if lane ∧ poisonedAt s (locate s w a) then some .poison
    else none
  else
    let (e, t) := lookup s w id (off / 65536)
    let t := match bounceOf s id (off / 65536) with
      | some f => some (some f)
      | none => t
    let adm := admits e.kind w.use kind
    if !e.ok then some .objectInvalid
    else if adm = 0 then some .objectInvalid
    else if e.kind = 3 ∧ bindOf s id = none ∧ (w.use = .lane ∨ w.use = .window) then some .objectInvalid
    else if adm = 2 then some .protect
    else if !permits e.perm kind w.sup then some .protect
    else if off % k ≠ 0 then some .align
    else if e.kind = 3 ∧ w.use = .lane ∧ (bindOf s id).any (fun b => k ≠ b.esize) then some .align
    else if e.size < off + k then some .bounds
    else if watchHits s w a k kind ≠ [] then some .watch
    else if lane ∧ lockedBy s a k then some .rangeLocked
    else if e.kind = 3 ∧ w.use = .lane ∧ kind = .read ∧ (bindOf s id).any (fun b => b.lost.contains (off / 64)) then
      some .remoteLost
    else if e.home = 2 then
      if livePorts s e.peer = [] then some .remoteLost else none
    else match t with
      | none => some .objectInvalid
      | some none => if e.home = 0 then some .firstTouch else some .pageHost
      | some (some _) => if (lane ∨ w.use = .fetch) ∧ poisonedAt s (locate s w a) then some .poison else none

/-- How far from a core a Plain offset lies: 0 its own slice, 1 its cluster, 2 its die, 3 another die (R193). -/
def plainFar (s : State) (core o : Nat) : Nat :=
  let at' := o / 0x400000
  if at' = core then 0
  else if clusterOf s at' = clusterOf s core then 1
  else if dieOf s at' = dieOf s core then 2
  else 3

/-- Records a lane access to the Plain in its counters (R76), the translation an access used and, for a write, the page's dirty
state of the agent's own entry (R153, R154). A translation that another core of the die has taken is no miss of the die's cache. The
host and a peer count on the die of their agent's core number, 1008, which is CD0 (DESIGN CHOICE, log entry 25). -/
def touch (s : State) (w : Who) (a : Nat) (write : Bool) : State :=
  let id := oidOf a
  let page := offOf a / 65536
  if id = aliasId ∨ id = plainId then
    if w.use = .lane then bumpCore s w.core (quadOf s (64 * w.core + w.slot)) (0x022 + plainFar s w.core (offOf (canon s w a))) 1 else s
  else if id = 1 then s
  else
    let s := if s.xlats.any (fun x => x.holder == w.core && x.oid == id && x.page == page) then s
      else match lookup s w id page with
        | (e, some t) =>
          let known := s.xlats.any (fun x => dieOf s x.holder == dieOf s w.core && x.oid == id && x.page == page)
          bumpDie { s with xlats := s.xlats ++ [{ holder := w.core, oid := id, page := page, ent := e, target := t }] }
            (dieOf s w.core) 0x120 (if known then 0 else 1)
        | _ => s
    if write ∧ !s.dirty.any (fun d => d.holder == w.core && d.oid == id && d.page == page) then
      { s with dirty := s.dirty ++ [{ holder := w.core, oid := id, page := page, run := w.run }] }
    else s

/-- `n` bytes at an address that passed its check. -/
def loadBytes (s : State) (w : Who) (a : Nat) : Nat → List Byte
  | 0 => []
  | n + 1 => readByte s (locate s w a) :: loadBytes s w (a + 1) n

def storeBytes (s : State) (w : Who) (a : Nat) : List Byte → State
  | [] => s
  | b :: bs => storeBytes (writeByte s b (locate s w a)) w (a + 1) bs

def loadLoc (s : State) (l : Loc) : Nat → Nat
  | 0 => 0
  | n + 1 => (readByte s l).toNat + 256 * loadLoc s (l.plus 1) n

def storeLoc (s : State) (l : Loc) : List Byte → State
  | [] => s
  | b :: bs => storeLoc (writeByte s b l) (l.plus 1) bs

/-- Whether any sector of a range is poisoned. -/
def rangePoisoned (s : State) (w : Who) (a n : Nat) : Bool :=
  (List.range (cdiv (a % 64 + n) 64)).any (fun i => poisonedAt s (locate s w (if i = 0 then a else a / 64 * 64 + 64 * i)))

/-- The object-table flags POIS, RPEND and MIGR (R146). -/
def setObjFlag (s : State) (oid bit : Nat) (b : Bool) : State :=
  let f := memNat s (entryAddr s oid + 11) 1
  putEntry s oid 11 [BitVec.ofNat 8 (if b then f ||| 2 ^ bit else f &&& (255 - 2 ^ bit))]

/-- Marks the sector of a location poisoned and, for a named object, sets POIS. -/
def poisonByte (s : State) (w : Who) (a : Nat) : State :=
  let s := setPoison s true (locate s w a)
  if oidOf a = aliasId ∨ oidOf a = plainId ∨ oidOf a ≤ 1 then s else setObjFlag s (oidOf a) 1 true

/-- Runs of frames that are not free although no operation of the pool took them: the object table's (R147), those that
resident extents of the table name, and those that hold extent lists and dirty bitmaps. -/
def mappedRuns (s : State) : List (Nat × Nat) :=
  let span := fun (a n : Nat) => if n = 0 then [] else [(a / 65536, (a + n - 1) / 65536 - a / 65536 + 1)]
  span (s.mg.objtBase * 65536) (64 * s.mg.objtCnt) ++ (List.range s.mg.objtCnt).flatMap (fun i =>
    let e := entryOf s i
    if i < 2 ∨ !e.ok then []
    else
      span e.extptr (16 * e.extcap) ++ (if e.dirtyptr = 0 then [] else span e.dirtyptr (cdiv e.size 524288)) ++
        (if e.home ≠ 0 then []
         else (List.range e.next).filterMap (fun j =>
           let x := extAt s e j 0
           if x.target.testBit 63 then some (x.target % 2 ^ 23, x.n) else none)))

/-- The lowest frame at or above `f` in none of the runs. -/
def skipRuns (ms : List (Nat × Nat)) : Nat → Nat → Nat
  | 0, f => f
  | k + 1, f => match ms.find? (fun m => decide (m.1 ≤ f ∧ f < m.1 + m.2)) with
    | some m => skipRuns ms k (m.1 + m.2)
    | none => f

/-- Takes one free frame of a die's pool, lowest first. -/
def takeFrame (s : State) (die : Nat) : Option (Nat × State) :=
  let ms := mappedRuns s
  List.findSome? (fun (e : Nat × Nat) =>
    let f := skipRuns ms (ms.length + 1) e.1
    if e.1 / 2 ^ 20 = die ∧ f < e.1 + e.2 then
      let pool := Map.del s.pool e.1
      let pool := if e.1 < f then Map.put pool e.1 (f - e.1) else pool
      let pool := if f + 1 < e.1 + e.2 then Map.put pool (f + 1) (e.1 + e.2 - (f + 1)) else pool
      some (f, { s with pool := pool })
    else none) s.pool

/-- Returns frames `f` to `f + n - 1` to the pool; a frame that stands there already stays once. -/
def giveFrames (s : State) (f n : Nat) : State :=
  let inPool := fun g => s.pool.any (fun e => decide (e.1 ≤ g ∧ g < e.1 + e.2))
  if s.pool.any (fun e => decide (e.1 < f + n ∧ f < e.1 + e.2)) then
    { s with pool := (List.range n).foldl (fun m i => if inPool (f + i) then m else Map.put m (f + i) 1) s.pool }
  else if n = 0 then s else { s with pool := Map.put s.pool f n }

/-- Free frames of a die (R168, FREEFRd). -/
def freeFrames (s : State) (die : Nat) : Nat :=
  let ms := mappedRuns s
  s.pool.foldl (fun a e => if e.1 / 2 ^ 20 = die then
    a + ((List.range e.2).filter (fun i => !ms.any (fun m => decide (m.1 ≤ e.1 + i ∧ e.1 + i < m.1 + m.2)))).length else a) 0

/-- A frame from `die`, otherwise from the lowest-numbered other die with one (R156). -/
def takeFrameNear (s : State) (die : Nat) : Option (Nat × State) :=
  match takeFrame s die with
  | some r => some r
  | none => (List.range 8).findSome? (fun d => takeFrame s d)

/-- Reads and writes one extent record. -/
def putExt (s : State) (e : ObjEnt) (i first n target : Nat) : State :=
  memPut s (e.extptr + 16 * i) (leBytes 4 first ++ leBytes 4 n ++ leBytes 8 target)

/-- Every extent of an object, as the list stands. -/
def extList (s : State) (e : ObjEnt) : List (Nat × Nat × Nat) :=
  (List.range e.next).map (fun i => (memNat s (e.extptr + 16 * i) 4, memNat s (e.extptr + 16 * i + 4) 4,
    memNat s (e.extptr + 16 * i + 8) 8))

/-- Writes an extent list back and its count NEXT. -/
def putExtList (s : State) (oid : Nat) (e : ObjEnt) (xs : List (Nat × Nat × Nat)) : State :=
  let s := (xs.zip (List.range xs.length)).foldl (fun t x => putExt t e x.2 x.1.1 x.1.2.1 x.1.2.2) s
  putEntry s oid 32 (leBytes 4 xs.length)

/-- Two neighbouring resident extents whose frames continue each other become one (R156). -/
def mergeExt : List (Nat × Nat × Nat) → List (Nat × Nat × Nat)
  | [] => []
  | x :: xs =>
    match mergeExt xs with
    | [] => [x]
    | y :: ys =>
      if x.1 + x.2.1 = y.1 ∧ x.2.2.testBit 63 ∧ y.2.2.testBit 63 ∧ x.2.2 + x.2.1 = y.2.2 ∧
          x.2.2 % 2 ^ 23 / 2 ^ 20 = y.2.2 % 2 ^ 23 / 2 ^ 20 then (x.1, x.2.1 + y.2.1, x.2.2) :: ys
      else x :: y :: ys

/-- An extent list with one more page mapped to a target, pieces of a covering non-resident extent kept. -/
def mapPage (xs : List (Nat × Nat × Nat)) (page target : Nat) : List (Nat × Nat × Nat) :=
  let cut := xs.flatMap (fun x =>
    if x.1 ≤ page ∧ page < x.1 + x.2.1 then
      (if x.1 < page then [(x.1, page - x.1, x.2.2)] else []) ++
      (if page + 1 < x.1 + x.2.1 then [(page + 1, x.1 + x.2.1 - page - 1, x.2.2 + (page + 1 - x.1))] else [])
    else [x])
  mergeExt (insertBy (fun a b => decide (a.1 < b.1)) (page, 1, target) cut)

/-- Maps a page of an object to a frame if the list has room (R156). -/
def mapObjPage (s : State) (oid page target : Nat) : Option State :=
  let e := entryOf s oid
  let xs := mapPage (extList s e) page target
  if xs.length ≤ e.extcap then some (putExtList s oid e xs) else none

/-- A frame written whole with zeros: its bytes, its poison and its release sequences are unlisted (R156, R159). -/
def zeroFrame (s : State) (f : Nat) : State :=
  { s with mem := s.mem.filter (fun e => e.1 / 65536 != f), poison := s.poison.filter (fun e => e.1 / 1024 != f),
           rels := s.rels.filter (fun e => e.1 % 4 != 1 || e.1 / 262144 != f) }

/-! ### Reads and writes by engines and by the part itself (R158, R159) -/

/-- The part's own agent: supervisor, unwatched, with the translations of the die that `core` stands on. -/
def deviceWho (core : Nat) : Who :=
  { crew := none, core := core, slot := 0, sup := true, use := .engine, noWatch := true, run := 0 }

/-- A free bounce frame of a die (R159). -/
def freeBounce (s : State) (die : Nat) : Option Nat :=
  (List.range 4096).find? (fun i => !s.bounce.any (fun e => e.2 == 2 ^ 23 + 4096 * die + i)) |>.map (2 ^ 23 + 4096 * die + ·)

/-- A page that an engine write reaches has somewhere to go: resident, in the Plain, or a bounce frame it takes now, of the die its
agent's core stands on, for the host and a peer CD0 (DESIGN CHOICE, log entry 28). A page under an extent that breaks R149 counts as
non-resident here, as for an engine read (DESIGN CHOICE, log entry 28). `none` when it must stall for a bounce frame. -/
def engPage (s : State) (w : Who) (a : Nat) : Option State :=
  match locate s w a with
  | .none =>
    match freeBounce s (dieOf s w.core) with
    | some f => some { zeroFrame s f with bounce := Map.put s.bounce (oidOf a * 2 ^ 24 + offOf a / 65536) f }
    | none => none
  | _ => some s

/-- Every page of a range (R159). -/
def engPages (s : State) (w : Who) (a n : Nat) : Option State :=
  if n = 0 then some s
  else (List.range ((a + n - 1) / 65536 - a / 65536 + 1)).foldlM
    (fun t i => engPage t w (if i = 0 then a else a / 65536 * 65536 + 65536 * i)) s

/-- A range every page of which has somewhere to go is written; a sector it covers whole loses its poison (R151). -/
def engStore (s : State) (w : Who) (a : Nat) (bs : List Byte) : State :=
  let s := storeBytes s w a bs
  let s := (List.range (bs.length / 65536 + 2)).foldl (fun t i =>
    if a / 65536 * 65536 + 65536 * i < a + bs.length then touch t w (max a (a / 65536 * 65536 + 65536 * i)) true else t) s
  (List.range (bs.length / 64)).foldl (fun t i =>
    let b := cdiv a 64 * 64 + 64 * i
    if b + 64 ≤ a + bs.length then setPoison t false (locate t w b) else t) s

/-- A range that lies at a peer: its entry. -/
def peerHome (s : State) (w : Who) (a : Nat) : Option ObjEnt :=
  let id := oidOf a
  if id = aliasId ∨ id = plainId then none
  else
    let e := (lookup s w id (offOf a / 65536)).1
    if e.ok ∧ e.home = 2 then some e else none

def objNat (s : State) (w : Who) (a n : Nat) : Nat := leNat (loadBytes s w a n)

end Sys2Proof.Machine
end

