-- ==== Sys2Proof/Machine/Operands.lean ====
section
/-! DEFINITION. Operand forms: for every instruction, which registers its fields name and of which class, and every test
of rows 2 to 8 of R269 that depends on the word alone (R22, R23, R258 to R265, R267 and the field tables of the
instruction chapters). -/

namespace Sys2Proof.Machine

/-- What a register field names. `vs` takes its class from the field's S flag, the number is how many registers. -/
inductive Opnd where
  | no | vs (w : Nat) | v (w : Nat) | s (w : Nat) | v4 | v8 | v16 | v3 | p | pin | t
  deriving DecidableEq, Repr

/-- The registers a field names, whether the field is legal, and the codes that must be even (R127). -/
structure Named where
  ok : Bool
  vr : List Nat
  sr : List Nat
  even : List Nat
  tr : List Nat
  pr : List Nat
  deriving DecidableEq, Repr

/-- What rows 2 to 8 of R269 ask of an instruction. `cls` 6 is "any" (R267); `feats` are bits of FEATURES0; `dv`, `ds`,
`dp` are the V, S and P registers it writes. -/
structure Shape where
  guard : Guard
  cls : Nat
  xfer : Bool
  slot0 : Bool
  gw : Bool
  sup : Bool
  feats : List Nat
  ok : Bool
  vr : List Nat
  sr : List Nat
  tr : List Nat
  ar : List Nat
  even : List Nat
  wS : Bool
  dv : List Nat
  ds : List Nat
  dp : List Nat
  deriving DecidableEq, Repr

def Named.none : Named := { ok := true, vr := [], sr := [], even := [], tr := [], pr := [] }
def Named.bad : Named := { Named.none with ok := false }

/-- `w` registers from `n`: a pair names the even register and its odd partner (R127). -/
def regSpan (n w : Nat) : List Nat := if w = 2 then [n, n ||| 1] else [n]

def Named.ofV (n w : Nat) : Named := { Named.none with vr := regSpan n w, even := if w = 2 then [n] else [] }
def Named.ofS (n w : Nat) : Named :=
  { Named.none with ok := decide (n < 64), sr := regSpan n w, even := if w = 2 then [n] else [] }

/-- R265: the class of a field's code, from the operand kind and the field's S flag. -/
def opnd (o : Opnd) (code : BitVec 8) (flag : Bool) : Named :=
  let n := code.toNat
  match o with
  | .no => if n = 0 && !flag then Named.none else Named.bad
  | .vs w => if flag then Named.ofS n w else Named.ofV n w
  | .v w => if flag then Named.bad else Named.ofV n w
  | .s w => if flag then Named.ofS n w else Named.bad
  | .v4 => { Named.none with ok := !flag && n % 4 == 0, vr := [n, n + 1, n + 2, n + 3] }
  | .v8 => { Named.none with ok := !flag && n % 8 == 0, vr := [n + 7] }
  | .v16 => { Named.none with ok := !flag, vr := [n + 15] }
  | .v3 => { Named.none with ok := !flag, vr := [n + 2] }
  | .p => { Named.none with ok := !flag && decide (n < 12), pr := [n] }
  | .pin => { Named.none with ok := !flag && decide (n < 8) }
  | .t => { Named.none with ok := !flag && decide (n < 8), tr := [n] }

def Opnd.isReg : Opnd → Bool
  | .vs _ => true
  | .v _ => true
  | .s _ => true
  | _ => false

/-- A shape from its parts: `dst` is what the instruction writes, `src` what it reads. -/
def mkShape (g : Guard) (cls : Nat) (feats : List Nat) (ok : Bool) (dst src : List Named) : Shape :=
  let all := dst ++ src
  { guard := g, cls := cls, xfer := false, slot0 := false, gw := false, sup := false, feats := feats,
    ok := ok && all.all (·.ok), vr := all.flatMap (·.vr), sr := all.flatMap (·.sr), tr := all.flatMap (·.tr), ar := [],
    even := all.flatMap (·.even), wS := dst.any (fun n => !n.sr.isEmpty), dv := dst.flatMap (·.vr),
    ds := dst.flatMap (·.sr), dp := dst.flatMap (·.pr) }

/-- Registers of a value of an integer-set type (R283). -/
def iw (t : BitVec 4) : Nat := if t.toNat = 2 ∨ t.toNat = 3 then 2 else 1
/-- Registers of a value of a float-set type (R300). -/
def fw (t : BitVec 4) : Nat := if t.toNat = 1 then 2 else 1
/-- Registers of a value of a conversion-set type (R299). -/
def cw (t : Nat) : Nat := if t = 1 ∨ t = 10 ∨ t = 11 then 2 else 1
/-- narrow4 for .i4 and .n4 of the integer set (R51, R267). -/
def n4i (t : BitVec 4) : List Nat := if t.toNat = 8 ∨ t.toNat = 9 then [2] else []
/-- narrow4 for .f4 and .i4 of the conversion set (R267). -/
def n4c (t : Nat) : List Nat := if t = 6 ∨ t = 7 then [2] else []

/-- How an RRR opcode uses its fields (R258, R269 row 5). `func` judges FUNC without the RSR bit when `rsr` admits it. -/
structure RUse where
  cls : Nat := 0
  feats : List Nat := []
  d : Opnd := .no
  a : Opnd := .no
  b : Opnd := .no
  c : Opnd := .no
  types : List Nat := [0]
  rnd : Bool := false
  sat : Bool := false
  rsr : Bool := false
  func : Bool := true
  dsrc : Bool := false
  deriving DecidableEq, Repr

/-- SD is admitted only when every register source is an S register (R258). -/
def sdOk (f : RRR) (u : RUse) : Bool :=
  !f.sd || ((!u.a.isReg || f.sa) && (!u.b.isReg || f.sb) && (!u.c.isReg || f.sc))

/-- RSR is FUNC bit 4 where an entry admits it, with RND 0 (R258, R301). -/
def rsrBit (f : RRR) : Bool := f.func.getLsbD 4

def rrr (f : RRR) (u : RUse) : Shape :=
  let dst := opnd u.d f.d f.sd
  mkShape f.g u.cls (u.feats ++ (if u.rsr && rsrBit f then [7] else []))
    (u.types.contains f.type.toNat && (u.rnd || f.rnd == 0) && (u.sat || !f.sat) && u.func && sdOk f u &&
      (!(u.rsr && rsrBit f) || f.rnd == 0))
    [dst] [opnd u.a f.a f.sa, opnd u.b f.b f.sb, opnd u.c f.c f.sc]

def func0 (f : RRR) : Bool := f.func == 0
/-- FUNC bits 3:0 zero, bit 4 being RSR. -/
def func4 (f : RRR) : Bool := f.func.toNat % 16 == 0
def allInt : List Nat := [0, 1, 2, 3, 4, 5, 6, 7, 8, 9]
def word4 : List Nat := [0, 1, 2, 3]
def signedInt : List Nat := [0, 2, 4, 6, 8]

/-- The two-source integer members of R284. -/
def int2 (f : RRR) (types : List Nat) (sat : Bool) : Shape :=
  let w := iw f.type
  rrr f { feats := n4i f.type, d := .vs w, a := .vs w, b := .vs w, types := types, sat := sat }
/-- The one-source integer members of R284. -/
def int1 (f : RRR) (types : List Nat) (sat : Bool) : Shape :=
  let w := iw f.type
  rrr f { feats := n4i f.type, d := .vs w, a := .vs w, types := types, sat := sat }
/-- Group 0x4 with two sources (R302). -/
def flt2 (f : RRR) (rnd rsr sat : Bool) : Shape :=
  let w := fw f.type
  rrr f { d := .vs w, a := .vs w, b := .vs w, types := word4, rnd := rnd, rsr := rsr, sat := sat,
          func := if rsr then func4 f else func0 f }
/-- Group 0x4 with one source (R302). -/
def flt1 (f : RRR) (types : List Nat) (rnd sat : Bool) : Shape :=
  let w := fw f.type
  rrr f { d := .vs w, a := .vs w, types := types, rnd := rnd, sat := sat, func := func0 f }
/-- An instruction of the strhash group (R295 to R297). -/
def str (f : RRR) (types : List Nat) (w : Nat) (b c : Opnd) : Shape :=
  rrr f { feats := [4], d := .vs w, a := .vs w, b := b, c := c, types := types, func := func0 f }

/-- Elements of a packed conversion-set type, 0 for a type PACK does not admit (R314). -/
def packCount (t : Nat) : Nat :=
  match t with
  | 2 | 3 | 12 | 13 => 2
  | 4 | 5 | 14 | 15 => 4
  | 6 | 7 => 8
  | _ => 0

def isFloatC (t : Nat) : Bool := decide (t ≤ 6)

/-- CVT (R312). -/
def cvtShape (f : RRR) : Shape :=
  let s := f.func.toNat % 16
  let d := f.type.toNat
  let fl := isFloatC s || isFloatC d
  rrr f { feats := n4c s ++ n4c d, d := .vs (cw d), a := .vs (cw s), types := List.range 16, rnd := fl, rsr := fl,
          sat := !(isFloatC s && !isFloatC d), func := fl || !rsrBit f }

/-- PACK and UNPACK (R314, R315). -/
def packShape (f : RRR) (rsr sat : Bool) : Shape :=
  let t := f.type.toNat
  let k := f.func.toNat % 16
  rrr f { feats := n4c t, d := .vs 1, a := .vs 1, b := .vs 1, types := [2, 3, 4, 5, 6, 7, 12, 13, 14, 15], rnd := true,
          rsr := rsr, sat := sat, func := decide (k < packCount t) && (rsr || !rsrBit f) }

def rri (f : RRI) (s : Bool) (readsA lim : Bool) : Shape :=
  let o := if s then Opnd.s 1 else Opnd.v 1
  mkShape f.g 0 [] lim [opnd o f.d s] [if readsA then opnd o f.a s else opnd .no f.a false]

/-- The data operand of a MEM access of SIZE code `z` (R341). -/
def memData (z : Nat) : Opnd := if z = 4 then .v4 else if z = 3 then .v 2 else .v 1

def memOk (f : MEM) (sizes ords : List Nat) : Bool :=
  sizes.contains f.size.toNat && ords.contains f.ord.toNat && decide (f.scope.toNat < 6)

/-- A MEM instruction (R341, R347); `s` is the uniform-base form. -/
def memShape (f : MEM) (s : Bool) (sizes ords : List Nat) (d b : Opnd) (dS : Bool) : Shape :=
  mkShape f.g 1 [] (memOk f sizes ords) [opnd d f.d dS]
    [opnd (if s then .s 2 else .v 2) f.a s, opnd b f.b false]

/-- An atomic (R347). -/
def atomShape (f : MEM) (sizes : List Nat) : Shape :=
  memShape f false sizes [0, 1, 2, 3] (memData f.size.toNat) (memData f.size.toNat) false

structure XUse where
  d : Opnd := .no
  a : Opnd := .no
  b : Opnd := .no
  types : List Nat := [0]
  rnd : Bool := false
  px : Bool
  fn : Bool
  deriving DecidableEq, Repr

def pxOpt (p : BitVec 4) : Bool := decide (p.toNat < 12) || p == 15
def pxReq (p : BitVec 4) : Bool := decide (p.toNat < 12)
def pxList (p : BitVec 4) : List Nat := if p.toNat < 12 then [p.toNat] else []

/-- A cross-lane instruction (R261, R320, R321). -/
def xl (f : XL) (feats : List Nat) (u : XUse) (wP : Bool) : Shape :=
  let sh := mkShape f.g 2 feats
    (u.types.contains f.type.toNat && (u.rnd || f.rnd == 0) && u.px && u.fn && f.rsv == 0)
    [opnd u.d f.d f.sd] [opnd u.a f.a f.sa, opnd u.b f.b f.sb]
  { sh with slot0 := f.gw, gw := f.gw, dp := if wP then pxList f.px else [] }

/-- Bits of FN. -/
def fnBits (f : XL) (lo w : Nat) : Nat := bitsN f.fn.toNat lo w

/-- SEGRED (R327). -/
def segredShape (f : XL) : Shape :=
  let kind := fnBits f 4 2
  let op := fnBits f 0 3
  let w := if kind = 0 then iw f.type else if kind = 1 then fw f.type else 2
  xl f [] { d := .v w, a := .vs w, types := if kind = 0 then word4 else if kind = 1 then [0, 1] else [0],
            rnd := kind == 1, px := pxReq f.px,
            fn := decide (kind < 3) && fnBits f 6 2 == 0 && fnBits f 3 1 == 0 &&
              (if kind = 0 then decide (op < 6) else op == 0) } false

/-- MATCH (R324): for a 64-bit TYPE both A and D are pairs (R320). -/
def matchShape (f : XL) : Shape :=
  let fl := fnBits f 0 1 == 1
  let ts := fnBits f 1 1 == 1
  let w := if ts then fw f.type else iw f.type
  xl f [] { d := .v w, a := .vs w,
            types := if fl || ts then word4 else [0, 1, 2, 3, 4, 5], px := pxOpt f.px,
            fn := fnBits f 2 6 == 0 && (!fl || ts) } true

/-- An ENG instruction (R262): `bar` is the barrier and batch group with SCOPE 2 (R329), `uni` asks SCOPE 2 (R370). -/
def eng (f : ENG) (cls : Nat) (feats : List Nat) (scope2 tileOk : Bool) (d a b c : Opnd) (wD : Bool) : Shape :=
  let dn := opnd d f.d f.sd
  let sh := mkShape f.g cls feats
    ((if scope2 then f.scope == 2 else decide (f.scope.toNat < 6)) && tileOk && f.rsv == 0)
    (if wD then [dn] else []) ([opnd a f.a f.sa, opnd b f.b f.sb, opnd c f.c f.sc] ++ (if wD then [] else [dn]))
  sh

def noDec (f : ENG) : Bool := !f.dec

/-- A graph instruction (R361, R362). -/
def gr (f : GR) (a d b c : Opnd) (dirOk px ordOk : Bool) (curUsed strictOk : Bool) : Shape :=
  let sh := mkShape f.g 3 [0]
    ((dirOk || !f.dir) && px && ordOk && (curUsed || f.cur == 0) && (strictOk || !f.strict) && !f.rsv)
    [opnd d f.d false] [opnd a f.a (a != .no), opnd b f.b f.sb, opnd c f.c false]
  sh

def grPlain (f : GR) : Bool := f.ord == 0 && f.scope == 0
def grOrd (f : GR) (o : Nat) : Bool := (f.ord == 0 || f.ord.toNat == o) && decide (f.scope.toNat < 6)
/-- The predicate a graph instruction writes at completion. -/
def grP (f : GR) (sh : Shape) : Shape := { sh with dp := pxList f.px }

def sys (f : SYS) (cls : Nat) (sup ok : Bool) (d a : Opnd) (wD : Bool) : Shape :=
  let dn := opnd d f.d f.sd
  let sh := mkShape f.g cls [] ok (if wD then [dn] else []) ([opnd a f.a f.sa] ++ (if wD then [] else [dn]))
  { sh with sup := sup }

def isVh (f : SYS) : Bool := decide (0x30 ≤ f.sel.toNat ∧ f.sel.toNat < 0x38)

def sysrShape (f : SYS) : Shape :=
  let k := f.sel.toNat
  sys f 5 (isVh f)
    (f.imm == 0 && (decide (k ≤ 9) || decide (0x10 ≤ k ∧ k < 0x38)) && !(k == 0 && f.sd))
    (.vs (if k = 9 then 2 else 1)) .no true

def guardless (g : Guard) : Bool := g.gp == 15 && !g.gn

def rettShape (f : SYS) (a : Opnd) : Shape := sys f 5 false (f.imm == 0 && f.g.gp == 15) .no a false

/-- An event of the part: no word, no row of R269. -/
def eventShape : Shape := mkShape { gp := 15, gn := false } 6 [] true [] []

/-- The shape of every instruction. -/
def shapeOf (i : Instr) : Shape :=
  match i with
  | .bra f => { mkShape f.g 6 [] true [] [opnd .no f.d false, opnd .no f.a false] with xfer := true }
  | .brx f => { rrr f { cls := 6, a := .vs 1, b := .s 2, func := func0 f } with xfer := true }
  | .call f => { mkShape f.g 6 [] true [opnd (.v 2) f.d false] [opnd .no f.a false] with xfer := true }
  | .callx f => { rrr f { cls := 6, d := .v 2, a := .vs 1, b := .s 2, func := func0 f } with xfer := true }
  | .ret f => { mkShape f.g 6 [] (f.off == 0) [] [opnd .no f.d false, opnd (.v 2) f.a false] with xfer := true }
  | .exit f => { mkShape f.g 6 [] (f.off == 0) [] [opnd .no f.d false, opnd .no f.a false] with xfer := true }
  | .waitg f => { (xl f [] { px := f.px == 0, fn := f.fn == 0 && guardless f.g && !f.gw } false) with slot0 := true, gw := true }
  | .yieldp f => sys f 5 false (f.sel == 0 && f.imm == 0) .no .no false
  | .mark f => sys f 5 false (f.sel == 0) .no .no false
  | .sleep f => sys f 5 false (f.sel == 0 && f.imm != 0) .no .no false
  | .loopd f => { rrr f { d := .vs 1, func := decide (f.func.toNat < 12) } with dp := [f.func.toNat] }
  | .nop f => rrr f { cls := 6, func := func0 f }
  | .add f => int2 f allInt true
  | .sub f => int2 f allInt true
  | .addc f => { rrr f { d := .vs 1, a := .vs 1, b := .vs 1, c := .p, types := [1] } with dp := [f.c.toNat] }
  | .subb f => { rrr f { d := .vs 1, a := .vs 1, b := .vs 1, c := .p, types := [1] } with dp := [f.c.toNat] }
  | .mul f => int2 f allInt true
  | .mulh f => int2 f [0, 1] false
  | .mulw f => rrr f { d := .vs 2, a := .vs 1, b := .vs 1, types := [0, 1] }
  | .mad f => rrr f { feats := n4i f.type, d := .vs (iw f.type), a := .vs (iw f.type), b := .vs (iw f.type), c := .vs (iw f.type),
                      types := allInt, sat := true }
  | .div f => int2 f word4 true
  | .rem f => int2 f word4 false
  | .min f => int2 f allInt false
  | .max f => int2 f allInt false
  | .abs f => int1 f signedInt true
  | .neg f => int1 f signedInt true
  | .andr f => int2 f allInt false
  | .orr f => int2 f allInt false
  | .xorr f => int2 f allInt false
  | .andn f => int2 f allInt false
  | .notr f => int1 f allInt false
  | .shl f => int2 f allInt false
  | .shr f => int2 f allInt false
  | .sar f => int2 f allInt false
  | .rot f => int2 f allInt false
  | .clz f => int1 f allInt false
  | .popc f => int1 f allInt false
  | .brev f => int1 f allInt false
  | .bfe f => rrr f { d := .vs (iw f.type), a := .vs (iw f.type), b := .vs 1, types := word4 }
  | .bfi f => rrr f { d := .vs (iw f.type), a := .vs (iw f.type), b := .vs 1, c := .vs (iw f.type), types := word4 }
  | .sel f => rrr f { feats := n4i f.type, d := .vs (iw f.type), a := .vs (iw f.type), b := .vs (iw f.type), types := allInt,
                      func := decide (f.func.toNat < 12) }
  | .mov f => rrr f { feats := n4i f.type, d := .vs (iw f.type), a := .vs (iw f.type), types := allInt, func := func0 f }
  | .mkaddr f => rrr f { d := .vs 2, a := .vs 1, b := .vs 1, c := .vs 1, func := func0 f }
  | .adda f => rrr f { d := .vs 2, a := .vs 2, b := .vs (iw f.type), types := [0, 2], func := func0 f }
  | .vrdi f => rrr f { d := .v 1, a := .vs 1, func := func0 f }
  | .vwri f => rrr f { a := .vs 1, b := .vs 1, func := func0 f }
  | .vgrow f => mkShape f.g 5 [] (f.imm.toNat % 8 == 0 && decide (8 ≤ f.imm.toNat ∧ f.imm.toNat ≤ 256)) []
      [opnd .no f.d false, opnd .no f.a false]
  | .moviV f => rri f false false true
  | .moviS f => rri f true false true
  | .movhV f => rri f false false (decide (f.imm.toNat < 65536))
  | .movhS f => rri f true false (decide (f.imm.toNat < 65536))
  | .addImmV f => rri f false true true
  | .addImmS f => rri f true true true
  | .shlImmV f => rri f false true (decide (f.imm.toNat < 32))
  | .shlImmS f => rri f true true (decide (f.imm.toNat < 32))
  | .shrImmV f => rri f false true (decide (f.imm.toNat < 32))
  | .shrImmS f => rri f true true (decide (f.imm.toNat < 32))
  | .sarImmV f => rri f false true (decide (f.imm.toNat < 32))
  | .sarImmS f => rri f true true (decide (f.imm.toNat < 32))
  | .andImmV f => rri f false true true
  | .andImmS f => rri f true true true
  | .orImmV f => rri f false true true
  | .orImmS f => rri f true true true
  | .cmp f => rrr f { d := .p, a := .vs (iw f.type), b := .vs (iw f.type), types := word4, func := decide (f.func.toNat < 7) }
  | .fcmp f => rrr f { d := .p, a := .vs (fw f.type), b := .vs (fw f.type), types := word4, func := decide (f.func.toNat < 8) }
  | .pand f => rrr f { d := .p, a := .p, b := .p, func := decide (f.func.toNat < 4) }
  | .por f => rrr f { d := .p, a := .p, b := .p, func := decide (f.func.toNat < 4) }
  | .pxor f => rrr f { d := .p, a := .p, b := .p, func := decide (f.func.toNat < 4) }
  | .pnot f => rrr f { d := .p, a := .p, func := func0 f }
  | .pmov f => rrr f { d := .p, a := if f.func == 0 then .p else .no, func := decide (f.func.toNat < 3) }
  | .fadd f => flt2 f true true true
  | .fsub f => flt2 f true true true
  | .fmul f => flt2 f true true true
  | .fmulz f => flt2 f true true true
  | .fmin f => flt2 f false false false
  | .ffma f => rrr f { d := .vs (fw f.type), a := .vs (fw f.type), b := .vs (fw f.type), c := .vs (fw f.type), types := word4,
                       rnd := true, rsr := true, sat := true, func := func4 f }
  | .fmax f => flt2 f false false false
  | .fdiv f => flt2 f true false true
  | .fsqrt f => flt1 f word4 true true
  | .frcp f => flt1 f word4 true true
  | .frsq f => flt1 f [0, 2, 3] true true
  | .fexp2 f => flt1 f [0, 2, 3] true true
  | .flog2 f => flt1 f [0, 2, 3] true true
  | .frnd f => flt1 f word4 true false
  | .fclass f => rrr f { d := .vs 1, a := .vs (fw f.type), types := word4, func := func0 f }
  | .faddx f => rrr f { feats := [1], d := .vs 2, a := .vs 1, b := .vs 1, func := func0 f }
  | .fsubx f => rrr f { feats := [1], d := .vs 2, a := .vs 1, b := .vs 1, func := func0 f }
  | .fmulx f => rrr f { feats := [1], d := .vs 2, a := .vs 1, b := .vs 1, func := func0 f }
  | .dwadd f => rrr f { feats := [1], d := .vs 2, a := .vs 2, b := .vs 2, func := func0 f }
  | .dwmul f => rrr f { feats := [1], d := .vs 2, a := .vs 2, b := .vs 2, func := func0 f }
  | .dwrnd f => rrr f { feats := [1], d := .vs (fw f.type), a := .vs 2, types := [0, 1], rnd := true, rsr := true, sat := true,
                        func := func4 f }
  | .cvt f => cvtShape f
  | .pack f => packShape f true false
  | .unpack f => packShape f false true
  | .scaleq f => rrr f { feats := n4c f.type.toNat, d := .vs 1, a := .vs 1, types := [4, 5, 6, 7, 14], func := func0 f }
  | .dot4 f => rrr f { feats := n4i f.type, d := .vs 1, a := .vs 1, b := .vs 1, c := .vs 1, types := [6, 7], sat := true,
                       func := func0 f }
  | .dot8 f => rrr f { feats := n4i f.type, d := .vs 1, a := .vs 1, b := .vs 1, c := .vs 1, types := [8, 9], sat := true,
                       func := func0 f }
  | .dotf8 f => rrr f { d := .vs 1, a := .vs 1, b := .vs 1, c := .vs 1, types := [4, 5], rnd := true, rsr := true, sat := true,
                        func := func4 f }
  | .xsect f => let sh := rrr f { feats := [3], d := .v 1, a := .v 2, b := .v 2, c := .v16, types := [6, 7], func := func0 f }
    { sh with dv := [f.d.toNat] ++ regSpan f.b.toNat 2 ++ (List.range 16).map (f.c.toNat + ·) }
  | .scmp f => str f [0] 1 (.vs 1) (.vs 1)
  | .seqb f => str f [0] 1 (.vs 1) .no
  | .sfind f => str f [0] 1 (.vs 1) .no
  | .crc f => str f [1, 5, 7] 1 (.vs 1) .no
  | .hmix f => str f [3] 2 (.vs 2) .no
  | .bswap f => str f [0, 1, 2, 3, 4, 5] (iw f.type) .no .no
  | .ldV f => memShape f false [0, 1, 2, 3, 4] [0, 1] (memData f.size.toNat) .no false
  | .ldS f => memShape f true [0, 1, 2, 3, 4] [0, 1] (memData f.size.toNat) .no false
  | .stV f => memShape f false [0, 1, 2, 3, 4] [0, 2] .no (memData f.size.toNat) false
  | .stS f => memShape f true [0, 1, 2, 3, 4] [0, 2] .no (memData f.size.toNat) false
  | .ldc f => memShape f true [0, 1, 2, 3] [0, 1] (.s (if f.size.toNat = 3 then 2 else 1)) .no true
  | .prefV f => memShape f false [0, 1, 2, 3, 4] [0] .no .no false
  | .prefS f => memShape f true [0, 1, 2, 3, 4] [0] .no .no false
  | .aadd f => atomShape f [2, 3]
  | .amin f => atomShape f [2, 3]
  | .amax f => atomShape f [2, 3]
  | .aand f => atomShape f [2, 3]
  | .aor f => atomShape f [2, 3]
  | .axor f => atomShape f [2, 3]
  | .axchg f => atomShape f [2, 3]
  | .acas f => atomShape f [2, 3]
  | .acas2 f => atomShape f [4]
  | .afadd f => atomShape f [2, 3]
  | .amaxe f => atomShape f [0, 2, 3]
  | .fence f => mkShape f.g 1 [] (f.ord != 0 && decide (f.scope.toNat < 6) && f.size == 0 && f.off == 0) []
      [opnd .no f.d false, opnd .no f.a false, opnd .no f.b false]
  | .pin f => rrr f { cls := 1, d := .p, a := .vs 2, b := .pin, func := func0 f }
  | .unpin f => rrr f { cls := 1, b := .pin, func := func0 f }
  | .reclaim f => eng f 1 [] false (noDec f && decide (f.tile.toNat < 2)) .no (.vs 2) (if f.tile == 1 then .s 1 else .no) .no false
  | .harvest f => sys f 1 true (f.sel == 0 && f.imm == 0) .no (if f.sa then .s 1 else .no) false
  | .tlbinv f => sys f 1 true (f.sel == 0 && f.imm == 0) .no (.s 1) false
  | .vote f => xl f [] { d := if fnBits f 0 2 = 2 then .v 1 else .vs 1, a := .vs 1,
                         px := if fnBits f 2 2 = 0 then f.px == 15 else pxReq f.px, fn := fnBits f 4 4 == 0 } true
  | .shfl f => xl f [] { d := .v (iw f.type), a := .vs (iw f.type), b := .vs 1, types := word4, px := pxOpt f.px,
                         fn := fnBits f 4 4 == 0 && decide (fnBits f 2 2 < 3) } true
  | .matchKey f => matchShape f
  | .scan f => xl f [] { d := .v (iw f.type), a := .vs (iw f.type), types := word4, px := f.px == 0,
                         fn := fnBits f 4 4 == 0 && decide (fnBits f 0 3 < 6) } false
  | .redi f => xl f [] { d := .vs (iw f.type), a := .vs (iw f.type), types := word4, px := f.px == 0,
                         fn := fnBits f 3 5 == 0 && decide (fnBits f 0 3 < 6) } false
  | .redf f => xl f [] { d := .vs (fw f.type), a := .vs (fw f.type), types := [0, 1], rnd := true, px := f.px == 0, fn := f.fn == 0 } false
  | .redx f => xl f [1] { d := .vs 2, a := .vs 2, px := f.px == 0, fn := f.fn == 0 } false
  | .segred f => segredShape f
  | .binit f => eng f 4 [] true (noDec f && f.tile == 0) .no (.s 1) (.s 1) .no false
  | .bjoin f => eng f 4 [] true (noDec f && f.tile == 0) .no (.s 1) .no .no false
  | .bleave f => eng f 4 [] true (noDec f && f.tile == 0) .no (.s 1) .no .no false
  | .barv f => eng f 4 [] true (noDec f && f.tile == 0) (.vs 1) (.s 1) .no .no true
  | .barw f => eng f 4 [] true (noDec f && f.tile == 0) .no (.s 1) (.vs 1) .no false
  | .baraw f => eng f 4 [] true (noDec f && f.tile == 0) .no (.s 1) .no .no false
  | .batch f => eng f 4 [] true (noDec f && f.tile == 0) (.vs 1) .no .no .no true
  | .bwait f => eng f 4 [] true (noDec f && decide (f.tile.toNat < 2)) (if f.tile == 1 then .vs 1 else .no) (.vs 1) .no .no true
  | .gadde f => grP f (gr f (.s 2) (.v 1) (.vs 2) (.v 1) false (pxOpt f.px) (grPlain f) false false)
  | .gdele f => grP f (gr f (.s 2) (.v 1) (.vs 2) .no false (pxOpt f.px) (grPlain f) false false)
  | .gsete f => grP f (gr f (.s 2) (.v 1) (.vs 2) (.v 1) false (pxOpt f.px) (grPlain f) false false)
  | .glde f => grP f (gr f (.s 2) (.v 2) (.vs 1) (.v 1) true (pxOpt f.px) (grPlain f) false true)
  | .gfind f => grP f (gr f (.s 2) (.v 1) (.vs 1) (.v 1) true (pxOpt f.px) (grPlain f) false false)
  | .gdeg f => gr f (.s 2) (.v 1) (.vs 1) .no true (f.px == 0) (grPlain f) false false
  | .gver f => gr f (.s 2) (.v 1) (.vs 1) .no true (f.px == 0) (grPlain f) false false
  | .gldv f => gr f (.s 2) (.v 1) (.vs 1) .no false (f.px == 0) (grOrd f 1) false false
  | .gstv f => gr f (.s 2) .no (.vs 1) (.v 1) false (f.px == 0) (grOrd f 2) false false
  | .gopen f => grP f (gr f (.s 2) .no (.vs 1) .no true (pxReq f.px) (grPlain f) true false)
  | .gnext f => grP f (gr f .no (.v 2) .no .no false (pxOpt f.px) (grPlain f) true false)
  | .gskip f => gr f .no .no (.vs 1) .no false (f.px == 0) (grPlain f) true false
  | .gpos f => grP f { gr f .no .v3 .no .no false (pxOpt f.px) (grPlain f) true false with
              dv := [f.d.toNat, f.d.toNat + 1, f.d.toNat + 2] }
  | .gclose f => gr f .no .no .no .no false (f.px == 0) (grPlain f) true false
  | .cpasync f => eng f 4 [] false (f.tile == 0) (.vs 2) (.vs 2) (.vs 1) .no false
  | .cpasyncDec f => eng f 4 [5] false (f.tile == 0) (.vs 2) (.vs 2) (.vs 1) .no false
  | .wbind f => eng f 4 [] false (noDec f && f.tile == 0) .p (.s 2) (.s 2) .no true
  | .wunbind f => eng f 4 [] false (noDec f && f.tile == 0) .no (.s 2) .no .no false
  | .xformCopy2d f => eng f 4 [] false (noDec f) .no (.s 2) (.s 1) .no false
  | .xformTranspose f => eng f 4 [] false (noDec f) .no (.s 2) (.s 1) .no false
  | .xformConvert f => eng f 4 [] false (noDec f) .no (.s 2) (.s 1) .no false
  | .xformExpand f => eng f 4 [5] false (noDec f) .no (.s 2) (.s 1) .no false
  | .xformCsr2spr f => eng f 4 [] false (noDec f) .no (.s 2) (.s 1) .no false
  | .xformCrc f => eng f 4 [] false (noDec f) .no (.s 2) (.s 1) .no false
  | .mpass f => { eng f 4 [] false (noDec f) (.s 1) (.s 2) (.s 2) (.s 2) false with ar := [f.tile.toNat] }
  | .mquery f => eng f 4 [] true (noDec f && f.tile == 0) (.vs 1) .no .no .no true
  | .azero f => { eng f 4 [] true (noDec f) .no .no .no .no false with ar := [f.tile.toNat] }
  | .adrainT f => { eng f 4 [] true (noDec f) .t (.s 1) (.s 1) .no false with ar := [f.tile.toNat] }
  | .adrainPlain f => { eng f 4 [] false (noDec f) (.s 2) (.s 1) (.s 1) .no false with ar := [f.tile.toNat] }
  | .afillT f => { eng f 4 [] true (noDec f) .t (.s 1) (.s 1) .no false with ar := [f.tile.toNat] }
  | .afillPlain f => { eng f 4 [] false (noDec f) (.s 2) (.s 1) (.s 1) .no false with ar := [f.tile.toNat] }
  | .txv f => { eng f 4 [] true (noDec f && decide (f.tile.toNat < 8)) .v8 .no .no .no true with
          tr := [f.tile.toNat], dv := (List.range 8).map (f.d.toNat + ·) }
  | .vxt f => { eng f 4 [] true (noDec f && decide (f.tile.toNat < 8)) .no .v8 .no .no false with tr := [f.tile.toNat] }
  | .launch f => eng f 4 [8] false (noDec f && f.tile == 0) .no (.s 2) .no .no false
  | .sysr f => sysrShape f
  | .sysw f => sys f 5 (isVh f) (f.imm == 0 && (f.sel.toNat == 8 || isVh f)) .no (.vs 1) false
  | .trap f => sys f 5 false (f.sel == 0) .no .no false
  | .brk f => sys f 5 false (f.sel == 0) .no .no false
  | .rett f => rettShape f .no
  | .rettSkip f => rettShape f .no
  | .rettKill f => rettShape f .no
  | .rettKillg f => rettShape f .no
  | .rettSel f => rettShape f (.v 1)
  | .mappg f => sys f 5 true (f.sel == 0 && f.imm == 0) (.v 1) (.vs 2) true
  | .objnew f => sys f 5 true (f.sel == 0 && f.imm == 0) (.v 1) (.vs 2) true
  | .objsetSize f => sys f 5 true (f.imm == 0) (.vs 2) (.vs 2) false
  | .objsetPerm f => sys f 5 true (f.imm == 0) (.vs 1) (.vs 2) false
  | .objsetCtab f => sys f 5 true (f.imm == 0) (.vs 1) (.vs 2) false
  | .objsetUnpois f => sys f 5 true (f.imm == 0) .no (.vs 2) false
  | .objsetDirty f => sys f 5 true (f.imm == 0) (.vs 2) (.vs 2) false
  | .ctrrd f => sys f 5 false (f.sel == 0 && decide (f.imm.toNat < 128) && (f.imm.getLsbD 6 || decide (f.imm.toNat < 16))) (.vs 2) .no true
  | .clauseFetch _ => eventShape
  | .handlerVector _ => eventShape
  | .hostServiceRequest => eventShape
  | .activeSetSwap _ => eventShape
  | .pathUrgent _ => eventShape
  | .sleepExpire _ => eventShape
  | .lensSample _ _ _ => eventShape
  | .longLatencyComplete _ _ => eventShape
  | .graphOpComplete _ _ => eventShape
  | .graphMutationCommit _ _ => eventShape
  | .graphSweep _ => eventShape
  | .gangRetire _ => eventShape
  | .crewSlotRelease _ => eventShape
  | .vgrowGrant _ => eventShape
  | .growthDeadlockBreak _ => eventShape
  | .priorityPreempt => eventShape
  | .drainComplete _ => eventShape
  | .crewPlace => eventShape
  | .crewResume _ => eventShape
  | .launchPortWrite _ _ => eventShape
  | .launchAccept _ => eventShape
  | .waitCountPoll => eventShape
  | .svcfullTimeout => eventShape
  | .rangeLockAcquire _ => eventShape
  | .copyComplete _ => eventShape
  | .windowFillComplete _ => eventShape
  | .windowScatterComplete _ => eventShape
  | .prismTransformComplete _ => eventShape
  | .matrixGrant _ => eventShape
  | .passComplete _ => eventShape
  | .tileOpPerform _ _ => eventShape
  | .reclaimSearch _ => eventShape
  | .dirtyFlushTimeout _ _ => eventShape
  | .shootdownComplete _ => eventShape
  | .pagerMap _ _ => eventShape
  | .migrationEnd _ _ => eventShape
  | .migreqWrite _ => eventShape
  | .hsanswerWrite _ => eventShape
  | .shootWrite _ => eventShape
  | .objtbaseWrite _ => eventShape
  | .objtcntWrite _ => eventShape
  | .pinovfWrite _ => eventShape
  | .savepoolWrite _ => eventShape
  | .feataccWrite _ _ => eventShape
  | .launchenWrite _ => eventShape
  | .handlerInstallWrite _ _ => eventShape
  | .clkceilWrite _ => eventShape
  | .pwrcapWrite _ => eventShape
  | .clockStepChange => eventShape
  | .thermalDemandRise _ _ => eventShape
  | .thermalDemandFall _ _ => eventShape
  | .powerDemandRise _ => eventShape
  | .powerDemandFall _ => eventShape
  | .thermalTrip _ _ => eventShape
  | .railsGood => eventShape
  | .bootImageCheck _ _ => eventShape
  | .fwloadCheckStart => eventShape
  | .fwloadCheckWriteStart => eventShape
  | .fwCheckDone _ _ => eventShape
  | .perstDeassert => eventShape
  | .dieTrained _ => eventShape
  | .dieTrainFail _ => eventShape
  | .hostReset => eventShape
  | .coldReset => eventShape
  | .attreqWrite _ => eventShape
  | .attestReportDone => eventShape
  | .checkpointSaveGo _ => eventShape
  | .checkpointSaveDone => eventShape
  | .checkpointRestoreGo _ => eventShape
  | .checkpointRestoreDone => eventShape
  | .scanTestStart _ => eventShape
  | .scanTestDone _ _ _ => eventShape
  | .uncorrectableError _ _ _ => eventShape
  | .correctableError _ _ => eventShape
  | .tracectlWrite _ => eventShape
  | .bkptRelease _ _ => eventShape
  | .watchpointWrite _ _ _ => eventShape
  | .apertureRead _ _ => eventShape
  | .apertureWrite _ _ => eventShape
  | .registerWrite _ _ => eventShape
  | .zalakFlitReceive _ _ => eventShape
  | .zalakReplay _ _ => eventShape
  | .linkLost _ => eventShape
  | .ackTimeout _ => eventShape
  | .portTrainRetry _ => eventShape
  | .portTrained _ _ => eventShape
  | .zalakReadRequest _ => eventShape
  | .zalakReadData _ => eventShape
  | .zalakWriteRequest _ => eventShape
  | .zalakWriteAck _ => eventShape
  | .zalakAtomicRequest _ => eventShape
  | .zalakAtomicResult _ => eventShape
  | .zalakStreamBlock _ => eventShape
  | .zalakGatherRequest _ => eventShape
  | .zalakErrorResponse _ => eventShape
  | .railRemoved _ => eventShape
  | .harvestComplete _ => eventShape
  | .checkpointTargetStopped => eventShape

/-- The guard's own legality (R16, R269 row 3). -/
def guardOk (g : Guard) : Bool := !(g.gp == 12 || g.gp == 13 || g.gp == 14) && !(g.gp == 15 && g.gn)

end Sys2Proof.Machine
end

