-- ==== Sys2Proof/Machine/Ops.lean ====
section
/-! DEFINITION. The shared operations of the machine: the checks of R269, barrier objects, the path table (splits, merges,
deferred sides), taking a trap (R139 to R143), the return from one (R384), issue and completion of an instruction. -/

namespace Sys2Proof.Machine

/-! ### Barrier objects (R135 to R137) -/

structure Bar where
  members : Nat
  arrived : Nat
  phase : Nat
  eng : Nat
  init : Bool
  deriving DecidableEq, Repr

/-- The barrier object at a crew offset, as the bytes of the Plain hold it. -/
def barAt (s : State) (ck off : Nat) : Bar :=
  let a := aliasToPlain s ck off
  { members := plainNat s a 4, arrived := plainNat s (a + 4) 4, phase := plainNat s (a + 8) 4,
    eng := plainNat s (a + 12) 4, init := plainNat s (a + 16) 4 % 2 == 1 }

/-- Writes the fields of a barrier object. Bits 31:1 of STATE and bytes 20 to 31, which a lane store may have made non-zero, keep
their values through an update other than BINIT (DESIGN CHOICE, log entry 40). -/
def putBar (s : State) (ck off : Nat) (b : Bar) : State :=
  let a := aliasToPlain s ck off
  let s := onCrew s ck (fun c => if c.bars.contains off then c else { c with bars := c.bars ++ [off] })
  plainPut s a (leBytes 4 b.members ++ leBytes 4 b.arrived ++ leBytes 4 b.phase ++ leBytes 4 b.eng ++
    leBytes 1 (plainNat s (a + 16) 1 / 2 * 2 + b.init.toNat))

/-- Every gang of the crew drops its arrival-table entry for the object (R136). -/
def clearArrivals (s : State) (ck off : Nat) : State :=
  { s with gangs := s.gangs.map (fun e =>
      (e.1, if e.2.crew = ck then { e.2 with arr := e.2.arr.filter (fun r => r.off != off) } else e.2)) }

/-- One update of a barrier object other than BINIT, then the test of R136. -/
def barUpdate (s : State) (ck off : Nat) (f : Bar → Bar) : State :=
  let b := f (barAt s ck off)
  if b.init ∧ b.arrived = b.members ∧ b.eng = 0 then
    clearArrivals (putBar s ck off { b with phase := (b.phase + 1) % 2 ^ 32, arrived := 0 }) ck off
  else putBar s ck off b

/-- Adds 1 to ENGPEND at issue, or takes 1 at completion: at 0 it stays (R136, R331). -/
def engPend (s : State) (ck off : Nat) (up : Bool) : State :=
  if up then
    let b := barAt s ck off
    putBar s ck off { b with eng := (b.eng + 1) % 2 ^ 32 }
  else if (barAt s ck off).eng = 0 then s
  else barUpdate s ck off (fun b => { b with eng := b.eng - 1 })

/-- Lanes that have left the gang have an access that is not performed yet (R246). -/
def lateOps (g : Gang) : Bool :=
  g.ops.any (fun o => (o.mask &&& ~~~ g.live) != 0 && (match o.body with
    | .writes _ => false
    | _ => true))

/-- The arrival test of R137 for one entry of a gang's table: the lanes recorded cover LIVEMASK, and the accesses of the lanes
that have exited have been performed. -/
def arriveTest (s : State) (gk off : Nat) : State :=
  let g := gangAt s gk
  let b := barAt s g.crew off
  match g.arr.find? (fun r => r.off == off) with
  | some r =>
    if r.phase.toNat = b.phase ∧ g.live &&& ~~~ r.mask = 0 ∧ b.members.testBit g.no ∧ lateOps g = false then
      barUpdate s g.crew off (fun b => { b with arrived := b.arrived ||| 2 ^ g.no })
    else s
  | none => s

/-- The arrival tests of a gang that has not arrived, made again when lanes exit or an operation completes (R137). -/
def retest (s : State) (gk : Nat) : State :=
  (gangAt s gk).arr.foldl (fun t r =>
    if (barAt t (gangAt t gk).crew r.off).arrived.testBit (gangAt t gk).no then t else arriveTest t gk r.off) s

/-- The gang has arrived for the object's current PHASE (R116). -/
def hasArrived (s : State) (gk off : Nat) : Bool :=
  (barAt s (gangAt s gk).crew off).arrived.testBit (gangAt s gk).no

/-! ### The path table -/

def coreOf (k size : Nat) : Nat := k / size
/-- The lowest free entry of a core's path table. -/
def freePath (s : State) (core : Nat) : Option Nat :=
  Map.lowestFree s.paths (core * Config.pathEntries) Config.pathEntries
def freePaths (s : State) (core : Nat) : Nat :=
  Config.pathEntries - (inRange s.paths (core * 512) (core * 512 + 512)).length

/-- A path's running side as a deferred side. -/
def sideOf (p : Path) : Side :=
  { pc := p.pc, mask := p.mask, depth := p.depth, clause := p.clause, wait := p.wait, kind := p.kind, parked := p.parked,
    trap := p.trap, stray := p.stray, arrived := p.arrived, prog := p.prog, again := p.again }

/-- Runs a side in an entry. -/
def runSide (p : Path) (d : Side) : Path :=
  { p with pc := d.pc, mask := d.mask, depth := d.depth, clause := d.clause, kind := d.kind, trap := d.trap,
           wait := .none, vectored := true, rett := none, noWatch := false, issued := 0, limit := none, parked := d.parked,
           stray := d.stray, arrived := d.arrived, prog := d.prog, again := d.again }

/-- Parked lanes as a side of their own (R142). -/
def Parked.side (d : Parked) : Side :=
  { pc := d.pc, mask := d.mask, depth := d.depth, clause := d.clause, wait := .none, kind := .ordinary, parked := none,
    trap := none, stray := d.stray, arrived := none, prog := d.prog, again := false }

/-- R117: a freed entry goes to the core's oldest entry that holds a deferred side. -/
def freeEntry (s : State) (pk : Nat) : State :=
  let s := delPath s pk
  let core := pk / 512
  match leastBy older ((inRange s.paths (core * 512) (core * 512 + 512)).filter (fun e => !e.2.defer.isEmpty)) with
  | some (k, q) =>
    match q.defer with
    | d :: ds =>
      setPath (setPath s k { q with defer := ds }) pk
        { (runSide q d) with defer := [], slot := none, urgent := none, swapHint := false, claimed := none }
    | [] => s
  | none => s

/-- What an entry does when its running side has ended: parked lanes continue (R142), else the top deferred side runs
(R116), else the entry is freed. -/
def endSide (s : State) (pk : Nat) (p : Path) : State :=
  match p.parked with
  | some d => setPath s pk (runSide p d.side)
  | none =>
    match p.defer with
    | d :: ds => setPath s pk { runSide p d with defer := ds }
    | [] => freeEntry s pk

/-- Lanes leave a path, whichever of its sides they stand in. -/
def cutPath (p : Path) (m : Mask) : Path :=
  let cutP := fun (d : Option Parked) => match d with
    | some d => if d.mask &&& ~~~ m = 0 then none else some { d with mask := d.mask &&& ~~~ m }
    | none => none
  { p with
    mask := p.mask &&& ~~~ m,
    issued := p.issued &&& ~~~ m,
    defer := (p.defer.map (fun d => match cutP d.parked with
      | some x => if d.mask &&& ~~~ m = 0 then x.side else { d with mask := d.mask &&& ~~~ m, parked := some x }
      | none => { d with mask := d.mask &&& ~~~ m, parked := none })).filter (fun d => d.mask != 0),
    parked := cutP p.parked }

/-- Lanes leave every path of a gang; then each entry whose running side has ended goes on with what it holds. -/
def cutLanes (s : State) (gk : Nat) (m : Mask) : State :=
  let ks := (pathsOfGang s gk).map (·.1)
  let s := { s with paths := s.paths.map (fun e => (e.1, if e.2.gang = gk then cutPath e.2 m else e.2)) }
  ks.foldl (fun t k => match Map.find? t.paths k with
    | some p => if p.gang = gk ∧ p.mask = 0 then endSide t k p else t
    | none => t) s

/-- Cursor lanes: version a precedes or equals b (R177). -/
def seqLe (a b : Nat) : Bool := decide ((b + 0xFFFFFFFF - a % 0xFFFFFFFF) % 0xFFFFFFFF < 2 ^ 31)

/-- The earlier of two minimum versions, 0xFFFF_FFFF the latest (R186). -/
def seqMin (a b : Nat) : Nat := if a = 0xFFFFFFFF then b else if b = 0xFFFFFFFF then a else if seqLe a b then a else b

/-- Every pin's minimum version from the gang's open and at-end cursors on its identifier (R186). -/
def reMin (g : Gang) : Gang :=
  { g with pins := g.pins.map (fun e => (e.1, { e.2 with
      min := (g.cur.filter (fun x => x.2.oid == e.2.oid && (x.2.st == 1 || x.2.st == 2))).foldl
        (fun m x => seqMin m x.2.snap) 0xFFFFFFFF })) }

/-- The requests to peers of lanes that have left their path answer to nobody. -/
def orphan (s : State) (gk : Nat) (m : Mask) : State :=
  if s.peerOps.isEmpty then s
  else { s with peerOps := s.peerOps.map (fun o => match o.owner with
      | .lane g _ n l => if g = gk ∧ m.getLsbD l ∧ o.op ≠ 3 then { o with owner := .lane g (2 ^ 40) n l } else o
      | _ => o) }

/-- Lanes leave LIVEMASK (R119): their gang's entries, the arrival tests of R137, and the registers at the last exit
(R98). -/
def leave (s : State) (gk : Nat) (m : Mask) : State :=
  let s := onGang (orphan s gk m) gk (fun g =>
    reMin { g with live := g.live &&& ~~~ m, cur := g.cur.filter (fun e => !m.getLsbD (e.1 % 32)) })
  let s := retest (cutLanes s gk m) gk
  if (gangAt s gk).live = 0 then
    onGang s gk (fun g => { g with v := [], s := [], p := [], t := [], vh := [], cur := [], rng := [] })
  else s

/-- Kills lanes with a code (R143): the gang counts once among the gangs killed of R62. -/
def kill (s : State) (gk : Nat) (m : Mask) (code : TrapCode) : State :=
  let g := gangAt s gk
  let m := m &&& g.live
  if m = 0 then s
  else
    let rk := (crewAt s g.crew).run
    let s := if g.killed = 0 then
        onRun s rk (fun r => { r with killed := r.killed + 1, killCode := some (r.killCode.getD code) })
      else s
    leave (onGang s gk (fun g => { g with killed := g.killed ||| m })) gk m

/-- The position after the instruction a path stands at: the next slot, or the fall-through header (R254). -/
def nextPos (p : Path) : DWord × Option Clause :=
  match p.clause with
  | some c => if c.slot < c.n then (p.pc + 8, some { c with slot := c.slot + 1 })
              else (c.hdr + BitVec.ofNat 64 (8 * (c.n + 2)), none)
  | none => (p.pc, none)

/-! ### Taking a trap (R138 to R143) -/

/-- A faulting lane: its code and failing object address. -/
structure LaneFault where
  lane : Nat
  code : TrapCode
  addr : Nat
  deriving DecidableEq, Repr

def TrapCode.num : TrapCode → Nat
  | .firstTouch => 0 | .illegalOp => 1 | .illegalClause => 2 | .priv => 3 | .bounds => 4 | .objectInvalid => 5
  | .protect => 6 | .align => 7 | .poison => 8 | .rangeLocked => 9 | .remoteLost => 10 | .pageHost => 11
  | .uniformSplit => 12 | .pairAlign => 13 | .pathLimit => 14 | .gwaitMismatch => 15 | .engineAbort => 16
  | .barrierMember => 17 | .graphBounds => 18 | .cursorState => 19 | .fpEnabled => 20 | .user => 21 | .brk => 22
  | .watch => 23

def faultMask (fs : List LaneFault) : Mask := fs.foldl (fun a f => a ||| laneBit f.lane) 0
/-- Every lane of a mask with one code and no address: an instruction-level trap. -/
def allLanes (m : Mask) (code : TrapCode) : List LaneFault := (lanes m).map (fun l => { lane := l, code := code, addr := 0 })

/-- The handler a faulting mask goes to and the record's CODE (R140). -/
def chooseHandler (fs : List LaneFault) : PathKind × TrapCode :=
  if fs.any (·.code == .firstTouch) then (.sup, .firstTouch)
  else if fs.any (·.code == .pageHost) then (.sup, .pageHost)
  else (.user, ((leastBy (fun (a b : LaneFault) => decide (a.code.num < b.code.num)) fs).map (·.code)).getD .illegalOp)

/-- EXTRA words 0 to 2 of R156 and R157: identifier of the lowest lane with the code, the lowest page of that
identifier among those lanes, and the access kind. -/
def pageExtra (fs : List LaneFault) (code : TrapCode) (akind : Nat) : List Word :=
  match fs.filter (·.code == code) with
  | [] => []
  | f :: rest =>
    let id := oidOf f.addr
    let pages := ((f :: rest).filter (fun x => oidOf x.addr == id)).map (fun x => offOf x.addr / 65536)
    [BitVec.ofNat 32 id, BitVec.ofNat 32 (pages.foldl Nat.min (offOf f.addr / 65536)), BitVec.ofNat 32 akind]

/-- Where an instruction or a header stands when it traps. -/
structure Site where
  pk : Nat
  pc : DWord
  cslot : Nat
  clause : Option Clause
  hdr : DWord
  akind : Nat
  extra : List Word
  xfer : Bool
  deriving DecidableEq, Repr

/-- Takes a trap (R142, R143): the faulting lanes leave the path at `st` and become a handler path, or are killed. The
answer says whether the remaining lanes still stand in the entry. -/
def takeTrap (s : State) (st : Site) (fs : List LaneFault) : State × Bool :=
  match Map.find? s.paths st.pk with
  | none => (s, false)
  | some p =>
    let m := faultMask fs
    let rest := p.mask &&& ~~~ m
    let (kind, code) := chooseHandler fs
    let core := st.pk / 512
    let q := quadOf s p.gang
    let s := if fs.any (·.code == .rangeLocked) then bumpCore s core q 0x042 1 else s
    let s := if code = .firstTouch then bumpDie s (dieOf s core) 0x121 1 else s
    let rk := (crewAt s (gangAt s p.gang).crew).run
    if p.kind ≠ .ordinary then (kill s p.gang (gangAt s p.gang).live code, false)
    else if kind = .user ∧ (runAt s rk).lr.handler = 0xFFFFFFFF then (kill s p.gang m code, rest != 0)
    else
      let extra := if kind = .sup then pageExtra fs code st.akind else st.extra
      let rec' : TrapRec :=
        { code := code, cslot := st.cslot, fmask := m, pc := st.pc, rmask := rest,
          lcode := (fs.take 8).map (·.code), extra := extra, laddr := (fs.take 8).map (fun f => BitVec.ofNat 64 f.addr),
          clause := st.clause, hdr := st.hdr, stray := p.stray, met := p.again || p.mask == (gangAt s p.gang).live }
      let s := bumpCore s core q 0x00A 1
      let h : Path := { Path.at p.gang st.pc m p.depth p.stamp with kind := kind, trap := some rec', vectored := false,
                                                                    prog := p.prog }
      let (s, wait) := if code = .pageHost then
          let e := pageExtra fs code st.akind
          let tag := s.nextTag
          ({ s with nextTag := tag + 1,
                    svcs := s.svcs ++ [{ tag := tag, kind := if st.akind = 0 then 1 else if st.akind = 1 then 2 else 6,
                                         oid := (e.getD 0 0).toNat, page := (e.getD 1 0).toNat, eng := none,
                                         posted := false }] }, Wait.parked tag)
        else (s, .none)
      let h := { h with wait := wait }
      if rest = 0 then
        (setPath s st.pk { h with defer := p.defer, parked := p.parked, slot := p.slot, urgent := p.urgent, claimed := p.claimed }, false)
      else
        let u := s.nextUid
        let s := { s with nextUid := u + 2 }
        let h := { h with prog := p.prog.fork u }
        let mine := p.prog.fork (u + 1)
        match freePath s core with
        | some k => (setPath (setPath s st.pk { p with mask := rest, prog := mine }) k h, true)
        | none =>
          let (pc, cl) := if st.xfer then (p.pc, p.clause) else nextPos p
          let d : Parked := match p.parked with
            | some x => { pc := pc, mask := rest ||| x.mask, depth := p.depth, clause := cl, xfer := st.xfer, stray := false,
                          prog := mine.join x.prog (u + 1) }
            | none => { pc := pc, mask := rest, depth := p.depth, clause := cl, xfer := st.xfer, stray := false, prog := mine }
          (setPath s st.pk { h with defer := p.defer, parked := some d, slot := p.slot, urgent := p.urgent, claimed := p.claimed }, false)

/-- The handler's first clause header (R68, R142). -/
def handlerPc (s : State) (p : Path) : DWord :=
  match p.kind, p.trap with
  | .sup, some t =>
    let h := if t.code = .pageHost then s.mg.phHndl else s.mg.ftHndl
    BitVec.ofNat 64 (addrOf (h.toNat % 2 ^ 24) (h.toNat / 2 ^ 32))
  | _, _ =>
    let r := runAt s (crewAt s (gangAt s p.gang).crew).run
    BitVec.ofNat 64 (addrOf r.lr.code r.lr.handler)

/-! ### Ending a clause, the return from a trap, splits -/

/-- The return of R384 at the end of a handler's clause. A SLEEP of that clause still holds the path (R279). -/
def returnFrom (s : State) (pk : Nat) (sel : Nat) (km : Mask) : State :=
  match Map.find? s.paths pk with
  | none => s
  | some p =>
    match p.trap with
    | none => s
    | some t =>
      if sel = 3 then kill s p.gang (gangAt s p.gang).live t.code
      else if sel = 2 then kill s p.gang p.mask t.code
      else
        let s := if sel = 4 then kill s p.gang (km &&& p.mask) t.code else s
        let stay := if sel = 4 then p.mask &&& ~~~ km else p.mask
        if stay = 0 then s
        else
          let again := sel = 0 ∨ sel = 4
          let p := { p with mask := stay, kind := .ordinary, trap := none, rett := none, noWatch := again, issued := 0 }
          let base : Path := match t.clause with
            | none => { p with pc := t.hdr, clause := none, stray := t.stray }
            | some c => { p with pc := t.pc, clause := some c, again := again && (t.met || p.parked.isSome) }
          match p.parked with
          | some d =>
            let u := s.nextUid
            let s := { s with nextUid := u + 1 }
            if d.xfer then
              setPath s pk { base with mask := stay ||| d.mask, parked := none, prog := base.prog.join d.prog u, again := false,
                                       limit := if again then none else some d.mask }
            else if again then setPath s pk base
            else
              let (pc, cl) := nextPos base
              setPath s pk { base with pc := pc, clause := cl, mask := stay ||| d.mask, parked := none,
                                       prog := base.prog.join d.prog u }
          | none =>
            if again then setPath s pk base
            else
              let (pc, cl) := nextPos base
              setPath s pk { base with pc := pc, clause := cl }

/-- What the end of a clause does to its path before any transfer: the effect of YIELD and SLEEP (R256, R279). -/
def clauseEnd (p : Path) (c : Clause) : Path :=
  { p with
    pc := c.hdr + BitVec.ofNat 64 (8 * (c.n + 2)), clause := none, noWatch := false, limit := none, issued := 0, stray := false,
    again := false, arrived := none,
    swapHint := decide (c.yld ≠ 0), wait := if c.yld = 3 then .sleep else .none,
    slot := if c.yld = 3 then none else p.slot }

/-- Falls through at the end of a clause; a RETT of the clause takes effect (R384). -/
def endClause (s : State) (pk : Nat) : State :=
  match Map.find? s.paths pk with
  | none => s
  | some p =>
    match p.clause with
    | none => s
    | some c =>
      match p.rett with
      | some (sel, km) => returnFrom (setPath s pk (clauseEnd p c)) pk sel km
      | none => setPath s pk (clauseEnd p c)

/-- The parked lanes of an ordinary path rejoin it at their PC (R142), with the handler path's program order (R238). -/
def rejoin (p : Path) : Path :=
  match p.kind, p.parked with
  | .ordinary, some d =>
    if d.xfer then p
    else { p with mask := p.mask ||| d.mask, parked := none, prog := p.prog.join d.prog p.prog.uid }
  | _, _ => p

/-- The path goes on after an instruction: the next slot, or the end of the clause. -/
def advance (s : State) (pk : Nat) : State :=
  match Map.find? s.paths pk with
  | none => s
  | some p =>
    match p.clause with
    | none => s
    | some c =>
      if c.slot < c.n then
        setPath s pk (rejoin { p with pc := p.pc + 8, clause := some { c with slot := c.slot + 1 }, noWatch := false,
                                      issued := 0, limit := none, wait := .none, again := false, arrived := none })
      else onPath (endClause s pk) pk rejoin

/-- Sides taken beyond the first: a free entry each while any remains, after that in the splitting entry (R112, R115). -/
def takeSides (s : State) (pk : Nat) : List Side → State
  | [] => s
  | d :: ds =>
    let p := pathAt s pk
    let q := bumpCore s (pk / 512) (quadOf s p.gang) 0x006 1
    match freePath s (pk / 512) with
    | some k => takeSides (setPath q k { runSide p d with wait := p.wait, swapHint := false, claimed := none, defer := [], slot := none, urgent := none }) pk ds
    | none =>
      takeSides (setPath (bumpCore q (pk / 512) (quadOf s p.gang) 0x008 1) pk
        { runSide p d with wait := p.wait, parked := p.parked, defer := { sideOf p with wait := .none, parked := none } :: p.defer }) pk ds

/-- Whether the sides of a split find room (R118). -/
def splitFits (s : State) (pk n : Nat) : Bool :=
  decide (n ≤ 1 + freePaths s (pk / 512) + (2 - (pathAt s pk).defer.length))

/-- Sides whose program order continues that of the path they split from (R238). -/
def forkSides (u : Nat) : List Side → List Side
  | [] => []
  | d :: ds => { d with prog := d.prog.fork u } :: forkSides (u + 1) ds

/-- Splits the path at `pk` into sides in the order they are taken, the first keeping the entry (R111, R112). -/
def split (s : State) (pk : Nat) (sides : List Side) : State :=
  let u := s.nextUid
  let s := { s with nextUid := u + sides.length }
  match (if sides.length ≤ 1 then sides else forkSides u sides) with
  | [] => s
  | d :: ds => takeSides (onPath s pk (fun p => { runSide p d with wait := p.wait, swapHint := p.swapHint, parked := p.parked })) pk ds

/-! ### The executing path -/

/-- The path at an instruction with everything it stands in, and its active mask (R16). -/
structure Ctx where
  pk : Nat
  p : Path
  gk : Nat
  g : Gang
  ck : Nat
  run : Nat
  lr : LaunchRec
  cl : Clause
  act : Mask
  deriving DecidableEq, Repr

/-- R16, limited after `.skip` as R142 gives. -/
def formAct (g : Guard) (gg : Gang) (m : Mask) (limit : Option Mask) : Mask :=
  maskOf (m &&& limit.getD (-1)) (fun l => (if g.gp = 15 then true else rp gg g.gp.toNat l) != g.gn)

def ctxOf (s : State) (gd : Guard) : Option Ctx :=
  match Map.find? s.paths s.cur with
  | none => none
  | some p =>
    match p.clause, Map.find? s.gangs p.gang with
    | some cl, some g =>
      let run := (crewAt s g.crew).run
      some { pk := s.cur, p := p, gk := p.gang, g := g, ck := g.crew, run := run, lr := (runAt s run).lr, cl := cl,
             act := formAct gd g p.mask p.limit }
    | _, _ => none

def Ctx.core (c : Ctx) : Nat := c.pk / 512
/-- The agent of the path's own lane accesses. -/
def Ctx.who (c : Ctx) : Who :=
  { crew := some c.ck, core := c.pk / 512, slot := c.gk % 64, sup := c.p.kind == .sup, use := .lane,
    noWatch := c.p.noWatch, run := c.run }
/-- The agent of one lane's access. -/
def Ctx.whoAt (c : Ctx) (l : Nat) : Who := { c.who with lane := l }
/-- The site of the instruction itself. -/
def Ctx.site (c : Ctx) (akind : Nat) (extra : List Word) (xfer : Bool) : Site :=
  { pk := c.pk, pc := c.p.pc, cslot := c.cl.slot, clause := some c.cl, hdr := c.cl.hdr, akind := akind, extra := extra,
    xfer := xfer }

/-- The faulting mask of an instruction-level trap (R139). -/
def Ctx.trapMask (c : Ctx) : Mask := if c.act = 0 then c.p.mask else c.act

/-- Lanes that complete go on, faulting lanes trap (R142). -/
def settle (s : State) (c : Ctx) (fs : List LaneFault) (akind : Nat) (extra : List Word) : State :=
  if fs.isEmpty then advance s c.pk
  else
    let r := takeTrap s (c.site akind extra false) fs
    if r.2 then advance r.1 c.pk else r.1

/-- An instruction-level trap in the lanes of `m` (R139). -/
def trapAll (s : State) (c : Ctx) (code : TrapCode) (m : Mask) (extra : List Word) : State :=
  settle s c (allLanes m code) 0 extra

/-- A trap of R269 before an instruction's own effect: where no entry is free the other lanes of a control transfer are parked
at the transfer (R142). -/
def trapShape (s : State) (sh : Shape) (c : Ctx) (code : TrapCode) (m : Mask) : State :=
  if m = 0 then advance s c.pk
  else
    let r := takeTrap s (c.site 0 [] sh.xfer) (allLanes m code)
    if r.2 then advance r.1 c.pk else r.1

/-- Rows 2 to 7 of R269 for a decoded instruction: the first failing check and its mask (R139). -/
def precheck (s : State) (sh : Shape) (c : Ctx) : Option (TrapCode × Mask) :=
  let m := if c.act = 0 then c.p.mask else c.act
  if (sh.cls != 6 && sh.cls != c.cl.cls) || (sh.xfer && c.cl.slot != c.cl.n) || (sh.slot0 && c.cl.slot != 0) then
    some (.illegalOp, c.p.mask)
  else if !guardOk sh.guard then some (.illegalOp, c.p.mask)
  else if sh.feats.any (fun b => !feature s b) then some (.illegalOp, m)
  else if !sh.ok || sh.vr.any (fun n => decide (c.g.nv ≤ n)) || sh.sr.any (fun n => decide (c.g.ns ≤ n)) ||
      sh.tr.any (fun n => decide (c.g.nt ≤ n)) || sh.ar.any (fun n => decide (c.lr.acc ≤ n)) then some (.illegalOp, m)
  else if sh.sup && c.p.kind != .sup then some (.priv, m)
  else if sh.even.any (fun n => n % 2 == 1) then some (.pairAlign, m)
  else none

/-- Row 8 of R269. -/
def uniformBad (sh : Shape) (c : Ctx) : Bool := c.act != 0 && sh.wS && c.p.mask != c.g.live

/-- Ordinary paths of a gang that stand before the header `pc` at depth `d` and are not held at a breakpoint. -/
def standsAt (pc : DWord) (d : Nat) (p : Path) : Bool :=
  p.kind == .ordinary && p.clause.isNone && p.pc == pc && p.depth == d && !p.stray && !(match p.wait with
    | .held _ => true
    | _ => false)

/-- R122: every live path of the gang is about to begin the clause at `pc`. -/
def gangReady (s : State) (gk : Nat) (pc : DWord) (d : Nat) : Bool :=
  (((pathsOfGang s gk).filter (fun e => standsAt pc d e.2)).foldl (fun a e => a ||| e.2.mask) (0 : Mask)) ==
    (gangAt s gk).live

def isGangWait (p : Path) : Bool := p.kind == .ordinary && p.wait == .gang

/-- R122: every live path waits in .g or WAITG, not all at one PC, no deferred side has still to run. -/
def gangMismatch (s : State) (gk : Nat) : Bool :=
  let ps := pathsOfGang s gk
  let sides := ps.flatMap (fun e => e.2.defer)
  let pcs := ps.map (fun e => e.2.pc) ++ sides.map (·.pc)
  ps.all (fun e => isGangWait e.2) && sides.all (·.wait == .gang) && pcs.any (fun x => x != pcs.headD 0)

def oldestOf (s : State) (gk : Nat) : Option Nat := (leastBy older (pathsOfGang s gk)).map (·.1)

/-- Pushes the waiting running side aside and runs the former top side (R116). -/
def pushAside (s : State) (pk : Nat) : State :=
  match Map.find? s.paths pk with
  | none => s
  | some p =>
    match p.defer with
    | d :: ds => setPath s pk { runSide p d with defer := sideOf p :: ds }
    | [] => s

/-- A .g instruction waits before its clause (R122). -/
def gangWait (s : State) (c : Ctx) : State :=
  onPath s c.pk (fun p => { p with pc := c.cl.hdr, clause := none, wait := .gang })

/-- An operation is one of the path's own: it stands in its lanes, or precedes in its program order. -/
def opMine (p : Path) (o : LaneOp) : Bool := (o.mask &&& p.mask) != 0 || p.prog.ops.contains o.id

/-- An outstanding long-latency operation of this path will still write a register that the instruction writes (R255). -/
def wawPending (sh : Shape) (c : Ctx) : Bool :=
  c.g.ops.any (fun o => opMine c.p o &&
    (o.dv.any (sh.dv.contains ·) || o.ds.any (sh.ds.contains ·) || o.dp.any (sh.dp.contains ·)))

/-- The path stands where it is and waits. -/
def waitFor (s : State) (c : Ctx) (w : Wait) : State := onPath s c.pk (fun p => { p with wait := w })

/-- The word that the path stands at is a NOP. -/
def Ctx.nop (c : Ctx) : Bool :=
  match c.cl.words[c.cl.slot]? with
  | some (.word w) => opcOf w == 0x0F
  | _ => false

/-- Counters of an issued instruction (R76): a beat for each slice with an active lane, at least one; NOP takes one (R282). -/
def countIssue (s : State) (c : Ctx) : State :=
  let q := quadOf s c.gk
  let beats := ((List.range 4).filter (fun k => c.act.extractLsb' (8 * k) 8 != 0)).length
  let s := bumpCore s c.core q 0x003 1
  let s := bumpCore s c.core q 0x004 (if beats = 0 ∨ c.nop then 1 else beats)
  bumpCore s c.core q 0x005 (popc c.act)

/-- Issues an instruction: R269 in its order, then its meaning. A .g instruction executed again after a trap whose wait was met goes
on at once in the handler lanes alone (R142, R384; log entry 11). -/
def issue (sh : Shape) (s : State) (body : Ctx → State → State) : Host.Outcome State Fault Refusal :=
  match ctxOf s sh.guard with
  | none => .fault .noPath
  | some c =>
    match precheck s sh c with
    | some (code, m) => .next (trapShape s sh c code m)
    | none =>
      if sh.gw && c.p.kind == .ordinary && !c.p.again && c.p.mask != c.g.live then
        let t := gangWait s c
        if gangMismatch t c.gk && oldestOf t c.gk == some c.pk then .next (trapAll s c .gwaitMismatch c.p.mask [])
        else .next (pushAside t c.pk)
      else if uniformBad sh c then .next (trapAll s c .uniformSplit c.act [])
      else
        let s := if c.p.wait = .none then countIssue s c else s
        if wawPending sh c then .next (waitFor s c .flush) else .next (body c s)

/-- An event that happens whatever the device's condition. -/
def always (s : State) (f : State → State) : Host.Outcome State Fault Refusal := .next (f s)

/-- An event of the part or of the outside world (rows of the opcode table that no word encodes). Between a thermal trip and the
host's reset the device does nothing but a checkpoint save (R36, R71). -/
def event (s : State) (f : State → State) : Host.Outcome State Fault Refusal := always s (fun s => if s.mg.tripped then s else f s)

/-- An access of the host arrives: the function answers (R54), and no launch write stalls before it (R64). One that stalls has not
arrived yet (log entry 29). -/
def arrives (s : State) : Bool := s.mg.hostReady && s.stalled.isEmpty

/-- An access of the host, whatever the device's condition. -/
def regEvent (s : State) (f : State → State) : Host.Outcome State Fault Refusal := always s (fun s => if arrives s then f s else s)

/-- An access of the host that the rest of the device acts on, so that none follows a thermal trip (R71). -/
def hostEvent (s : State) (f : State → State) : Host.Outcome State Fault Refusal := event s (fun s => if arrives s then f s else s)

/-- A batch operation joins the gang's open batch (R195). Answers the batch's number. -/
def joinBatch (s : State) (gk : Nat) : Word × State :=
  ((gangAt s gk).openB.num, onGang s gk (fun g => { g with openB := { g.openB with pending := g.openB.pending + 1 } }))

/-- An operation of a batch completes with a status (R196, R339). -/
def batchDone (s : State) (gk : Nat) (n : Word) (st : BitVec 8) : State :=
  onGang s gk (fun g =>
    if g.openB.num = n then { g with openB := { g.openB with pending := g.openB.pending - 1, status := g.openB.status ||| st } }
    else
      let cs := g.closed.map (fun b => if b.num = n then { b with pending := b.pending - 1, status := b.status ||| st } else b)
      let done := cs.filter (fun b => b.pending == 0)
      { g with closed := cs.filter (fun b => b.pending != 0),
               undeliv := done.foldl (fun u b => u ||| b.status) g.undeliv })

/-- The outstanding operations that precede in a path's program order (R238). -/
def opsBefore (s : State) (pk gk : Nat) : List Nat :=
  (pathAt s pk).prog.ops.filter (fun n => (gangAt s gk).ops.any (fun o => o.id == n))

/-- A lane long-latency operation that moves cursor register `cur`, if any, is issued: its clause joins the flag counts of R126,
and it joins the program order of its path (R238). -/
def addOpCur (s : State) (c : Ctx) (m : Mask) (body : OpBody) (dv ds dp : List Nat) (store : Bool) (cur : Option Nat) : State :=
  let old := opsBefore s c.pk c.gk
  let n := (gangAt s c.gk).nextOp
  onPath (onGang s c.gk (fun g =>
    { g with ops := g.ops ++ [{ id := n, path := c.pk, mask := m, uid := c.cl.uid, sets := c.cl.sets, body := body,
                                dv := dv, ds := ds, dp := dp, store := store, after := old, cur := cur }],
             nextOp := n + 1 })) c.pk (fun p => { p with prog := { p.prog with ops := old ++ [n] } })

def addOp (s : State) (c : Ctx) (m : Mask) (body : OpBody) (dv ds dp : List Nat) (store : Bool) : State :=
  addOpCur s c m body dv ds dp store none

/-- One register write of a completing operation: lanes that have exited discard it (R276). -/
def regWrite (g : Gang) : RegWrite → Gang
  | .v n l x => if g.live.getLsbD l then wv g n l x.toNat else g
  | .s n x => if g.live = 0 then g else ws g n x.toNat
  | .p n l b => if g.live.getLsbD l then wp g n l b else g

/-- The register writes of a value of `w` V registers from `n`. -/
def vWrites (n l w x : Nat) : List RegWrite :=
  (List.range w).map (fun k => .v (n + k) l (BitVec.ofNat 32 (x / 2 ^ (32 * k))))
def sWrites (n w x : Nat) : List RegWrite :=
  (List.range w).map (fun k => .s (n + k) (BitVec.ofNat 32 (x / 2 ^ (32 * k))))

/-- Fn reads as set (R126). -/
def flagSet (g : Gang) (n : Nat) : Bool := g.ops.any (fun o => o.sets.contains n)

/-! ### Fetch -/

/-- The request that a path's fetch of a word has sent to a peer. -/
def fetchOp (s : State) (w : Who) (a : Nat) : Option PeerOp :=
  s.peerOps.find? (fun o => o.addr.toNat == a && (match o.owner with
    | .fetch g _ u => g == 64 * w.core + w.slot && u == w.lane
    | _ => false))

/-- Reads one word at a code address as the path's gang may fetch it (R151, R152), from a peer that holds it as it has answered. -/
def fetchAt (s : State) (w : Who) (a : Nat) : Fetched :=
  let w := { w with use := .fetch }
  match fetchOp s w a with
  | some o => match o.fail, o.answer with
    | some code, _ => .lost code
    | none, some bs => .word (BitVec.ofNat 64 (leNat (bs.take 8)))
    | none, none => .wait
  | none =>
    match check s w a 8 .fetch with
    | some .firstTouch => .word 0
    | some c => .bad c
    | none => if (peerHome s w a).isSome then .wait else .word (BitVec.ofNat 64 (loadLoc s (locate s w a) 8))

/-- A clause header's fields (R252) when R253 admits it: N, CLASS, YIELD, WAIT flags, SET flags. -/
structure Header where
  n : Nat
  cls : Nat
  yld : Nat
  waits : List Nat
  sets : List Nat
  deriving DecidableEq, Repr

def parseHeader (w : DWord) : Option Header :=
  let x := w.toNat
  let seta := bitsN x 20 4
  let setb := bitsN x 25 4
  let va := bitsN x 24 1 == 1
  let vb := bitsN x 29 1 == 1
  if bitsN x 32 8 = 0xA7 ∧ bitsN x 4 4 < 6 ∧ bitsN x 30 2 ≠ 3 ∧ bitsN x 40 24 = 0 ∧ (va → seta < 12) ∧ (vb → setb < 12) ∧
      (!va → seta = 0) ∧ (!vb → setb = 0) then
    some { n := bitsN x 0 4, cls := bitsN x 4 4, yld := bitsN x 30 2,
           waits := (List.range 12).filter (fun k => x.testBit (8 + k)),
           sets := nubN ((if va then [seta] else []) ++ (if vb then [setb] else [])) }
  else none

/-- The capacity of a ring over a DATA object, in records of `n` bytes (R103). -/
def ringCap (s : State) (oid n : Nat) : Nat :=
  let e := entryOf s oid
  if e.ok ∧ e.kind = 1 then e.size / n else 0

/-! ### Launch ports (R58, R64) -/

/-- The queue and the spilled records of a port. -/
def lqAt (s : State) (p : Nat) : List (List Byte) := Map.getD s.lq p []
def spillAt (s : State) (p : Nat) : List (List Byte) := Map.getD s.spill p []

/-- Records the overflow object of a port holds (R64). -/
def ovfCap (s : State) (p : Nat) : Nat := ringCap s ((Map.getD s.mg.ovf p 0).toNat % 2 ^ 24) 64

/-- A record can be taken in by a port. -/
def portRoom (s : State) (p : Nat) : Bool :=
  (decide ((lqAt s p).length < 1024) && (spillAt s p).isEmpty) || decide ((spillAt s p).length < ovfCap s p)

/-! ### Readiness -/

/-- The agent that fetches for a path. -/
def pathWho (s : State) (pk : Nat) (p : Path) : Who :=
  { crew := some (gangAt s p.gang).crew, core := pk / 512, slot := p.gang % 64, sup := p.kind == .sup, use := .fetch,
    noWatch := false, run := (crewAt s (gangAt s p.gang).crew).run, lane := p.prog.uid }

/-- Breakpoints that hold a path about to begin the clause it stands before (R104, R105). -/
def breakHit (s : State) (pk : Nat) (p : Path) : Option Nat :=
  (List.range 4).find? (fun n =>
    let c := Map.getD s.mg.bkptCtl n 0
    c.getLsbD 31 && Map.getD s.mg.bkptAddr n 0 == p.pc &&
      (!c.getLsbD 28 || ((c.extractLsb' 16 8).toNat == pk / 512 && (c.extractLsb' 0 6).toNat == p.gang % 64)))

/-- A path's wait is over, so that its instruction or clause may be tried again. -/
def waitOver (s : State) (pk : Nat) (p : Path) : Bool :=
  let g := gangAt s p.gang
  match p.wait with
  | .none => true
  | .barrier off ph => (barAt s g.crew off).phase != ph.toNat || (!p.defer.isEmpty && !hasArrived s p.gang off)
  | .gang => gangReady s p.gang p.pc p.depth || !p.defer.isEmpty || (gangMismatch s p.gang && oldestOf s p.gang == some pk)
  | .batch n => !g.closed.any (fun b => decide ((n - b.num).toNat < 2 ^ 31))
  | .growth _ => false
  | .parked _ => false
  | .held _ => false
  | .sleep => false
  | .flush => !g.ops.any (opMine p)
  | .fetchHost t => !s.svcs.any (fun v => v.tag == t)
  | .locks n => decide ((s.locks.filter (fun x => x.cluster == clusterOf s (pk / 512) && decide (x.oid < 2 ^ 24))).length + n ≤ 64)
  | .table => decide ((Map.getD s.resv (clusterOf s (pk / 512)) []).length < 32)
  | .port c => portRoom s c && !s.stalled.any (fun x => x.1 == c)
  | .batchSlot => decide (g.closed.length < 16) || g.openB.pending == 0
  | .arrival => decide (g.arr.length < 8)
  | .tile t => !g.tpend.getLsbD t
  | .migration oid => s.migr.all (fun m => m.oid != oid)
  | .peer => !s.peerOps.any (fun o => match o.owner with
      | .lane _ k _ _ => k == pk && o.answer.isNone && o.fail.isNone
      | .fetch _ k u => k == pk && u == p.prog.uid && o.answer.isNone && o.fail.isNone
      | _ => false)
  | .zport n => (Map.find? s.zports n).all (fun z => !z.up || decide (z.tx.length + 64 ≤ 2048))

/-- A HARVEST or TLBINV of the path's lanes is in progress, so that no clause begins (R359). -/
def transPending (s : State) (p : Path) : Bool :=
  s.harvs.any (fun h => h.gang == p.gang && (h.mask &&& p.mask) != 0) ||
    s.shoots.any (fun x => match x.who with
      | .lanes g m => g == p.gang && (m &&& p.mask) != 0
      | _ => false)

/-- A path that may be selected (R83): not awaiting vectoring, its wait over, its next clause's WAIT flags clear, its
crew not draining at a clause boundary (R94), its core running (R36). -/
def ready (s : State) (pk : Nat) (p : Path) : Bool :=
  p.vectored && waitOver s pk p && !s.mg.tripped &&
    (match p.clause with
     | some _ => true
     | none => !(crewAt s (gangAt s p.gang).crew).draining && !transPending s p &&
        (match fetchAt s (pathWho s pk p) p.pc.toNat with
         | .word w => (match parseHeader w with
            | some h => h.waits.all (fun n => !flagSet (gangAt s p.gang) n)
            | none => true)
         | _ => true))

end Sys2Proof.Machine
end

