-- ==== Sys2Proof/Machine/Flags.lean ====
section
/-! DEFINITION. The flag computations of the integer instructions: element types (R15, R220, R221), wrap and clamp, carry
and borrow, compares (R292), and counts of bits. The floating-point flags are computed in Machine/Float.lean. -/

namespace Sys2Proof.Machine

/-- An integer-set type: element width, elements in the operand, signedness (R220, R221). -/
structure ITy where
  w : Nat
  n : Nat
  sg : Bool
  deriving DecidableEq, Repr

def ityOf (t : BitVec 4) : ITy :=
  match t.toNat with
  | 0 => { w := 32, n := 1, sg := true }
  | 1 => { w := 32, n := 1, sg := false }
  | 2 => { w := 64, n := 1, sg := true }
  | 3 => { w := 64, n := 1, sg := false }
  | 4 => { w := 16, n := 2, sg := true }
  | 5 => { w := 16, n := 2, sg := false }
  | 6 => { w := 8, n := 4, sg := true }
  | 7 => { w := 8, n := 4, sg := false }
  | 8 => { w := 4, n := 8, sg := true }
  | _ => { w := 4, n := 8, sg := false }

/-- The value of a w-bit pattern. -/
def sext (w x : Nat) : Int := if x.testBit (w - 1) then (x % 2 ^ w : Nat) - (2 ^ w : Nat) else (x % 2 ^ w : Nat)
def valOf (sg : Bool) (w x : Nat) : Int := if sg then sext w x else (x % 2 ^ w : Nat)
/-- Element `i` of an operand. -/
def elemU (t : ITy) (x i : Nat) : Nat := x / 2 ^ (t.w * i) % 2 ^ t.w
def elemV (t : ITy) (x i : Nat) : Int := valOf t.sg t.w (elemU t x i)

/-- The w-bit pattern of an integer, modulo 2^w. -/
def wrapI (w : Nat) (r : Int) : Nat := (r % (2 ^ w : Nat)).toNat
/-- The nearer end of the range (R220). -/
def clampI (sg : Bool) (w : Nat) (r : Int) : Int :=
  let lo : Int := if sg then -(2 ^ (w - 1) : Nat) else 0
  let hi : Int := if sg then (2 ^ (w - 1) : Nat) - 1 else (2 ^ w : Nat) - 1
  if r < lo then lo else if hi < r then hi else r
/-- An exact result as its element: wrapped, or clamped under SAT (R220). -/
def fitI (t : ITy) (sat : Bool) (r : Int) : Nat := wrapI t.w (if sat then clampI t.sg t.w r else r)

/-- An operand from its elements. -/
def joinE (w : Nat) : List Nat → Nat
  | [] => 0
  | x :: xs => x + 2 ^ w * joinE w xs
def perElem (t : ITy) (f : Nat → Nat) : Nat := joinE t.w ((List.range t.n).map f)

/-- Leading zeros of a w-bit pattern. -/
def clzN (x : Nat) : Nat → Nat
  | 0 => 0
  | w + 1 => if x.testBit w then 0 else 1 + clzN x w
/-- Ones of the low w bits. -/
def onesN (x : Nat) : Nat → Nat
  | 0 => 0
  | w + 1 => (if x.testBit w then 1 else 0) + onesN x w
/-- The low w bits in reverse order. -/
def revN (x : Nat) : Nat → Nat
  | 0 => 0
  | w + 1 => (if x.testBit 0 then 2 ^ w else 0) + revN (x / 2) w

/-- R286. -/
def shlE (t : ITy) (a c : Nat) : Nat := if t.w ≤ c then 0 else a * 2 ^ c % 2 ^ t.w
def shrE (t : ITy) (a c : Nat) : Nat := if t.w ≤ c then 0 else a / 2 ^ c
def sarE (t : ITy) (a c : Nat) : Nat := wrapI t.w (valOf t.sg t.w a / (2 ^ (min c t.w) : Nat))
def rotE (t : ITy) (a c : Nat) : Nat := a * 2 ^ (c % t.w) % 2 ^ t.w + a / 2 ^ (t.w - c % t.w)

/-- Division of R284 and R285. -/
def divE (a b : Int) : Int := if b = 0 then -1 else Int.tdiv a b
def remE (a b : Int) : Int := if b = 0 then a else a - b * Int.tdiv a b

/-- R287. -/
def bfeE (t : ITy) (a b : Nat) : Nat :=
  let len := min (bitsN b 8 8) t.w
  let fld := a / 2 ^ (bitsN b 0 8) % 2 ^ len
  if len = 0 then 0 else if t.sg then wrapI t.w (sext len fld) else fld
def bfiE (t : ITy) (a b c : Nat) : Nat :=
  let pos := bitsN b 0 8
  let len := min (bitsN b 8 8) t.w
  let m := (2 ^ len - 1) * 2 ^ pos % 2 ^ t.w
  (c &&& (2 ^ t.w - 1 - m)) ||| (a * 2 ^ pos % 2 ^ t.w &&& m)

/-- The conditions of R292 for integers. -/
def condI (func : Nat) (a b : Int) (both : Nat) : Bool :=
  match func with
  | 0 => decide (a = b)
  | 1 => decide (a ≠ b)
  | 2 => decide (a < b)
  | 3 => decide (a ≤ b)
  | 4 => decide (b < a)
  | 5 => decide (b ≤ a)
  | _ => both != 0

/-- Carry out of a + b + c and borrow out of a − b − c on 32 bits (R284). -/
def carryOut (a b : Nat) (c : Bool) : Bool := decide (2 ^ 32 ≤ a + b + c.toNat)
def borrowOut (a b : Nat) (c : Bool) : Bool := decide (a < b + c.toNat)

/-- One byte step of CRC-32C, without inversion (R296). -/
def crcBit (x : Nat) : Nat := if x % 2 = 1 then (x / 2) ^^^ 0x82F63B78 else x / 2
def crcByte (crc b : Nat) : Nat :=
  crcBit (crcBit (crcBit (crcBit (crcBit (crcBit (crcBit (crcBit (crc ^^^ b))))))))
def crcBytes (crc : Nat) (bs : List Byte) : Nat := bs.foldl (fun c b => crcByte c b.toNat) crc
/-- CRC-32C of a byte string. -/
def crc32c (bs : List Byte) : Nat := 0xFFFFFFFF - crcBytes 0xFFFFFFFF bs

/-- Byte `i` of a register (R3). -/
def byteN (x i : Nat) : Nat := x / 256 ^ i % 256

end Sys2Proof.Machine
end

