-- ==== Sys2Proof/Machine/Float.lean ====
section
/-! DEFINITION. Number formats and exact arithmetic (R222 to R235): values as exact dyadic numbers, Round, and the
floating-point flags. Flags are bits of FLAGS: INVALID 1, DIVIDE 2, OVERFLOW 4, UNDERFLOW 8, INEXACT 16, XE 32. -/

namespace Sys2Proof.Machine

/-- A format of R222: exponent bits, fraction bits, bias, infinities, canonical NaN (none for .f4), code of the largest
finite magnitude, whether it has signalling NaNs. -/
structure Fmt where
  eb : Nat
  pb : Nat
  bias : Nat
  inf : Bool
  nan : Option Nat
  maxCode : Nat
  sig : Bool
  deriving DecidableEq, Repr

def fF64 : Fmt := { eb := 11, pb := 52, bias := 1023, inf := true, nan := some 0x7FF8000000000000, maxCode := 0x7FEFFFFFFFFFFFFF, sig := true }
def fF32 : Fmt := { eb := 8, pb := 23, bias := 127, inf := true, nan := some 0x7FC00000, maxCode := 0x7F7FFFFF, sig := true }
def fF16 : Fmt := { eb := 5, pb := 10, bias := 15, inf := true, nan := some 0x7E00, maxCode := 0x7BFF, sig := true }
def fBf16 : Fmt := { eb := 8, pb := 7, bias := 127, inf := true, nan := some 0x7FC0, maxCode := 0x7F7F, sig := true }
def fF8a : Fmt := { eb := 4, pb := 3, bias := 7, inf := false, nan := some 0x7F, maxCode := 0x7E, sig := false }
def fF8b : Fmt := { eb := 5, pb := 2, bias := 15, inf := true, nan := some 0x7E, maxCode := 0x7B, sig := false }
def fF4 : Fmt := { eb := 2, pb := 1, bias := 1, inf := false, nan := none, maxCode := 7, sig := false }

/-- Formats by code of the float set (R15) and, alike, of the conversion set (R299). -/
def fmtOfCode : Nat → Fmt
  | 0 => fF32
  | 1 => fF64
  | 2 => fF16
  | 3 => fBf16
  | 4 => fF8a
  | 5 => fF8b
  | _ => fF4

def Fmt.width (f : Fmt) : Nat := 1 + f.eb + f.pb
/-- Exponent of the smallest normal. -/
def Fmt.emin (f : Fmt) : Int := 1 - (f.bias : Int)

/-- A value: a NaN, an infinity, or the exact number (−1)^neg · m · 2^e with signed zeros. -/
inductive FVal where
  | nan (sig : Bool)
  | inf (neg : Bool)
  | fin (neg : Bool) (m : Nat) (e : Int)
  deriving DecidableEq, Repr

inductive Mode where
  | rne | rtz | rup | rdn | rsr
  deriving DecidableEq, Repr

def modeOf (rnd : BitVec 2) : Mode :=
  match rnd.toNat with
  | 0 => .rne
  | 1 => .rtz
  | 2 => .rup
  | _ => .rdn

def fINVALID : Nat := 1
def fDIVIDE : Nat := 2
def fOVERFLOW : Nat := 4
def fUNDERFLOW : Nat := 8
def fINEXACT : Nat := 16
def fXE : Nat := 32

/-- The value of a pattern (R222, R223). -/
def decodeF (f : Fmt) (x : Nat) : FVal :=
  let neg := x.testBit (f.eb + f.pb)
  let mag := x % 2 ^ (f.eb + f.pb)
  let ex := mag / 2 ^ f.pb
  let fr := mag % 2 ^ f.pb
  if f.maxCode < mag then
    if f.inf ∧ fr = 0 then .inf neg else .nan (f.sig && !fr.testBit (f.pb - 1))
  else if ex = 0 then .fin neg fr (f.emin - f.pb)
  else .fin neg (fr + 2 ^ f.pb) ((ex : Int) - f.bias - f.pb)

def FVal.isNan : FVal → Bool
  | .nan _ => true
  | _ => false
def FVal.isSig : FVal → Bool
  | .nan s => s
  | _ => false
def FVal.isZero : FVal → Bool
  | .fin _ 0 _ => true
  | _ => false
def FVal.neg : FVal → Bool
  | .nan _ => false
  | .inf n => n
  | .fin n _ _ => n
def FVal.negate : FVal → FVal
  | .nan s => .nan s
  | .inf n => .inf (!n)
  | .fin n m e => .fin (!n) m e

/-- floor(log2 |x|) of a non-zero finite value. -/
def lg (m : Nat) (e : Int) : Int := (Nat.log2 m : Int) + e

/-- Reads an operand: under FTZ a subnormal of the format is a zero of its sign (R230). -/
def readF (f : Fmt) (ftz : Bool) (x : Nat) : FVal :=
  match decodeF f x with
  | .fin n m e => if ftz ∧ m ≠ 0 ∧ lg m e < f.emin then .fin n 0 0 else .fin n m e
  | v => v

def sigFlag (v : FVal) : Nat := if v.isSig then fINVALID else 0

/-- NextRand (R226). -/
def nextRand (s : Word) : Word :=
  let s := s ^^^ (s <<< 13)
  let s := s ^^^ (s >>> 17)
  s ^^^ (s <<< 5)

def signCode (f : Fmt) (neg : Bool) (c : Nat) : Nat := if neg then c + 2 ^ (f.eb + f.pb) else c
def infCode (f : Fmt) (neg : Bool) : Nat := signCode f neg ((2 ^ f.eb - 1) * 2 ^ f.pb)

/-- m · 2^e over the unit 2^qe: the integer part, and the fraction's numerator over 2^sh. -/
def cutAt (m : Nat) (e qe : Int) : Nat × Nat × Nat :=
  if qe ≤ e then (m * 2 ^ (e - qe).toNat, 0, 0)
  else
    let sh := (qe - e).toNat
    (m / 2 ^ sh, m % 2 ^ sh, sh)

/-- Whether a value with integer part `n` and fraction r/2^sh rounds away from zero (R225). -/
def awayBit (mode : Mode) (neg : Bool) (u n r sh : Nat) : Bool :=
  if r = 0 then false
  else match mode with
    | .rne => decide (2 ^ sh < 2 * r) || (2 * r == 2 ^ sh && n % 2 == 1)
    | .rtz => false
    | .rup => !neg
    | .rdn => neg
    | .rsr => decide (2 ^ 32 ≤ r * 2 ^ 32 / 2 ^ sh + u)

/-- Overflow of R225: code and flags. -/
def overflowF (f : Fmt) (mode : Mode) (sat neg : Bool) : Nat × Nat :=
  let big := mode = .rne ∨ mode = .rsr ∨ (mode = .rup ∧ !neg) ∨ (mode = .rdn ∧ neg)
  let fl := fOVERFLOW ||| fINEXACT
  if ¬ big ∨ sat then (signCode f neg f.maxCode, fl)
  else if f.inf then (infCode f neg, fl)
  else match f.nan with
    | some c => (c, fl)
    | none => (signCode f neg f.maxCode, fl)

/-- Round of R225: code and flags. `ftz` says whether FTZ applies to this result, `u` is the RSR draw. -/
def roundF (f : Fmt) (mode : Mode) (sat ftz : Bool) (u : Nat) (x : FVal) : Nat × Nat :=
  match x with
  | .nan _ => match f.nan with
    | some c => (c, 0)
    | none => (0, fINVALID)
  | .inf n => if f.inf then (infCode f n, 0) else overflowF f .rne sat n
  | .fin neg m e =>
    if m = 0 then (signCode f neg 0, 0)
    else
      let qe := max (lg m e) f.emin - f.pb
      let (n, r, sh) := cutAt m e qe
      let away := awayBit mode neg u n r sh
      let code := (qe - (f.emin - f.pb)).toNat * 2 ^ f.pb + n + away.toNat
      if f.maxCode < code then overflowF f mode sat neg
      else
        let tiny := lg m e < f.emin
        if ftz ∧ code ≠ 0 ∧ code < 2 ^ f.pb then (signCode f neg 0, fUNDERFLOW ||| fINEXACT)
        else (signCode f neg code, if r = 0 then 0 else if tiny then fUNDERFLOW ||| fINEXACT else fINEXACT)

/-- Exact sum; an exact zero of operands of opposite sign is +0, or −0 in RDN (R225). -/
def addV (mode : Mode) (a b : FVal) : FVal × Nat :=
  match a, b with
  | .nan s, v => (.nan false, if s || v.isSig then fINVALID else 0)
  | v, .nan s => (.nan false, if s || v.isSig then fINVALID else 0)
  | .inf x, .inf y => if x = y then (.inf x, 0) else (.nan false, fINVALID)
  | .inf x, _ => (.inf x, 0)
  | _, .inf y => (.inf y, 0)
  | .fin sx mx ex, .fin sy my ey =>
    let e := min ex ey
    let ix : Int := (mx * 2 ^ (ex - e).toNat : Nat)
    let iy : Int := (my * 2 ^ (ey - e).toNat : Nat)
    let t := (if sx then -ix else ix) + (if sy then -iy else iy)
    if t = 0 then (.fin (if sx = sy then sx else decide (mode = .rdn)) 0 0, 0)
    else (.fin (decide (t < 0)) t.natAbs e, 0)

/-- Exact product. -/
def mulV (a b : FVal) : FVal × Nat :=
  match a, b with
  | .nan s, v => (.nan false, if s || v.isSig then fINVALID else 0)
  | v, .nan s => (.nan false, if s || v.isSig then fINVALID else 0)
  | .inf x, v => if v.isZero then (.nan false, fINVALID) else (.inf (x != v.neg), 0)
  | v, .inf y => if v.isZero then (.nan false, fINVALID) else (.inf (y != v.neg), 0)
  | .fin sx mx ex, .fin sy my ey => (.fin (sx != sy) (mx * my) (ex + ey), 0)

/-- a · b + c, exactly (R305). -/
def fmaV (mode : Mode) (a b c : FVal) : FVal × Nat :=
  let (p, f1) := mulV a b
  if p.isNan then (.nan false, f1 ||| sigFlag c)
  else
    let (r, f2) := addV mode p c
    (r, f1 ||| f2)

/-- A value known to lie strictly between q and q + 1 units 2^e unless `exact` (one more bit stands for the rest). -/
def sticky (neg : Bool) (q : Nat) (e : Int) (exact : Bool) : FVal := .fin neg (2 * q + (if exact then 0 else 1)) (e - 1)

/-- Quotient (R302, R303). -/
def divV (a b : FVal) : FVal × Nat :=
  match a, b with
  | .nan s, v => (.nan false, if s || v.isSig then fINVALID else 0)
  | v, .nan s => (.nan false, if s || v.isSig then fINVALID else 0)
  | .inf _, .inf _ => (.nan false, fINVALID)
  | .inf x, v => (.inf (x != v.neg), 0)
  | v, .inf y => (.fin (v.neg != y) 0 0, 0)
  | .fin sx mx ex, .fin sy my ey =>
    if my = 0 then (if mx = 0 then (.nan false, fINVALID) else (.inf (sx != sy), fDIVIDE))
    else if mx = 0 then (.fin (sx != sy) 0 0, 0)
    else
      let k : Nat := 128 + Nat.log2 my
      let n := mx * 2 ^ k
      (sticky (sx != sy) (n / my) (ex - ey - k) (n % my == 0), 0)

/-- floor(√x) by bits from 2^n down. -/
def isqrt (x : Nat) : Nat → Nat → Nat
  | 0, r => r
  | n + 1, r =>
    let t := r + 2 ^ n
    isqrt x n (if t * t ≤ x then t else r)

def one : FVal := .fin false 1 0

/-- Square root (R303). -/
def sqrtV (a : FVal) : FVal × Nat :=
  match a with
  | .nan s => (.nan false, if s then fINVALID else 0)
  | .inf n => if n then (.nan false, fINVALID) else (.inf false, 0)
  | .fin n m e =>
    if m = 0 then (.fin n 0 0, 0)
    else if n then (.nan false, fINVALID)
    else
      let k : Nat := 160 + (if (e - 160) % 2 = 0 then 0 else 1)
      let x := m * 2 ^ k
      let r := isqrt x (Nat.log2 x / 2 + 1) 0
      (sticky false r ((e - k) / 2) (r * r == x), 0)

/-- Reciprocal square root (R303). -/
def rsqV (a : FVal) : FVal × Nat :=
  match a with
  | .nan s => (.nan false, if s then fINVALID else 0)
  | .inf n => if n then (.nan false, fINVALID) else (.fin false 0 0, 0)
  | .fin n m e =>
    if m = 0 then (.inf n, fDIVIDE)
    else if n then (.nan false, fINVALID)
    else
      let k : Nat := 2 * Nat.log2 m + 160 + (if e % 2 = 0 then 0 else 1)
      let r := isqrt (2 ^ k / m) (Nat.log2 (2 ^ k / m) / 2 + 1) 0
      (sticky false r ((-e - k) / 2) (r * r * m == 2 ^ k), 0)

/-- Fixed-point constants with 256 fraction bits: ⌊ln 2 · 2^256⌋ and ⌊2^256 / ln 2⌋. -/
def ln2Fix : Nat := 80260960185991308862233904206310070533990667611589946606122867505419956976171
def invLn2Fix : Nat := 167052672916848388242985626561247531987276682633131050150846402744536260568207

/-- Terms t^k / k! from the k-th on, in units of 2^-256. -/
def expSum (t : Nat) : Nat → Nat → Nat → Nat
  | 0, _, _ => 0
  | n + 1, k, term => term + expSum t n (k + 1) (term * t / 2 ^ 256 / k)
/-- Terms z^(2k+1) / (2k+1). -/
def atanhSum (z2 : Nat) : Nat → Nat → Nat → Nat
  | 0, _, _ => 0
  | n + 1, k, pw => pw / k + atanhSum z2 n (k + 2) (pw * z2 / 2 ^ 256)

/-- The two ends of an interval of 2^13 units that holds an irrational result. -/
def ends (neg : Bool) (lo : Nat) (e : Int) : FVal × FVal := (.fin neg (2 * lo + 1) (e - 1), .fin neg (2 * lo + 2 ^ 14 - 1) (e - 1))

/-- 2^a as the two ends of an interval, equal when the result is exact (R302, R303). -/
def exp2V (a : FVal) : FVal × FVal × Nat :=
  match a with
  | .nan s => (.nan false, .nan false, if s then fINVALID else 0)
  | .inf n => if n then (.fin false 0 0, .fin false 0 0, 0) else (.inf false, .inf false, 0)
  | .fin n m e =>
    if m = 0 then (one, one, 0)
    else if 11 ≤ lg m e then
      let v : FVal := .fin false 1 (if n then -2048 else 2048)
      (v, v, 0)
    else
      -- a = k + r / 2^w with 0 ≤ r < 2^w
      let w := if e < 0 then (-e).toNat else 0
      let i : Int := (m * 2 ^ (e + w).toNat : Nat)
      let i := if n then -i else i
      let k := i / (2 ^ w : Nat)
      let r := (i % (2 ^ w : Nat)).toNat
      if r = 0 then (.fin false 1 k, .fin false 1 k, 0)
      else
        let t := r * ln2Fix / 2 ^ w
        let (x, y) := ends false (expSum t 66 1 (2 ^ 256)) (k - 256)
        (x, y, 0)

/-- log2 a as the two ends of an interval (R302, R303). -/
def log2V (a : FVal) : FVal × FVal × Nat :=
  match a with
  | .nan s => (.nan false, .nan false, if s then fINVALID else 0)
  | .inf n => if n then (.nan false, .nan false, fINVALID) else (.inf false, .inf false, 0)
  | .fin n m e =>
    if m = 0 then (.inf true, .inf true, fDIVIDE)
    else if n then (.nan false, .nan false, fINVALID)
    else
      let k := lg m e
      let b := 2 ^ Nat.log2 m
      if m = b then
        let v : FVal := .fin (decide (k < 0)) k.natAbs 0
        (v, v, 0)
      else
        let z := (m - b) * 2 ^ 256 / (m + b)
        let ln := 2 * atanhSum (z * z / 2 ^ 256) 90 1 z
        let t : Int := k * (2 ^ 256 : Nat) + (ln * invLn2Fix / 2 ^ 256 : Nat) - 2 ^ 12
        if 0 ≤ t then
          let (x, y) := ends false t.toNat (-256)
          (x, y, 0)
        else
          let (x, y) := ends true (t.natAbs - 2 ^ 13) (-256)
          (x, y, 0)

/-- The greatest magnitude not above a value's that is a whole number of half units in the last place: every magnitude at which Round
changes its result is one (R225). -/
def gridPoint (f : Fmt) (v : FVal) : FVal :=
  match v with
  | .fin n m e =>
    let g := max (lg m e) f.emin - f.pb - 1
    .fin n (cutAt m e g).1 g
  | w => w

/-- 2^a is less than the positive number t: with a = i / 2^w, a comparison of 2^i with the power 2^w of t. -/
def exp2Lt (a t : FVal) : Bool :=
  match a, t with
  | .fin n m e, .fin _ tm te =>
    let w := if e < 0 then (-e).toNat else 0
    let i : Int := (m * 2 ^ (e + w).toNat : Nat)
    let d := (if n then -i else i) - te * (2 ^ w : Nat)
    if d < 0 then tm != 0 else decide (2 ^ d.toNat < tm ^ 2 ^ w)
  | _, _ => false

/-- The logarithm of a positive number is less than t = p / 2^j: a comparison of the power 2^j of the number with 2^p. -/
def log2Lt (a t : FVal) : Bool :=
  match a, t with
  | .fin _ m e, .fin n tm te =>
    let j := if te < 0 then (-te).toNat else 0
    let i : Int := (tm * 2 ^ (te + j).toNat : Nat)
    let d := (if n then -i else i) - e * (2 ^ j : Nat)
    if d < 0 then false else decide (m ^ 2 ^ j < 2 ^ d.toNat)
  | _, _ => false

/-- Rounds a result given by the two ends of an interval, `x` of the lesser magnitude: where they round alike, that is the result;
where a point of change lies between them, `less` says whether the exact result is of lesser magnitude than that point. -/
def roundEnds (f : Fmt) (mode : Mode) (sat ftz : Bool) (x y : FVal) (less : FVal → Bool) : Nat × Nat :=
  let r := roundF f mode sat ftz 0 x
  let r' := roundF f mode sat ftz 0 y
  if r = r' then r else if less (gridPoint f y) then r else r'

/-- The integer a value rounds to under a mode, and whether that is inexact. -/
def toInt (mode : Mode) (u : Nat) (neg : Bool) (m : Nat) (e : Int) : Int × Bool :=
  let (n, r, sh) := cutAt m e 0
  let k : Int := (n + (awayBit mode neg u n r sh).toNat : Nat)
  (if neg then -k else k, r != 0)

/-- Order of two values that are no NaN. -/
def cmpV (a b : FVal) : Ordering :=
  match a, b with
  | .inf x, .inf y => if x = y then .eq else if x then .lt else .gt
  | .inf x, _ => if x then .lt else .gt
  | _, .inf y => if y then .gt else .lt
  | a, b =>
    match (addV .rne a b.negate).1 with
    | .fin n m _ => if m = 0 then .eq else if n then .lt else .gt
    | _ => .eq

/-- R304: `less` picks the lesser (FMIN) or the greater; the operand's code is returned unchanged. -/
def minmaxF (f : Fmt) (less ftz : Bool) (xa xb : Nat) : Nat × Nat :=
  let a := readF f ftz xa
  let b := readF f ftz xb
  let ca := if a.isZero then signCode f a.neg 0 else xa
  let cb := if b.isZero then signCode f b.neg 0 else xb
  let fl := sigFlag a ||| sigFlag b
  match a, b with
  | .nan _, .nan _ => (f.nan.getD 0, fl)
  | .nan _, _ => (cb, fl)
  | _, .nan _ => (ca, fl)
  | _, _ =>
    let lt := match cmpV a b with
      | .lt => true
      | .eq => if a.isZero ∧ b.isZero then a.neg && !b.neg else true
      | .gt => false
    (if lt = less then ca else cb, fl)

/-- R306: FRND of one element. -/
def frndF (f : Fmt) (mode : Mode) (ftz : Bool) (x : Nat) : Nat × Nat :=
  match readF f ftz x with
  | .nan s => (f.nan.getD 0, if s then fINVALID else 0)
  | .inf n => (infCode f n, 0)
  | .fin n m e =>
    let (k, _) := toInt mode 0 n m e
    ((roundF f mode false false 0 (.fin n k.natAbs 0)).1, 0)

/-- R307: the class mask of one element. -/
def fclassF (f : Fmt) (x : Nat) : Nat :=
  match decodeF f x with
  | .nan s => if s then 1 else 2
  | .inf n => if n then 4 else 512
  | .fin n m e =>
    if m = 0 then (if n then 32 else 64)
    else if lg m e < f.emin then (if n then 16 else 128)
    else if n then 8 else 256

/-- R292 and R293: the truth of an FCMP condition and its flags. -/
def fcmpF (f : Fmt) (ftz : Bool) (func xa xb : Nat) : Bool × Nat :=
  let a := readF f ftz xa
  let b := readF f ftz xb
  let un := a.isNan || b.isNan
  let fl := sigFlag a ||| sigFlag b ||| (if un ∧ 2 ≤ func ∧ func ≤ 5 then fINVALID else 0)
  let o := cmpV a b
  (match func with
   | 0 => !un && o == .eq
   | 1 => un || o != .eq
   | 2 => !un && o == .lt
   | 3 => !un && o != .gt
   | 4 => !un && o == .gt
   | 5 => !un && o != .lt
   | 6 => un
   | _ => !un, fl)

/-- R233: FMULZ of one element; `none` where no operand is zero. -/
def mulzF (f : Fmt) (ftz : Bool) (xa xb : Nat) : Option Nat :=
  if (readF f ftz xa).isZero || (readF f ftz xb).isZero then
    some (signCode f (xa.testBit (f.eb + f.pb) != xb.testBit (f.eb + f.pb)) 0)
  else none

/-- R231: the pair of an exact value, hi in bits 31:0, and the flags. -/
def pairOf (x : FVal) : Nat × Nat :=
  let (hi, fl) := roundF fF32 .rne false false 0 x
  match decodeF fF32 hi with
  | .fin _ _ _ =>
    let err := (addV .rne x (decodeF fF32 hi).negate).1
    let (lo, lf) := roundF fF32 .rne false false 0 err
    let lo := if (decodeF fF32 lo).isZero then 0 else lo
    (hi + 2 ^ 32 * lo, fl ||| (if lf &&& fINEXACT = 0 then 0 else fXE))
  | _ => (hi, fl ||| fXE)

/-- Val of R309 of a pair. -/
def pairVal (mode : Mode) (x : Nat) : FVal × Nat := addV mode (decodeF fF32 (x % 2 ^ 32)) (decodeF fF32 (x / 2 ^ 32))

def dwadd (a b : Nat) : Nat × Nat :=
  let (x, f1) := pairVal .rne a
  let (y, f2) := pairVal .rne b
  let (z, f3) := addV .rne x y
  let (r, f4) := pairOf z
  (r, f1 ||| f2 ||| f3 ||| f4)

def dwmul (a b : Nat) : Nat × Nat :=
  let (x, f1) := pairVal .rne a
  let (y, f2) := pairVal .rne b
  let (z, f3) := mulV x y
  let (r, f4) := pairOf z
  (r, f1 ||| f2 ||| f3 ||| f4)

/-- FADD of one element under a mode without RSR: the Combine of REDF and SEGRED (R234). -/
def faddF (f : Fmt) (mode : Mode) (ftz : Bool) (xa xb : Nat) : Nat × Nat :=
  let (x, f1) := addV mode (readF f ftz xa) (readF f ftz xb)
  let (r, f2) := roundF f mode false ftz 0 x
  (r, f1 ||| f2)

/-- 2^(c − 127) times a value (R224). -/
def scaleV (v : FVal) (k : Int) : FVal :=
  match v with
  | .fin n m e => .fin n m (e + k)
  | w => w

/-- E of R210 for the types of SCALEQ, by conversion code (R313). -/
def scaleE (t : Nat) : Int :=
  match t with
  | 4 => 8
  | 5 => 15
  | 6 => 2
  | 14 => 6
  | _ => 2

/-- The code of SCALEQ for a .f32 value (R313). -/
def scaleCode (t x : Nat) : Nat :=
  match decodeF fF32 x with
  | .fin _ m e =>
    if m = 0 then 0x7F
    else (max (-127) (min 127 (lg m e - scaleE t)) + 127).toNat
  | _ => 0xFF

/-- Width and signedness of an integer type of the conversion set. -/
def convInt (t : Nat) : Nat × Bool :=
  match t with
  | 7 => (4, true)
  | 8 => (32, true)
  | 9 => (32, false)
  | 10 => (64, true)
  | 11 => (64, false)
  | 12 => (16, true)
  | 13 => (16, false)
  | 14 => (8, true)
  | _ => (8, false)

def convWidth (t : Nat) : Nat := if t ≤ 6 then (fmtOfCode t).width else (convInt t).1

/-- Max(t) of R314 for an integer type. -/
def packMax (t : Nat) : Int :=
  let (w, sg) := convInt t
  if sg then (2 ^ (w - 1) : Nat) - 1 else (2 ^ w : Nat) - 1

/-- Round without Overflow: a magnitude past the largest finite is that, INEXACT (R314). -/
def roundClamp (f : Fmt) (mode : Mode) (u : Nat) (x : FVal) : Nat × Nat :=
  let (c, fl) := roundF f mode true false u x
  (c, if fl &&& fOVERFLOW = 0 then fl else fINEXACT)

/-- The element PACK writes for the .f32 pattern `x` and scale code `c`, its flags, and whether Round was called (R314). -/
def packElem (t : Nat) (mode : Mode) (u : Nat) (x c : Nat) : Nat × Nat × Bool :=
  let isF := t ≤ 6
  let f := fmtOfCode t
  let (w, sg) := convInt t
  if c = 0xFF then (0, 0, false)
  else match decodeF fF32 x with
    | .nan s =>
      if isF then match f.nan with
        | some n => (n, if s then fINVALID else 0, false)
        | none => (0, fINVALID, false)
      else (0, fINVALID, false)
    | .inf n =>
      if isF then (signCode f n f.maxCode, fINVALID, false)
      else (if n then (if sg then wrapI w (-packMax t) else 0) else wrapI w (packMax t), fINVALID, false)
    | .fin n m e =>
      let e := e - ((c : Int) - 127)
      if isF then
        let (r, fl) := roundClamp f mode u (.fin n m e)
        (r, fl, true)
      else
        let (k, inex) := toInt mode u n m e
        let lo : Int := if sg then -packMax t else 0
        let cl := max lo (min (packMax t) k)
        (wrapI w cl, if inex || cl != k || (n && !sg && m != 0) then fINEXACT else 0, true)

/-- UNPACK's result for element pattern `y` of type `t` (R315). -/
def unpackElem (t : Nat) (mode : Mode) (sat ftz : Bool) (y c : Nat) : Nat × Nat :=
  let v := if t ≤ 6 then readF (fmtOfCode t) (ftz && decide (t < 4)) y
    else
      let i := valOf (convInt t).2 (convInt t).1 y
      .fin (decide (i < 0)) i.natAbs 0
  if c = 0xFF ∨ v.isNan then (0x7FC00000, sigFlag v)
  else roundF fF32 mode sat ftz 0 (scaleV v ((c : Int) - 127))

/-- CVT of R312: the destination's bits (within its registers), flags, and whether Round was called. -/
def cvtVal (sT dT : Nat) (mode : Mode) (sat ftz : Bool) (u x : Nat) : Nat × Nat × Bool :=
  let sw := convWidth sT
  let x := x % 2 ^ sw
  let put := fun (r : Int) => let (w, sg) := convInt dT; if sg then wrapI (if w = 64 then 64 else 32) (sext w (wrapI w r)) else wrapI w r
  if sT ≤ 6 then
    let v := readF (fmtOfCode sT) (ftz && decide (sT < 4)) x
    if dT ≤ 6 then
      let f := fmtOfCode dT
      let (r, fl) := roundF f mode sat (ftz && decide (dT < 4)) u v
      let inv := match v with
        | .inf _ => if f.inf then 0 else fINVALID
        | w => sigFlag w
      (r, fl ||| inv, true)
    else
      let (w, sg) := convInt dT
      match v with
      | .nan _ => (0, fINVALID, true)
      | .inf n => (put (clampI sg w (if n then -(2 ^ 80 : Nat) else (2 ^ 80 : Nat))), fINVALID, true)
      | .fin n m e =>
        if 80 ≤ lg m e ∧ m ≠ 0 then (put (clampI sg w (if n then -(2 ^ 80 : Nat) else (2 ^ 80 : Nat))), fINVALID, true)
        else
          let (k, inex) := toInt mode u n m e
          let cl := clampI sg w k
          (put cl, if cl ≠ k then fINVALID else if inex then fINEXACT else 0, true)
  else
    let i := valOf (convInt sT).2 sw x
    if dT ≤ 6 then
      let (r, fl) := roundF (fmtOfCode dT) mode sat (ftz && decide (dT < 4)) u (.fin (decide (i < 0)) i.natAbs 0)
      (r, fl, true)
    else
      let (w, sg) := convInt dT
      (put (if sat then clampI sg w i else i), 0, false)

end Sys2Proof.Machine
end

