-- ==== Sys2Proof/Machine/Integer.lean ====
section
/-! DEFINITION. Integer and address arithmetic, moves, shifts, bit fields and VGROW (R283 to R291). -/

namespace Sys2Proof.Machine

/-- Writes a value per lane and goes on: an RRR instruction whose sources and destination have `w` registers. -/
def alu (f : RRR) (w : Nat) (fn : Nat → Nat → Nat → Nat) (c : Ctx) (s : State) : State :=
  advance (onGang s c.gk (fun g => putD g f.sd f.d w c.act
    (fun l => fn (src c.g f.sa f.a w l) (src c.g f.sb f.b w l) (src c.g f.sc f.c w l)))) c.pk

/-- An element-wise integer instruction: the exact result of each element, wrapped or clamped (R284). -/
def aluE (f : RRR) (fn : Int → Int → Int → Int) : Ctx → State → State :=
  let t := ityOf f.type
  alu f (iw f.type) (fun a b c => perElem t (fun i => fitI t f.sat (fn (elemV t a i) (elemV t b i) (elemV t c i))))

/-- An element-wise instruction on bit patterns. -/
def aluU (f : RRR) (fn : ITy → Nat → Nat → Nat → Nat) : Ctx → State → State :=
  let t := ityOf f.type
  alu f (iw f.type) (fun a b c => perElem t (fun i => fn t (elemU t a i) (elemU t b i) (elemU t c i)))

/-- A 32-bit instruction with an immediate, V or S by opcode (R289). -/
def aluImm (f : RRI) (sf : Bool) (fn : Nat → Nat → Nat) (c : Ctx) (s : State) : State :=
  advance (onGang s c.gk (fun g => putD g sf f.d 1 c.act (fun l => fn (src c.g sf f.a 1 l) f.imm.toNat))) c.pk

def i32 : ITy := { w := 32, n := 1, sg := true }

/-- ADD (R284). -/
def execAdd (f : RRR) (s : State) : Host.Outcome State Fault Refusal :=
  issue (shapeOf (.add f)) s (aluE f (fun a b _ => a + b))

/-- SUB (R284). -/
def execSub (f : RRR) (s : State) : Host.Outcome State Fault Refusal :=
  issue (shapeOf (.sub f)) s (aluE f (fun a b _ => a - b))

/-- ADDC: the carry goes to P[C] per lane (R284). -/
def execAddc (f : RRR) (s : State) : Host.Outcome State Fault Refusal :=
  issue (shapeOf (.addc f)) s (fun c s =>
    let p := f.c.toNat
    let val := fun l => let a := src c.g f.sa f.a 1 l; let b := src c.g f.sb f.b 1 l; let k := rp c.g p l; a + b + k.toNat
    advance (onGang s c.gk (fun g =>
      putP (putD g f.sd f.d 1 c.act val) p c.act
        (fun l => carryOut (src c.g f.sa f.a 1 l) (src c.g f.sb f.b 1 l) (rp c.g p l)))) c.pk)

/-- SUBB: the borrow goes to P[C] per lane (R284). -/
def execSubb (f : RRR) (s : State) : Host.Outcome State Fault Refusal :=
  issue (shapeOf (.subb f)) s (fun c s =>
    let p := f.c.toNat
    let val := fun l => let a := src c.g f.sa f.a 1 l; let b := src c.g f.sb f.b 1 l; let k := rp c.g p l; a + 2 ^ 32 + 2 ^ 32 - b - k.toNat
    advance (onGang s c.gk (fun g =>
      putP (putD g f.sd f.d 1 c.act val) p c.act
        (fun l => borrowOut (src c.g f.sa f.a 1 l) (src c.g f.sb f.b 1 l) (rp c.g p l)))) c.pk)

/-- MUL (R284). -/
def execMul (f : RRR) (s : State) : Host.Outcome State Fault Refusal :=
  issue (shapeOf (.mul f)) s (aluE f (fun a b _ => a * b))

/-- MULH (R284). -/
def execMulh (f : RRR) (s : State) : Host.Outcome State Fault Refusal :=
  issue (shapeOf (.mulh f)) s (aluE f (fun a b _ => a * b / (2 ^ 32 : Nat)))

/-- MULW: the exact product into pair D (R284). -/
def execMulw (f : RRR) (s : State) : Host.Outcome State Fault Refusal :=
  issue (shapeOf (.mulw f)) s (fun c s =>
    let t := ityOf f.type
    advance (onGang s c.gk (fun g => putD g f.sd f.d 2 c.act
      (fun l => wrapI 64 (elemV t (src c.g f.sa f.a 1 l) 0 * elemV t (src c.g f.sb f.b 1 l) 0)))) c.pk)

/-- MAD (R284). -/
def execMad (f : RRR) (s : State) : Host.Outcome State Fault Refusal :=
  issue (shapeOf (.mad f)) s (aluE f (fun a b c => a * b + c))

/-- DIV (R284, R285). -/
def execDiv (f : RRR) (s : State) : Host.Outcome State Fault Refusal :=
  issue (shapeOf (.div f)) s (aluE f (fun a b _ => if b = 0 then (if (ityOf f.type).sg then -1 else (2 ^ (ityOf f.type).w : Nat) - 1) else divE a b))

/-- REM (R284, R285). -/
def execRem (f : RRR) (s : State) : Host.Outcome State Fault Refusal :=
  issue (shapeOf (.rem f)) s (aluE f (fun a b _ => remE a b))

/-- MIN (R284). -/
def execMin (f : RRR) (s : State) : Host.Outcome State Fault Refusal :=
  issue (shapeOf (.min f)) s (aluE f (fun a b _ => if a < b then a else b))

/-- MAX (R284). -/
def execMax (f : RRR) (s : State) : Host.Outcome State Fault Refusal :=
  issue (shapeOf (.max f)) s (aluE f (fun a b _ => if a < b then b else a))

/-- ABS (R284). -/
def execAbs (f : RRR) (s : State) : Host.Outcome State Fault Refusal :=
  issue (shapeOf (.abs f)) s (aluE f (fun a _ _ => if a < 0 then -a else a))

/-- NEG (R284). -/
def execNeg (f : RRR) (s : State) : Host.Outcome State Fault Refusal :=
  issue (shapeOf (.neg f)) s (aluE f (fun a _ _ => -a))

/-- AND (R284). -/
def execAndr (f : RRR) (s : State) : Host.Outcome State Fault Refusal :=
  issue (shapeOf (.andr f)) s (aluU f (fun _ a b _ => a &&& b))

/-- OR (R284). -/
def execOrr (f : RRR) (s : State) : Host.Outcome State Fault Refusal :=
  issue (shapeOf (.orr f)) s (aluU f (fun _ a b _ => a ||| b))

/-- XOR (R284). -/
def execXorr (f : RRR) (s : State) : Host.Outcome State Fault Refusal :=
  issue (shapeOf (.xorr f)) s (aluU f (fun _ a b _ => a ^^^ b))

/-- ANDN (R284). -/
def execAndn (f : RRR) (s : State) : Host.Outcome State Fault Refusal :=
  issue (shapeOf (.andn f)) s (aluU f (fun t a b _ => a &&& (2 ^ t.w - 1 - b)))

/-- NOT (R284). -/
def execNotr (f : RRR) (s : State) : Host.Outcome State Fault Refusal :=
  issue (shapeOf (.notr f)) s (aluU f (fun t a _ _ => 2 ^ t.w - 1 - a))

/-- SHL (R286): a 64-bit type counts in the even register of B. -/
def execShl (f : RRR) (s : State) : Host.Outcome State Fault Refusal :=
  issue (shapeOf (.shl f)) s (aluU f (fun t a b _ => shlE t a (if t.w = 64 then b % 2 ^ 32 else b)))

/-- SHR (R286): a 64-bit type counts in the even register of B. -/
def execShr (f : RRR) (s : State) : Host.Outcome State Fault Refusal :=
  issue (shapeOf (.shr f)) s (aluU f (fun t a b _ => shrE t a (if t.w = 64 then b % 2 ^ 32 else b)))

/-- SAR (R286): a 64-bit type counts in the even register of B. -/
def execSar (f : RRR) (s : State) : Host.Outcome State Fault Refusal :=
  issue (shapeOf (.sar f)) s (aluU f (fun t a b _ => sarE t a (if t.w = 64 then b % 2 ^ 32 else b)))

/-- ROT (R286): a 64-bit type counts in the even register of B. -/
def execRot (f : RRR) (s : State) : Host.Outcome State Fault Refusal :=
  issue (shapeOf (.rot f)) s (aluU f (fun t a b _ => rotE t a (if t.w = 64 then b % 2 ^ 32 else b)))

/-- CLZ (R284). -/
def execClz (f : RRR) (s : State) : Host.Outcome State Fault Refusal :=
  issue (shapeOf (.clz f)) s (aluU f (fun t a _ _ => clzN a t.w))

/-- POPC (R284). -/
def execPopc (f : RRR) (s : State) : Host.Outcome State Fault Refusal :=
  issue (shapeOf (.popc f)) s (aluU f (fun t a _ _ => onesN a t.w))

/-- BREV (R284). -/
def execBrev (f : RRR) (s : State) : Host.Outcome State Fault Refusal :=
  issue (shapeOf (.brev f)) s (aluU f (fun t a _ _ => revN a t.w))

/-- BFE: B is one 32-bit register (R287). -/
def execBfe (f : RRR) (s : State) : Host.Outcome State Fault Refusal :=
  issue (shapeOf (.bfe f)) s (fun c s =>
    advance (onGang s c.gk (fun g => putD g f.sd f.d (iw f.type) c.act
      (fun l => bfeE (ityOf f.type) (src c.g f.sa f.a (iw f.type) l) (src c.g f.sb f.b 1 l)))) c.pk)

/-- BFI: B is one 32-bit register (R287). -/
def execBfi (f : RRR) (s : State) : Host.Outcome State Fault Refusal :=
  issue (shapeOf (.bfi f)) s (fun c s =>
    advance (onGang s c.gk (fun g => putD g f.sd f.d (iw f.type) c.act
      (fun l => bfiE (ityOf f.type) (src c.g f.sa f.a (iw f.type) l) (src c.g f.sb f.b 1 l)
        (src c.g f.sc f.c (iw f.type) l)))) c.pk)

/-- SEL: the predicate FUNC of each lane picks a or b (R288). -/
def execSel (f : RRR) (s : State) : Host.Outcome State Fault Refusal :=
  issue (shapeOf (.sel f)) s (fun c s =>
    advance (onGang s c.gk (fun g => putD g f.sd f.d (iw f.type) c.act
      (fun l => if rp c.g f.func.toNat l then src c.g f.sa f.a (iw f.type) l else src c.g f.sb f.b (iw f.type) l))) c.pk)

/-- MOV (R288). -/
def execMov (f : RRR) (s : State) : Host.Outcome State Fault Refusal :=
  issue (shapeOf (.mov f)) s (alu f (iw f.type) (fun a _ _ => a))

/-- MKADDR: identifier a<23:0>, offset c<7:0> and b (R288). -/
def execMkaddr (f : RRR) (s : State) : Host.Outcome State Fault Refusal :=
  issue (shapeOf (.mkaddr f)) s (fun c s =>
    advance (onGang s c.gk (fun g => putD g f.sd f.d 2 c.act
      (fun l => addrOf (src c.g f.sa f.a 1 l % 2 ^ 24)
        (src c.g f.sc f.c 1 l % 256 * 2 ^ 32 + src c.g f.sb f.b 1 l)))) c.pk)

/-- An object address moved by a signed count, identifier 0 where it leaves the object's span (R288). -/
def addaVal (a : Nat) (d : Int) : Nat :=
  let o : Int := (offOf a : Nat) + d
  if 0 ≤ o ∧ o < (2 ^ 40 : Nat) then addrOf (oidOf a) o.toNat else wrapI 40 o

/-- ADDA (R288). -/
def execAdda (f : RRR) (s : State) : Host.Outcome State Fault Refusal :=
  issue (shapeOf (.adda f)) s (fun c s =>
    advance (onGang s c.gk (fun g => putD g f.sd f.d 2 c.act
      (fun l => addaVal (src c.g f.sa f.a 2 l) (elemV (ityOf f.type) (src c.g f.sb f.b (iw f.type) l) 0)))) c.pk)

/-- The path has an outstanding long-latency operation that writes a V register (R290). -/
def vPending (c : Ctx) : Bool := c.g.ops.any (fun o => (o.mask &&& c.p.mask) != 0 && !o.dv.isEmpty)

/-- The lanes whose computed V register lies outside the allocation (R290). -/
def vrFaults (c : Ctx) (i : Nat → Nat) : List LaneFault :=
  ((lanes c.act).filter (fun l => decide (c.g.nv ≤ i l))).map (fun l => { lane := l, code := .bounds, addr := i l })

/-- VRDI (R290). -/
def execVrdi (f : RRR) (s : State) : Host.Outcome State Fault Refusal :=
  issue (shapeOf (.vrdi f)) s (fun c s =>
    let i := fun l => src c.g f.sa f.a 1 l
    if vPending c then waitFor s c .flush
    else
      let fs := vrFaults c i
      settle (onGang s c.gk (fun g => putD g false f.d 1 (c.act &&& ~~~ faultMask fs) (fun l => rv c.g (i l) l))) c fs 0 [])

/-- VWRI (R290). -/
def execVwri (f : RRR) (s : State) : Host.Outcome State Fault Refusal :=
  issue (shapeOf (.vwri f)) s (fun c s =>
    let i := fun l => src c.g f.sa f.a 1 l
    if vPending c then waitFor s c .flush
    else
      let fs := vrFaults c i
      settle (onGang s c.gk (fun g => (lanes (c.act &&& ~~~ faultMask fs)).foldl
        (fun h l => wv h (i l) l (src c.g f.sb f.b 1 l)) g)) c fs 0 [])

/-- MOVI (R289). -/
def execMoviV (f : RRI) (s : State) : Host.Outcome State Fault Refusal :=
  issue (shapeOf (.moviV f)) s (aluImm f false (fun _ i => i))

/-- MOVH keeps the low half of its destination (R289). -/
def execMovhV (f : RRI) (s : State) : Host.Outcome State Fault Refusal :=
  issue (shapeOf (.movhV f)) s (fun c s =>
    advance (onGang s c.gk (fun g => putD g false f.d 1 c.act
      (fun l => f.imm.toNat * 65536 + src c.g false f.d 1 l % 65536))) c.pk)

/-- ADD with an immediate (R289). -/
def execAddImmV (f : RRI) (s : State) : Host.Outcome State Fault Refusal :=
  issue (shapeOf (.addImmV f)) s (aluImm f false (fun a i => a + i))

/-- SHL with an immediate (R289). -/
def execShlImmV (f : RRI) (s : State) : Host.Outcome State Fault Refusal :=
  issue (shapeOf (.shlImmV f)) s (aluImm f false (fun a i => shlE i32 a i))

/-- SHR with an immediate (R289). -/
def execShrImmV (f : RRI) (s : State) : Host.Outcome State Fault Refusal :=
  issue (shapeOf (.shrImmV f)) s (aluImm f false (fun a i => shrE i32 a i))

/-- SAR with an immediate (R289). -/
def execSarImmV (f : RRI) (s : State) : Host.Outcome State Fault Refusal :=
  issue (shapeOf (.sarImmV f)) s (aluImm f false (fun a i => sarE i32 a i))

/-- AND with an immediate (R289). -/
def execAndImmV (f : RRI) (s : State) : Host.Outcome State Fault Refusal :=
  issue (shapeOf (.andImmV f)) s (aluImm f false (fun a i => a &&& i))

/-- OR with an immediate (R289). -/
def execOrImmV (f : RRI) (s : State) : Host.Outcome State Fault Refusal :=
  issue (shapeOf (.orImmV f)) s (aluImm f false (fun a i => a ||| i))

/-- MOVI (R289). -/
def execMoviS (f : RRI) (s : State) : Host.Outcome State Fault Refusal :=
  issue (shapeOf (.moviS f)) s (aluImm f true (fun _ i => i))

/-- MOVH keeps the low half of its destination (R289). -/
def execMovhS (f : RRI) (s : State) : Host.Outcome State Fault Refusal :=
  issue (shapeOf (.movhS f)) s (fun c s =>
    advance (onGang s c.gk (fun g => putD g true f.d 1 c.act
      (fun l => f.imm.toNat * 65536 + src c.g true f.d 1 l % 65536))) c.pk)

/-- ADD with an immediate (R289). -/
def execAddImmS (f : RRI) (s : State) : Host.Outcome State Fault Refusal :=
  issue (shapeOf (.addImmS f)) s (aluImm f true (fun a i => a + i))

/-- SHL with an immediate (R289). -/
def execShlImmS (f : RRI) (s : State) : Host.Outcome State Fault Refusal :=
  issue (shapeOf (.shlImmS f)) s (aluImm f true (fun a i => shlE i32 a i))

/-- SHR with an immediate (R289). -/
def execShrImmS (f : RRI) (s : State) : Host.Outcome State Fault Refusal :=
  issue (shapeOf (.shrImmS f)) s (aluImm f true (fun a i => shrE i32 a i))

/-- SAR with an immediate (R289). -/
def execSarImmS (f : RRI) (s : State) : Host.Outcome State Fault Refusal :=
  issue (shapeOf (.sarImmS f)) s (aluImm f true (fun a i => sarE i32 a i))

/-- AND with an immediate (R289). -/
def execAndImmS (f : RRI) (s : State) : Host.Outcome State Fault Refusal :=
  issue (shapeOf (.andImmS f)) s (aluImm f true (fun a i => a &&& i))

/-- OR with an immediate (R289). -/
def execOrImmS (f : RRI) (s : State) : Host.Outcome State Fault Refusal :=
  issue (shapeOf (.orImmS f)) s (aluImm f true (fun a i => a ||| i))

/-- Bytes of V registers free on a core (R79): gangs with a live lane hold 128 bytes a register. -/
def freeV (s : State) (core : Nat) : Nat :=
  Config.vBytesPerCore -
    (inRange s.gangs (core * 64) (core * 64 + 64)).foldl (fun a e => if e.2.live = 0 then a else a + 128 * e.2.nv) 0

/-- The largest gap of the resident gangs of a core but one (R79, R91). -/
def maxGap (s : State) (core except : Nat) : Nat :=
  (inRange s.gangs (core * 64) (core * 64 + 64)).foldl (fun a e =>
    if e.1 = except ∨ e.2.live = 0 then a
    else Nat.max a (128 * ((runAt s (crewAt s e.2.crew).run).lr.vmax * 8 - e.2.nv))) 0

/-- A growth to `nv` registers can be granted to a gang now, no older request considered (R91). -/
def growthFits (s : State) (gk nv : Nat) : Bool :=
  let core := gk / 64
  let need := 128 * (nv - (gangAt s gk).nv)
  decide (need + maxGap s core gk ≤ freeV s core)

/-- The blocked growth requests of a gang, oldest path first (R84, R291): path and registers. -/
def growthWants (s : State) (gk : Nat) : List (Nat × Nat) :=
  (sortBy older (pathsOfGang s gk)).filterMap (fun e => match e.2.wait with
    | .growth n => some (e.1, n)
    | _ => none)

/-- Gangs of a core with a blocked growth request, oldest first. -/
def blockedGrowth (s : State) (core : Nat) : List (Nat × Gang) :=
  sortBy (fun a b => decide (a.2.stamp < b.2.stamp))
    ((inRange s.gangs (core * 64) (core * 64 + 64)).filter (fun e => !(growthWants s e.1).isEmpty))

/-- A request older than that of path `pk` is blocked on its core (R91, R291). -/
def growthBehind (s : State) (pk : Nat) (p : Path) : Bool :=
  (blockedGrowth s (pk / 512)).any (fun e => decide (e.2.stamp < (gangAt s p.gang).stamp)) ||
    (growthWants s p.gang).any (fun e => e.1 != pk && older (e.1, pathAt s e.1) (pk, p))

/-- VGROW (R91, R291): granted at once, or the request blocks its path. -/
def execVgrow (f : RRI) (s : State) : Host.Outcome State Fault Refusal :=
  issue (shapeOf (.vgrow f)) s (fun c s =>
    let n := f.imm.toNat
    if c.lr.vmax * 8 < n then trapAll s c .illegalOp c.trapMask []
    else if c.act = 0 ∨ n ≤ c.g.nv then advance s c.pk
    else if growthFits s c.gk n && !growthBehind s c.pk c.p then advance (onGang s c.gk (fun g => { g with nv := n })) c.pk
    else waitFor (bumpCore s c.core (quadOf s c.gk) 0x040 1) c (.growth n))

end Sys2Proof.Machine
end

