-- ==== Sys2Proof/Machine/Zalak.lean ====
section
/-! DEFINITION. Zalak messages and their flits (R38 to R42): how the device sends one. -/

namespace Sys2Proof.Machine

/-- A port that has never trained. -/
def ZPort.blank : ZPort :=
  { up := false, peerCap := false, txSeq := 0, rxSeq := 0, tx := [], part := none, rx := [], discard := false, replayAt := 0,
    resend := none, replays := 0, freed := 0, credit := 0, errs := [], retries := 0, lostCnt := 0, protoErr := 0 }

def zportAt (s : State) (p : Nat) : ZPort := Map.getD s.zports p ZPort.blank
def onPort (s : State) (p : Nat) (f : ZPort → ZPort) : State := { s with zports := Map.put s.zports p (f (zportAt s p)) }
/-- The I/O die of a port (R29), as R75 numbers it. -/
def portDie (p : Nat) : Nat := if p < 24 then 8 else 9

/-- The transaction header (R39). -/
def msgHead (m : Msg) : List Byte :=
  leBytes 8 m.addr.toNat ++ leBytes 2 m.tgt ++ leBytes 2 m.src ++ leBytes 1 m.op ++ leBytes 1 m.flags ++ leBytes 2 m.tag ++
    leBytes 2 m.len ++ leBytes 6 0

/-- Cuts a byte string into pieces of `n`, with fuel. -/
def chunks (n : Nat) : Nat → List Byte → List (List Byte)
  | 0, _ => []
  | k + 1, bs => if bs.isEmpty then [] else bs.take n :: chunks n k (bs.drop n)

def padTo (n : Nat) (bs : List Byte) : List Byte := bs ++ List.replicate (n - bs.length) 0

/-- KIND and BODY of every flit of a message: 224 data bytes with the header, 248 in a continuation (R38). -/
def msgBodies (m : Msg) : List (Nat × List Byte) :=
  (1, padTo 248 (msgHead m ++ m.data.take 224)) ::
    (chunks 248 (cdiv m.data.length 248) (m.data.drop 224)).map (fun b => (2, padTo 248 b))

/-- A flit with its LINKWORD and CRC (R38). -/
def flitOf (seq kind ack credit : Nat) (body : List Byte) : List Byte :=
  let x := leBytes 4 (seq % 4096 + kind * 4096 + ack % 4096 * 65536 + credit % 16 * 2 ^ 28) ++ body
  x ++ leBytes 4 (crc32c x)

/-- Room for `n` more flits among the 2,048 unacknowledged ones (R40). -/
def zRoom (s : State) (p n : Nat) : Bool := decide ((zportAt s p).tx.length + n ≤ 2048)

/-- A flit of kind `kind` takes the next sequence number, tells the last number received in order and the buffers freed since the
last one, in units of 8, and joins the replay buffer (R38, R40). -/
def sendFlit (s : State) (p kind : Nat) (body : List Byte) : State :=
  bumpDie (onPort s p (fun z =>
    let cr := min 15 (z.freed / 8)
    { z with tx := z.tx ++ [(z.txSeq, flitOf z.txSeq kind (z.rxSeq + 4095) cr body)], txSeq := (z.txSeq + 1) % 4096,
             freed := z.freed - 8 * cr })) (portDie p) 0x130 1

/-- Queues a message on a port. -/
def sendMsg (s : State) (p : Nat) (m : Msg) : State := (msgBodies m).foldl (fun t b => sendFlit t p b.1 b.2) s

/-- A tag that no operation in flight bears (R39). -/
def newTag (s : State) : Option Nat :=
  ((List.range (s.peerOps.length + 1)).map (fun i => (s.nextPeerTag + i) % 65536)).find?
    (fun t => !s.peerOps.any (fun o => o.tag == t))

/-- A port has room, and the tags suffice, for the requests of one instruction. -/
def askRoom (s : State) (p : Nat) : Bool := zRoom s p 64 && decide (s.peerOps.length + 64 ≤ 65536)

/-- Sends a request about `n` bytes at an address of a peer and records it as in flight. A read carries the number of bytes wanted
as its 4 data bytes; one that asks for the stream blocks from the address on carries the number of symbols wanted, and FLAGS bit 0
(DESIGN CHOICE, log entry 22). -/
def askWith (s : State) (e : ObjEnt) (port op : Nat) (owner : PeerFor) (a n : Nat) (data : List Byte) (stream : Bool) : State :=
  match newTag s with
  | none => s
  | some tag =>
    let data := if op = 1 then leBytes 4 n else data
    let s := noteSpread s e.peer a port
    let m : Msg := { addr := BitVec.ofNat 64 (addrOf e.rid (offOf a)), tgt := e.peer, src := s.mg.fabricNo, op := op,
                     flags := 2 + stream.toNat, tag := tag, len := data.length, rsvOk := true, data := data }
    sendMsg { s with
      nextPeerTag := (tag + 1) % 65536,
      peerOps := s.peerOps ++ [{ tag := tag, port := port, op := op, owner := owner, addr := BitVec.ofNat 64 a, n := n,
                                 answer := none, fail := none, sofar := [], stream := stream, segs := [] }] } port m

/-- A request about plain bytes. -/
def askPeer (s : State) (e : ObjEnt) (port op : Nat) (owner : PeerFor) (a n : Nat) (data : List Byte) : State :=
  askWith s e port op owner a n data false

/-- The request of the part's own that stands first in flight, if any. -/
def partOp (s : State) : Option PeerOp := s.peerOps.find? (fun o => o.owner == .part && o.answer.isNone && o.fail.isNone)

/-- The data bytes of an atomic request to a peer: the operation, the access size, operand and compare value. The
layout is a DESIGN CHOICE, see log entry 22. -/
def atomBytes (op k b cmp : Nat) : List Byte := leBytes 1 op ++ leBytes 1 k ++ leBytes 6 0 ++ leBytes k b ++ leBytes k cmp

/-- Where the part's own units stand, as R240 judges inclusion. -/
def unitHead (scope : Nat) : Head := { scope := scope, path := 2 ^ 40, gang := 2 ^ 40, crew := 2 ^ 72, cluster := 2 ^ 40 }

/-- What a write of the part does to the release sequences of its bytes, those before it being `rs`. -/
def devRel (s : State) (rs : Map Rel) (d : DevPut) (peer : Bool) : State :=
  let keys := relKeys (locate s (deviceWho 0) d.addr) (if peer then some d.addr else none) d.bytes.length
  if d.add then relWrite { s with rels := rs } keys (d.rel.map unitHead) true
  else if d.rel.isSome then relWrite s keys (d.rel.map unitHead) false
  else s

/-- What follows a write of the part that has been performed: a ring's NEXT count advances (R103), or a run has ended (R60). -/
def markDone (s : State) : DevMark → State
  | .lensNext => onMg s (fun m => { m with lensNext := m.lensNext + 1 })
  | .markNext => onMg s (fun m => { m with markNext := m.markNext + 1 })
  | .endRun rk => { s with runs := Map.del s.runs rk }

/-- A write of the part that is not a peer's is performed. `none` where its page has nowhere to go. -/
def putHere (s : State) (d : DevPut) (rs : Map Rel) : Option State :=
  let w := deviceWho 0
  (engPages s w d.addr d.bytes.length).map (fun t => devRel
    (engStore t w d.addr (if d.add then leBytes 4 ((objNat t w d.addr 4 + leNat d.bytes) % 2 ^ 32) else d.bytes)) rs d false)

/-- The first of the part's waiting writes is performed or sent, if it finds room now, to a peer line by line (R42). `none` where it
must wait: they are performed in order, so that each waits for the peer's answer to the one before it (R60, R62). -/
def putFirst (s : State) : Option State :=
  match s.devQ with
  | [] => none
  | d :: ds =>
    let s' := { s with devQ := ds }
    if (partOp s).isSome then none
    else match d.mark with
      | some m => some (markDone s' m)
      | none =>
        match peerHome s (deviceWho 0) d.addr with
        | some e =>
          match portOf s e.peer d.addr with
          | none => some s'
          | some p =>
            if !askRoom s p then none
            else if d.add then some (devRel (askPeer s' e p 5 .part d.addr 4 (atomBytes 0 4 (leNat d.bytes) 0)) s.rels d true)
            else
              let n := 64 - d.addr % 64
              let h := { d with bytes := d.bytes.take n }
              let rest := if d.bytes.length ≤ n then ds else { d with addr := d.addr + n, bytes := d.bytes.drop n } :: ds
              some (devRel (askPeer { s' with devQ := rest } e p 3 .part d.addr h.bytes.length h.bytes) s.rels h true)
        | none => putHere s' d s.rels

/-- Performs the part's waiting writes, in order, until one must go on waiting; the answers to its own and the host's writes are
done with. -/
def pumpDev (s : State) : State :=
  let go := fun (t : State) (_ : DevPut) => (putFirst t).getD t
  s.devQ.foldl go { s with peerOps := s.peerOps.filter (fun o =>
    !(o.owner == .part || (o.owner == .host && o.op == 3)) || (o.answer.isNone && o.fail.isNone)) }

/-- A write of the part itself joins those that wait; it is performed at once where it finds room: a page or a bounce frame, or a
peer's port (R62, R159). -/
def devPut (s : State) (d : DevPut) : State := pumpDev { s with devQ := s.devQ ++ [d] }

/-- A write of the part itself that stores bytes. -/
def devStore (s : State) (a : Nat) (bs : List Byte) : State :=
  devPut s { addr := a, bytes := bs, add := false, rel := none, mark := none }

/-- What is to follow the part's writes so far. -/
def devMark (s : State) (m : DevMark) : State := devPut s { addr := 0, bytes := [], add := false, rel := none, mark := some m }

/-- How often a mark still waits. -/
def marksDue (s : State) (m : DevMark) : Nat := (s.devQ.filter (fun d => d.mark == some m)).length

/-- The part stops: those of its waiting writes that are not a peer's are performed, in order, as far as their pages have somewhere to
go; what was to reach a peer is lost with the link (R36, R44). -/
def lastWrites (s : State) : State :=
  s.devQ.foldl (fun t d =>
    if d.mark.isSome ∨ (peerHome t (deviceWho 0) d.addr).isSome then t else (putHere t d t.rels).getD t) s

end Sys2Proof.Machine
end

