-- ==== Sys2Proof/Machine/Mem.lean ====
section
/-! DEFINITION. Loads, stores, constant loads, prefetch, atomics and fences (R341 to R353). An access is performed at its
home point when its instruction issues; its completion (R255) is a later event. -/

namespace Sys2Proof.Machine

/-! ### Release sequences and acquire reads (R244, R245) -/

/-- Where a path stands, as R240 judges inclusion. -/
def headOf (s : State) (c : Ctx) (scope : Nat) : Head :=
  { scope := scope, path := c.p.prog.uid, gang := c.g.stamp, crew := c.run * 2 ^ 32 + (crewAt s c.ck).no,
    cluster := clusterOf s c.core }

/-- A head as the path meets it now (R240): PATH scope takes in the writer where its program order is the path's own (R238). -/
def meet (s : State) (c : Ctx) (h : Head) : Seen :=
  { head := h, cluster := clusterOf s c.core, own := h.path == c.p.prog.uid || c.p.prog.kin.contains h.path }

/-- A scope takes in both the writer of a head and the reader that met it (R240). -/
def scopeHas (scope : Nat) (x : Seen) (me : Head) : Bool :=
  match scope with
  | 0 => x.head.gang == me.gang && x.own
  | 1 => x.head.gang == me.gang
  | 2 => x.head.crew == me.crew
  | 3 => x.head.cluster == x.cluster
  | _ => true

/-- The heads whose sequences a read meets. -/
def relSeen (s : State) (keys : List Nat) : List Head := keys.foldl (fun a k => addTo a (relAt s k).now) []

/-- An acquire at a scope of heads that reads have met: one that fails R244 sets SCOPEMISS (R245). -/
def acquire (s : State) (c : Ctx) (scope : Nat) (xs : List Seen) : State :=
  let me := headOf s c scope
  if xs.all (fun x => scopeHas x.head.scope x me && scopeHas scope x me) then s
  else onGang s c.gk (fun g => { g with scopeMiss := true })

/-- A read by the path: what it meets is remembered, with the path's placement now, for a later acquire FENCE, and judged now by
an acquire. -/
def relRead (s : State) (c : Ctx) (acq : Option Nat) (keys : List Nat) : State :=
  let xs := (relSeen s keys).map (meet s c)
  if xs.isEmpty then s
  else
    let s := onPath s c.pk (fun p => { p with prog := { p.prog with seen := addTo p.prog.seen xs } })
    match acq with
    | some sc => acquire s c sc xs
    | none => s

/-- ORD holds an acquire, a release (R25). -/
def ordAcq (f : MEM) : Option Nat := if f.ord.getLsbD 0 then some f.scope.toNat else none
def ordRel (f : MEM) : Option Nat := if f.ord.getLsbD 1 then some f.scope.toNat else none

/-- The release a write of the path is: its own, or that of a FENCE before it, at the wider scope (R244). -/
def relScope (c : Ctx) (f : MEM) : Option Nat :=
  match ordRel f, c.p.prog.rel with
  | some a, some b => some (max a b)
  | some a, none => some a
  | none, r => r

/-! ### Lane accesses -/

/-- Access size in bytes. -/
def accSize (f : MEM) : Nat := 2 ^ f.size.toNat

/-- EA(l) of R342 and whether it lies in the object's span; `sb` is the uniform base, `stride` the unit-stride form. -/
def laneEA (c : Ctx) (f : MEM) (sb stride : Bool) (l : Nat) : Nat × Bool :=
  let k := accSize f
  let base := if sb then rsw c.g f.a.toNat 2 else rvw c.g f.a.toNat l 2
  let o : Int := (offOf base : Nat) + sext 16 f.off.toNat * (k : Nat) + (if stride then (k * l : Nat) else 0)
  (addrOf (oidOf base) (wrapI 40 o), decide (0 ≤ o ∧ o < (2 ^ 40 : Nat)))

/-- The request this lane's read or atomic sent to a peer. -/
def peerOpOf (s : State) (c : Ctx) (l : Nat) : Option PeerOp :=
  s.peerOps.find? (fun o => match o.owner with
    | .lane g p _ k => g == c.gk && p == c.pk && k == l && o.op != 3
    | _ => false)

/-- A lane's access: address, failing check if any, request to a peer if any. -/
structure LaneAcc where
  lane : Nat
  addr : Nat
  bad : Option TrapCode
  peer : Option PeerOp
  deriving DecidableEq, Repr

/-- A lane's access after its checks (R342, R151). An answer from a peer stands for the checks there. -/
def laneAcc (s : State) (c : Ctx) (k : Nat) (kind : AccKind) (l : Nat) (ea : Nat × Bool) : LaneAcc :=
  match peerOpOf s c l with
  | some o => { lane := l, addr := ea.1, bad := if o.fail.isSome then some .remoteLost else none,
                peer := some o }
  | none => { lane := l, addr := ea.1, bad := if ea.2 then check s (c.whoAt l) ea.1 k kind else some .bounds, peer := none }

def accFaults (xs : List LaneAcc) : List LaneFault :=
  xs.filterMap (fun x => x.bad.map (fun b => { lane := x.lane, code := b, addr := x.addr }))

/-- EXTRA of a memory instruction: word 0 the matching watchpoints (R106) or the offset of a lost window line (R202),
word 2 the peer's trap code (R155). -/
def accExtra (s : State) (c : Ctx) (k : Nat) (kind : AccKind) (xs : List LaneAcc) : List Word :=
  let fs := accFaults xs
  let w0 := match (chooseHandler fs).2 with
    | .remoteLost =>
      (((xs.filter (fun x => x.bad == some .remoteLost && x.peer.isNone &&
        (bindOf s (oidOf x.addr)).isSome)).head?).map (fun x => offOf x.addr)).getD 0
    | _ => (xs.filter (fun x => x.bad == some .watch)).foldl
        (fun a x => (watchHits s c.who x.addr k kind).foldl (fun b n => b ||| 2 ^ n) a) 0
  let w2 := ((xs.filterMap (fun x => x.peer.bind (·.fail))).head?).getD 0
  [BitVec.ofNat 32 w0, 0, BitVec.ofNat 32 w2]

/-- A page of a migration in progress (R160). -/
def migrating (s : State) (a : Nat) : Bool :=
  s.migr.any (fun m => m.oid == oidOf a && decide (m.first ≤ offOf a / 65536 ∧ offOf a / 65536 < m.first + m.count))

/-- An operation that precedes in the path's program order is outstanding (R238). -/
def pendingOps (c : Ctx) : Bool := c.p.prog.ops.any (fun n => c.g.ops.any (fun o => o.id == n))

/-- The lost stores of the path's lanes, in the order of their instructions (R44, R352). -/
def lostOf (c : Ctx) : List Lost :=
  sortBy (fun a b => decide (a.op < b.op)) (c.g.lost.filter (fun x => c.p.mask.getLsbD x.lane))

/-- R352: waits for the path's earlier operations, then traps on lost stores. `none` where the instruction goes on. -/
def releaseWait (s : State) (c : Ctx) : Option State :=
  if c.act = 0 then none
  else if pendingOps c then some (waitFor s c .flush)
  else
    let xs := lostOf c
    if xs.isEmpty then none
    else
      let s := onGang s c.gk (fun g => { g with lost := g.lost.filter (fun x => !c.p.mask.getLsbD x.lane) })
      let fs := (lanes c.act).map (fun l =>
        { lane := l, code := .remoteLost,
          addr := (((xs.filter (fun x => x.lane == l)).head?).map (fun x => x.addr.toNat)).getD 0 : LaneFault })
      let code := ((xs.find? (fun x => x.code != 0)).map (·.code)).getD 0
      some (settle s c fs 1 [BitVec.ofNat 32 xs.length, 0, BitVec.ofNat 32 code])

/-- Sends the requests that lanes need of peers and waits for them. `none` where every answer is there. -/
def peerWait (s : State) (c : Ctx) (xs : List LaneAcc) (op k : Nat) (data : Nat → List Byte) : Option State :=
  let need := xs.filterMap (fun x => if x.bad.isNone ∧ x.peer.isNone then (peerHome s (c.whoAt x.lane) x.addr).map (x, ·) else none)
  match need with
  | [] =>
    if xs.any (fun x => x.peer.any (fun o => o.answer.isNone && o.fail.isNone)) then some (waitFor s c .peer) else none
  | _ =>
    match need.findSome? (fun x => match portOf s x.2.peer x.1.addr with
        | some p => if askRoom s p then none else some p
        | none => none) with
    | some p => some (waitFor s c (.zport p))
    | none =>
      some (waitFor (need.foldl (fun t x => match portOf t x.2.peer x.1.addr with
        | some p => askPeer t x.2 p op (.lane c.gk c.pk 0 x.1.lane) x.1.addr k (data x.1.lane)
        | none => t) s) c .peer)

/-- Drops the answered requests of the path. -/
def dropAnswers (s : State) (c : Ctx) : State :=
  { s with peerOps := s.peerOps.filter (fun o => match o.owner with
      | .lane g p _ _ => !(g == c.gk && p == c.pk && o.op != 3)
      | _ => true) }

/-- The lanes whose access passed. -/
def goodAccs (xs : List LaneAcc) : List LaneAcc := xs.filter (fun x => x.bad.isNone)
def accMask (xs : List LaneAcc) : Mask := xs.foldl (fun m x => m ||| laneBit x.lane) 0

/-- The bytes a passed access reads. -/
def accRead (s : State) (c : Ctx) (k : Nat) (x : LaneAcc) : Nat :=
  match x.peer with
  | some o => leNat ((o.answer.getD []).take k)
  | none => loadLoc s (locate s (c.whoAt x.lane) x.addr) k

def accKeys (s : State) (c : Ctx) (k : Nat) (x : LaneAcc) : List Nat :=
  relKeys (locate s (c.whoAt x.lane) x.addr) (if x.peer.isSome || (peerHome s (c.whoAt x.lane) x.addr).isSome then some x.addr else none) k

/-- Registers of an access of k bytes (R341). -/
def regsOf (k : Nat) : Nat := if k ≤ 4 then 1 else k / 4

/-- The V registers from `n` as one number. -/
def rvn (g : Gang) (n l : Nat) : Nat → Nat
  | 0 => 0
  | k + 1 => rv g n l + 2 ^ 32 * rvn g (n + 1) l k

/-- LD (R343): every passing lane reads its location; the values are written at completion. -/
def loadV (f : MEM) (sb : Bool) (c : Ctx) (s : State) : State :=
  let k := accSize f
  let xs := (lanes c.act).map (fun l => laneAcc s c k .read l (laneEA c f sb sb l))
  match peerWait s c xs 1 k (fun _ => []) with
  | some t => t
  | none =>
    let good := goodAccs xs
    let extra := accExtra s c k .read xs
    let ws := good.flatMap (fun x => vWrites f.d.toNat x.lane (regsOf k) (accRead s c k x))
    let s := good.foldl (fun t x => touch (relRead t c (ordAcq f) (accKeys t c k x)) (c.whoAt x.lane) x.addr false) s
    let s := dropAnswers s c
    let s := if good.isEmpty then s
      else addOp s c (accMask good) (.writes ws) ((List.range (regsOf k)).map (f.d.toNat + ·)) [] [] false
    settle s c (accFaults xs) 0 extra

/-- LD (V) (R343). -/
def execLdV (f : MEM) (s : State) : Host.Outcome State Fault Refusal := issue (shapeOf (.ldV f)) s (loadV f false)
/-- LD (S) (R343). -/
def execLdS (f : MEM) (s : State) : Host.Outcome State Fault Refusal := issue (shapeOf (.ldS f)) s (loadV f true)

/-- LDC: one access for the gang (R344). -/
def execLdc (f : MEM) (s : State) : Host.Outcome State Fault Refusal :=
  issue (shapeOf (.ldc f)) s (fun c s =>
    let k := accSize f
    match lanes c.act with
    | [] => advance s c.pk
    | l :: _ =>
      let x := laneAcc s c k .read l (laneEA c f true false l)
      match peerWait s c [x] 1 k (fun _ => []) with
      | some t => t
      | none =>
        match x.bad with
        | some code =>
          let fs := (lanes c.act).map (fun l => { lane := l, code := code, addr := x.addr : LaneFault })
          settle (dropAnswers s c) c fs 0 (accExtra s c k .read [x])
        | none =>
          let v := accRead s c k x
          let s := touch (relRead s c (ordAcq f) (accKeys s c k x)) (c.whoAt x.lane) x.addr false
          let s := dropAnswers s c
          advance (addOp s c c.act (.writes (sWrites f.d.toNat (regsOf k) v)) []
            ((List.range (regsOf k)).map (f.d.toNat + ·)) [] false) c.pk)

/-- PREF changes nothing that any access returns and takes no fault (R345). -/
def execPrefV (f : MEM) (s : State) : Host.Outcome State Fault Refusal :=
  issue (shapeOf (.prefV f)) s (fun c s => advance s c.pk)
/-- PREF (S) (R345). -/
def execPrefS (f : MEM) (s : State) : Host.Outcome State Fault Refusal :=
  issue (shapeOf (.prefS f)) s (fun c s => advance s c.pk)

/-- Marks a written window line (R202). -/
def markWritten (s : State) (a : Nat) : State :=
  { s with binds := Map.adjust s.binds (oidOf a) (fun b =>
      if b.written.contains (offOf a / 64) then b else { b with written := b.written ++ [offOf a / 64] }) }

/-- Whether lane `x`'s value is the one that stands where lanes of one store name one location (R239): a free choice
among them. -/
def storeWins (s : State) (c : Ctx) (half : Nat) (good : List LaneAcc) (x : LaneAcc) : Bool :=
  let same := good.filter (fun y => canon s c.who y.addr == canon s c.who x.addr)
  match same with
  | [] => true
  | [_] => true
  | _ => (same[Config.pick s.free (4 * canon s c.who x.addr + half) % same.length]?).any (fun y => y.lane == x.lane)

/-- ST: the bytes of one part of every lane's value. -/
def storePart (c : Ctx) (f : MEM) (good : List LaneAcc) (base : State) (half w : Nat) (s : State) : State :=
  (good.filter (storeWins base c half good)).foldl (fun t x =>
    storeLoc t ((locate base (c.whoAt x.lane) x.addr).plus (8 * half))
      (leBytes w (rvn c.g f.b.toNat x.lane (regsOf (accSize f)) / 2 ^ (64 * half)))) s

/-- ST (R343): every passing lane stores at its home point; completion is an event. -/
def storeV (f : MEM) (sb : Bool) (c : Ctx) (s : State) : State :=
  let k := accSize f
  let xs := (lanes c.act).map (fun l => laneAcc s c k .write l (laneEA c f sb sb l))
  match (if f.ord = 2 then releaseWait s c else none) with
  | some t => t
  | none =>
    match (goodAccs xs).find? (fun x => migrating s x.addr) with
    | some x => waitFor s c (.migration (oidOf x.addr))
    | none =>
      let good := goodAccs xs
      let far := good.filterMap (fun x => (peerHome s (c.whoAt x.lane) x.addr).bind (fun e => (portOf s e.peer x.addr).map (fun p => (x, e, p))))
      match far.find? (fun y => !askRoom s y.2.2) with
      | some y => waitFor s c (.zport y.2.2)
      | none =>
        let near := good.filter (fun x => (peerHome s (c.whoAt x.lane) x.addr).isNone)
        let extra := accExtra s c k .write xs
        let op := c.g.nextOp
        let base := s
        let s := storePart c f near base 0 (min k 8) s
        let s := if k = 16 then storePart c f near base 1 8 s else s
        let s := useFree s
        let h := (relScope c f).map (headOf s c)
        let s := good.foldl (fun t x =>
          let t := touch (markWritten t x.addr) (c.whoAt x.lane) x.addr true
          if h.isSome || (peerHome base (c.whoAt x.lane) x.addr).isSome then relWrite t (accKeys base c k x) h false else t) s
        let s := far.foldl (fun t y => askPeer t y.2.1 y.2.2 3 (.lane c.gk c.pk op y.1.lane) y.1.addr k
          (leBytes k (rvn c.g f.b.toNat y.1.lane (regsOf k)))) s
        let tags := (s.peerOps.filter (fun o => match o.owner with
          | .lane g _ n _ => g == c.gk && n == op && o.op == 3
          | _ => false)).map (·.tag)
        let s := if good.isEmpty then s
          else addOp s c (accMask good) (if tags.isEmpty then .writes [] else .peer tags []) [] [] [] true
        settle s c (accFaults xs) 1 extra

/-- ST (V) (R343). -/
def execStV (f : MEM) (s : State) : Host.Outcome State Fault Refusal := issue (shapeOf (.stV f)) s (storeV f false)
/-- ST (S) (R343). -/
def execStS (f : MEM) (s : State) : Host.Outcome State Fault Refusal := issue (shapeOf (.stS f)) s (storeV f true)

/-! ### Atomics (R347 to R350) -/

/-- The operations of R347. -/
inductive AtomOp where
  | add | min | max | and | or | xor | xchg | cas | fadd | maxe
  deriving DecidableEq, Repr

def AtomOp.num : AtomOp → Nat
  | .add => 0 | .min => 1 | .max => 2 | .and => 3 | .or => 4 | .xor => 5 | .xchg => 6 | .cas => 7 | .fadd => 9 | .maxe => 10

def AtomOp.ofNum : Nat → Option AtomOp
  | 0 => some .add | 1 => some .min | 2 => some .max | 3 => some .and | 4 => some .or | 5 => some .xor | 6 => some .xchg
  | 7 => some .cas | 8 => some .cas | 9 => some .fadd | 10 => some .maxe | _ => none

/-- AMAXE: bytewise unsigned maximum over `k` bytes (R350). -/
def maxBytes (k x y : Nat) : Nat := leNat ((List.range k).map (fun i => BitVec.ofNat 8 (Nat.max (byteN x i) (byteN y i))))

/-- The value an atomic of `k` bytes writes, `none` for a failing compare (R347 to R350). -/
def atomNew (op : AtomOp) (k old b cmp : Nat) : Option Nat :=
  let w := 8 * k
  match op with
  | .add => some ((old + b) % 2 ^ w)
  | .min => some (if sext w b < sext w old then b else old)
  | .max => some (if sext w old < sext w b then b else old)
  | .and => some (old &&& b)
  | .or => some (old ||| b)
  | .xor => some (old ^^^ b)
  | .xchg => some b
  | .cas => if old = cmp then some b else none
  | .fadd => some (faddF (if k = 8 then fF64 else fF32) .rne false old b).1
  | .maxe => some (maxBytes k old b)

/-- An atomic read-modify-write at a location: the old value and the state. -/
def atomAt (s : State) (l : Loc) (op : AtomOp) (k b cmp : Nat) : Nat × Bool × State :=
  let old := loadLoc s l k
  match atomNew op k old b cmp with
  | some new => (old, true, storeLoc s l (leBytes k new))
  | none => (old, false, s)

def atomData (op : AtomOp) (k b cmp : Nat) : List Byte := atomBytes op.num k b cmp

/-- A host-homed location admits AADD, AXCHG and the compare-and-swaps only, where the host supports them (R348). -/
def hostAtomBad (s : State) (c : Ctx) (op : AtomOp) (x : LaneAcc) : Bool :=
  (match locate s (c.whoAt x.lane) x.addr with
   | .host _ => true
   | _ => false) && (!(op == .add || op == .xchg || op == .cas) || Config.hostRefuses s.tick x.addr)

/-- An atomic (R348): lanes in ascending order, each on what the lane below it left. -/
def atomic (f : MEM) (op : AtomOp) (c : Ctx) (s : State) : State :=
  let k := accSize f
  let n := regsOf k
  let operand := fun l => rvn c.g f.b.toNat l n % 2 ^ (8 * k)
  let cmp := fun l => rvn c.g f.d.toNat l n % 2 ^ (8 * k)
  match (if f.ord.getLsbD 1 then releaseWait s c else none) with
  | some t => t
  | none =>
    let xs := (lanes c.act).map (fun l => laneAcc s c k .atomic l (laneEA c f false false l))
    let xs := xs.map (fun x => if x.bad.isNone && x.peer.isNone && hostAtomBad s c op x then { x with bad := some .objectInvalid } else x)
    match (goodAccs xs).find? (fun x => migrating s x.addr) with
    | some x => waitFor s c (.migration (oidOf x.addr))
    | none =>
      match peerWait s c xs 5 k (fun l => atomData op k (operand l) (cmp l)) with
      | some t => t
      | none =>
        let good := goodAccs xs
        let extra := accExtra s c k .atomic xs
        let h := (relScope c f).map (headOf s c)
        let r := good.foldl (fun (acc : List RegWrite × State) x =>
          let keys := accKeys s c k x
          let t := relRead acc.2 c (ordAcq f) keys
          let (old, wrote, t) := match x.peer with
            | some o =>
              let old := leNat ((o.answer.getD []).take k)
              (old, (atomNew op k old (operand x.lane) (cmp x.lane)).isSome, t)
            | none => atomAt t (locate s (c.whoAt x.lane) x.addr) op k (operand x.lane) (cmp x.lane)
          let t := if wrote then relWrite t keys h true else t
          (acc.1 ++ vWrites f.d.toNat x.lane n old, touch t (c.whoAt x.lane) x.addr true)) ([], s)
        let s := dropAnswers r.2 c
        let s := if good.isEmpty then s
          else addOp s c (accMask good) (.writes r.1) ((List.range n).map (f.d.toNat + ·)) [] [] false
        settle s c (accFaults xs) 2 extra

/-- AADD (R347). -/
def execAadd (f : MEM) (s : State) : Host.Outcome State Fault Refusal := issue (shapeOf (.aadd f)) s (atomic f .add)
/-- AMIN (R347). -/
def execAmin (f : MEM) (s : State) : Host.Outcome State Fault Refusal := issue (shapeOf (.amin f)) s (atomic f .min)
/-- AMAX (R347). -/
def execAmax (f : MEM) (s : State) : Host.Outcome State Fault Refusal := issue (shapeOf (.amax f)) s (atomic f .max)
/-- AAND (R347). -/
def execAand (f : MEM) (s : State) : Host.Outcome State Fault Refusal := issue (shapeOf (.aand f)) s (atomic f .and)
/-- AOR (R347). -/
def execAor (f : MEM) (s : State) : Host.Outcome State Fault Refusal := issue (shapeOf (.aor f)) s (atomic f .or)
/-- AXOR (R347). -/
def execAxor (f : MEM) (s : State) : Host.Outcome State Fault Refusal := issue (shapeOf (.axor f)) s (atomic f .xor)
/-- AXCHG (R347). -/
def execAxchg (f : MEM) (s : State) : Host.Outcome State Fault Refusal := issue (shapeOf (.axchg f)) s (atomic f .xchg)
/-- ACAS (R347, R348). -/
def execAcas (f : MEM) (s : State) : Host.Outcome State Fault Refusal := issue (shapeOf (.acas f)) s (atomic f .cas)
/-- ACAS2 (R347, R348). -/
def execAcas2 (f : MEM) (s : State) : Host.Outcome State Fault Refusal := issue (shapeOf (.acas2 f)) s (atomic f .cas)
/-- AFADD (R349). -/
def execAfadd (f : MEM) (s : State) : Host.Outcome State Fault Refusal := issue (shapeOf (.afadd f)) s (atomic f .fadd)
/-- AMAXE (R350). -/
def execAmaxe (f : MEM) (s : State) : Host.Outcome State Fault Refusal := issue (shapeOf (.amaxe f)) s (atomic f .maxe)

/-- FENCE (R351, R352). The path's earlier accesses are performed before it, so that it leaves only what R244 makes of
the accesses around it. -/
def execFence (f : MEM) (s : State) : Host.Outcome State Fault Refusal :=
  issue (shapeOf (.fence f)) s (fun c s =>
    if c.act = 0 then advance s c.pk
    else if pendingOps c then waitFor s c .flush
    else
      match (if f.ord.getLsbD 1 && decide (4 ≤ f.scope.toNat) then releaseWait s c else none) with
      | some t => t
      | none =>
        let s := match ordAcq f with
          | some sc => acquire s c sc c.p.prog.seen
          | none => s
        let s := match ordRel f with
          | some sc => onPath s c.pk (fun p => { p with prog := { p.prog with rel := some (max sc (p.prog.rel.getD 0)) } })
          | none => s
        advance s c.pk)

end Sys2Proof.Machine
end

