-- ==== Sys2Proof/Machine/Barrier.lean ====
section
/-! DEFINITION. Barrier and batch instructions (R329 to R340). -/

namespace Sys2Proof.Machine

/-- R330: the checks of a barrier address. -/
def barFault (s : State) (c : Ctx) (off : Nat) : Option TrapCode :=
  if off % 32 ≠ 0 then some .align
  else if (crewAt s c.ck).gran.length * 65536 < off + 32 then some .bounds
  else if Map.getD s.plainPoison (aliasToPlain s c.ck off / 64) false then some .poison
  else none

/-- A barrier instruction with a non-zero act: its checks, then its effect. -/
def onBarrier (off : Nat) (c : Ctx) (s : State) (body : State → State) : State :=
  if c.act = 0 then advance s c.pk
  else
    match barFault s c off with
    | some code =>
      settle s c ((lanes c.act).map (fun l => { lane := l, code := code, addr := addrOf aliasId off : LaneFault })) 0 []
    | none => body s

/-- The mask of the crew's gangs that have not retired (R331). -/
def crewMembers (s : State) (ck : Nat) : Nat := (gangsOfCrew s ck).foldl (fun m e => m ||| 2 ^ e.2.no) 0

/-- BINIT's object (R331). -/
def binitBar (old : Bar) (members : Nat) : Bar :=
  { members := members, arrived := 0, phase := if old.init then (old.phase + 1) % 2 ^ 32 else 0, eng := 0, init := true }

/-- BINIT (R331). -/
def execBinit (f : ENG) (s : State) : Host.Outcome State Fault Refusal :=
  issue (shapeOf (.binit f)) s (fun c s =>
    let off := rs c.g f.a.toNat
    onBarrier off c s (fun s =>
      let b := binitBar (barAt s c.ck off) (rs c.g f.b.toNat &&& crewMembers s c.ck)
      let s := plainPut s (aliasToPlain s c.ck off) (leBytes 32 0)
      advance (clearArrivals (putBar s c.ck off b) c.ck off) c.pk))

/-- BJOIN (R332). -/
def execBjoin (f : ENG) (s : State) : Host.Outcome State Fault Refusal :=
  issue (shapeOf (.bjoin f)) s (fun c s =>
    let off := rs c.g f.a.toNat
    onBarrier off c s (fun s =>
      let s := if (barAt s c.ck off).members.testBit c.g.no then s
        else barUpdate s c.ck off (fun b => { b with members := b.members ||| 2 ^ c.g.no })
      advance s c.pk))

def clearBit (x n : Nat) : Nat := if x.testBit n then x - 2 ^ n else x

/-- BLEAVE (R332): a release of what the path did before (R336). -/
def execBleave (f : ENG) (s : State) : Host.Outcome State Fault Refusal :=
  issue (shapeOf (.bleave f)) s (fun c s =>
    let off := rs c.g f.a.toNat
    onBarrier off c s (fun s =>
      if pendingOps c then waitFor s c .flush
      else
        let s := if (barAt s c.ck off).members.testBit c.g.no then
            let s := onGang s c.gk (fun g => { g with arr := g.arr.filter (fun r => r.off != off) })
            barUpdate s c.ck off (fun b => { b with members := clearBit b.members c.g.no, arrived := clearBit b.arrived c.g.no })
          else s
        advance s c.pk))

/-- Records the lanes of act in the arrival table for the object's current phase (R333). -/
def recordArrival (arr : List Arrival) (off : Nat) (phase : Word) (m : Mask) : List Arrival :=
  match arr.find? (fun r => r.off == off && r.phase == phase) with
  | some _ => arr.map (fun r => if r.off = off ∧ r.phase = phase then { r with mask := r.mask ||| m } else r)
  | none => arr.filter (fun r => r.off != off) ++ [{ off := off, phase := phase, mask := m }]

/-- BARV's part (R333): traps, waits for a table entry, or records and arrives, then `next` with the phase written. The LADDR of
BARRIER_MEMBER is zero (DESIGN CHOICE, log entry 41). -/
def barArrive (off : Nat) (c : Ctx) (s : State) (next : State → Word → State) : State :=
  onBarrier off c s (fun s =>
    let b := barAt s c.ck off
    if !b.init || !b.members.testBit c.g.no then trapAll s c .barrierMember c.act []
    else if pendingOps c then waitFor s c .flush
    else if !c.g.arr.any (fun r => r.off == off) && decide (8 ≤ c.g.arr.length) then waitFor s c .arrival
    else
      let ph := BitVec.ofNat 32 b.phase
      next (arriveTest (onGang s c.gk (fun g => { g with arr := recordArrival g.arr off ph c.act })) c.gk off) ph)

/-- BARV (R333). -/
def execBarv (f : ENG) (s : State) : Host.Outcome State Fault Refusal :=
  issue (shapeOf (.barv f)) s (fun c s =>
    barArrive (rs c.g f.a.toNat) c s (fun s ph =>
      advance (onGang s c.gk (fun g => putD g f.sd f.d 1 c.act (fun _ => ph.toNat))) c.pk))

/-- The path waits at a barrier for a phase; it is pushed aside while its gang has not arrived (R116, R334). -/
def barWait (s : State) (c : Ctx) (off : Nat) (ph : Word) : State :=
  let s := waitFor s c (.barrier off ph)
  if hasArrived s c.gk off then s else pushAside s c.pk

/-- BARW (R334). -/
def execBarw (f : ENG) (s : State) : Host.Outcome State Fault Refusal :=
  issue (shapeOf (.barw f)) s (fun c s =>
    let off := rs c.g f.a.toNat
    onBarrier off c s (fun s =>
      let ph := (barAt s c.ck off).phase
      if (lanes c.act).any (fun l => src c.g f.sb f.b 1 l == ph) then barWait s c off (BitVec.ofNat 32 ph)
      else advance s c.pk))

/-- BARAW: BARV, then BARW with the phase just recorded (R334). The second part is re-executed as a wait for that phase. -/
def execBaraw (f : ENG) (s : State) : Host.Outcome State Fault Refusal :=
  issue (shapeOf (.baraw f)) s (fun c s =>
    let off := rs c.g f.a.toNat
    match c.p.arrived with
    | some ph =>
      if (barAt s c.ck off).phase = ph.toNat then barWait s c off ph
      else advance s c.pk
    | none =>
      barArrive off c s (fun s ph =>
        if (barAt s c.ck off).phase = ph.toNat then
          barWait (onPath s c.pk (fun p => { p with arrived := some ph })) c off ph
        else advance s c.pk))

/-- Closes the open batch (R195); an empty batch completes at once. -/
def closeBatch (g : Gang) : Gang :=
  let b := g.openB
  let g := { g with openB := Batch.fresh (b.num + 1) }
  if b.pending = 0 then { g with undeliv := g.undeliv ||| b.status } else { g with closed := g.closed ++ [b] }

/-- BATCH (R337). -/
def execBatch (f : ENG) (s : State) : Host.Outcome State Fault Refusal :=
  issue (shapeOf (.batch f)) s (fun c s =>
    if c.act = 0 then advance s c.pk
    else if 16 ≤ c.g.closed.length ∧ c.g.openB.pending ≠ 0 then waitFor s c .batchSlot
    else advance (onGang s c.gk (fun g => putD (closeBatch g) f.sd f.d 1 c.act (fun _ => c.g.openB.num.toNat))) c.pk)

/-- The batches that a wait for number `n` waits for (R195). -/
def batchWaits (g : Gang) (n : Nat) : Bool :=
  g.closed.any (fun b => decide ((n + 2 ^ 32 - b.num.toNat) % 2 ^ 32 < 2 ^ 31))

/-- The greatest of some batch numbers, counted modulo 2^32 (R132). -/
def latest : List Word → Word
  | [] => 0
  | n :: ns => ns.foldl (fun a b => if (b - a).toNat < 2 ^ 31 then b else a) n

/-- BWAIT (R338, R352). -/
def execBwait (f : ENG) (s : State) : Host.Outcome State Fault Refusal :=
  issue (shapeOf (.bwait f)) s (fun c s =>
    if c.act = 0 then advance s c.pk
    else
      match (lanes c.act).filter (fun l => batchWaits c.g (src c.g f.sa f.a 1 l)) with
      | l :: ls => waitFor s c (.batch (latest ((l :: ls).map (fun l => BitVec.ofNat 32 (src c.g f.sa f.a 1 l)))))
      | [] =>
        match releaseWait s c with
        | some t => t
        | none =>
          let s := if f.tile = 1 then
              onGang s c.gk (fun g => putD { g with undeliv := 0 } f.sd f.d 1 c.act (fun _ => c.g.undeliv.toNat))
            else s
          advance s c.pk)

end Sys2Proof.Machine
end

