-- ==== Sys2Proof/Machine/Objects.lean ====
section
/-! DEFINITION. Pins, reclaim, dirty state, shoot-downs, the pager, host service requests and migration (R152 to R168,
R354 to R360), with the events by which the part carries them on. -/

namespace Sys2Proof.Machine

/-! ### Engine operations: issue and completion -/

/-- A new engine operation of the executing path. `join` puts it into the open batch (R195), `bar` holds a barrier open
(R136). Answers its number. -/
def newEng (s : State) (c : Ctx) (kind : EngKind) (join : Bool) (bar : Option Nat) : Nat × State :=
  let op := s.nextEng
  let (b, s) := if join then
      let r := joinBatch s c.gk
      (some r.1, r.2)
    else (none, s)
  let s := match bar with
    | some off => engPend s c.ck off true
    | none => s
  (op, { s with
    nextEng := op + 1,
    eng := Map.put s.eng op { gang := c.gk, stamp := c.g.stamp, crew := c.ck, batch := b, bar := bar, kind := kind,
                              cancelled := false, refused := [], st := 0, held := [], late := [] } })

/-- Reports an operation: its batch's status and its barrier (R136, R196). -/
def report (s : State) (e : EngOp) (st : BitVec 8) : State :=
  let s := match e.batch with
    | some n => if (gangAt s e.gang).stamp = e.stamp ∧ (Map.find? s.gangs e.gang).isSome then batchDone s e.gang n st else s
    | none => s
  match e.bar with
  | some off => engPend s e.crew off false
  | none => s

/-- Completes an engine operation: its locks are released, its outcome reported. -/
def finishEng (s : State) (op : Nat) (st : BitVec 8) : State :=
  match Map.find? s.eng op with
  | none => s
  | some e =>
    report { s with eng := Map.del s.eng op, locks := s.locks.filter (fun x => x.op != op),
                    peerOps := s.peerOps.filter (fun o => match o.owner with
                      | .eng k _ => k != op
                      | _ => true) } e st

/-! ### Dirty state and shoot-downs (R153, R154) -/

/-- Sets a page's bit in its object's dirty bitmap. -/
def flushPage (s : State) (d : Dirty) : State :=
  let e := entryOf s d.oid
  if e.dirtyptr = 0 then s
  else
    let a := e.dirtyptr + d.page / 8
    memPut s a [BitVec.ofNat 8 (memNat s a 1 ||| 2 ^ (d.page % 8))]

/-- Flushes the dirty state that `sel` selects. -/
def flushDirty (s : State) (sel : Dirty → Bool) : State :=
  (s.dirty.filter sel).foldl flushPage { s with dirty := s.dirty.filter (fun d => !sel d) }

/-- A graph operation of the identifier is not yet performed, which a shoot-down waits for. -/
def graphBusy (s : State) (oid : Nat) : Bool :=
  s.gangs.any (fun e => e.2.ops.any (fun o => match o.body with
    | .graph r => r.oids.contains oid
    | _ => false))

/-- A request for the identifier is on its way to a peer, under the entry as it was (R153). -/
def peerBusy (s : State) (oid : Nat) : Bool :=
  s.peerOps.any (fun o => oidOf o.addr.toNat == oid && o.answer.isNone && o.fail.isNone)

/-- What a completed shoot-down leaves: dirty state flushed, no cached translation of the identifier. -/
def shootDown (s : State) (oid : Nat) : State :=
  let s := flushDirty s (fun d => d.oid == oid)
  { s with xlats := s.xlats.filter (fun x => x.oid != oid) }

/-! ### Pins (R164 to R167) -/

/-- The pin overflow table's records that are valid: identifier and minimum version. -/
def ovfPins (s : State) : List (Nat × Nat) :=
  let id := s.mg.pinOvf
  let e := entryOf s id
  if id = 0 ∨ !e.ok ∨ e.kind ≠ 1 then []
  else
    let w := deviceWho 0
    (List.range (e.size / 16)).filterMap (fun i =>
      let a := addrOf id (16 * i)
      let x := objNat s w a 4
      if x.testBit 31 then some (x % 2 ^ 24, objNat s w (a + 4) 4) else none)

/-- The minimum versions of every pin that names an identifier. -/
def pinsOf (s : State) (oid : Nat) : List Nat :=
  s.gangs.flatMap (fun e => (e.2.pins.filter (fun p => p.2.oid == oid)).map (fun p => p.2.min)) ++
    ((ovfPins s).filter (fun p => p.1 == oid)).map (·.2)

/-- Implicit pins: the CODE objects of live runs and of installed handlers (R68, R164). -/
def implicitPin (s : State) (oid : Nat) : Bool :=
  s.runs.any (fun e => e.2.lr.code == oid) || (s.mg.ftInst && s.mg.ftHndl.toNat % 2 ^ 24 == oid) ||
    (s.mg.phInst && s.mg.phHndl.toNat % 2 ^ 24 == oid)

/-- A cursor of the gang is open or at end on an identifier (R186). -/
def cursorOn (g : Gang) (oid : Nat) : Bool := g.cur.any (fun x => x.2.oid == oid && (x.2.st == 1 || x.2.st == 2))

/-- The entry's RPEND bit, read at the table (R165). -/
def rpend (s : State) (oid : Nat) : Bool := (memNat s (entryAddr s oid + 11) 1).testBit 2

/-- PIN (R354): pin-then-recheck; the predicate is written at completion. -/
def execPin (f : RRR) (s : State) : Host.Outcome State Fault Refusal :=
  issue (shapeOf (.pin f)) s (fun c s =>
    match lanes c.act with
    | [] => advance s c.pk
    | l0 :: _ =>
      let a := src c.g f.sa f.a 2 l0
      let id := oidOf a
      let n := f.b.toNat
      let all := fun code => (lanes c.act).map (fun l => ({ lane := l, code := code, addr := a } : LaneFault))
      if id ≤ 1 ∨ id = aliasId ∨ id = plainId ∨ s.mg.objtCnt ≤ id then settle s c (all .objectInvalid) 0 []
      else if pendingOps c then waitFor s c .flush
      else if (Map.find? c.g.pins n).any (fun p => cursorOn c.g p.oid) then settle s c (all .cursorState) 0 []
      else
        let k := memNat s (entryAddr s id + 8) 1
        let ok := !rpend s id && decide (1 ≤ k ∧ k ≤ 6)
        let s := onGang s c.gk (fun g => reMin { g with
          pins := if ok then Map.put g.pins n { oid := id, min := 0xFFFFFFFF } else Map.del g.pins n })
        let s := if ok then s else bumpCore s c.core (quadOf s c.gk) 0x043 1
        advance (addOp s c c.act (.writes ((lanes c.act).map (fun l => .p f.d.toNat l ok))) [] [] [f.d.toNat] false) c.pk)

/-- UNPIN (R355). -/
def execUnpin (f : RRR) (s : State) : Host.Outcome State Fault Refusal :=
  issue (shapeOf (.unpin f)) s (fun c s =>
    let n := f.b.toNat
    if c.act = 0 then advance s c.pk
    else if pendingOps c then waitFor s c .flush
    else if (Map.find? c.g.pins n).any (fun p => cursorOn c.g p.oid) then
      settle s c (allLanes c.act .cursorState) 0 []
    else advance (onGang s c.gk (fun g => { g with pins := Map.del g.pins n })) c.pk)

/-! ### Reclaim (R166, R357) -/

/-- The checks of R357 for one lane. -/
def reclaimFault (s : State) (c : Ctx) (bar : Option Nat) (a : Nat) : Option (TrapCode × Nat) :=
  let id := oidOf a
  let e := entryOf s id
  if id = 1 ∨ id = aliasId ∨ id = plainId then some (.protect, a)
  else if id = 0 ∨ s.mg.objtCnt ≤ id ∨ !e.ok then some (.objectInvalid, a)
  else if !permits e.perm .write (c.p.kind == .sup) then some (.protect, a)
  else if e.home = 2 then some (.objectInvalid, a)
  else match bar with
    | some off => (barFault s c off).map (fun k => (k, addrOf aliasId off))
    | none => none

/-- Rewrites LINK along a die's deferred-reclaim list (R146, R166). -/
def relink (s : State) (die : Nat) : State :=
  let ids := (s.reclaims.filter (fun r => r.die == die && r.listed)).map (·.oid)
  (ids.zip (ids.drop 1 ++ [0])).foldl (fun t x => putEntry t x.1 48 (leBytes 4 x.2)) s

/-- Starts or joins the reclaim of an identifier for an engine operation. -/
def startReclaim (s : State) (die oid op : Nat) : State :=
  if s.reclaims.any (fun r => r.oid == oid) then
    { s with reclaims := s.reclaims.map (fun r => if r.oid = oid then { r with ops := r.ops ++ [op] } else r) }
  else
    let s := setObjFlag s oid 2 true
    { s with reclaims := s.reclaims ++ [{ oid := oid, die := die, ops := [op], searched := false, listed := false, freeing := false }] }

/-- RECLAIM (R357). -/
def execReclaim (f : ENG) (s : State) : Host.Outcome State Fault Refusal :=
  issue (shapeOf (.reclaim f)) s (fun c s =>
    let bar := if f.tile = 1 then some (rs c.g f.b.toNat) else none
    let addr := fun l => src c.g f.sa f.a 2 l
    let bad := fun l => reclaimFault s c bar (addr l)
    let fs := (lanes c.act).filterMap (fun l => (bad l).map (fun x => ({ lane := l, code := x.1, addr := x.2 } : LaneFault)))
    let ids := nubN (((lanes c.act).filter (fun l => (bad l).isNone)).map (fun l => oidOf (addr l)))
    if !ids.isEmpty && pendingOps c then waitFor s c .flush
    else
      let s := ids.foldl (fun t id =>
        let r := newEng t c (.reclaim id) true bar
        startReclaim r.2 (dieOf s c.core) id r.1) s
      settle s c fs 1 [])

/-- An object's frames return to the pool, or a request of KIND 3 is posted (R166 step 3). -/
def releaseFrames (s : State) (oid : Nat) : State :=
  let e := entryOf s oid
  let s := { s with bounce := s.bounce.filter (fun x => x.1 / 2 ^ 24 != oid) }
  if e.home = 1 then
    { s with nextTag := s.nextTag + 1,
             svcs := s.svcs ++ [{ tag := s.nextTag, kind := 3, oid := oid, page := 0, eng := none, posted := false }] }
  else (extList s e).foldl (fun t x => if x.2.2.testBit 63 then giveFrames t (x.2.2 % 2 ^ 23) x.2.1 else t) s

/-- Steps 3 to 5 of freeing an object whose shoot-down has completed (R166). -/
def freeObject (s : State) (oid : Nat) : State :=
  match s.reclaims.find? (fun r => r.oid == oid && r.freeing) with
  | none => s
  | some r =>
    let s := releaseFrames s oid
    let s := setObjFlag (putEntry s oid 8 [0]) oid 2 false
    let s := { s with reclaims := s.reclaims.filter (fun x => x.oid != oid), binds := Map.del s.binds oid }
    let s := bumpDie s r.die 0x114 1
    relink (r.ops.foldl (fun t op => finishEng t op 0) s) r.die

/-- At gang exit and for a drain a RECLAIM counts as complete once its first search has ended (R166). -/
def endReclaims (s : State) (sel : EngOp → Bool) : State :=
  let ops := (s.eng.filter (fun e => sel e.2 && (match e.2.kind with
    | .reclaim oid => s.reclaims.any (fun r => r.oid == oid && r.searched)
    | _ => false))).map (·.1)
  ops.foldl (fun t op => finishEng t op 0) s

/-- An engine operation has accesses of the object still to make: it holds a range-lock entry of it, or its writes are not yet seen
(R166, R167). -/
def engHolds (s : State) (oid : Nat) : Bool :=
  s.locks.any (fun x => x.oid % 2 ^ 24 == oid) || s.eng.any (fun e => e.2.late.any (fun x => x.oid % 2 ^ 24 == oid))

/-- RECLAIM_SEARCH (R166): a search for an identifier that is reclaim-pending. -/
def execReclaimSearch (oid : Nat) (s : State) : Host.Outcome State Fault Refusal :=
  event s (fun s =>
    match s.reclaims.find? (fun r => r.oid == oid && !r.freeing) with
    | none => s
    | some r =>
      let s := (List.range 8).foldl (fun t d => if s.mg.dieTrained.getLsbD d then bumpDie t d 0x115 1 else t) s
      let s := if s.mg.pinOvf = 0 then s else bumpDie s r.die 0x116 1
      let free := (pinsOf s oid).isEmpty && !implicitPin s oid
      let go := free && !engHolds s oid
      let s := if free || r.listed then s else bumpDie s r.die 0x113 1
      let s := { s with reclaims := s.reclaims.map (fun x => if x.oid = oid then
        { x with searched := true, listed := x.listed || !free, freeing := go } else x) }
      let s := relink s r.die
      let s := if go then { s with shoots := s.shoots ++ [{ oid := oid, who := .internal }] } else s
      endReclaims s (fun e => (crewAt s e.crew).draining || (gangAt s e.gang).stamp != e.stamp || (Map.find? s.gangs e.gang).isNone))

/-- The pages a HARVEST flushes: one identifier's, or every one's (R359). -/
def harvests (id : Option Nat) (d : Dirty) : Bool := id.all (fun n => n == d.oid)

/-- HARVEST (R359, R360): what is dirty now is flushed before a later load of the clause; its completion is an event, which flushes
what has become dirty meanwhile, and no clause of the path begins before it. -/
def execHarvest (f : SYS) (s : State) : Host.Outcome State Fault Refusal :=
  issue (shapeOf (.harvest f)) s (fun c s =>
    let id := rs c.g f.a.toNat % 2 ^ 24
    if c.act = 0 ∨ (f.sa ∧ (id = 0 ∨ id = aliasId ∨ id = plainId)) then advance s c.pk
    else if pendingOps c then waitFor s c .flush
    else
      let sel := if f.sa then some id else none
      advance { (flushDirty s (harvests sel)) with harvs := s.harvs ++ [{ gang := c.gk, mask := c.p.mask, oid := sel }] } c.pk)

/-- TLBINV (R359): the shoot-down completes by an event; no clause of the path begins before it. -/
def execTlbinv (f : SYS) (s : State) : Host.Outcome State Fault Refusal :=
  issue (shapeOf (.tlbinv f)) s (fun c s =>
    let id := rs c.g f.a.toNat % 2 ^ 24
    if c.act = 0 ∨ id = 0 ∨ id = aliasId ∨ id = plainId then advance s c.pk
    else if pendingOps c then waitFor s c .flush
    else advance { s with shoots := s.shoots ++ [{ oid := id, who := .lanes c.gk c.p.mask }] } c.pk)

/-- HARVEST_COMPLETE (R359): the harvests that hold a path. -/
def execHarvestComplete (p : Nat) (s : State) : Host.Outcome State Fault Refusal :=
  event s (fun s =>
    match Map.find? s.paths p with
    | none => s
    | some q =>
      let mine := fun (h : Harv) => h.gang == q.gang && (h.mask &&& q.mask) != 0
      let hs := s.harvs.filter mine
      flushDirty { s with harvs := s.harvs.filter (fun h => !mine h) }
        (fun d => hs.any (fun h => harvests h.oid d)))

/-- DIRTY_FLUSH_TIMEOUT (R154): 1 ms after a page was first dirtied. -/
def execDirtyFlushTimeout (oid page : Nat) (s : State) : Host.Outcome State Fault Refusal :=
  event s (fun s => flushDirty s (fun d => d.oid == oid && d.page == page))

/-- An object that is being freed waits for the engine operations that have issued since (R167). -/
def freeHeld (s : State) (oid : Nat) : Bool := s.reclaims.any (fun r => r.oid == oid && r.freeing) && engHolds s oid

/-- SHOOTDOWN_COMPLETE (R153): every shoot-down of the identifier in progress; a freed object's last steps follow. -/
def execShootdownComplete (oid : Nat) (s : State) : Host.Outcome State Fault Refusal :=
  event s (fun s =>
    if s.shoots.any (fun x => x.oid == oid) && !graphBusy s oid && !peerBusy s oid && !freeHeld s oid then
      let s := shootDown s oid
      freeObject { s with shoots := s.shoots.filter (fun x => x.oid != oid) } oid
    else s)

/-- A write of SHOOT (R168). -/
def writeShoot (s : State) (v : Nat) : State :=
  if s.shoots.any (fun x => x.who == .reg) then s
  else { s with shoots := s.shoots ++ [{ oid := v % 2 ^ 24, who := .reg }] }
/-- SHOOT_WRITE (R168). -/
def execShootWrite (v : BitVec 32) (s : State) : Host.Outcome State Fault Refusal := hostEvent s (fun s => writeShoot s v.toNat)

/-! ### Host service requests (R157) -/

/-- Records of the host service ring (R168). -/
def hsSize (s : State) : Nat := 128 * 2 ^ min (s.mg.hsRing.extractLsb' 0 4).toNat 9

/-- HOST_SERVICE_REQUEST (R157): the oldest request not yet in the ring is appended, if there is room. -/
def execHostServiceRequest (s : State) : Host.Outcome State Fault Refusal :=
  event s (fun s =>
    match s.svcs.find? (fun v => !v.posted) with
    | none => s
    | some v =>
      if hsSize s ≤ (s.mg.hsNext - s.mg.hsRead).toNat then s
      else
        let a := s.mg.hsRing.toNat / 4096 * 4096 + 32 * (s.mg.hsNext.toNat % hsSize s)
        let rec' := leBytes 4 v.tag ++ leBytes 1 v.kind ++ leBytes 3 0 ++ leBytes 4 v.oid ++ leBytes 4 v.page ++ leBytes 16 0
        onMg { s with hostMem := mapPut s.hostMem a rec',
                      svcs := s.svcs.map (fun x => if x.tag = v.tag then { x with posted := true } else x) }
          (fun m => { m with hsNext := m.hsNext + 1 }))

/-- The release sequences of a frame's bytes go with it (R244). -/
def moveRels (s : State) (src dst : Nat) (toHost : Bool) : State :=
  let base := fun (f t : Nat) (e : Nat) => e % 4 == t && e / 262144 == f
  let t := if toHost then 2 else 1
  let rest := s.rels.filter (fun e => !base src 1 e.1 && !base dst t e.1)
  { s with rels := (s.rels.filter (fun e => base src 1 e.1)).foldl (fun m e =>
      Map.put m (dst * 262144 + e.1 / 4 % 65536 * 4 + t) e.2) rest }

/-- A whole frame is copied to another or to a host page, byte by byte where either side lists one. -/
def copyFrame (s : State) (src dst : Nat) (toHost : Bool) : State :=
  let bs := s.mem.filter (fun e => e.1 / 65536 == src)
  let put := fun (m : Map Byte) => bs.foldl (fun m e => Map.setD m (dst * 65536 + e.1 % 65536) e.2 Config.emptyByte)
    (m.filter (fun e => e.1 / 65536 != dst))
  let s := moveRels s src dst toHost
  if toHost then { s with hostMem := put s.hostMem }
  else
    let ps := s.poison.filter (fun e => e.1 / 1024 == src)
    { s with mem := put s.mem,
             poison := ps.foldl (fun m e => Map.setD m (dst * 1024 + e.1 % 1024) e.2 false)
               (s.poison.filter (fun e => e.1 / 1024 != dst)) }

/-- A page's bounce frame is free again. -/
def dropBounce (s : State) (oid page : Nat) : State :=
  match bounceOf s oid page with
  | none => s
  | some f =>
    let s := zeroFrame s f
    { s with bounce := Map.del s.bounce (oid * 2 ^ 24 + page),
             xlats := s.xlats.filter (fun x => x.oid != oid || x.page != page) }

/-- The paths that wait for an answered request. -/
def pathsWaiting (s : State) (w : Wait) : List Nat := (s.paths.filter (fun e => e.2.wait == w)).map (·.1)

/-- What an answer does (R152, R157, R159): `ref` is a refusal. A refused request of KIND 5 is dropped: the page stays in its bounce
frame, and the pager may post another (DESIGN CHOICE, log entry 21). -/
def serveAnswer (s : State) (v : Svc) (ref : Bool) : State :=
  let s := { s with svcs := s.svcs.filter (fun x => x.tag != v.tag) }
  let st : Word := if ref then 1 else 0
  let s := (pathsWaiting s (.parked v.tag)).foldl (fun t k => onPath t k (fun p =>
    { p with wait := .none, trap := p.trap.map (fun r => { r with extra := (r.extra ++ [0, 0, 0]).take 3 ++ [st] }) })) s
  let s := (pathsWaiting s (.fetchHost v.tag)).foldl (fun t k =>
    let p := pathAt t k
    if ref then
      (takeTrap t { pk := k, pc := p.pc, cslot := 0, clause := none, hdr := p.pc, akind := 0, extra := [], xfer := false }
        (allLanes p.mask .illegalClause)).1
    else onPath t k (fun p => { p with wait := .none })) s
  let s := match v.eng with
    | some op => if ref then { s with eng := Map.adjust s.eng op (fun e => { e with refused := (v.oid * 2 ^ 24 + v.page) :: e.refused }) } else s
    | none => s
  if v.kind = 5 ∧ !ref then
    match bounceOf s v.oid v.page, pageTarget s v.oid (entryOf s v.oid) v.page with
    | some f, some (some t) => pumpDev (dropBounce (copyFrame s f t true) v.oid v.page)
    | _, _ => s
  else s

/-- A write of HSANSWER (R157, R168): a tag with no outstanding request is ignored. -/
def writeHsanswer (s : State) (v : DWord) : State :=
  match s.svcs.find? (fun x => x.posted && x.tag % 2 ^ 32 == v.toNat / 2 ^ 32) with
  | some x => serveAnswer s x (v.getLsbD 0)
  | none => s
/-- HSANSWER_WRITE (R157, R168). -/
def execHsanswerWrite (v : BitVec 64) (s : State) : Host.Outcome State Fault Refusal := hostEvent s (fun s => writeHsanswer s v)

/-- PAGER_MAP (R159): a page that stands in a bounce frame. Its frame comes from the pool of the bounce frame's die, else from that of the
lowest-numbered other die with one (DESIGN CHOICE, log entry 28). -/
def execPagerMap (oid page : Nat) (s : State) : Host.Outcome State Fault Refusal :=
  event s (fun s =>
    match bounceOf s oid page with
    | none => s
    | some f =>
      let e := entryOf s oid
      if e.home = 1 then
        if s.svcs.any (fun v => v.kind == 5 && v.oid == oid && v.page == page) then s
        else { s with nextTag := s.nextTag + 1,
                      svcs := s.svcs ++ [{ tag := s.nextTag, kind := 5, oid := oid, page := page, eng := none, posted := false }] }
      else
        match takeFrameNear s ((f - 2 ^ 23) / 4096) with
        | none => s
        | some (g, t) =>
          match mapObjPage t oid page (2 ^ 63 + g) with
          | none => s
          | some t => pumpDev (dropBounce (copyFrame (flushDirty t (fun d => d.oid == oid && d.page == page)) f g false) oid page))

/-! ### Migration (R160, R161) -/

/-- `n` frames of a die's pool. -/
def takeFrames (s : State) (die : Nat) : Nat → Option (List Nat × State)
  | 0 => some ([], s)
  | n + 1 =>
    match takeFrame s die with
    | none => none
    | some (f, t) => (takeFrames t die n).map (fun r => (f :: r.1, r.2))

/-- The extents from record `i` on cover the pages from `cur` below `stop` with RES set, none met breaking R149. -/
def coveredFrom (s : State) (oid : Nat) (e : ObjEnt) (stop : Nat) : Nat → Nat → Nat → Nat → Bool
  | 0, _, _, cur => decide (stop ≤ cur)
  | k + 1, i, lo, cur =>
    let x := extAt s e i lo
    if stop ≤ cur then true
    else if !extFine s oid e i x then false
    else if x.first + x.n ≤ cur then coveredFrom s oid e stop k (i + 1) (x.first + x.n) cur
    else if x.first ≤ cur ∧ x.target.testBit 63 then coveredFrom s oid e stop k (i + 1) (x.first + x.n) (x.first + x.n)
    else false

/-- Every page of a range is resident. -/
def allResident (s : State) (oid : Nat) (e : ObjEnt) (first n : Nat) : Bool :=
  (oid != 1) && coveredFrom s oid e (first + n) e.next 0 0 first

/-- The 16-byte status record (R161). -/
def migrStatus (s : State) (obj status bad : Nat) (at' : Nat) : State :=
  let e := entryOf s obj
  if e.ok ∧ e.kind = 1 ∧ 16 ≤ e.size then
    devStore s (addrOf obj 0) (leBytes 4 status ++ leBytes 4 bad ++ leBytes 8 at')
  else s

/-- Begins one recorded migration, or refuses it with status 3. -/
def startMigr (s : State) (d : List Byte) : State :=
  let n := fun o k => leNat ((d.drop o).take k)
  let oid := n 0 4
  let first := n 4 4
  let count := n 8 4
  let e := entryOf s oid
  let refuse := migrStatus s (n 16 4) 3 0 (2 ^ 64 - 1)
  if oid < 2 ^ 24 ∧ 1 < oid ∧ e.ok ∧ e.home = 0 ∧ (e.kind = 1 ∨ e.kind = 3 ∨ e.kind = 5 ∨ e.kind = 6) ∧ n 12 1 < 8 ∧
      n 13 3 = 0 ∧ n 20 12 = 0 ∧ n 16 4 < 2 ^ 24 ∧ allResident s oid e first count then
    match takeFrames s (n 12 1) count with
    | none => refuse
    | some (fs, t) =>
      { setObjFlag t oid 3 true with migr := some { oid := oid, first := first, count := count, status := n 16 4, frames := fs } }
  else refuse

/-- MIGREQ_WRITE (R160, R168): anything but one 32-byte write is discarded and counted in APERR. -/
def execMigreqWrite (data : List (BitVec 8)) (s : State) : Host.Outcome State Fault Refusal :=
  hostEvent s (fun s =>
    if data.length ≠ 32 then onMg s (fun m => { m with apErr := m.apErr + 1 })
    else if s.migr.isSome then { s with migrQ := s.migrQ ++ [data] }
    else startMigr s data)

/-- The next recorded migration begins. -/
def nextMigr (s : State) : State :=
  match s.migrQ with
  | [] => s
  | d :: ds => startMigr { s with migrQ := ds } d

/-- An aborted migration: the target frames return, MIGR clears, the status is written (R161). -/
def abortMigr (s : State) (m : Migr) (status : Nat) (bad : List Nat) : State :=
  let s := m.frames.foldl (fun t f => giveFrames t f 1) { s with migr := none }
  let s := bad.foldl (fun t x => poisonByte t (deviceWho 0) (addrOf m.oid (64 * x))) s
  migrStatus (setObjFlag s m.oid 3 false) m.status status bad.length (((bad.head?).map (64 * ·)).getD (2 ^ 64 - 1))

/-- MIGRATION_END (R160, R161): outcome 0 done, 1 the copy faults, 2 the copy reads uncorrectable errors at the sectors
`bad` of the object, ascending. -/
def execMigrationEnd (outcome : Nat) (bad : List Nat) (s : State) : Host.Outcome State Fault Refusal :=
  event s (fun s =>
    match s.migr with
    | none => s
    | some m =>
      if outcome = 1 then nextMigr (abortMigr s m 1 [])
      else if outcome = 2 then
        if bad.isEmpty ∨ bad.any (fun x => decide (x < 1024 * m.first ∨ 1024 * (m.first + m.count) ≤ x)) then s
        else nextMigr (abortMigr s m 2 (sortBy (fun a b => decide (a < b)) (nubN bad)))
      else if outcome = 0 then
        let e := entryOf s m.oid
        let pages := (List.range m.count).zip m.frames
        let old := pages.map (fun x => match pageTarget s m.oid e (m.first + x.1) with
          | some (some t) => t
          | _ => 0)
        let xs := pages.foldl (fun a x => mapPage a (m.first + x.1) (2 ^ 63 + x.2)) (extList s e)
        if e.extcap < xs.length then nextMigr (abortMigr s m 1 [])
        else
          let s := (old.zip m.frames).foldl (fun t x => copyFrame t x.1 x.2 false) s
          let s := shootDown (putExtList s m.oid e xs) m.oid
          let s := old.foldl (fun t f => giveFrames t f 1) { s with migr := none }
          nextMigr (migrStatus (setObjFlag s m.oid 3 false) m.status 0 0 (2 ^ 64 - 1))
      else s)

end Sys2Proof.Machine
end

