-- ==== Sys2Proof/Machine/Engine.lean ====
section
/-! DEFINITION. Engine operands and issue, copies, decoding copies and gather windows (R195 to R205, R370 to R373). An
operation is performed by its completion event, as far as the pages and peers it needs let it go. -/

namespace Sys2Proof.Machine

/-! ### Issue (R162, R370, R371) -/

/-- The agent of an engine operation at its issue and, by `opWho`, at its completion. -/
def engWho (c : Ctx) (use : Use) : Who := { c.who with use := use, noWatch := true }
def opWho (s : State) (e : EngOp) : Who :=
  { crew := some e.crew, core := e.gang / 64, slot := e.gang % 64, sup := true, use := .engine, noWatch := true,
    run := (crewAt s e.crew).run }

/-- The issue check of a range: R151 up to BOUNDS with k = 1 over `n` bytes, then R43 for a peer range (R371). Of a
window, offsets `offs` and the size must be multiples of ESIZE (R204). -/
def rangeCheck (s : State) (w : Who) (a n : Nat) (kind : AccKind) (offs : List Nat) : Option TrapCode :=
  let id := oidOf a
  if id = 0 then some .objectInvalid
  else if id = aliasId ∨ id = plainId then
    if w.use = .stream then some .objectInvalid
    else if inScratch s w a n then none else some .bounds
  else
    let e := (lookup s w id (offOf a / 65536)).1
    if !e.ok ∨ admits e.kind w.use kind ≠ 1 ∨ (w.use = .stream ∧ e.flags % 2 = 0) then some .objectInvalid
    else if e.kind = 3 ∧ bindOf s id = none then some .objectInvalid
    else if !permits e.perm kind w.sup then some .protect
    else if e.kind = 3 ∧ (bindOf s id).any (fun b => (n :: offs).any (fun x => x % b.esize != 0)) then some .align
    else if e.size < offOf a + n then some .bounds
    else if e.home = 2 ∧ livePorts s e.peer = [] then some .remoteLost
    else none

/-- The check of a record in the Plain or the alias that an operation reads at issue (R371, R373); no watchpoint matches it
(R106). -/
def recordFault (s : State) (c : Ctx) (a n : Nat) : Option (TrapCode × Nat) :=
  if oidOf a ≠ aliasId ∧ oidOf a ≠ plainId then some (.objectInvalid, a)
  else (List.range (n / 8)).findSome? (fun i => (check s { c.who with noWatch := true } (a + 8 * i) 8 .read).map (·, a + 8 * i))

/-- Every lane of act takes one code with one address (R370). -/
def uniFault (s : State) (c : Ctx) (code : TrapCode) (addr akind : Nat) (extra : List Word) : State :=
  settle s c ((lanes c.act).map (fun l => ({ lane := l, code := code, addr := addr % 2 ^ 64 } : LaneFault))) akind extra

/-- A range-lock entry; a range of the alias keeps its later pieces under identifiers plus 2^24, which take no entry. -/
def lockOf (s : State) (w : Who) (cluster op a n : Nat) : List Lock :=
  if n = 0 then [{ cluster := cluster, op := op, oid := oidOf (canon s w a), lo := 2 ^ 40, hi := 0 }]
  else if oidOf a = aliasId then
    (List.range ((offOf a + n - 1) / 65536 - offOf a / 65536 + 1)).map (fun j =>
      let lo := if j = 0 then offOf a else (offOf a / 65536 + j) * 65536
      let hi := min (offOf a + n) ((offOf a / 65536 + j + 1) * 65536)
      let p := offOf (canon s w (addrOf aliasId lo))
      { cluster := cluster, op := op, oid := if j = 0 then plainId else plainId + 2 ^ 24, lo := p / 64,
        hi := (p + (hi - lo) - 1) / 64 })
  else [{ cluster := cluster, op := op, oid := oidOf a, lo := offOf a / 64, hi := (offOf a + n - 1) / 64 }]

/-- Registers the ranges of an operation in its cluster's table (R162). -/
def regLocks (s : State) (c : Ctx) (op : Nat) (rs : List (Nat × Nat)) : State :=
  { s with locks := s.locks ++ rs.flatMap (fun r => lockOf s c.who (clusterOf s c.core) op r.1 r.2) }

def lockRoom (s : State) (c : Ctx) (n : Nat) : Bool :=
  decide ((s.locks.filter (fun x => x.cluster == clusterOf s c.core && decide (x.oid < 2 ^ 24))).length + n ≤ 64)

/-- The ranges of an operation that lie in the device. -/
def localRanges (s : State) (c : Ctx) (rs : List (Nat × Nat)) : List (Nat × Nat) :=
  rs.filter (fun r => (peerHome s c.who r.1).isNone)

/-! ### Moving bytes (R159, R197) -/

/-- A piece of a range: an address, or `none` where it stands for no location. -/
structure Piece where
  addr : Option Nat
  len : Nat
  deriving DecidableEq, Repr

/-- A range cut at 64-byte lines. -/
def linePieces (a n : Nat) : List Piece :=
  if n = 0 then []
  else (List.range ((a + n - 1) / 64 - a / 64 + 1)).map (fun i =>
    let lo := if i = 0 then a else (a / 64 + i) * 64
    { addr := some lo, len := min (a + n) ((a / 64 + i + 1) * 64) - lo })

/-- The pieces of `n` bytes at an address: a peer's lines, or one piece. -/
def rangePieces (s : State) (w : Who) (a n : Nat) : List Piece :=
  if (peerHome s w a).isSome then linePieces a n else [{ addr := some a, len := n }]

/-- Operation `op` has not been answered a request it needs for this page, or waits for one: the first page of the
pieces that is host-homed, non-resident and not refused (R159). -/
def hostMiss (s : State) (w : Who) (e : EngOp) (ps : List Piece) : Option (Nat × Nat) :=
  ps.findSome? (fun p => match p.addr with
    | none => none
    | some a =>
      if oidOf a = aliasId ∨ oidOf a = plainId ∨ p.len = 0 then none
      else (List.range ((offOf a + p.len - 1) / 65536 - offOf a / 65536 + 1)).findSome? (fun i =>
        let pg := offOf a / 65536 + i
        let r := lookup s w (oidOf a) pg
        if r.1.home = 1 ∧ r.2 = some none ∧ bounceOf s (oidOf a) pg = none ∧ !e.refused.contains (oidOf a * 2 ^ 24 + pg)
        then some (oidOf a, pg) else none))

/-- Posts the stalled stream's host service request once. -/
def stallHost (s : State) (op : Nat) (pg : Nat × Nat) : State :=
  if s.svcs.any (fun v => v.eng == some op && v.oid == pg.1 && v.page == pg.2) then s
  else { s with nextTag := s.nextTag + 1,
                svcs := s.svcs ++ [{ tag := s.nextTag, kind := 1, oid := pg.1, page := pg.2, eng := some op, posted := false }] }

/-- One byte as an engine reads it: a refused page's lines read poisoned, and a page under an extent that breaks R149 reads as a
non-resident one (DESIGN CHOICE, log entry 28). -/
def readCell (s : State) (w : Who) (e : EngOp) (a : Nat) : Cell :=
  let l := locate s w a
  { b := readByte s l,
    bad := poisonedAt s l || (l == .none && e.refused.contains (oidOf a * 2 ^ 24 + offOf a / 65536)), ok := true }

/-- The request numbered `i` of an operation. -/
def engReq (s : State) (op i : Nat) : Option PeerOp :=
  s.peerOps.find? (fun o => match o.owner with
    | .eng k j => k == op && j == i
    | _ => false)

/-- A request to send: its number, OP, address, bytes wanted and data, and whether it asks for stream blocks. -/
structure Ask where
  i : Nat
  op : Nat
  addr : Nat
  n : Nat
  data : List Byte
  stream : Bool := false
  deriving DecidableEq, Repr

/-- Sends every request that is not yet sent and finds room on its port; without a live port it is lost at once. -/
def engAsk (s : State) (w : Who) (op : Nat) (asks : List Ask) : State :=
  asks.foldl (fun t q =>
    match engReq t op q.i, peerHome t w q.addr with
    | none, some e =>
      match portOf t e.peer q.addr with
      | some p => if askRoom t p then askWith t e p q.op (.eng op q.i) q.addr q.n q.data q.stream else t
      | none => { t with peerOps := t.peerOps ++ [{ tag := 65536, port := 64, op := q.op, owner := .eng op q.i,
                                                    addr := BitVec.ofNat 64 q.addr, n := q.n, answer := none, fail := some 10,
                                                    sofar := [], stream := q.stream, segs := [] }] }
    | _, _ => t) s

/-- Every request is answered or lost. -/
def engAnswered (s : State) (op : Nat) (asks : List Ask) : Bool :=
  asks.all (fun q => (engReq s op q.i).any (fun o => o.answer.isSome || o.fail.isSome))

/-- The peer's pieces as requests numbered from `base` in order. -/
def asksOf (s : State) (w : Who) (base reqOp : Nat) (ps : List Piece) (data : Nat → List Byte) : List Ask :=
  (ps.zip (List.range ps.length)).filterMap (fun x => match x.1.addr with
    | some a => if (peerHome s w a).isSome then
        some { i := base + x.2, op := reqOp, addr := a, n := x.1.len, data := data x.2 } else none
    | none => none)

/-- The bytes of the pieces in order. -/
def cellsOf (s : State) (w : Who) (e : EngOp) (op base : Nat) (ps : List Piece) : List (List Cell) :=
  (ps.zip (List.range ps.length)).map (fun x => match x.1.addr with
    | none => List.replicate x.1.len { b := 0, bad := false, ok := true }
    | some a =>
      if (peerHome s w a).isSome then
        match (engReq s op (base + x.2)).bind (·.answer) with
        | some bs => (List.range x.1.len).map (fun j => { b := bs.getD j 0, bad := false, ok := true })
        | none => List.replicate x.1.len { b := 0, bad := false, ok := false }
      else (List.range x.1.len).map (fun j => readCell s w e (a + j)))

/-- Writes cells at an address line by line: a line with a lost byte stays, a line with a poisoned one is poisoned.
Answers the status bits of R196. -/
def writeLine (s : State) (w : Who) (a : Nat) (cs : List Cell) : BitVec 8 × State :=
  if cs.isEmpty then (0, s)
  else if cs.any (fun x => !x.ok) then (1, s)
  else
    let t := engStore s w a (cs.map (·.b))
    if cs.any (·.bad) then (2, poisonByte t w a) else (0, t)

def writeCells (w : Who) : Nat → Nat → List Cell → BitVec 8 × State → BitVec 8 × State
  | 0, _, _, r => r
  | k + 1, a, cs, r =>
    if cs.isEmpty then r
    else
      let n := 64 - a % 64
      let x := writeLine r.2 w a (cs.take n)
      writeCells w k (a + n) (cs.drop n) (r.1 ||| x.1, x.2)

/-- Cuts a list at the lengths of pieces. -/
def cutPieces {α : Type} (ps : List Piece) (cs : List α) : List (Piece × List α) :=
  match ps with
  | [] => []
  | p :: rest => (p, cs.take p.len) :: cutPieces rest (cs.drop p.len)

/-- A write to a page that migrates waits (R160). -/
def dstMigrates (s : State) (ps : List Piece) : Bool :=
  ps.any (fun p => p.addr.any (fun a => p.len != 0 &&
    s.migr.any (fun m => m.oid == oidOf a && oidOf a != aliasId && oidOf a != plainId &&
      decide (m.first ≤ (offOf a + p.len - 1) / 65536 ∧ offOf a / 65536 < m.first + m.count))))

/-- Local destination pages all have somewhere to go (R159). -/
def dstPages (s : State) (w : Who) (ps : List Piece) : Option State :=
  ps.foldlM (fun t p => match p.addr with
    | some a => if (peerHome t w a).isSome then some t else engPages t w a p.len
    | none => some t) s

/-- What an attempt to perform an operation's moves came to. -/
inductive Moved where
  | stalled (s : State)
  | done (st : BitVec 8) (s : State)
  deriving DecidableEq, Repr

/-- The requests that write cells to the pieces that stand at a peer: OP 03, once for each piece that is neither lost nor poisoned. -/
def outAsks (s : State) (w : Who) (base : Nat) (dp : List Piece) (cells : List Cell) : List Ask :=
  let cut := cutPieces dp cells
  let sendable := fun (i : Nat) => ((cut[i]?).map (fun x => x.2.all (fun k => k.ok && !k.bad))).getD false
  (asksOf s w base 3 dp (fun i => ((cut[i]?).map (fun x => x.2.map (·.b))).getD [])).filter (fun q => sendable (q.i - base))

/-- PARTIAL (R196) where one of the requests was lost. -/
def lostBit (s : State) (op : Nat) (asks : List Ask) : BitVec 8 :=
  if asks.any (fun q => (engReq s op q.i).any (fun o => o.fail.isSome)) then 1 else 0

/-- Writes cells to destination pieces: local lines, then a peer's lines by OP 03 once each. -/
def moveOut (s : State) (w : Who) (op base : Nat) (dp : List Piece) (cells : List Cell) : Moved :=
  let cut := cutPieces dp cells
  let asks := outAsks s w base dp cells
  let s := engAsk s w op asks
  if !engAnswered s op asks then .stalled s
  else if dstMigrates s dp then .stalled s
  else
    match dstPages s w dp with
    | none => .stalled s
    | some s =>
      let r := cut.foldl (fun (r : BitVec 8 × State) x => match x.1.addr with
        | none => r
        | some a =>
          if (peerHome s w a).isSome then
            (r.1 ||| (if x.2.any (fun k => !k.ok) then 1 else 0) ||| (if x.2.any (·.bad) then 2 else 0), r.2)
          else writeCells w (x.2.length / 64 + 2) a x.2 r) (0, s)
      .done (r.1 ||| lostBit s op asks) r.2

/-- Reads source pieces, unless the operation holds them already; `none` in the second place while the operation stalls. -/
def moveIn (s : State) (w : Who) (e : EngOp) (op base : Nat) (sp : List Piece) : State × Option (List (List Cell)) :=
  match (e.held.find? (fun x => x.1 == base)).map (·.2) with
  | some cs => (s, some cs)
  | none =>
  match hostMiss s w e (sp.filter (fun p => p.addr.any (fun a => (peerHome s w a).isNone))) with
  | some pg => (stallHost s op pg, none)
  | none =>
    let asks := asksOf s w base 1 sp (fun _ => [])
    let s := engAsk s w op asks
    if engAnswered s op asks then (s, some (cellsOf s w e op base sp)) else (s, none)

/-- A move whole: every byte read before any is written (R197). -/
def moveAll (s : State) (w : Who) (e : EngOp) (op base : Nat) (sp dp : List Piece) : Moved :=
  match moveIn s w e op base sp with
  | (s, none) => .stalled s
  | (s, some cs) => moveOut s w op base dp cs.flatten

/-! ### Gather windows (R200 to R205) -/

/-- The end of the range that stands for a binding's data object (R200). -/
def dataEnd (s : State) (w : Who) (data : Nat) : Nat :=
  if oidOf data = aliasId then ((w.crew.map (fun ck => (crewAt s ck).gran.length)).getD 0) * 65536
  else if oidOf data = plainId then offOf data / 0x400000 * 0x400000 + 0x300000
  else (entryOf s (oidOf data)).size

/-- The address of data[ix], `none` past the data. -/
def dataElt (s : State) (w : Who) (b : Binding) (ix : Nat) : Option Nat :=
  let o := offOf b.data.toNat + ix * b.esize
  if o + b.esize ≤ dataEnd s w b.data.toNat then some (addrOf (oidOf b.data.toNat) o) else none

/-- The data address of a window position, `none` for an all-ones index, one past the data, or a position past COUNT. -/
def posAddr (s : State) (w : Who) (b : Binding) (i : Nat) : Option Nat :=
  match b.idx.getD i none with
  | some ix => dataElt s w b ix
  | none => none

/-- The window that a fill or scatter is of. -/
def winOf (e : EngOp) : Option Nat :=
  match e.kind with
  | .fill w _ _ => some w
  | .scatter w _ => some w
  | _ => none

/-- Fills and scatters of one window are performed in the order of their issue (R373); a copy through the window is not ordered with
them, nor copies among themselves (R163, R411). -/
def windowTurn (s : State) (op : Nat) (e : EngOp) : Bool :=
  !s.eng.any (fun x => decide (x.1 < op) && (winOf e).isSome && winOf x.2 == winOf e)

/-- The pieces of a copy's range: a window's positions through the kept indices of its binding (R204), a peer's lines, or one
piece. -/
def copyPieces (s : State) (w : Who) (b : Option Binding) (a n : Nat) : List Piece :=
  match b with
  | some b => (List.range (n / b.esize)).map (fun i => { addr := posAddr s w b (offOf a / b.esize + i), len := b.esize })
  | none => rangePieces s w a n

/-- Applies a change to every copy of the binding that fill `op` made. -/
def onBinding (s : State) (op : Nat) (f : Binding → Binding) : State :=
  let g := fun (b : Binding) => if b.op = op then f b else b
  { s with binds := s.binds.map (fun x => (x.1, g x.2)),
           eng := s.eng.map (fun x => (x.1, { x.2 with kind := match x.2.kind with
             | .fill w b old => .fill w b (old.map g)
             | .scatter w b => .scatter w (g b)
             | .copy x y n sb db => .copy x y n (sb.map g) (db.map g)
             | k => k })) }

/-- Source and destination pieces of a scatter: each written line's positions, ascending (R203). -/
def scatterPieces (s : State) (w : Who) (win : Nat) (b : Binding) : List Piece × List Piece :=
  let ls := (sortBy (fun x y => decide (x < y)) b.written).filter (fun l => !b.lost.contains l)
  let ps := (ls.flatMap (fun l => (List.range (64 / b.esize)).map (fun i => 64 * l / b.esize + i))).filter
    (fun i => decide (i < b.count) && (posAddr s w b i).isSome)
  (ps.map (fun i => { addr := some (addrOf win (i * b.esize)), len := b.esize }),
    ps.map (fun i => { addr := posAddr s w b i, len := b.esize }))

/-- Reads the index vector once (R201): all ones are kept as `none`. -/
def readIndex (cs : List Cell) (isize : Nat) : Nat → List (Option Nat)
  | 0 => []
  | n + 1 =>
    let x := leNat ((cs.take isize).map (·.b))
    (if x = 2 ^ (8 * isize) - 1 then none else some x) :: readIndex (cs.drop isize) isize n

/-- Whether each window position's index came from a poisoned line. -/
def poisonedIdx (cs : List Cell) (isize i : Nat) : Bool := ((cs.drop (isize * i)).take isize).any (·.bad)

/-- The gather requests of a fill whose data stand at a peer: one for each position, so that each line's takes the line's port (R42,
R205). The layout of a gather request's data is a DESIGN CHOICE, see the log. -/
def gatherAsks (s : State) (w : Who) (b : Binding) : List Ask :=
  (List.range b.count).filterMap (fun i => (posAddr s w b i).map (fun a =>
    { i := 2 ^ 32 + i, op := 8, addr := a, n := b.esize,
      data := leBytes 1 b.esize ++ leBytes 1 1 ++ leBytes 6 0 ++ leBytes 8 (offOf a) }))

/-- The bytes of window position `i` gathered from a peer. -/
def gathered (s : State) (op : Nat) (b : Binding) (i : Nat) : List Cell :=
  match (engReq s op (2 ^ 32 + i)).bind (·.answer) with
  | some bs => (List.range b.esize).map (fun j => { b := bs.getD j 0, bad := false, ok := true })
  | none => List.replicate b.esize { b := 0, bad := false, ok := false }

/-- The fill after its unbind (R201): `new` holds the indices once they are read. -/
def fillRun (s : State) (w : Who) (e : EngOp) (op win : Nat) (new : Binding) (old : Option Binding) (st : BitVec 8) : State :=
  match moveIn s w e op (2 ^ 34) [{ addr := some new.index.toNat, len := new.count * new.isize }] with
  | (s, none) => s
  | (s, some cs) =>
    let ixs := cs.flatten
    let new := if new.idx.isEmpty then { new with idx := readIndex ixs new.isize new.count } else new
    let s := { s with eng := Map.adjust s.eng op (fun e => { e with kind := .fill win new old }) }
    let peer := (peerHome s w new.data.toNat).isSome
    let asks := if peer then gatherAsks s w new else []
    let s := engAsk s w op asks
    let local' := if peer then [] else (List.range new.count).filterMap (fun i =>
      (posAddr s w new i).map (fun a => ({ addr := some a, len := new.esize } : Piece)))
    if !engAnswered s op asks then s
    else
      match hostMiss s w e local' with
      | some pg => stallHost s op pg
      | none =>
        let size := (entryOf s win).size
        let data := (List.range new.count).map (fun i =>
          let cells := match posAddr s w new i with
            | none => List.replicate new.esize ({ b := 0, bad := false, ok := true } : Cell)
            | some a => if peer then gathered s op new i
                else (List.range new.esize).map (fun j => readCell s w e (a + j))
          if poisonedIdx ixs new.isize i then cells.map (fun x => { x with b := 0, bad := true }) else cells)
        let lost := nubN ((List.range new.count).filterMap (fun i =>
          if ((new.idx.getD i none).any (fun ix => (dataElt s w new ix).isNone)) || (data.getD i []).any (fun x => !x.ok)
          then some (i * new.esize / 64) else none))
        let cells := (data.flatten.map (fun x => if x.ok then x else { x with ok := true })) ++
          List.replicate (size - new.count * new.esize) ({ b := 0, bad := false, ok := true } : Cell)
        match moveOut s w op (2 ^ 35) [{ addr := some (addrOf win 0), len := size }] cells with
        | .stalled s => s
        | .done st2 s =>
          let s := onBinding s op (fun b => { b with idx := new.idx, lost := lost })
          finishEng s op (st ||| st2 ||| (if lost.isEmpty then 0 else 1))

/-- A fill: the displaced binding is unbound first, within the same operation (R200). -/
def fillOrUnbind (s : State) (e : EngOp) (op win : Nat) (new : Binding) (old : Option Binding) : State :=
  let w := opWho s e
  match old with
  | some b =>
    if new.idx.isEmpty then
      let (sp, dp) := scatterPieces s w win b
      match moveAll s w e op 0 sp dp with
      | .stalled s => s
      | .done st s => fillRun { s with eng := Map.adjust s.eng op (fun e => { e with st := st }) } w e op win new old st
    else fillRun s w e op win new old e.st
  | none => fillRun s w e op win new old e.st

/-- WINDOW_FILL_COMPLETE (R201). -/
def execWindowFillComplete (op : Nat) (s : State) : Host.Outcome State Fault Refusal :=
  event s (fun s =>
    match Map.find? s.eng op with
    | none => s
    | some e =>
      match e.kind with
      | .fill win new old => if windowTurn s op e then fillOrUnbind s e op win new old else s
      | _ => s)

/-- WINDOW_SCATTER_COMPLETE (R203): the binding is freed where it still stands. -/
def execWindowScatterComplete (op : Nat) (s : State) : Host.Outcome State Fault Refusal :=
  event s (fun s =>
    match Map.find? s.eng op with
    | none => s
    | some e =>
      match e.kind with
      | .scatter win b =>
        if windowTurn s op e then
          let w := opWho s e
          let (sp, dp) := scatterPieces s w win b
          match moveAll s w e op 0 sp dp with
          | .stalled s => s
          | .done st s =>
            let s := if (bindOf s win).any (fun x => x.op == b.op) then { s with binds := Map.del s.binds win } else s
            finishEng s op st
        else s
      | _ => s)

/-- The die whose binding table a window uses: that of its first resident page, else the issuing core's. -/
def windowDie (s : State) (c : Ctx) (win : Nat) : Nat :=
  match ((extList s (entryOf s win)).filter (fun x => x.2.2.testBit 63)).head? with
  | some x => x.2.2 % 2 ^ 23 / 2 ^ 20
  | none => dieOf s c.core

/-- The checks of a window address (R373), and whether its range admits the kind of access (R371). -/
def windowFault (s : State) (a : Nat) (kind : AccKind) (sup : Bool) : Option TrapCode :=
  let e := entryOf s (oidOf a)
  if oidOf a = aliasId ∨ oidOf a = plainId ∨ !e.ok ∨ e.kind ≠ 3 then some .objectInvalid
  else if offOf a ≠ 0 then some .bounds
  else if !permits e.perm kind sup then some .protect
  else if e.home = 2 ∧ livePorts s e.peer = [] then some .remoteLost
  else none

/-- The binding record (R200); `none` for a reserved value or a window too small. -/
def parseBinding (s : State) (op die win : Nat) (bs : List Byte) : Option Binding :=
  let n := fun o k => leNat ((bs.drop o).take k)
  let isz := n 20 1
  let esz := n 21 1
  if (isz = 2 ∨ isz = 3) ∧ esz ≤ 3 ∧ n 22 10 = 0 ∧ 1 ≤ n 16 4 ∧ n 16 4 * 2 ^ esz ≤ (entryOf s win).size then
    some { op := op, die := die, index := BitVec.ofNat 64 (n 0 8), isize := 2 ^ isz, data := BitVec.ofNat 64 (n 8 8),
           count := n 16 4, esize := 2 ^ esz, idx := [], lost := [], written := [] }
  else none

/-- The range that stands for the data of a binding. -/
def dataRange (s : State) (w : Who) (b : Binding) : Nat × Nat :=
  let d := b.data.toNat
  if oidOf d = aliasId ∨ oidOf d = plainId then (d, dataEnd s w d - offOf d) else (addrOf (oidOf d) 0, dataEnd s w d)

/-- The issue checks of INDEX and DATA (R200, R371, R373). -/
def bindingFault (s : State) (c : Ctx) (b : Binding) : Option (TrapCode × Nat) :=
  let w := engWho c .engine
  let homeBad := fun (a : Nat) (peerOk : Bool) =>
    let e := entryOf s (oidOf a)
    decide (oidOf a ≠ aliasId ∧ oidOf a ≠ plainId ∧ (e.home = 1 ∨ (e.home = 2 ∧ !peerOk)))
  let x := b.index.toNat
  let d := dataRange s w b
  if oidOf x = aliasId ∨ oidOf x = plainId ∨ homeBad x false then some (.objectInvalid, x)
  else match rangeCheck s w x (b.count * b.isize) .read [] with
    | some code => some (code, x)
    | none =>
      if homeBad d.1 true then some (.objectInvalid, b.data.toNat)
      else (rangeCheck s w d.1 (if (entryOf s (oidOf d.1)).kind = 0 ∧ d.2 = 0 then 1 else d.2) .read []).map (·, b.data.toNat)

/-- The issue check of the data that a scatter writes (R371). -/
def scatterFault (s : State) (c : Ctx) (b : Binding) : Option (TrapCode × Nat) :=
  let d := dataRange s c.who b
  (rangeCheck s (engWho c .engine) d.1 d.2 .write []).map (·, b.data.toNat)

/-- WBIND (R373). -/
def execWbind (f : ENG) (s : State) : Host.Outcome State Fault Refusal :=
  issue (shapeOf (.wbind f)) s (fun c s =>
    let a := rsw c.g f.a.toNat 2
    let r := rsw c.g f.b.toNat 2
    let win := oidOf a
    if c.act = 0 then advance s c.pk
    else match windowFault s a .write c.who.sup with
      | some code => uniFault s c code a 0 []
      | none =>
        match recordFault s c r 32 with
        | some x => uniFault s c x.1 x.2 0 []
        | none =>
          let old := bindOf s win
          let die := ((old.map (·.die)).getD (windowDie s c win))
          match parseBinding s s.nextEng die win (loadBytes s c.who r 32) with
          | none => trapAll s c .illegalOp c.act []
          | some b =>
            match bindingFault s c b <|> old.bind (scatterFault s c) with
            | some x => uniFault s c x.1 x.2 0 []
            | none =>
              if 1024 ≤ (s.binds.filter (fun x => x.2.die == die)).length then
                advance (onGang s c.gk (fun g => putP g f.d.toNat c.act (fun _ => false))) c.pk
              else if pendingOps c then waitFor s c .flush
              else
                let rs := [(addrOf win 0, (entryOf s win).size), (b.index.toNat, b.count * b.isize)] ++
                  (match old with
                   | some o => localRanges s c [dataRange s c.who o]
                   | none => [])
                if !lockRoom s c rs.length then waitFor s c (.locks rs.length)
                else
                  let (op, s) := newEng s c (.fill win b old) true none
                  let s := regLocks s c op rs
                  let s := { s with binds := Map.put s.binds win b }
                  advance (onGang s c.gk (fun g => putP g f.d.toNat c.act (fun _ => true))) c.pk)

/-- WUNBIND (R373). -/
def execWunbind (f : ENG) (s : State) : Host.Outcome State Fault Refusal :=
  issue (shapeOf (.wunbind f)) s (fun c s =>
    let a := rsw c.g f.a.toNat 2
    let win := oidOf a
    if c.act = 0 then advance s c.pk
    else match (windowFault s a .read c.who.sup).map (·, a) <|> (bindOf s win).bind (scatterFault s c) with
      | some x => uniFault s c x.1 x.2 0 []
      | none =>
        if pendingOps c then waitFor s c .flush
        else match bindOf s win with
          | none =>
            let (op, s) := newEng s c (.copy 0 0 0 none none) true none
            advance (finishEng s op 0) c.pk
          | some b =>
            let rs := (addrOf win 0, (entryOf s win).size) :: localRanges s c [dataRange s c.who b]
            if !lockRoom s c rs.length then waitFor s c (.locks rs.length)
            else
              let (op, s) := newEng s c (.scatter win b) true none
              let s := regLocks s c op rs
              advance { s with binds := Map.adjust s.binds win (fun x => { x with written := [] }) } c.pk)

/-! ### Decoding copies (R45, R47, R198, R199) -/

/-- The canonical codes of a length table: length, code and symbol (R199). -/
def canonCodes (lens : List Nat) : List (Nat × Nat × Nat) :=
  let syms := sortBy (fun (a b : Nat × Nat) => decide (a.1 < b.1))
    ((lens.zip (List.range lens.length)).filter (fun x => x.1 != 0))
  (syms.foldl (fun (acc : List (Nat × Nat × Nat) × Nat × Nat) x =>
    let code := (if acc.1.isEmpty then 0 else acc.2.2 + 1) * 2 ^ (x.1 - acc.2.1)
    (acc.1 ++ [(x.1, code, x.2)], x.1, code)) ([], 0, 0)).1

/-- A table forms a canonical code (R199). -/
def canonOk (lens : List Nat) : Bool :=
  let ps := lens.filter (fun l => l != 0)
  lens.all (fun l => decide (l ≤ 12)) && (ps.foldl (fun a l => a + 2 ^ (12 - l)) 0 == 4096 || ps == [1])

/-- Reads `n` symbols of a bitstream; answers them and the bits left. -/
def huff (cs : List (Nat × Nat × Nat)) : List Bool → Nat → Nat → Nat → Option (List Byte × List Bool)
  | bs, 0, _, _ => some ([], bs)
  | [], _ + 1, _, _ => none
  | b :: bs, n + 1, len, code =>
    let code := 2 * code + (if b then 1 else 0)
    match cs.find? (fun x => x.1 == len + 1 && x.2.1 == code) with
    | some x => (huff cs bs n 0 0).map (fun r => (BitVec.ofNat 8 x.2.2 :: r.1, r.2))
    | none => if 12 ≤ len + 1 then none else huff cs bs (n + 1) (len + 1) code

def bitsOf (bs : List Byte) : List Bool := bs.flatMap (fun b => (List.range 8).map (fun i => b.getLsbD i))

/-- A stream block: its symbols, whether it is bad (R47), whether it is the last, and its length. -/
structure Block where
  syms : List Byte
  bad : Bool
  last : Bool
  size : Nat
  deriving DecidableEq, Repr

/-- Expands the block that a byte string begins with, whose LENTAB must be `tab` where one is given (R148). A bad block stands for NSYM zero symbols where NSYM is in range,
else for 4,096: DESIGN CHOICE, see the log. -/
def expandBlock (bs : List Byte) (tab : Option (List Byte)) : Block :=
  let n := fun o k => leNat ((bs.drop o).take k)
  let fl := n 2 1
  let nsym := n 4 2
  let nbyte := n 6 2
  let body := (bs.drop 144).take nbyte
  let lens := (List.range 256).map (fun i => n (16 + i / 2) 1 / 16 ^ (i % 2) % 16)
  let raw := fl % 2 = 1
  let head := n 0 2 = 0x4C5A ∧ fl < 4 ∧ n 3 1 = 0 ∧ n 12 4 = 0 ∧ 1 ≤ nsym ∧ nsym ≤ 4096 ∧ nbyte ≤ 4096 ∧ body.length = nbyte ∧
    tab.all (fun t => t == (bs.drop 16).take 128)
  let out := if !(decide head) then none
    else if raw then (if nbyte = nsym then some body else none)
    else if !canonOk lens then none
    else match huff (canonCodes lens) (bitsOf body) nsym 0 0 with
      | some (ys, rest) => if rest.length < 8 ∧ rest.all (fun b => !b) then some ys else none
      | none => none
  let size := 144 + nbyte
  let last := fl / 2 % 2 == 1
  match out with
  | some ys => if crc32c ys = n 8 4 then { syms := ys, bad := false, last := last, size := size }
      else { syms := ys.map (fun _ => 0), bad := true, last := last, size := size }
  | none => { syms := List.replicate (if 1 ≤ nsym ∧ nsym ≤ 4096 then nsym else 4096) 0, bad := true, last := last, size := size }

/-- What the expansion of a stream gives: the symbols as cells, the source bytes of the blocks met, headers and padding included, and
the blocks whose SCRC failed or that were otherwise bad. -/
structure Stream where
  syms : List Cell
  raw : List Byte
  bad : Nat
  deriving DecidableEq, Repr

/-- Expands a stream to at most `n` symbols. `pos` is the object offset reached. -/
def expandStream (tab : Option (List Byte)) : Nat → Nat → List Cell → Nat → Stream
  | 0, _, _, _ => { syms := [], raw := [], bad := 0 }
  | k + 1, pos, cs, n =>
    if n = 0 ∨ cs.length < 144 then { syms := [], raw := [], bad := 0 }
    else
      let b := expandBlock ((cs.take 4240).map (·.b)) tab
      let used := cs.take b.size
      let bad := b.bad || used.any (fun x => x.bad || !x.ok)
      let lost := used.any (fun x => !x.ok)
      let out := (b.syms.take n).map (fun y => ({ b := y, bad := bad && !lost, ok := !lost } : Cell))
      let next := cdiv (pos + b.size) 16 * 16
      let raw := (cs.take (next - pos)).map (·.b)
      if b.last then { syms := out, raw := raw, bad := b.bad.toNat }
      else
        let r := expandStream tab k next (cs.drop (next - pos)) (n - b.syms.length)
        { syms := out ++ r.syms, raw := raw ++ r.raw, bad := b.bad.toNat + r.bad }

/-- The length table that a stream's object names by CTAB (R148), `none` in the second place while the operation stalls on it. -/
def ctabIn (s : State) (w : Who) (e : EngOp) (op a : Nat) : State × Option (Option (List Byte)) :=
  let id := (entryOf s (oidOf a)).ctab
  if id = 0 then (s, some none)
  else match moveIn s w e op (2 ^ 36) (rangePieces s w (addrOf id 0) 128) with
    | (s, none) => (s, none)
    | (s, some cs) => (s, some (some (cs.flatten.map (·.b))))

/-- The symbols that the parts of a peer's answer give, at most `n`, and the bad blocks that are expanded here (R46, R47). -/
def segSyms (tab : Option (List Byte)) : List Seg → Nat → List Cell × Nat
  | [], _ => ([], 0)
  | g :: gs, n =>
    let x : List Byte × Bool × Nat := match g with
      | .syms bs => (bs, false, 0)
      | .block bs => let b := expandBlock bs tab; (b.syms, b.bad, b.bad.toNat)
      | .bad k => (List.replicate k 0, true, 0)
    let out := (x.1.take n).map (fun y => ({ b := y, bad := x.2.1, ok := true } : Cell))
    let r := segSyms tab gs (n - out.length)
    (out ++ r.1, x.2.2 + r.2)

/-- What operation `op` reads of a stream to get `n` symbols (R198): from a peer it asks for stream blocks (R46), and where `raw` says so
for their bytes too. `none` in the second place while it stalls. -/
def streamIn (s : State) (w : Who) (e : EngOp) (op a n : Nat) (raw : Bool) : State × Option Stream :=
  let len := (entryOf s (oidOf a)).size - offOf a
  match e.held with
  | (0, ys) :: (1, rs) :: _ => (s, some { syms := ys.flatten, raw := rs.flatten.map (·.b), bad := 0 })
  | _ =>
    match ctabIn s w e op a with
    | (s, none) => (s, none)
    | (s, some tab) =>
      if (peerHome s w a).isSome then
        let asks : List Ask := [{ i := 0, op := 1, addr := a, n := n, data := [], stream := true }]
        let s := engAsk s w op asks
        if !engAnswered s op asks then (s, none)
        else
          let o := engReq s op 0
          let y := segSyms tab ((o.map (·.segs)).getD []) n
          let lost := o.any (fun o => o.fail.isSome)
          let syms := y.1 ++ (if lost then List.replicate (n - y.1.length) ({ b := 0, bad := false, ok := false } : Cell) else [])
          if !raw then (s, some { syms := syms, raw := [], bad := y.2 })
          else match moveIn s w e op (2 ^ 37) (linePieces a len) with
            | (s, none) => (s, none)
            | (s, some cs) =>
              (s, some { syms := syms, raw := (expandStream tab (len / 144 + 1) (offOf a) cs.flatten n).raw, bad := y.2 })
      else match moveIn s w e op 0 [{ addr := some a, len := len }] with
        | (s, none) => (s, none)
        | (s, some cs) => (s, some (expandStream tab (len / 144 + 1) (offOf a) cs.flatten n))

/-- Counts bad blocks at the device that expands them (R47): in a counter of IO0, since no other die counts the event (DESIGN CHOICE,
log entry 27). -/
def countBad (s : State) (n : Nat) : State := bumpDie s 8 0x141 n

/-- The one decoder of a cluster serves decoding copies and EXPAND in the order of their issue (R198). -/
def decodeTurn (s : State) (op : Nat) (e : EngOp) : Bool :=
  !s.eng.any (fun x => decide (x.1 < op) && clusterOf s (x.2.gang / 64) == clusterOf s (e.gang / 64) && (match x.2.kind with
    | .decode _ _ _ => true
    | .xform t _ => t == 3
    | _ => false))

/-- Whether operation `op`, having read its sources, releases its locks now, its writes to be seen by a later event (R399, R408): a
free choice, taken once. -/
def opensNow (s : State) (op : Nat) (e : EngOp) : Bool := e.held.isEmpty && Config.opensFirst s.free op

/-- The locks of an operation are released, and it holds what it has read. -/
def openEng (s : State) (op : Nat) (held : List (Nat × List (List Cell))) : State :=
  useFree { s with eng := Map.adjust s.eng op (fun e => { e with held := held, late := s.locks.filter (fun x => x.op == op) }),
                   locks := s.locks.filter (fun x => x.op != op) }

/-! ### Copies (R197, R198, R372) -/

/-- The binding that a copy works through now: the one it was issued under or, as a free choice, a later one of that window that has been
filled since with the same element size, since the two are not ordered (R163, R373). -/
def rebind (s : State) (k win : Nat) (b : Option Binding) : Option Binding :=
  match b, bindOf s win with
  | some x, some y => if x.op ≠ y.op ∧ !y.idx.isEmpty ∧ x.esize = y.esize ∧ Config.pick s.free k % 2 = 1 then some y else b
  | _, _ => b

/-- A window that a copy works through has been filled. -/
def filled (b : Option Binding) : Bool := b.all (fun x => !x.idx.isEmpty)

/-- A copy is performed (R197): every byte is read before any is written. -/
def runCopy (s : State) (op : Nat) (e : EngOp) (src dst : DWord) (n : Nat) (sb db : Option Binding) : State :=
  let w := opWho s e
  match moveIn s w e op 0 (copyPieces s w sb src.toNat n) with
  | (s, none) => s
  | (s, some cs) =>
    if opensNow s op e then openEng s op [(0, cs)]
    else match moveOut s w op cs.length (copyPieces s w db dst.toNat n) cs.flatten with
      | .stalled s => s
      | .done st s => finishEng s op st

/-- A decoding copy is performed (R198). -/
def runDecode (s : State) (op : Nat) (e : EngOp) (src dst : DWord) (n : Nat) : State :=
  let w := opWho s e
  match streamIn s w e op src.toNat n false with
  | (s, none) => s
  | (s, some r) =>
    if opensNow s op e then countBad (openEng s op [(0, [r.syms]), (1, [])]) r.bad
    else match moveOut s w op 1 [{ addr := some dst.toNat, len := r.syms.length }] r.syms with
      | .stalled s => s
      | .done st s => finishEng (countBad s r.bad) op (st ||| (if r.syms.length < n then 4 else 0))

/-- COPY_COMPLETE (R197): a copy or decoding copy is performed, the former once the windows it works through are filled. -/
def execCopyComplete (op : Nat) (s : State) : Host.Outcome State Fault Refusal :=
  event s (fun s =>
    match Map.find? s.eng op with
    | none => s
    | some e =>
      match e.kind with
      | .copy src dst n sb db =>
        let fresh := e.held.isEmpty && !s.peerOps.any (fun o => match o.owner with
          | .eng k _ => k == op
          | _ => false)
        let sb := if fresh then rebind s (2 * op) (oidOf src.toNat) sb else sb
        let db := if fresh then rebind s (2 * op + 1) (oidOf dst.toNat) db else db
        let s := { s with eng := Map.adjust s.eng op (fun e => { e with kind := .copy src dst n sb db }) }
        if filled sb && filled db then runCopy s op e src dst n sb db else s
      | .decode src dst n => if decodeTurn s op e then runDecode s op e src dst n else s
      | _ => s)

/-- Whether a copy's range stands at a peer, a window's data included (R197). -/
def peerRange (s : State) (c : Ctx) (a : Nat) : Bool :=
  (peerHome s c.who a).isSome ||
    (decide (oidOf a ≠ aliasId ∧ oidOf a ≠ plainId ∧ (entryOf s (oidOf a)).kind = 3) &&
      (bindOf s (oidOf a)).any (fun b => (peerHome s c.who b.data.toNat).isSome))

/-- The issue checks of one copy (R371, R372): the failing code and the address. -/
def copyFault (s : State) (c : Ctx) (dec : Bool) (src dst n : Nat) : Option (TrapCode × Nat) :=
  let local' := fun a => decide (oidOf a = aliasId ∨ oidOf a = plainId)
  let offs := [offOf src, offOf dst]
  let len := if dec then (entryOf s (oidOf src)).size - offOf src else n
  match rangeCheck s (engWho c (if dec then .stream else .window)) src len .read offs with
  | some code => some (code, src)
  | none =>
    if dec ∧ !local' dst then some (.objectInvalid, dst)
    else match rangeCheck s (engWho c .window) dst n .write offs with
      | some code => some (code, dst)
      | none => if peerRange s c src ∧ peerRange s c dst then some (.objectInvalid, src) else none

/-- The ranges a copy registers (R162). -/
def copyRanges (s : State) (c : Ctx) (dec : Bool) (src dst n : Nat) : List (Nat × Nat) :=
  let idx := fun a => if oidOf a = aliasId ∨ oidOf a = plainId ∨ (entryOf s (oidOf a)).kind ≠ 3 then []
    else ((bindOf s (oidOf a)).map (fun b => (b.index.toNat, b.count * b.isize))).toList
  localRanges s c [(src, if dec then (entryOf s (oidOf src)).size - offOf src else n), (dst, n)] ++ idx src ++ idx dst

/-- Issues the copies of lanes in order until one waits for entries. -/
def issueCopies (s : State) (c : Ctx) (dec : Bool) : List (Nat × Nat × Nat × Nat) → State × Option Nat
  | [] => (s, none)
  | (l, src, dst, n) :: rest =>
    let rs := if n = 0 then [] else copyRanges s c dec src dst n
    if !lockRoom s c rs.length then (s, some rs.length)
    else
      let bind := fun a => if oidOf a = aliasId ∨ oidOf a = plainId then none else bindOf s (oidOf a)
      let kind := if dec then EngKind.decode (BitVec.ofNat 64 src) (BitVec.ofNat 64 dst) n
        else .copy (BitVec.ofNat 64 src) (BitVec.ofNat 64 dst) n (bind src) (bind dst)
      let (op, s) := newEng s c kind true none
      let s := if n = 0 then finishEng s op 0 else regLocks s c op rs
      issueCopies (onPath s c.pk (fun p => { p with issued := p.issued ||| laneBit l })) c dec rest

/-- CPASYNC and CPASYNC.dec (R372): one copy for the gang when every operand is an S register, else one a lane. -/
def copyIssue (f : ENG) (dec : Bool) (c : Ctx) (s : State) : State :=
  let uni := f.sd && f.sa && f.sb
  let val := fun l => (src c.g f.sa f.a 2 l, src c.g f.sd f.d 2 l, src c.g f.sb f.b 1 l)
  let ls := (if uni then (lanes c.act).take 1 else lanes c.act).filter (fun l => !c.p.issued.getLsbD l)
  let bad := fun l => let v := val l; copyFault s c dec v.1 v.2.1 v.2.2
  let fs := ls.filterMap (fun l => (bad l).map (fun x => ({ lane := l, code := x.1, addr := x.2 } : LaneFault)))
  let go := (ls.filter (fun l => (bad l).isNone)).map (fun l => let v := val l; (l, v.1, v.2.1, v.2.2))
  if !go.isEmpty && pendingOps c then waitFor s c .flush
  else match issueCopies s c dec go with
    | (s, some n) => waitFor s c (.locks n)
    | (s, none) =>
      if uni then
        match fs.head? with
        | some x => uniFault s c x.code x.addr 0 []
        | none => advance s c.pk
      else settle s c fs 0 []

/-- CPASYNC (R372). -/
def execCpasync (f : ENG) (s : State) : Host.Outcome State Fault Refusal :=
  issue (shapeOf (.cpasync f)) s (copyIssue f false)
/-- CPASYNC.dec (R372, R198). -/
def execCpasyncDec (f : ENG) (s : State) : Host.Outcome State Fault Refusal :=
  issue (shapeOf (.cpasyncDec f)) s (copyIssue f true)

/-- RANGE_LOCK_ACQUIRE (R162): a path stalled for entries that have freed may issue again. -/
def execRangeLockAcquire (p : Nat) (s : State) : Host.Outcome State Fault Refusal :=
  event s (fun s => onPath s p (fun q => match q.wait with
    | .locks _ => if waitOver s p q then { q with wait := .none } else q
    | _ => q))

end Sys2Proof.Machine
end

