-- ==== Sys2Proof/Machine/Prism.lean ====
section
/-! DEFINITION. The Prism: XFORM's layout record, its six transforms and their result record (R206 to R213, R374). -/

namespace Sys2Proof.Machine

/-! ### Element codes (R215) -/

def elemBits : Nat → Nat
  | 0 => 32 | 1 => 16 | 2 => 16 | 3 => 8 | 4 => 8 | 5 => 8 | 6 => 4 | 7 => 4 | 8 => 8 | 9 => 16 | 10 => 32 | 11 => 64 | _ => 0
def isScaled (code : Nat) : Bool := decide (3 ≤ code ∧ code ≤ 7)
def rowBytes (bits n : Nat) : Nat := cdiv (n * bits) 8

/-- The value of an element before its scale (R220 to R222). -/
def elemVal (code x : Nat) : FVal :=
  let int := fun (w : Nat) => let v := sext w x; FVal.fin (decide (v < 0)) v.natAbs 0
  match code with
  | 0 => decodeF fF32 x
  | 1 => decodeF fF16 x
  | 2 => decodeF fBf16 x
  | 3 => decodeF fF8a x
  | 4 => decodeF fF8b x
  | 5 => int 8
  | 6 => decodeF fF4 x
  | _ => int 4

/-- A value times the factor of a scale code (R224). -/
def scaleVal (code : Nat) (v : FVal) : FVal :=
  if code = 255 then .nan false
  else match v with
    | .fin n m e => .fin n m (e + (code : Int) - 127)
    | v => v

/-- An element on its way: its bits, and its cells' states. -/
structure El where
  x : Nat
  bad : Bool
  ok : Bool
  deriving DecidableEq, Repr

/-- The first `n` elements of a row (R221). -/
def unpackEls (bits n : Nat) (cs : List Cell) : List El :=
  (List.range n).map (fun i =>
    let bs := (cs.drop (i * bits / 8)).take (cdiv bits 8)
    { x := if bits = 4 then leNat (bs.map (·.b)) / 16 ^ (i % 2) % 16 else leNat (bs.map (·.b)),
      bad := bs.any (·.bad), ok := bs.all (·.ok) })

/-- Elements as bytes; the last high nibble of an odd row of 4-bit elements is zero (R209). -/
def packEls (bits : Nat) (es : List El) : List Cell :=
  if bits = 4 then
    (List.range (cdiv es.length 2)).map (fun i =>
      let a := es.getD (2 * i) { x := 0, bad := false, ok := true }
      let b := es.getD (2 * i + 1) { x := 0, bad := false, ok := true }
      { b := BitVec.ofNat 8 (a.x + 16 * b.x), bad := a.bad || b.bad, ok := a.ok && b.ok })
  else es.flatMap (fun e => (leBytes (bits / 8) e.x).map (fun b => { b := b, bad := e.bad, ok := e.ok }))

def goodCells (bs : List Byte) : List Cell := bs.map (fun b => { b := b, bad := false, ok := true })

/-! ### The layout record (R208, R209) -/

structure Lay where
  src : Nat
  dst : Nat
  rows : Nat
  cols : Nat
  sp : Nat
  dp : Nat
  sf : Nat
  df : Nat
  fl : Nat
  z : Nat
  param : Nat
  aux : Nat
  crcdst : Nat
  aux2 : Nat
  deriving DecidableEq, Repr

def layOf (bs : List Byte) : Lay :=
  let n := fun o k => leNat ((bs.drop o).take k)
  { src := n 0 8, dst := n 8 8, rows := n 16 4, cols := n 20 4, sp := n 24 4, dp := n 28 4, sf := n 32 1, df := n 33 1,
    fl := n 34 1, z := n 35 1, param := n 36 4, aux := n 40 8, crcdst := n 48 8, aux2 := n 56 8 }

def Lay.trans (r : Lay) : Bool := r.fl.testBit 0
def Lay.crco (r : Lay) : Bool := r.fl.testBit 1
def Lay.crci (r : Lay) : Bool := r.fl.testBit 2
def Lay.scaled (r : Lay) : Bool := isScaled r.sf || isScaled r.df

/-- Bytes of a source row and of a destination row, and destination rows, of transform `t`. -/
def Lay.srcRow (r : Lay) : Nat := rowBytes (elemBits r.sf) r.cols
def Lay.dstRow (r : Lay) (t : Nat) : Nat :=
  if t = 1 ∨ (t = 3 ∧ r.trans) then rowBytes (elemBits r.df) r.rows else rowBytes (elemBits r.df) r.cols
def Lay.dstRows (r : Lay) (t : Nat) : Nat := if t = 1 ∨ (t = 3 ∧ r.trans) then r.cols else r.rows

/-- The byte offset of the first bad field of a record for transform `t` (R208, R209). -/
def badField (r : Lay) (t : Nat) : Option Nat :=
  let pitchUnused := t = 3 ∨ t = 4
  let sfOk := match t with
    | 2 => decide (r.sf ≤ 7)
    | 3 => r.sf == 8
    | 4 => decide (r.sf ≤ 2)
    | _ => decide (r.sf ≤ 11)
  let dfOk := match t with
    | 2 => decide (r.df ≤ 7)
    | 5 => r.df == 0
    | _ => r.df == r.sf
  let colsOk := decide (1 ≤ r.cols ∧ r.cols ≤ 65536) && (!(elemBits r.sf == 4) || r.cols % 2 == 0) &&
    !(t == 2 && r.scaled && r.cols % 48 != 0)
  let flOk := decide (r.fl < 32) && (!r.trans || t == 3) && (if t = 5 then r.crci && !r.crco else true) &&
    (t == 2 || decide (r.fl < 8))
  ([ (8, if t = 5 then r.dst == 0 else if t = 4 then r.dst % 64 == 0 else true),
     (16, decide (1 ≤ r.rows ∧ r.rows ≤ 65536)),
     (20, colsOk),
     (24, if pitchUnused then r.sp == 0 else decide (r.srcRow ≤ r.sp)),
     (28, if t = 5 then r.dp == 0 else if t = 4 then true else decide (r.dstRow t ≤ r.dp)),
     (32, sfOk),
     (33, dfOk),
     (34, flOk),
     (35, r.z == 0),
     (36, t == 4 || r.param == 0),
     (40, t == 4 || (t == 2 && r.scaled) || r.aux == 0),
     (56, t == 4 || r.aux2 == 0) ].find? (fun (x : Nat × Bool) => !x.2)).map (·.1)

/-- Bytes from an address to the end of its allocation. -/
def toEnd (s : State) (w : Who) (a : Nat) : Nat := dataEnd s w a - offOf a

/-- The ranges of a record with their kinds of access (R374 step 3); AUX of a CONVERT between two scaled formats is one range,
read and written. -/
def layRanges (s : State) (w : Who) (r : Lay) (t : Nat) : List (Nat × Nat × List AccKind) :=
  let pitched := fun (rows p row : Nat) => (rows - 1) * p + row
  let codes := r.rows * (r.cols / 48)
  let src : List (Nat × Nat × List AccKind) := match t with
    | 3 => [(r.src, toEnd s w r.src, [.read])]
    | 4 => [(r.src, toEnd s w r.src, [.read])]
    | _ => [(r.src, pitched r.rows r.sp r.srcRow, [.read])]
  let dst : List (Nat × Nat × List AccKind) := match t with
    | 5 => []
    | 4 => [(r.dst, r.dp, [.write])]
    | _ => [(r.dst, pitched (r.dstRows t) r.dp (r.dstRow t), [.write])]
  let both : List AccKind := (if isScaled r.sf then [.read] else []) ++ (if isScaled r.df then [.write] else [])
  let aux : List (Nat × Nat × List AccKind) :=
    if t = 4 then [(r.aux, 4 * (r.rows + 1), [.read])] else if t = 2 ∧ r.scaled then [(r.aux, codes, both)] else []
  let aux2 : List (Nat × Nat × List AccKind) := if t = 4 then [(r.aux2, toEnd s w r.aux2, [.read])] else []
  src ++ dst ++ aux ++ aux2 ++ (if r.crcdst = 0 then [] else [(r.crcdst, 16, [.write])])

/-- The issue check of each range; EXPAND's source is a STREAM object (R209, R371). -/
def layFault (s : State) (c : Ctx) (r : Lay) (t : Nat) : Option (TrapCode × Nat) :=
  let rs := layRanges s c.who r t
  (rs.zip (List.range rs.length)).findSome? (fun x =>
    let use := if t = 3 ∧ x.2 = 0 then Use.stream else .engine
    let n := if x.1.2.1 = 0 then 1 else x.1.2.1
    (x.1.2.2.findSome? (fun kind => rangeCheck s (engWho c use) x.1.1 n kind [])).map (·, x.1.1))

/-- XFORM with the transform `t` (R374). -/
def xform (f : ENG) (t : Nat) (c : Ctx) (s : State) : State :=
  let a := rsw c.g f.a.toNat 2
  let off := rs c.g f.b.toNat
  if c.act = 0 then advance s c.pk
  else match recordFault s c a 64 with
    | some x => uniFault s c x.1 x.2 0 []
    | none =>
      let bs := loadBytes s c.who a 64
      let r := layOf bs
      if (isScaled r.sf || (t != 5 && isScaled r.df)) && !feature s 2 then trapAll s c .illegalOp c.act []
      else match badField r t with
        | some o => trapAll s c .illegalOp c.act [BitVec.ofNat 32 o]
        | none =>
          match barFault s c off with
          | some code => uniFault s c code (addrOf aliasId off) 0 []
          | none =>
            match layFault s c r t with
            | some x => uniFault s c x.1 x.2 0 []
            | none =>
              if pendingOps c then waitFor s c .flush
              else
                let rs := (layRanges s c.who r t).map (fun x => (x.1, x.2.1))
                if !lockRoom s c rs.length then waitFor s c (.locks rs.length)
                else
                  let (op, s) := newEng s c (.xform t bs) false (some off)
                  let s := regLocks s c op rs
                  let k := clusterOf s c.core
                  advance { s with prism := Map.put s.prism k (Map.getD s.prism k [] ++ [op]) } c.pk

/-- XFORM.copy2d (R374). -/
def execXformCopy2d (f : ENG) (s : State) : Host.Outcome State Fault Refusal := issue (shapeOf (.xformCopy2d f)) s (xform f 0)
/-- XFORM.transpose (R374). -/
def execXformTranspose (f : ENG) (s : State) : Host.Outcome State Fault Refusal := issue (shapeOf (.xformTranspose f)) s (xform f 1)
/-- XFORM.convert (R374). -/
def execXformConvert (f : ENG) (s : State) : Host.Outcome State Fault Refusal := issue (shapeOf (.xformConvert f)) s (xform f 2)
/-- XFORM.expand (R374). -/
def execXformExpand (f : ENG) (s : State) : Host.Outcome State Fault Refusal := issue (shapeOf (.xformExpand f)) s (xform f 3)
/-- XFORM.csr2spr (R374). -/
def execXformCsr2spr (f : ENG) (s : State) : Host.Outcome State Fault Refusal := issue (shapeOf (.xformCsr2spr f)) s (xform f 4)
/-- XFORM.crc (R374). -/
def execXformCrc (f : ENG) (s : State) : Host.Outcome State Fault Refusal := issue (shapeOf (.xformCrc f)) s (xform f 5)

/-! ### CONVERT (R210) -/

/-- ⌊log₂⌋ of a format's largest magnitude, E of R210. -/
def maxLgOf : Nat → Int
  | 3 => 8 | 4 => 15 | 6 => 2 | 5 => 6 | _ => 2

/-- The largest ⌊log₂ |x|⌋ of the finite non-zero values, if any. -/
def maxLg (vs : List FVal) : Option Int :=
  vs.foldl (fun a v => match v with
    | .fin _ m e => if m = 0 then a else
        (match a with
         | none => some (lg m e)
         | some x => some (max x (lg m e)))
    | _ => a) none

/-- A value rounded to an integer and saturated at ±`lim`, as a `w`-bit pattern. -/
def quantInt (mode : Mode) (w lim : Nat) (v : FVal) : Nat :=
  match v with
  | .fin neg m e =>
    let (n, r, sh) := cutAt m e 0
    let k := min lim (n + (awayBit mode neg 0 n r sh).toNat)
    wrapI w (if neg then -(k : Int) else k)
  | _ => 0

/-- An element of a scaled format from its value over the scale (R210). -/
def quantElem (mode : Mode) (code : Nat) (v : FVal) : Nat :=
  match code with
  | 3 => (roundF fF8a mode true false 0 v).1
  | 4 => (roundF fF8b mode true false 0 v).1
  | 6 => (roundF fF4 mode true false 0 v).1
  | 5 => quantInt mode 8 127 v
  | _ => quantInt mode 4 7 v

/-- The scale code of a block and its elements (R210). -/
def quantBlock (mode : Mode) (code : Nat) (vs : List FVal) : Nat × List Nat :=
  if vs.any (fun v => match v with
      | .fin _ _ _ => false
      | _ => true) then (255, vs.map (fun _ => 0))
  else
    let e : Int := match maxLg vs with
      | none => 0
      | some l => max (-127) (min 127 (l - maxLgOf code))
    ((e + 127).toNat, vs.map (fun v => match v with
      | .fin n m x => quantElem mode code (.fin n m (x - e))
      | _ => 0))

/-- An element of an unscaled format (R210). -/
def roundElem (mode : Mode) (code : Nat) (v : FVal) : Nat :=
  (roundF (if code = 0 then fF32 else if code = 1 then fF16 else fBf16) mode false false 0 v).1

/-- One row: its elements converted, and the scale codes of its blocks where DFMT is scaled. -/
def convertRow (r : Lay) (codes : List El) (es : List El) : List El × List El :=
  let mode := modeOf (BitVec.ofNat 2 (r.fl / 8))
  let vals := (es.zip (List.range es.length)).map (fun x =>
    let v := elemVal r.sf x.1.x
    if isScaled r.sf then
      let k := codes.getD (x.2 / 48) { x := 0, bad := false, ok := true }
      (scaleVal k.x v, ({ x.1 with bad := x.1.bad || k.bad, ok := x.1.ok && k.ok } : El))
    else (v, x.1))
  if isScaled r.df then
    let blocks := (List.range (es.length / 48)).map (fun j => (vals.drop (48 * j)).take 48)
    let qs := blocks.map (fun b =>
      let bad := b.any (fun x => x.2.bad)
      let ok := b.all (fun x => x.2.ok)
      let q := quantBlock mode r.df (b.map (·.1))
      (q.2.map (fun y => ({ x := y, bad := bad, ok := ok } : El)), ({ x := q.1, bad := bad, ok := ok } : El)))
    (qs.flatMap (·.1), qs.map (·.2))
  else (vals.map (fun x => { x.2 with x := roundElem mode r.df x.1 }), [])

/-! ### CSR2SPR (R206, R207, R211) -/

/-- A CSR row as found: its entries (column, value, whether poisoned or lost), whether it breaks R211. -/
structure CsrRow where
  ents : List (Nat × El)
  broken : Bool
  deriving DecidableEq, Repr

def rising : List Nat → Bool
  | a :: b :: rest => decide (a < b) && rising (b :: rest)
  | _ => true

def csrRow (r : Lay) (ptr : List El) (idx val : List El) (i : Nat) : CsrRow :=
  let z : El := { x := 0, bad := false, ok := true }
  let lo := (ptr.getD i z).x
  let hi := (ptr.getD (i + 1) z).x
  let ks := (List.range (hi - lo)).map (lo + ·)
  let inside := ks.filter (fun k => decide (k < idx.length ∧ k < val.length))
  let ents := inside.map (fun k =>
    let c := idx.getD k z
    let v := val.getD k z
    (c.x, ({ v with bad := v.bad || c.bad, ok := v.ok && c.ok } : El)))
  { ents := ents,
    broken := decide (inside.length < ks.length) || !rising (ents.map (·.1)) || ents.any (fun e => decide (r.cols ≤ e.1)) }

/-- A slice: its header FLAGS, WIDTH, its index and value elements. -/
structure Slice where
  esc : Bool
  width : Nat
  idx : List El
  val : List El
  broken : Nat
  deriving DecidableEq, Repr

/-- Slice h of the matrix (R207, R211). -/
def sliceOf (r : Lay) (eb : Nat) (rows : List CsrRow) : Slice :=
  let z : El := { x := 0, bad := false, ok := true }
  let rows := rows ++ List.replicate (32 - rows.length) { ents := [], broken := false }
  let width : Nat := rows.foldl (fun a x => max a x.ents.length) 0
  let broken : Nat := (rows.filter (fun (x : CsrRow) => x.broken)).length
  let esc := decide (0 < broken) || (decide (0 < r.param) && decide (r.param < width * 32 * (4 + eb)))
  if esc then
    { esc := true, width := r.cols, broken := broken, idx := [],
      val := (List.range r.cols).flatMap (fun j => rows.map (fun x =>
        (((x.ents.filter (fun e => e.1 == j)).getLast?).map (·.2)).getD z)) }
  else
    { esc := false, width := width, broken := 0,
      idx := (List.range width).flatMap (fun j => rows.map (fun x => match x.ents[j]? with
        | some e => { e.2 with x := e.1 }
        | none => { x := 0xFFFFFFFF, bad := false, ok := true })),
      val := (List.range width).flatMap (fun j => rows.map (fun x => ((x.ents[j]?).map (·.2)).getD z)) }

def align64 (n : Nat) : Nat := cdiv n 64 * 64

/-- Index elements and value elements of the first `k` slices. -/
def sliceSum (ss : List Slice) (k : Nat) : Nat × Nat :=
  (ss.take k).foldl (fun a x => (a.1 + x.idx.length, a.2 + x.val.length)) (0, 0)

/-- The output of CSR2SPR: pieces at offsets from DST, whether it ran short, the count of broken rows. -/
def csrOut (r : Lay) (ss : List Slice) : List (Nat × List Cell) × Bool × Nat :=
  let eb := elemBits r.df / 8
  let idxOff := align64 (64 + 16 * ss.length)
  let size := fun k => align64 (idxOff + 4 * (sliceSum ss k).1) + eb * (sliceSum ss k).2
  if r.dp < idxOff then ([], true, 0)
  else
    let k := ((List.range (ss.length + 1)).filter (fun k => decide (size k ≤ r.dp))).foldl max 0
    let tot := sliceSum ss k
    let valOff := align64 (idxOff + 4 * tot.1)
    let head := leBytes 4 r.rows ++ leBytes 4 r.cols ++ leBytes 4 ss.length ++ leBytes 4 r.df ++ leBytes 8 idxOff ++
      leBytes 8 valOff ++ leBytes 32 0
    let heads := (List.range k).flatMap (fun h =>
      let p := sliceSum ss h
      let x := ss.getD h { esc := false, width := 0, idx := [], val := [], broken := 0 }
      leBytes 4 x.width ++ leBytes 4 p.1 ++ leBytes 4 p.2 ++ leBytes 4 (if x.esc then 1 else 0))
    ([(0, goodCells (head ++ heads)), (idxOff, packEls 32 ((ss.take k).flatMap (·.idx))),
      (valOff, packEls (elemBits r.df) ((ss.take k).flatMap (·.val)))],
     decide (k < ss.length), (ss.take k).foldl (fun a x => a + x.broken) 0)

/-! ### Performing a transform (R212, R213) -/

/-- What a transform reads beside SRC: the scale codes, or row pointers and column indices. -/
structure XIn where
  src : List Cell
  aux : List Cell
  aux2 : List Cell
  deriving DecidableEq, Repr

/-- What a transform makes: cells at destination addresses in ascending order, cells at AUX, the source bytes of CRCI,
whether it ran short, the count of R211, and the bad blocks it met (R47). -/
structure XOut where
  dst : List (Nat × List Cell)
  aux : List Cell
  src : List Byte
  short : Bool
  count : Nat
  bad : Nat
  deriving DecidableEq, Repr

/-- The source pieces of a transform other than EXPAND. -/
def xSrcPieces (s : State) (w : Who) (r : Lay) (t : Nat) : List Piece :=
  if t = 4 then rangePieces s w r.src (toEnd s w r.src)
  else (List.range r.rows).flatMap (fun i => rangePieces s w (r.src + i * r.sp) r.srcRow)

/-- Rows of destination cells at the destination pitch. -/
def atPitch (r : Lay) (rows : List (List Cell)) : List (Nat × List Cell) :=
  (rows.zip (List.range rows.length)).map (fun x => (r.dst + x.2 * r.dp, x.1))

/-- A transform's result from its inputs; `y` is what an EXPAND has read of its stream. -/
def transform (r : Lay) (t : Nat) (y : Stream) (x : XIn) : XOut :=
  let bits := elemBits r.sf
  let rowsIn := (List.range r.rows).map (fun i => unpackEls bits r.cols ((x.src.drop (i * r.srcRow)).take r.srcRow))
  let z : El := { x := 0, bad := false, ok := true }
  let col := fun (rows : List (List El)) (j : Nat) => rows.map (fun es => es.getD j z)
  let all := x.src.map (·.b)
  match t with
  | 0 => { dst := atPitch r (rowsIn.map (packEls bits)), aux := [], src := all, short := false, count := 0, bad := 0 }
  | 1 => { dst := atPitch r ((List.range r.cols).map (fun j => packEls bits (col rowsIn j))), aux := [], src := all, short := false, count := 0, bad := 0 }
  | 2 =>
    let nb := r.cols / 48
    let codes := unpackEls 8 x.aux.length x.aux
    let outs := (rowsIn.zip (List.range r.rows)).map (fun y => convertRow r ((codes.drop (y.2 * nb)).take nb) y.1)
    { dst := atPitch r (outs.map (fun o => packEls (elemBits r.df) o.1)), aux := packEls 8 (outs.flatMap (·.2)), src := all,
      short := false, count := 0, bad := 0 }
  | 3 =>
    let n := r.rows * r.cols
    let at' := fun (i j : Nat) => y.syms[i * r.cols + j]?
    let runs := if r.trans then
        (List.range r.cols).map (fun j => (List.range r.rows).filterMap (fun i => at' i j))
      else (List.range r.rows).map (fun i => (List.range r.cols).filterMap (fun j => at' i j))
    { dst := atPitch r runs, aux := [], src := y.raw, short := decide (y.syms.length < n), count := 0, bad := y.bad }
  | 4 =>
    let ptr := unpackEls 32 (r.rows + 1) x.aux
    let idx := unpackEls 32 (x.aux2.length / 4) x.aux2
    let val := unpackEls bits (x.src.length / (bits / 8)) x.src
    let lo := (ptr.getD 0 z).x
    let hi := (ptr.getD r.rows z).x
    let used := (all.drop (lo * (bits / 8))).take ((hi - lo) * (bits / 8))
    let slices := (List.range (cdiv r.rows 32)).map (fun h =>
      let is := ((List.range 32).map (32 * h + ·)).filter (fun i => decide (i < r.rows))
      let ruined := (is ++ [32 * h + is.length]).any (fun i => let p := ptr.getD i z; p.bad || !p.ok)
      let s := sliceOf r (bits / 8) (is.map (csrRow r ptr idx val))
      let taint := fun (e : El) => if ruined then { e with bad := true } else e
      { s with idx := s.idx.map taint, val := s.val.map taint })
    let o := csrOut r slices
    { dst := o.1.map (fun y => (r.dst + y.1, y.2)), aux := [], src := used, short := o.2.1, count := o.2.2, bad := 0 }
  | _ => { dst := [], aux := [], src := all, short := false, count := 0, bad := 0 }

/-- What a transform reads of its source: a stream for EXPAND, else cells. `none` in the second place while it stalls. -/
def xSource (s : State) (w : Who) (e : EngOp) (op : Nat) (r : Lay) (t : Nat) : State × Option (Stream × List (List Cell)) :=
  if t = 3 then
    let x := streamIn s w e op r.src (r.rows * r.cols) r.crci
    (x.1, x.2.map (fun y => (y, [])))
  else
    let x := moveIn s w e op 0 (xSrcPieces s w r t)
    (x.1, x.2.map (fun cs => ({ syms := [], raw := [], bad := 0 }, cs)))

/-- Writes what a transform has made, reports it, and completes the operation. -/
def writeXform (s : State) (op : Nat) (w : Who) (r : Lay) (lost poisoned : Bool) (o : XOut) : State :=
  let cells := (o.dst.flatMap (·.2)) ++ o.aux
  let st : BitVec 8 := (if o.short then 4 else 0) ||| (if cells.any (·.bad) ∨ poisoned then 2 else 0) |||
    (if cells.any (fun k => !k.ok) ∨ lost then 1 else 0)
  let pieces := fun (outs : List (Nat × List Cell)) => outs.flatMap (fun x => rangePieces s w x.1 x.2.length)
  let outs := o.dst ++ (if o.aux.isEmpty then [] else [(r.aux, o.aux)])
  let asks := outAsks s w (2 ^ 35) (pieces outs) cells
  let s := engAsk s w op asks
  if !engAnswered s op asks then s
  else
    let record := goodCells (leBytes 4 (if r.crco then crc32c ((o.dst.flatMap (·.2)).map (·.b)) else 0) ++
      leBytes 4 (if r.crci then crc32c o.src else 0) ++ leBytes 4 (st ||| lostBit s op asks).toNat ++ leBytes 4 o.count)
    let outs := outs ++ (if r.crcdst = 0 then [] else [(r.crcdst, record)])
    match moveOut s w op (2 ^ 35) (pieces outs) (outs.flatMap (·.2)) with
    | .stalled s => s
    | .done st2 s => finishEng (countBad s o.bad) op (st ||| st2)

/-- Performs the transform of an operation: its inputs are read, then its outputs written and reported. -/
def runXform (s : State) (op : Nat) (e : EngOp) (t : Nat) (r : Lay) : State :=
  let w := opWho s e
  let auxLen := if t = 4 then 4 * (r.rows + 1) else if t = 2 ∧ isScaled r.sf then r.rows * (r.cols / 48) else 0
  let aux2Len := if t = 4 then toEnd s w r.aux2 else 0
  match xSource s w e op r t with
  | (s, none) => s
  | (s, some (y, a)) =>
    match moveIn s w e op (2 ^ 33) (rangePieces s w r.aux auxLen) with
    | (s, none) => s
    | (s, some b) =>
      match moveIn s w e op (2 ^ 34) (rangePieces s w r.aux2 aux2Len) with
      | (s, none) => s
      | (s, some b2) =>
        if opensNow s op e then
          countBad (openEng s op (if t = 3 then [(0, [y.syms]), (1, [goodCells y.raw])]
            else [(0, a), (2 ^ 33, b), (2 ^ 34, b2)])) y.bad
        else
          writeXform s op w r (t == 5 && a.flatten.any (fun k => !k.ok)) (t == 5 && a.flatten.any (·.bad))
            (transform r t y { src := a.flatten, aux := b.flatten, aux2 := b2.flatten })

/-- PRISM_TRANSFORM_COMPLETE (R213): the oldest transform of a cluster's Prism. -/
def execPrismTransformComplete (cluster : Nat) (s : State) : Host.Outcome State Fault Refusal :=
  event s (fun s =>
    match Map.getD s.prism cluster [] with
    | [] => s
    | op :: rest =>
      match Map.find? s.eng op with
      | none => { s with prism := Map.setD s.prism cluster rest [] }
      | some e =>
        match e.kind with
        | .xform t bs =>
          if t == 3 && !decodeTurn s op e then s
          else
          let s := runXform s op e t (layOf bs)
          if (Map.find? s.eng op).isNone then { s with prism := Map.setD s.prism cluster rest [] } else s
        | _ => s)

end Sys2Proof.Machine
end

