-- ==== Sys2Proof/Machine/Matrix.lean ====
section
/-! DEFINITION. The matrix engine: passes, the reservation table and its arbiter, accumulator tiles and T registers (R88 to
R90, R214 to R218, R235, R375 to R378). -/

namespace Sys2Proof.Machine

/-! ### Format blocks and operands (R215 to R217) -/

def stepK : Nat → Nat
  | 0 => 8 | 1 => 32 | 2 => 32 | 3 => 96 | 4 => 96 | 5 => 96 | _ => 192

/-- An operand of a pass: tile address, element code, scale and descriptor arrays where present. -/
structure Opr where
  addr : Nat
  code : Nat
  sc : Option Nat
  bm : Option Nat
  deriving DecidableEq, Repr

/-- One half of a format block (R216). -/
def oprOf (addr : Nat) (bs : List Byte) : Option Opr :=
  let n := fun o k => leNat ((bs.drop o).take k)
  let sc := n 2 1 % 2 = 1
  let bm := n 2 1 / 2 % 2 = 1
  if n 0 1 ≤ 7 ∧ n 1 1 = (if isScaled (n 0 1) then 48 else 0) ∧ n 2 1 < 4 ∧ (sc → n 1 1 = 48) ∧ n 3 1 = 0 ∧
      (¬ sc → n 4 4 = 0) ∧ (¬ bm → n 8 4 = 0) ∧ n 12 4 = 0 then
    some { addr := addr, code := n 0 1, sc := if sc then some (addrOf (oidOf addr) (n 4 4)) else none,
           bm := if bm then some (addrOf (oidOf addr) (n 8 4)) else none }
  else none

/-- NB of R217. -/
def blocksOf (code steps : Nat) : Nat := cdiv (steps * stepK code) 48
/-- Elements of an operand's range. -/
def oprLen (o : Opr) (steps : Nat) : Nat := 128 * steps * stepK o.code

/-- The ranges of an operand (R375). -/
def oprRanges (o : Opr) (steps : Nat) : List (Nat × Nat) :=
  let nb := blocksOf o.code steps
  (o.addr, oprLen o steps * elemBits o.code / 8) ::
    ((o.sc.map (fun a => (a, 128 * nb))).toList ++ (o.bm.map (fun a => (a, 128 * nb * 16))).toList)

/-- The operands of a chain and the features they need; `none` for a format block that R216 or R375 refuses. -/
def chainOf (s : State) (a b : Nat) (fmt : List Byte) : Option (Opr × Opr) :=
  match oprOf a (fmt.take 16), oprOf b ((fmt.drop 16).take 16) with
  | some x, some y =>
    if x.code = y.code ∧ ((x.bm.isSome ∨ y.bm.isSome) → feature s 3) ∧ (elemBits x.code = 4 → feature s 2) then some (x, y) else none
  | _, _ => none

/-- An element of a pass: absent, or a value with its scale applied. -/
def elemAt (s : State) (w : Who) (code base e : Nat) : FVal :=
  let bits := elemBits code
  let a := base + e * bits / 8
  let x := leNat (loadBytes s w a (cdiv bits 8))
  elemVal code (if bits = 4 then x / 16 ^ (e % 2) % 16 else x)

/-- Row m of A, or column m of B, in step `st` of a chain of `steps` (R217): its K elements, absent ones `none`.
The whole is `none` where the step aborts. -/
def stepVec (s : State) (w : Who) (o : Opr) (steps st m : Nat) : Option (List (Option FVal)) :=
  let k := stepK o.code
  let nb := blocksOf o.code steps
  let bits := elemBits o.code
  let first := st * k / 48
  let blocks := (List.range (((st + 1) * k - 1) / 48 - first + 1)).map (first + ·)
  let scBad := o.sc.any (fun a => blocks.any (fun j => rangePoisoned s w (a + m * nb + j) 1))
  let desc := fun (a j : Nat) => a + 16 * (m * nb + j)
  let pres := fun (a j : Nat) => leNat (loadBytes s w (desc a j) 6) % 2 ^ (min 48 (steps * k - 48 * j))
  let off := fun (a j : Nat) => leNat (loadBytes s w (desc a j + 8) 4)
  let before := fun (p i : Nat) => ((List.range i).filter (fun q => p.testBit q)).length
  let scale := fun (j : Nat) (v : FVal) => match o.sc with
    | some a => scaleVal (leNat (loadBytes s w (a + m * nb + j) 1)) v
    | none => v
  if scBad then none
  else match o.bm with
    | none =>
      let e0 := (st * 128 + m) * k
      if rangePoisoned s w (o.addr + e0 * bits / 8) (k * bits / 8) then none
      else some ((List.range k).map (fun i => some (scale ((st * k + i) / 48) (elemAt s w o.code o.addr (e0 + i)))))
    | some a =>
      let bad := blocks.any (fun j =>
        let p := pres a j
        rangePoisoned s w (desc a j) 16 || leNat (loadBytes s w (desc a j + 6) 2) != 0 ||
          leNat (loadBytes s w (desc a j + 12) 4) != 0 || (p != 0 && decide (oprLen o steps < off a j + before p 48)))
      if bad then none
      else
        let here := (List.range k).map (fun i =>
          let e := st * k + i
          let p := pres a (e / 48)
          if p.testBit (e % 48) then some (e / 48, off a (e / 48) + before p (e % 48)) else none)
        if here.any (fun x => x.any (fun y => rangePoisoned s w (o.addr + y.2 * bits / 8) (cdiv bits 8))) then none
        else some (here.map (fun x => x.map (fun y => scale y.1 (elemAt s w o.code o.addr y.2))))

/-! ### Accumulation (R235) -/

/-- W of R235: NaN, an infinity, or an exact value (zero where nothing is added). -/
def sumW (width : Int) (ps : List FVal) : FVal :=
  let infs := ps.filterMap (fun p => match p with
    | .inf n => some n
    | _ => none)
  if ps.any (·.isNan) ∨ (infs.contains true ∧ infs.contains false) then .nan false
  else match infs with
    | n :: _ => .inf n
    | [] =>
      match maxLg ps with
      | none => .fin false 0 0
      | some e =>
        let u := e - width
        let t := ps.foldl (fun (a : Int) p => match p with
          | .fin neg m x =>
            let k : Nat := if u ≤ x then m * 2 ^ (x - u).toNat else m / 2 ^ (u - x).toNat
            if neg then a - k else a + k
          | _ => a) 0
        .fin (decide (t < 0)) t.natAbs u

/-- acc after a step whose products are `ps`. -/
def accStep (width : Int) (acc : Nat) (ps : List FVal) : Nat :=
  match sumW width ps with
  | .nan _ => 0x7FC00000
  | .fin _ 0 _ => acc
  | w => (roundF fF32 .rne false false 0 (addV .rne (decodeF fF32 acc) w).1).1

/-- The products of one output element: only where both elements are present. -/
def products : List (Option FVal) → List (Option FVal) → List FVal
  | x :: xs, y :: ys => match x, y with
    | some a, some b => (mulV a b).1 :: products xs ys
    | _, _ => products xs ys
  | _, _ => []

/-- A word of a tile; `tile` is core·64 + tile number. -/
def accWord (s : State) (tile i : Nat) : Nat := (Map.getD s.acc (tile * 16384 + i) 0).toNat
def putAcc (s : State) (tile i x : Nat) : State := { s with acc := Map.setD s.acc (tile * 16384 + i) (BitVec.ofNat 32 x) 0 }
def accBad (s : State) (tile i : Nat) : Bool := Map.getD s.accPoison ((tile * 16384 + i) / 16) false

/-- A whole sector of a tile is written: its poison clears. -/
def accClean (s : State) (tile i : Nat) : State :=
  { s with accPoison := Map.setD s.accPoison ((tile * 16384 + i) / 16) false false }

/-- A word read from a tile: a free value where its sector is poisoned. -/
def tileRead (s : State) (tile i : Nat) : Nat :=
  if accBad s tile i then (Config.freeWord (s.free * 16384 + i)).toNat else accWord s tile i

/-- One step of a chain, `none` where it aborts (R217). -/
def passStep (s : State) (w : Who) (tile steps : Nat) (a b : Opr) (st : Nat) : Option State := do
  let as ← (List.range 128).mapM (stepVec s w a steps st)
  let bs ← (List.range 128).mapM (stepVec s w b steps st)
  let width : Int := if a.code = 0 then 96 else 64
  pure ((as.zip (List.range 128)).foldl (fun t x => (bs.zip (List.range 128)).foldl (fun t y =>
    let i := 128 * x.2 + y.2
    putAcc t tile i (accStep width (tileRead t tile i) (products x.1 y.1))) t) s)

/-- A chain from step `st` on: the state, and whether a step aborted. -/
def passChain (w : Who) (tile steps : Nat) (a b : Opr) : Nat → State → State × Bool
  | 0, s => (s, false)
  | k + 1, s =>
    match passStep s w tile steps a b (steps - (k + 1)) with
    | some t => passChain w tile steps a b k t
    | none => (s, true)

/-! ### The reservation table and the arbiter (R88 to R90) -/

/-- The physical tile behind a crew's tile number, as core·64 + tile. -/
def tileKey (s : State) (c : Ctx) (n : Nat) : Nat := c.core * 64 + (crewAt s c.ck).tiles.getD n 0

/-- An operation takes its place in its tile's queue (R218). -/
def reachTile (s : State) (tile op : Nat) : State :=
  { s with tileQ := Map.put s.tileQ tile (Map.getD s.tileQ tile [] ++ [op]) }

/-- The tile of a queued operation. -/
def tileOf (s : State) (op : Nat) : Nat :=
  match (Map.find? s.eng op).map (fun (e : EngOp) => e.kind) with
  | some (.pass t _ _ _ _) => t
  | some (.azero t) => t
  | some (.drainT t _ _ _) => t
  | some (.fillT t _ _ _) => t
  | some (.drainPlain t _ _ _) => t
  | some (.fillPlain t _ _ _) => t
  | _ => 0

/-- Every operation that reached its tile before the entry has been performed (R89). -/
def grantable (s : State) (r : Resv) : Bool := (Map.getD s.tileQ (tileOf s r.op) []).head? == some r.op

def resvOlder (a b : Resv) : Bool :=
  decide (a.age < b.age) || (a.age == b.age && (decide (a.core < b.core) || (a.core == b.core && decide (a.op < b.op))))

/-- The order of R89: the oldest entry once 64 grants have passed it, then class, then age; entries that are not
grantable come last. -/
def grantOrder (s : State) (rs : List Resv) : List Resv :=
  let oldest := leastBy resvOlder rs
  let due := fun (r : Resv) => oldest == some r && grantable s r && decide (64 ≤ r.byp)
  sortBy (fun a b =>
    if due a ≠ due b then due a
    else if grantable s a ≠ grantable s b then grantable s a
    else decide (a.cls < b.cls) || (a.cls == b.cls && resvOlder a b)) rs

/-- A table after a grant to `r`: a grantable entry that is the oldest counts the grant to another (R89). -/
def afterGrant (s : State) (rs : List Resv) (r : Resv) : List Resv :=
  (rs.filter (fun x => x.op != r.op)).map (fun x =>
    if leastBy resvOlder rs = some x ∧ grantable s x then { x with byp := x.byp + 1 } else x)

/-- Grants that the rule of R89 makes before the entry of operation `op`, if nothing is posted meanwhile; entries that are not
grantable now come after those that are. -/
def grantsBefore (s : State) (op : Nat) : Nat → List Resv → Nat
  | 0, _ => 0
  | k + 1, rs => match (grantOrder s rs).head? with
    | none => 0
    | some r => if r.op = op then 0 else 1 + grantsBefore s op k (afterGrant s rs r)

/-- MATRIX_GRANT (R89): the cluster's engine begins a grant. -/
def execMatrixGrant (cluster : Nat) (s : State) : Host.Outcome State Fault Refusal :=
  event s (fun s =>
    let rs := Map.getD s.resv cluster []
    if (Map.find? s.granted cluster).isSome then s
    else match (grantOrder s rs).head? with
      | none => s
      | some r =>
        if !grantable s r then s
        else
          let rest := afterGrant s rs r
          let s := match Map.find? s.eng r.op with
            | some e => bumpCore s r.core (quadOf s e.gang) 0x030 1
            | none => s
          { s with resv := Map.setD s.resv cluster rest [], granted := Map.put s.granted cluster r.op })

/-- The first operation of a tile's queue has been performed. -/
def popTile (s : State) (tile : Nat) : State :=
  { s with tileQ := Map.setD s.tileQ tile ((Map.getD s.tileQ tile []).drop 1) [] }

/-- Every ADRAIN of the tile behind an aborted chain is cancelled (R217). -/
def cancelDrains (s : State) (tile : Nat) : State :=
  let ops := (Map.getD s.tileQ tile []).drop 1
  { s with eng := s.eng.map (fun e => (e.1, if ops.contains e.1 then
      (match e.2.kind with
       | .drainT _ _ _ _ => { e.2 with cancelled := true }
       | .drainPlain _ _ _ _ => { e.2 with cancelled := true }
       | _ => e.2) else e.2)) }

/-- PASS_COMPLETE (R217): a granted chain is performed and reported. -/
def execPassComplete (op : Nat) (s : State) : Host.Outcome State Fault Refusal :=
  event s (fun s =>
    match Map.find? s.eng op with
    | none => s
    | some e =>
      match e.kind with
      | .pass tile steps a b fmt =>
        let cl := clusterOf s (e.gang / 64)
        if Map.find? s.granted cl ≠ some op then s
        else
          let (t, ab) := match oprOf a.toNat (fmt.take 16), oprOf b.toNat ((fmt.drop 16).take 16) with
            | some x, some y => passChain (opWho s e) tile steps x y steps s
            | _, _ => (s, true)
          let t := useFree { t with granted := Map.del t.granted cl }
          let t := if ab then cancelDrains t tile else t
          popTile (finishEng t op (if ab then 8 else 0)) tile
      | _ => s)

/-- The word of MQUERY (R90). -/
def mqueryWord (s : State) (gk stamp cl : Nat) : Nat :=
  let rs := Map.getD s.resv cl []
  let mine := rs.filter (fun r => (Map.find? s.eng r.op).any (fun e => e.gang == gk && e.stamp == stamp))
  let order := grantOrder s rs
  let oldest := leastBy resvOlder rs
  let own := leastBy resvOlder mine
  let ahead := match own with
    | none => 63
    | some r => min 31 (grantsBefore s r.op rs.length rs)
  let byp := match own with
    | none => 127
    | some r => if oldest = some r then min 64 r.byp else 127
  rs.length * 2 ^ 24 + mine.length * 2 ^ 18 + ahead * 2 ^ 12 + ((order.head?).map (·.cls)).getD 0 * 2 ^ 10 + byp * 8

/-- MQUERY (R376). -/
def execMquery (f : ENG) (s : State) : Host.Outcome State Fault Refusal :=
  issue (shapeOf (.mquery f)) s (fun c s =>
    let x := mqueryWord s c.gk c.g.stamp (clusterOf s c.core)
    advance (onGang s c.gk (fun g => putD g f.sd f.d 1 c.act (fun _ => x))) c.pk)

/-- A tile address lies in the issuing cluster (R214). -/
def inCluster (s : State) (c : Ctx) (a : Nat) : Bool :=
  oidOf a == aliasId || (oidOf a == plainId && decide (offOf a < 0x20000000) &&
    clusterOf s (offOf a / 0x400000) == clusterOf s c.core)

/-- Posts a registered pass to the cluster's reservation table and to its tile's queue (R375 step 4, R88, R218). -/
def postPass (s : State) (c : Ctx) (tile op : Nat) : State :=
  let cl := clusterOf s c.core
  let r : Resv := { op := op, cls := (runAt s c.run).cls, age := s.tick, core := c.core, byp := 0 }
  let s := reachTile s tile op
  advance { s with resv := Map.put s.resv cl (Map.getD s.resv cl [] ++ [r]) } c.pk

/-- The pass that the path has registered and not yet posted, while it waits on a full table. -/
def heldPass (s : State) (c : Ctx) (tile n a b : Nat) : Option Nat :=
  if c.p.issued = 0 then none
  else (List.find? (fun (e : Nat × EngOp) => e.2.gang == c.gk && e.2.stamp == c.g.stamp && (match e.2.kind with
      | .pass t k x y _ => t == tile && k == n && x == BitVec.ofNat 64 a && y == BitVec.ofNat 64 b
      | _ => false) && !(Map.getD s.tileQ tile []).contains e.1) s.eng).map (·.1)

/-- MPASS (R375): its ranges are registered before it waits on a full reservation table. -/
def execMpass (f : ENG) (s : State) : Host.Outcome State Fault Refusal :=
  issue (shapeOf (.mpass f)) s (fun c s =>
    let n := rs c.g f.d.toNat
    let a := rsw c.g f.a.toNat 2
    let b := rsw c.g f.b.toNat 2
    let x := rsw c.g f.c.toNat 2
    let tile := tileKey s c f.tile.toNat
    let full := decide (32 ≤ (Map.getD s.resv (clusterOf s c.core) []).length)
    match (if c.act = 0 then none else heldPass s c tile n a b) with
    | some op => if full then waitFor s c .table else postPass s c tile op
    | none =>
    if n = 0 ∨ 64 < n then trapAll s c .illegalOp c.trapMask [BitVec.ofNat 32 f.d.toNat]
    else if c.act = 0 then advance s c.pk
    else match recordFault s c x 32 with
      | some y => uniFault s c y.1 y.2 0 []
      | none =>
        let fmt := loadBytes s c.who x 32
        match chainOf s a b fmt with
        | none => trapAll s c .illegalOp c.act []
        | some (oa, ob) =>
          let ranges := oprRanges oa n ++ oprRanges ob n
          match [a, b].find? (fun y => !inCluster s c y) with
          | some y => uniFault s c .objectInvalid y 0 []
          | none =>
            match ranges.findSome? (fun r => (rangeCheck s (engWho c .engine) r.1 r.2 .read []).map (·, r.1)) with
            | some y => uniFault s c y.1 y.2 0 []
            | none =>
              if pendingOps c then waitFor s c .flush
              else if !lockRoom s c ranges.length then waitFor s c (.locks ranges.length)
              else
                let (op, s) := newEng s c (.pass tile n (BitVec.ofNat 64 a) (BitVec.ofNat 64 b) fmt) true none
                let s := regLocks s c op ranges
                if full then waitFor (onPath s c.pk (fun p => { p with issued := c.act })) c .table
                else postPass s c tile op)

/-! ### Tiles and T registers (R377, R378) -/

/-- AZERO (R378). -/
def execAzero (f : ENG) (s : State) : Host.Outcome State Fault Refusal :=
  issue (shapeOf (.azero f)) s (fun c s =>
    if c.act = 0 then advance s c.pk
    else
      let tile := tileKey s c f.tile.toNat
      let (op, s) := newEng s c (.azero tile) false none
      advance (reachTile s tile op) c.pk)

/-- Limits of row0 and col0 of the T forms: the register code of the first value outside them (R377). -/
def tFormBad (f : ENG) (row col : Nat) : Option Nat :=
  if row % 32 ≠ 0 ∨ 128 ≤ row then some f.a.toNat
  else if col % 8 ≠ 0 ∨ 128 ≤ col then some f.b.toNat
  else none

/-- ADRAIN (T) (R378): T is tagged pending at issue. -/
def execAdrainT (f : ENG) (s : State) : Host.Outcome State Fault Refusal :=
  issue (shapeOf (.adrainT f)) s (fun c s =>
    let row := rs c.g f.a.toNat
    let col := rs c.g f.b.toNat
    let t := f.d.toNat
    match tFormBad f row col with
    | some n => trapAll s c .illegalOp c.trapMask [BitVec.ofNat 32 n]
    | none =>
      if c.act = 0 then advance s c.pk
      else
        if c.g.tpend.getLsbD t then waitFor s c (.tile t)
        else
          let tile := tileKey s c f.tile.toNat
          let (op, s) := newEng s c (.drainT tile t row col) false none
          let s := onGang s c.gk (fun g => { g with tpend := g.tpend ||| (1#8 <<< t), tabort := g.tabort &&& ~~~ (1#8 <<< t) })
          advance (reachTile s tile op) c.pk)

/-- AFILL (T) (R378): the T register's words are read at issue. -/
def execAfillT (f : ENG) (s : State) : Host.Outcome State Fault Refusal :=
  issue (shapeOf (.afillT f)) s (fun c s =>
    let row := rs c.g f.a.toNat
    let col := rs c.g f.b.toNat
    let t := f.d.toNat
    match tFormBad f row col with
    | some n => trapAll s c .illegalOp c.trapMask [BitVec.ofNat 32 n]
    | none =>
      if c.act = 0 then advance s c.pk
      else
        if c.g.tpend.getLsbD t then waitFor s c (.tile t)
        else if c.g.tabort.getLsbD t then trapAll s c .engineAbort c.act []
        else
          let tile := tileKey s c f.tile.toNat
          let ws := (List.range 256).map (fun k => BitVec.ofNat 32 (rt c.g t (k / 8) (k % 8)))
          let (op, s) := newEng s c (.fillT tile row col ws) false none
          advance (reachTile s tile op) c.pk)

/-- The Plain forms of ADRAIN and AFILL (R377, R378). -/
def tilePlain (f : ENG) (drain : Bool) (c : Ctx) (s : State) : State :=
  let row := rs c.g f.a.toNat
  let n := rs c.g f.b.toNat
  let a := rsw c.g f.d.toNat 2
  if n = 0 ∨ 128 < n then trapAll s c .illegalOp c.trapMask [BitVec.ofNat 32 f.b.toNat]
  else if 128 < row + n then trapAll s c .illegalOp c.trapMask [BitVec.ofNat 32 f.a.toNat]
  else if c.act = 0 then advance s c.pk
  else if oidOf a ≠ aliasId ∧ oidOf a ≠ plainId then uniFault s c .objectInvalid a 0 []
  else if a % 4 ≠ 0 then uniFault s c .align a 0 []
  else match rangeCheck s (engWho c .engine) a (512 * n) (if drain then .write else .read) [] with
    | some code => uniFault s c code a 0 []
    | none =>
      if pendingOps c then waitFor s c .flush
      else if !lockRoom s c 1 then waitFor s c (.locks 1)
      else
        let tile := tileKey s c f.tile.toNat
        let d := BitVec.ofNat 64 a
        let (op, s) := newEng s c (if drain then .drainPlain tile d row n else .fillPlain tile d row n) true none
        advance (reachTile (regLocks s c op [(a, 512 * n)]) tile op) c.pk

/-- ADRAIN (Plain) (R378). -/
def execAdrainPlain (f : ENG) (s : State) : Host.Outcome State Fault Refusal :=
  issue (shapeOf (.adrainPlain f)) s (tilePlain f true)
/-- AFILL (Plain) (R378). -/
def execAfillPlain (f : ENG) (s : State) : Host.Outcome State Fault Refusal :=
  issue (shapeOf (.afillPlain f)) s (tilePlain f false)

/-- TXV (R378). -/
def execTxv (f : ENG) (s : State) : Host.Outcome State Fault Refusal :=
  issue (shapeOf (.txv f)) s (fun c s =>
    let t := f.tile.toNat
    if c.act = 0 then advance s c.pk
    else if c.g.tpend.getLsbD t then waitFor s c (.tile t)
    else if c.g.tabort.getLsbD t then trapAll s c .engineAbort c.act []
    else advance (onGang s c.gk (fun g => (lanes c.act).foldl (fun h l => (List.range 8).foldl (fun h j =>
      wv h (f.d.toNat + j) l (rt g t l j)) h) g)) c.pk)

/-- VXT (R378): written whole, the register loses its aborted tag. -/
def execVxt (f : ENG) (s : State) : Host.Outcome State Fault Refusal :=
  issue (shapeOf (.vxt f)) s (fun c s =>
    let t := f.tile.toNat
    if c.act = 0 then advance s c.pk
    else if c.g.tpend.getLsbD t then waitFor s c (.tile t)
    else advance (onGang s c.gk (fun g =>
      let h := (lanes c.act).foldl (fun h l => (List.range 8).foldl (fun h j => wt h t l j (rv g (f.a.toNat + j) l)) h) g
      if c.act = -1 then { h with tabort := h.tabort &&& ~~~ (1#8 <<< t) } else h)) c.pk)

/-- The gang that issued an engine operation, while it stands. -/
def onOpGang (s : State) (e : EngOp) (f : Gang → Gang) : State :=
  if (gangAt s e.gang).stamp = e.stamp then onGang s e.gang f else s

/-- The words of a block of 32 rows by 8 columns, at T word k of row k / 8 (R218). -/
def blockWord (row col k : Nat) : Nat := 128 * (row + k / 8) + col + k % 8

/-- Performs an operation other than a pass at the head of a tile's queue (R378). -/
def performTile (s : State) (op : Nat) (e : EngOp) : State :=
  let w := opWho s e
  match e.kind with
  | .azero tile =>
    let lo := tile * 16384
    popTile (finishEng { s with acc := s.acc.filter (fun x => decide (x.1 < lo ∨ lo + 16384 ≤ x.1)),
                                accPoison := s.accPoison.filter (fun x => decide (x.1 < lo / 16 ∨ lo / 16 + 1024 ≤ x.1)) } op 0) tile
  | .drainT tile t row col =>
    let s := useFree (onOpGang s e (fun g =>
      if e.cancelled then { g with tpend := g.tpend &&& ~~~ (1#8 <<< t), tabort := g.tabort ||| (1#8 <<< t) }
      else
        let h := (List.range 256).foldl (fun h k => wt h t (k / 8) (k % 8) (tileRead s tile (blockWord row col k))) g
        { h with tpend := h.tpend &&& ~~~ (1#8 <<< t) }))
    popTile (finishEng s op 0) tile
  | .fillT tile row col ws =>
    let s := (List.range 256).foldl (fun t k => putAcc t tile (blockWord row col k) (ws.getD k 0).toNat) s
    popTile (finishEng s op 0) tile
  | .drainPlain tile dst row n =>
    let cells := (List.range (128 * n)).flatMap (fun k =>
      let bad := e.cancelled || accBad s tile (128 * row + k)
      (leBytes 4 (if bad then 0 else accWord s tile (128 * row + k))).map (fun b => ({ b := b, bad := bad, ok := true } : Cell)))
    match moveOut s w op 0 [{ addr := some dst.toNat, len := cells.length }] cells with
    | .stalled s => s
    | .done st s => popTile (finishEng s op st) tile
  | .fillPlain tile src row n =>
    let cs := (List.range (512 * n)).map (fun i => readCell s w e (src.toNat + i))
    let word := fun (k : Nat) => (cs.drop (4 * k)).take 4
    let s := (List.range (128 * n)).foldl (fun t k =>
      let x := word k
      putAcc (accClean t tile (128 * row + k)) tile (128 * row + k)
        (if x.any (·.bad) then 0x7FC00000 else leNat (x.map (·.b)))) s
    popTile (finishEng s op (if cs.any (·.bad) then 2 else 0)) tile
  | _ => s

/-- TILE_OP_PERFORM (R218): the operation at the head of a tile's queue. -/
def execTileOpPerform (core tile : Nat) (s : State) : Host.Outcome State Fault Refusal :=
  event s (fun s =>
    match (Map.getD s.tileQ (core * 64 + tile) []).head? with
    | none => s
    | some op =>
      match Map.find? s.eng op with
      | none => popTile s (core * 64 + tile)
      | some e => performTile s op e)

end Sys2Proof.Machine
end

