-- ==== Sys2Proof/Machine/Control.lean ====
section
/-! DEFINITION. Control transfers, waits, yields, markers and loops (R270 to R282). -/

namespace Sys2Proof.Machine

/-- A lane's transfer: target and new call depth. -/
structure Target where
  pc : Nat
  depth : Nat
  stray : Bool
  deriving DecidableEq, Repr

/-- The sides of a transfer, targets ascending and the falling-through lanes last, or first when `fallFirst` (R111,
R112). -/
def sidesOf (p : Path) (fallPc : DWord) (fall : Mask) (fallFirst : Bool) (ts : List (Nat × Target)) : List Side :=
  let pcs := sortBy (fun a b => decide (a < b)) (nubN (ts.map (·.2.pc)))
  let mk := fun (pc : DWord) (m : Mask) (d : Nat) (st : Bool) =>
    ({ pc := pc, mask := m, depth := d, clause := none, wait := .none, kind := p.kind, parked := none, trap := p.trap,
       stray := st, arrived := none, prog := p.prog, again := false } : Side)
  let go := pcs.map (fun a =>
    let here := ts.filter (fun t => t.2.pc == a)
    mk (BitVec.ofNat 64 a) (here.foldl (fun m t => m ||| laneBit t.1) 0) ((here.head?.map (·.2.depth)).getD p.depth)
      ((here.head?.map (·.2.stray)).getD false))
  let fs := if fall = 0 then [] else [mk fallPc fall p.depth false]
  if fallFirst then fs ++ go else go ++ fs

/-- Makes a transfer at the end of the clause (R271): a RETT of the clause takes effect instead (R384). -/
def transfer (s : State) (c : Ctx) (fallFirst : Bool) (ts : List (Nat × Target)) : State :=
  let p := pathAt s c.pk
  if ts.isEmpty ∨ p.rett.isSome then onPath (endClause s c.pk) c.pk rejoin
  else
    let q := clauseEnd p c.cl
    let go := ts.foldl (fun m t => m ||| laneBit t.1) (0 : Mask)
    split (setPath s c.pk q) c.pk (sidesOf q q.pc (p.mask &&& ~~~ go) fallFirst ts)

/-- The sides a transfer will have. -/
def sideCount (p : Path) (ts : List (Nat × Target)) : Nat :=
  let go := ts.foldl (fun m t => m ||| laneBit t.1) (0 : Mask)
  (nubN (ts.map (·.2.pc))).length + (if p.mask &&& ~~~ go = 0 then 0 else 1)

/-- Transfers, or the whole path takes PATH_LIMIT when its sides find no room (R118). -/
def transferOr (s : State) (c : Ctx) (fallFirst : Bool) (ts : List (Nat × Target)) : State :=
  let p := pathAt s c.pk
  if p.rett.isNone && !splitFits s c.pk (sideCount p ts) then
    (takeTrap s (c.site 0 [] true) (allLanes p.mask .pathLimit)).1
  else transfer s c fallFirst ts

/-- Header + 8 · OFF32 in the CODE object, modulo 2^40 (R260); the flag says that the exact target lies outside 0 to
2^40 − 1, so that its fetch faults BOUNDS. -/
def brTarget (c : Ctx) (off : BitVec 32) : Nat × Bool :=
  let h := c.cl.hdr.toNat
  let o : Int := (offOf h : Nat) + 8 * sext 32 off.toNat
  (addrOf (oidOf h) (wrapI 40 o), decide (o < 0 ∨ (2 ^ 40 : Nat) ≤ o))

/-- BRA (R272). -/
def execBra (f : BR) (s : State) : Host.Outcome State Fault Refusal :=
  issue (shapeOf (.bra f)) s (fun c s =>
    transferOr s c true ((lanes c.act).map (fun l => (l, { pc := (brTarget c f.off).1, depth := c.p.depth, stray := (brTarget c f.off).2 }))))

/-- A lane's read of its TARGETS entry, after its checks (R275, R151): the entry must lie in the object of the base pair. `first` is what
R151 gives up to its alignment test, which an address with its low bit set never passes. -/
def targetAcc (s : State) (c : Ctx) (f : RRR) (l : Nat) : LaneAcc :=
  let base := rsw c.g f.b.toNat 2
  let ea := base + 16 * src c.g f.sa f.a 1 l
  match peerOpOf s c l with
  | some o => { lane := l, addr := ea % 2 ^ 64, bad := if o.fail.isSome then some .remoteLost else none, peer := some o }
  | none =>
    let w := { c.whoAt l with use := .targets }
    let first := check s w ((if oidOf ea = oidOf base then ea else base) / 8 * 8 + 1) 8 .read
    let bad := if base % 16 ≠ 0 then first
      else if oidOf ea = oidOf base then check s w ea 8 .read
      else if first = some .align then some .bounds else first
    { lane := l, addr := ea % 2 ^ 64, bad := bad, peer := none }

/-- A transfer through a TARGETS object: each active lane loads its entry (R275, R298). Faulting lanes leave first; where no entry
is free the others are parked at the transfer (R142, R271). -/
def transferVia (s : State) (c : Ctx) (f : RRR) (depth : Nat) (link : State → Mask → State) : State :=
  let xs := (lanes c.act).map (targetAcc s c f)
  match peerWait s c xs 1 8 (fun _ => []) with
  | some t => t
  | none =>
    let good := goodAccs xs
    let ts := good.map (fun x => (x.lane, ({ pc := accRead s c 8 x, depth := depth, stray := false } : Target)))
    let extra := accExtra s c 8 .read xs
    let s := good.foldl (fun t x => touch (relRead t c none (accKeys t c 8 x)) (c.whoAt x.lane) x.addr false) s
    let s := dropAnswers s c
    let go := accMask good
    let r := if (accFaults xs).isEmpty then (s, true) else takeTrap s (c.site 0 extra true) (accFaults xs)
    if !r.2 then r.1
    else if splitFits r.1 c.pk (sideCount (pathAt r.1 c.pk) ts) ∨ (pathAt r.1 c.pk).rett.isSome then transfer (link r.1 go) c false ts
    else transferOr r.1 c false ts

/-- BRX (R275). -/
def execBrx (f : RRR) (s : State) : Host.Outcome State Fault Refusal :=
  issue (shapeOf (.brx f)) s (fun c s => transferVia s c f c.p.depth (fun t _ => t))

/-- The code address after the clause, written to the return pair (R273). -/
def linkPair (c : Ctx) (d : BitVec 8) (s : State) (m : Mask) : State :=
  onGang s c.gk (fun g => putD g false d 2 m (fun _ => (c.cl.hdr + BitVec.ofNat 64 (8 * (c.cl.n + 2))).toNat))

/-- A call at depth 65,535 traps PATH_LIMIT (R273). -/
def callTooDeep (c : Ctx) : Bool := c.act != 0 && decide (65535 ≤ c.p.depth)

/-- CALL (R273). -/
def execCall (f : BR) (s : State) : Host.Outcome State Fault Refusal :=
  issue (shapeOf (.call f)) s (fun c s =>
    let ts := (lanes c.act).map (fun l => (l, ({ pc := (brTarget c f.off).1, depth := c.p.depth + 1, stray := (brTarget c f.off).2 } : Target)))
    if callTooDeep c then (takeTrap s (c.site 0 [] true) (allLanes c.p.mask .pathLimit)).1
    else if c.p.rett.isSome || splitFits s c.pk (sideCount c.p ts) then transfer (linkPair c f.d s c.act) c true ts
    else transferOr s c true ts)

/-- CALLX (R273, R275). -/
def execCallx (f : RRR) (s : State) : Host.Outcome State Fault Refusal :=
  issue (shapeOf (.callx f)) s (fun c s =>
    if callTooDeep c then (takeTrap s (c.site 0 [] true) (allLanes c.p.mask .pathLimit)).1
    else transferVia s c f (c.p.depth + 1) (linkPair c f.d))

/-- RET's checks: at depth 0 it is ILLEGAL_OP, at row 5 of R269 and so before the pair test of row 7 (R274). -/
def retShape (f : BR) (s : State) : Shape :=
  let sh := shapeOf (.ret f)
  { sh with ok := sh.ok && (pathAt s s.cur).depth != 0 }

/-- RET: the active lanes split by return address, depth one less (R274). -/
def execRet (f : BR) (s : State) : Host.Outcome State Fault Refusal :=
  issue (retShape f s) s (fun c s =>
    transferOr s c false ((lanes c.act).map (fun l =>
      (l, { pc := rvw c.g f.a.toNat l 2, depth := c.p.depth - 1, stray := false }))))

/-- Notes for the Lens a path that has exited whole in its active slot (R100). -/
def noteExit (s : State) (c : Ctx) (t : State) : State :=
  match c.p.slot with
  | some n =>
    if (Map.find? t.paths c.pk).any (fun q => q.slot == some n) then t
    else
      let x : Exited := { pk := c.pk, cls := (runAt s c.run).cls, quad := quadOf s c.gk, path := c.p }
      { t with exits := Map.put t.exits (8 * (4 * c.core + quadOf s c.gk) + n) x }
  | none => t

/-- EXIT: the active lanes leave the path and LIVEMASK, the others fall through (R276). -/
def execExit (f : BR) (s : State) : Host.Outcome State Fault Refusal :=
  issue (shapeOf (.exit f)) s (fun c s =>
    let rest := c.p.mask &&& ~~~ c.act
    let s := noteExit s c (leave s c.gk c.act)
    if rest = 0 then s else onPath (endClause s c.pk) c.pk rejoin)

/-- WAITG: the wait of R122 stands in `issue`; the merged path continues (R278). -/
def execWaitg (f : XL) (s : State) : Host.Outcome State Fault Refusal :=
  issue (shapeOf (.waitg f)) s (fun c s => advance s c.pk)

/-- The running clause's YIELD code, which acts at its end. -/
def setYield (s : State) (c : Ctx) (k : Nat) : State :=
  if c.act = 0 then s else onPath s c.pk (fun p => { p with clause := some { c.cl with yld := if c.cl.yld = 3 then 3 else k } })

/-- YIELD (R279). -/
def execYieldp (f : SYS) (s : State) : Host.Outcome State Fault Refusal :=
  issue (shapeOf (.yieldp f)) s (fun c s => advance (setYield s c 1) c.pk)

/-- SLEEP: the path is not ready from the end of the clause until the sleep expires (R279). -/
def execSleep (f : SYS) (s : State) : Host.Outcome State Fault Refusal :=
  issue (shapeOf (.sleep f)) s (fun c s => advance (setYield s c 3) c.pk)

/-- Appends a marker record; NEXT advances once it is written (R102, R103). -/
def markRecord (s : State) (rec' : Nat) : State :=
  let oid := bitsN s.mg.traceCtl.toNat 24 24
  let cap := ringCap s oid 8
  if !s.mg.traceCtl.getLsbD 62 ∨ oid = 0 ∨ cap = 0 then s
  else
    let due := marksDue s .markNext
    if !s.mg.traceCtl.getLsbD 61 ∧ cap ≤ (s.mg.markNext - s.mg.markRead).toNat + due then
      onMg s (fun m => { m with markDrop := min 0xFFFF (m.markDrop + 1) })
    else devMark (devStore s (addrOf oid (8 * ((s.mg.markNext.toNat + due) % 2 ^ 32 % cap))) (leBytes 8 rec')) .markNext

/-- MARK (R280). -/
def execMark (f : SYS) (s : State) : Host.Outcome State Fault Refusal :=
  issue (shapeOf (.mark f)) s (fun c s =>
    let s := if c.act = 0 then s
      else markRecord s (f.imm.toNat * 2 ^ 40 + c.core * 2 ^ 33 + c.gk % 64 * 2 ^ 27 + c.pk % 512 * 2 ^ 18)
    advance s c.pk)

/-- LOOPD (R281). -/
def execLoopd (f : RRR) (s : State) : Host.Outcome State Fault Refusal :=
  issue (shapeOf (.loopd f)) s (fun c s =>
    let x := fun l => src c.g f.sd f.d 1 l
    advance (onGang s c.gk (fun g =>
      putP (putD g f.sd f.d 1 c.act (fun l => x l - 1)) f.func.toNat c.act (fun l => decide (1 < x l)))) c.pk)

/-- NOP (R282). -/
def execNop (f : RRR) (s : State) : Host.Outcome State Fault Refusal :=
  issue (shapeOf (.nop f)) s (fun c s => advance s c.pk)

end Sys2Proof.Machine
end

