-- ==== Sys2Proof/Machine/Graph.lean ====
section
/-! DEFINITION. Graph space (R169 to R191, R361 to R369): the bytes of a graph object, its lists as trees of blocks,
mutations, reads and cursors. Reads of one list and mutations are performed by events after their instruction has issued;
GOPEN, GLDV, GSTV and a strict GLDE are performed at issue. How trees split and merge, the order of blocks on the
deferred and free lists, are the model's own: see the log. -/

namespace Sys2Proof.Machine

/-! ### Bytes of a graph object -/

/-- The physical address of a byte of a resident device-homed object. -/
def gPhys (s : State) (oid off : Nat) : Nat :=
  match pageTarget s oid (entryOf s oid) (off / 65536) with
  | some (some t) => t * 65536 + off % 65536
  | _ => off

def gNat (s : State) (oid off n : Nat) : Nat := memNat s (gPhys s oid off) n
def gPut (s : State) (oid off n x : Nat) : State := memPut s (gPhys s oid off) (leBytes n x)
def gPoison (s : State) (oid off : Nat) : Bool := Map.getD s.poison (gPhys s oid off / 64) false

/-- Header fields (R170). -/
def gCap (s : State) (oid : Nat) : Nat := gNat s oid 0 4
def gSeq (s : State) (oid : Nat) : Nat := gNat s oid 4 4
/-- H of R169. -/
def gHeap (s : State) (oid : Nat) : Nat := cdiv (256 + 32 * gCap s oid) 65536 * 65536
/-- NBLK of R169. -/
def gBlocks (s : State) (oid : Nat) : Nat := min (((entryOf s oid).size - gHeap s oid) / 64) 0x0FFFFFFF
def vtxOff (v : Nat) : Nat := 256 + 32 * v
def blkOff (s : State) (oid b : Nat) : Nat := gHeap s oid + 64 * (b - 1)

/-- The conditions of R169. -/
def graphOk (s : State) (oid : Nat) (e : ObjEnt) : Bool :=
  decide (e.size % 65536 = 0 ∧ 65536 ≤ e.size) && allResident s oid e 0 (e.size / 65536) &&
    decide (1 ≤ gCap s oid ∧ gCap s oid ≤ 0xFFFFFFFE) && decide (gHeap s oid + 65536 ≤ e.size)

/-! ### Trees of blocks (R173) -/

/-- A child entry of an index block: lowest neighbour, entries below it, block. -/
structure Child where
  low : Nat
  cnt : Nat
  blk : Nat
  deriving DecidableEq, Repr

/-- What a block holds. -/
inductive Content where
  | leaf (es : List (Nat × Nat))
  | idx (cs : List Child)
  deriving DecidableEq, Repr

def blkRead (s : State) (oid b : Nat) : Content :=
  let o := blkOff s oid b
  let h := gNat s oid o 4
  let n := h / 2 ^ 29
  if h.testBit 28 then
    .idx ((List.range n).map (fun i => { low := gNat s oid (o + 8 + 12 * i) 4, cnt := gNat s oid (o + 12 + 12 * i) 4,
                                         blk := gNat s oid (o + 16 + 12 * i) 4 }))
  else .leaf ((List.range n).map (fun i => (gNat s oid (o + 8 + 8 * i) 4, gNat s oid (o + 12 + 8 * i) 4)))

def Content.len : Content → Nat
  | .leaf es => es.length
  | .idx cs => cs.length
/-- Entries of a content. -/
def Content.cnt : Content → Nat
  | .leaf es => es.length
  | .idx cs => cs.foldl (fun a c => a + c.cnt) 0
def Content.low : Content → Nat
  | .leaf es => (es.headD (0, 0)).1
  | .idx cs => (cs.headD { low := 0, cnt := 0, blk := 0 }).low

def Content.bytes (c : Content) (version : Nat) : List Byte :=
  let body := match c with
    | .leaf es => es.flatMap (fun e => leBytes 4 e.1 ++ leBytes 4 e.2)
    | .idx cs => cs.flatMap (fun x => leBytes 4 x.low ++ leBytes 4 x.cnt ++ leBytes 4 x.blk)
  let k := match c with
    | .leaf _ => 0
    | .idx _ => 2 ^ 28
  padTo 64 (leBytes 4 (c.len * 2 ^ 29 + k) ++ leBytes 4 version ++ body)

/-- A mutation in the making: the state with its new blocks, the blocks it supersedes, and the free blocks it has read. -/
structure Build where
  s : State
  old : List Nat
  taken : List Nat
  deriving DecidableEq, Repr

/-- Takes a block: from FREEHEAD, otherwise HWM + 1 (R179). -/
def takeBlock (s : State) (oid : Nat) : Option (Nat × State) :=
  let head := gNat s oid 8 4
  let dec := fun (t : State) => gPut t oid 12 4 (gNat t oid 12 4 - 1)
  if head ≠ 0 then some (head, dec (gPut s oid 8 4 (gNat s oid (blkOff s oid head) 4 % 2 ^ 28)))
  else
    let h := gNat s oid 16 4 + 1
    if gBlocks s oid < h then none else some (h, dec (gPut s oid 16 4 h))

/-- Writes a content into a new block. -/
def blkWrite (b : Build) (oid version : Nat) (c : Content) : Option (Child × Build) :=
  match takeBlock b.s oid with
  | none => none
  | some (n, t) =>
    let die := gPhys t oid (blkOff t oid n) / 2 ^ 36
    some ({ low := c.low, cnt := c.cnt, blk := n },
      { b with taken := b.taken ++ (if gNat b.s oid 8 4 = n then [n] else []), s := bumpDie (memPut t (gPhys t oid (blkOff t oid n)) (c.bytes version)) die 0x112 1 })

/-- A content as one or two that fit a block: a leaf holds 7 entries, an index block 4 children. -/
def Content.fit (c : Content) : List Content :=
  match c with
  | .leaf es => if es.length ≤ 7 then [c] else
      let h := (es.length + 1) / 2
      [.leaf (es.take h), .leaf (es.drop h)]
  | .idx cs => if cs.length ≤ 4 then [c] else
      let h := (cs.length + 1) / 2
      [.idx (cs.take h), .idx (cs.drop h)]

/-- Fewer entries than a block other than the root may hold. -/
def Content.under : Content → Bool
  | .leaf es => decide (es.length < 3)
  | .idx cs => decide (cs.length < 2)

def writeAll (b : Build) (oid version : Nat) : List Content → Option (List Child × Build)
  | [] => some ([], b)
  | c :: cs =>
    match blkWrite b oid version c with
    | none => none
    | some (x, b) => (writeAll b oid version cs).map (fun r => (x :: r.1, r.2))

/-- The child that neighbour `n` belongs under: the last whose lowest neighbour does not exceed it, or the first. -/
def childFor (cs : List Child) (n : Nat) : Nat := ((cs.filter (fun c => decide (c.low ≤ n))).length - 1)

/-- A content in two, where it fills a block. -/
def Content.halve (c : Content) : List Content :=
  match c with
  | .leaf es => if es.length < 7 then [c] else [.leaf (es.take (es.length / 2)), .leaf (es.drop (es.length / 2))]
  | .idx cs => if cs.length < 4 then [c] else [.idx (cs.take (cs.length / 2)), .idx (cs.drop (cs.length / 2))]

/-- Writes what has become of a child at height `h` above its leaf: too large for a block, it is split. With `cut`, the two parts of a leaf
stand below one new index block, so that no block below height `cut` splits, and the full block at that height splits, and those above it
that this overfills: an insertion into a long run of full blocks takes fewer blocks so (log entry 19). -/
def writeChild (b : Build) (oid version : Nat) (cut : Option Nat) (h : Nat) (c : Content) : Option (List Child × Build) :=
  match cut with
  | none => writeAll b oid version c.fit
  | some k =>
    if h = 0 then
      match writeAll b oid version c.fit with
      | some ([x], b) => some ([x], b)
      | some (xs, b) => (blkWrite b oid version (.idx xs)).map (fun r => ([r.1], r.2))
      | none => none
    else writeAll b oid version (if h = k then c.halve else c.fit)

/-- The entries of the last or the first leaf below a block. -/
def edgeLeaf (s : State) (oid : Nat) (last : Bool) : Nat → Nat → List (Nat × Nat)
  | 0, _ => []
  | fuel + 1, blk =>
    match blkRead s oid blk with
    | .leaf es => es
    | .idx cs => edgeLeaf s oid last fuel (((if last then cs.getLast? else cs.head?).map (·.blk)).getD 0)

/-- The tree below a block with `f` applied to its last or its first leaf, whose entries `f` neither empties nor overfills. -/
def edgeWrite (oid version : Nat) (last : Bool) (f : List (Nat × Nat) → List (Nat × Nat)) : Nat → Build → Nat → Option (Child × Build)
  | 0, _, _ => none
  | fuel + 1, b, blk =>
    let b' : Build := { b with old := b.old ++ [blk] }
    match blkRead b.s oid blk with
    | .leaf es => blkWrite b' oid version (.leaf (f es))
    | .idx cs =>
      match edgeWrite oid version last f fuel b' (((if last then cs.getLast? else cs.head?).map (·.blk)).getD 0) with
      | none => none
      | some (x, b2) => blkWrite b2 oid version (.idx (if last then cs.dropLast ++ [x] else x :: cs.drop 1))

/-- What a child that holds too little and its sibling `p` become, `p` standing before it where `left`: blocks of one kind are joined; an
index block beside a leaf gives way to its own child; a leaf beside an index block gives its entries to the leaf next to it there or,
where that one can spare an entry, takes one. -/
def mend (b : Build) (oid version : Nat) (cut : Option Nat) (h : Nat) (left : Bool) (p : Child) (c : Content) :
    Option (List Child × Build) :=
  let with' : Build := { b with old := b.old ++ [p.blk] }
  match blkRead b.s oid p.blk, c with
  | .leaf a, .leaf es => writeChild with' oid version cut h (.leaf (if left then a ++ es else es ++ a))
  | .idx a, .idx cs => writeChild with' oid version cut h (.idx (if left then a ++ cs else cs ++ a))
  | .leaf _, .idx cs => some (if left then p :: cs else cs ++ [p], b)
  | .idx _, .leaf es =>
    let near := edgeLeaf b.s oid left 40 p.blk
    if near.length ≤ 3 then
      (edgeWrite oid version left (fun r => if left then r ++ es else es ++ r) 40 b p.blk).map (fun x => ([x.1], x.2))
    else
      match edgeWrite oid version left (fun r => if left then r.dropLast else r.drop 1) 40 b p.blk with
      | none => none
      | some (x, b) =>
        (blkWrite b oid version (.leaf (if left then near.drop (near.length - 1) ++ es else es ++ near.take 1))).map
          (fun y => (if left then [x, y.1] else [y.1, x], y.2))

/-- A list's tree with `f` applied to the entries of the leaf that neighbour `n` belongs to: the new content of the
block, not yet written, its height above that leaf, and the build. -/
def treeEdit (oid version n : Nat) (cut : Option Nat) (f : List (Nat × Nat) → List (Nat × Nat)) :
    Nat → Build → Nat → Option ((Content × Nat) × Build)
  | 0, _, _ => none
  | fuel + 1, b, blk =>
    let b' : Build := { b with old := b.old ++ [blk] }
    match blkRead b.s oid blk with
    | .leaf es => some ((.leaf (f es), 0), b')
    | .idx cs =>
      let i := childFor cs n
      match treeEdit oid version n cut f fuel b' ((cs[i]?.map (·.blk)).getD 0) with
      | none => none
      | some ((c, h), b2) =>
        let before := cs.take i
        let after := cs.drop (i + 1)
        let done := fun (before after : List Child) (r : Option (List Child × Build)) =>
          r.map (fun x => (((Content.idx (before ++ x.1 ++ after), h + 1), x.2) : (Content × Nat) × Build))
        match c.under, before.getLast?, after.head? with
        | true, some p, _ => done before.dropLast after (mend b2 oid version cut h true p c)
        | true, none, some q => done before (after.drop 1) (mend b2 oid version cut h false q c)
        | _, _, _ => done before after (writeChild b2 oid version cut h c)

/-- The blocks on the way down to neighbour `n`, from the root, and how many of them from the leaf up are full. -/
def treeDepth (s : State) (oid n : Nat) : Nat → Nat → Nat × Nat
  | 0, _ => (0, 0)
  | fuel + 1, blk =>
    match blkRead s oid blk with
    | .leaf es => (1, if es.length < 7 then 0 else 1)
    | .idx cs =>
      let r := treeDepth s oid n fuel ((cs[childFor cs n]?.map (·.blk)).getD 0)
      (r.1 + 1, if r.1 = r.2 ∧ 4 ≤ cs.length then r.2 + 1 else r.2)

/-- An edit that would take more than 36 blocks of a list splits the upper full blocks of its run alone (R176). -/
def cutOf (s : State) (oid root n : Nat) : Option Nat :=
  let r := treeDepth s oid n 40 root
  if r.1 + r.2 + 1 ≤ 36 then none else some (r.2 - (33 - r.1))

/-- Writes a list's new root. Answers the root block, 0 for an empty list. -/
def writeRoot (b : Build) (oid version : Nat) (c : Content) : Option (Nat × Build) :=
  match c with
  | .leaf [] => some (0, b)
  | .idx [x] => some (x.blk, b)
  | _ =>
    match c.fit with
    | [x] => (blkWrite b oid version x).map (fun r => (r.1.blk, r.2))
    | xs =>
      match writeAll b oid version xs with
      | none => none
      | some (ch, b) => (blkWrite b oid version (.idx ch)).map (fun r => (r.1.blk, r.2))

/-- The list of vertex `v`: offsets of its root, degree and version (R172). -/
def rootOff (v : Nat) (inn : Bool) : Nat := vtxOff v + (if inn then 8 else 4)
def degOff (v : Nat) (inn : Bool) : Nat := vtxOff v + (if inn then 16 else 12)
def verOff (v : Nat) (inn : Bool) : Nat := vtxOff v + (if inn then 24 else 20)
def rootOf (s : State) (oid v : Nat) (inn : Bool) : Nat := gNat s oid (rootOff v inn) 4 % 2 ^ 28
def degOf (s : State) (oid v : Nat) (inn : Bool) : Nat := gNat s oid (degOff v inn) 4
def verOf (s : State) (oid v : Nat) (inn : Bool) : Nat := gNat s oid (verOff v inn) 4

/-- Applies `f` to one list of a mutation of number `seq`: new blocks, then the vertex record (R179). -/
def listEdit (b : Build) (oid seq v : Nat) (inn : Bool) (n : Nat) (f : List (Nat × Nat) → List (Nat × Nat)) : Option Build :=
  let root := rootOf b.s oid v inn
  let cut := if (f []).isEmpty then none else cutOf b.s oid root n
  match (if root = 0 then some ((Content.leaf (f []), 0), b) else treeEdit oid seq n cut f 40 b root) with
  | none => none
  | some ((c, _), b) =>
    match writeRoot b oid seq c with
    | none => none
    | some (r, b) =>
      let s := gPut b.s oid (rootOff v inn) 4 r
      let s := gPut s oid (degOff v inn) 4 c.cnt
      some { b with s := gPut s oid (verOff v inn) 4 seq }

def insEntry (n p : Nat) (es : List (Nat × Nat)) : List (Nat × Nat) :=
  (es.filter (fun e => decide (e.1 < n))) ++ (n, p) :: (es.filter (fun e => decide (n < e.1)))
def delEntry (n : Nat) (es : List (Nat × Nat)) : List (Nat × Nat) := es.filter (fun e => e.1 != n)
def setEntry (n p : Nat) (es : List (Nat × Nat)) : List (Nat × Nat) := es.map (fun e => if e.1 = n then (n, p) else e)

/-- Finds neighbour `n` below a block: the entries below `n`, and the payload where it is present (R181). -/
def treeFind (s : State) (oid n : Nat) : Nat → Nat → Nat × Option Nat
  | 0, _ => (0, none)
  | fuel + 1, blk =>
    match blkRead s oid blk with
    | .leaf es => ((es.filter (fun e => decide (e.1 < n))).length, ((es.find? (fun e => e.1 == n)).map (·.2)))
    | .idx cs =>
      let i := childFor cs n
      let r := treeFind s oid n fuel ((cs[i]?.map (·.blk)).getD 0)
      ((cs.take i).foldl (fun a c => a + c.cnt) 0 + r.1, r.2)

/-- The child that holds rank `k`, with the rank below it. -/
def childAt : List Child → Nat → Nat × Nat
  | [], _ => (0, 0)
  | c :: cs, k => if k < c.cnt then (c.blk, k) else childAt cs (k - c.cnt)

/-- The entry of rank `k` below a block. -/
def treeNth (s : State) (oid : Nat) : Nat → Nat → Nat → Option (Nat × Nat)
  | 0, _, _ => none
  | fuel + 1, blk, k =>
    match blkRead s oid blk with
    | .leaf es => es[k]?
    | .idx cs =>
      let (b, j) := childAt cs k
      treeNth s oid fuel b j

/-- The blocks on the way down, for the poison check: by neighbour, or by rank. -/
def treePath (s : State) (oid : Nat) (byRank : Bool) : Nat → Nat → Nat → List Nat
  | 0, _, _ => []
  | fuel + 1, blk, x =>
    blk :: (match blkRead s oid blk with
      | .leaf _ => []
      | .idx cs =>
        if byRank then
          let (b, j) := childAt cs x
          if b = 0 then [] else treePath s oid byRank fuel b j
        else treePath s oid byRank fuel ((cs[childFor cs x]?.map (·.blk)).getD 0) x)

/-- Any block on the way down is poisoned. -/
def pathPoison (s : State) (oid root : Nat) (byRank : Bool) (x : Nat) : Bool :=
  root != 0 && (treePath s oid byRank 40 root x).any (fun b => gPoison s oid (blkOff s oid b))

/-! ### Mutations (R176 to R180) -/

/-- The sequence number after `n` (R177). -/
def nextSeq (n : Nat) : Nat := (n + 1) % 0xFFFFFFFF
/-- The sequence number before `n`. -/
def prevSeq (n : Nat) : Nat := (n + 0xFFFFFFFE) % 0xFFFFFFFF

/-- Every block of the deferred list with its tag, oldest first. -/
def defList (s : State) (oid : Nat) : Nat → Nat → List (Nat × Nat)
  | 0, _ => []
  | n + 1, b =>
    if b = 0 then []
    else
      let o := blkOff s oid b
      (b, gNat s oid (o + 4) 4) :: defList s oid n (gNat s oid o 4 % 2 ^ 28)

def deferred (s : State) (oid : Nat) : List (Nat × Nat) := defList s oid (gNat s oid 28 4) (gNat s oid 20 4)

/-- Sets NEXT of a block. -/
def setNext (s : State) (oid b next : Nat) : State :=
  let o := blkOff s oid b
  gPut s oid o 4 (gNat s oid o 4 / 2 ^ 28 * 2 ^ 28 + next)

/-- Appends a superseded block with its tag at DEFTAIL (R179). -/
def deferBlock (s : State) (oid tag b : Nat) : State :=
  let tail := gNat s oid 24 4
  let s := gPut (setNext s oid b 0) oid (blkOff s oid b + 4) 4 tag
  let s := if tail = 0 then gPut s oid 20 4 b else setNext s oid tail b
  gPut (gPut s oid 24 4 b) oid 28 4 (gNat s oid 28 4 + 1)

/-- R180: sequence number `n` may not be assigned yet. -/
def seqBlocked (s : State) (oid n : Nat) : Bool :=
  let far := fun m => decide (2 ^ 31 ≤ (n + 0xFFFFFFFF - m % 0xFFFFFFFF) % 0xFFFFFFFF)
  (pinsOf s oid).any (fun m => m != 0xFFFFFFFF && far m) || (deferred s oid).any (fun b => far b.2)

/-- Both lists of an edge edited. `none` where the heap cannot supply the blocks. -/
def edgeBuild (s : State) (oid seq u v : Nat) (f : Nat → List (Nat × Nat) → List (Nat × Nat)) : Option Build :=
  (listEdit { s := s, old := [], taken := [] } oid seq u false v (f v)).bind (fun b => listEdit b oid seq v true u (f u))

/-- One step of R176: both lists change together. -/
def commitEdge (s : State) (oid seq u v : Nat) (f : Nat → List (Nat × Nat) → List (Nat × Nat)) : Option State :=
  (edgeBuild s oid seq u v f).map (fun b =>
    let s := b.old.foldl (fun t x => deferBlock t oid (prevSeq seq) x) b.s
    bumpDie (gPut s oid 4 4 seq) (gPhys s oid (vtxOff u) / 2 ^ 36) 0x111 1)

/-- What a mutation does to a list, by its neighbour, where it commits: the edge is there for GDELE and GSETE and is not for GADDE
(R176). -/
def edgeEdit (s : State) (kind : GraphKind) (oid : Nat) (x : GraphLane) : Option (Nat → List (Nat × Nat) → List (Nat × Nat)) :=
  let root := rootOf s oid x.u false
  let there := root != 0 && (treeFind s oid x.v 40 root).2.isSome
  match kind with
  | .gadde => if there then none else some (fun n => insEntry n x.p)
  | .gdele => if there then some delEntry else none
  | _ => if there then some (fun n => setEntry n x.p) else none

/-- A lane's mutation: its status (R176) and the state. -/
def mutate (s : State) (kind : GraphKind) (oid : Nat) (x : GraphLane) : Nat × State :=
  match edgeEdit s kind oid x with
  | none => (if kind = .gadde then 1 else 2, s)
  | some f => match commitEdge s oid (nextSeq (gSeq s oid)) x.u x.v f with
    | some t => (0, t)
    | none => (3, s)

/-- A block that a lane's mutation reads beside those on the ways down is poisoned: a sibling it merges with, a free block it takes,
the newest deferred block. -/
def mutPoison (s : State) (kind : GraphKind) (oid : Nat) (x : GraphLane) : Bool :=
  match (edgeEdit s kind oid x).bind (edgeBuild s oid (nextSeq (gSeq s oid)) x.u x.v) with
  | none => false
  | some b =>
    let tail := gNat s oid 24 4
    (b.old ++ b.taken ++ (if tail = 0 then [] else [tail])).any (fun n => gPoison s oid (blkOff s oid n))

/-- The header or a vertex record is poisoned. -/
def gRecPoison (s : State) (oid v : Nat) : Bool := gPoison s oid 0 || gPoison s oid (vtxOff v)

/-- A sector that the controller reads for a lane's mutation is poisoned. -/
def edgePoison (s : State) (kind : GraphKind) (oid : Nat) (x : GraphLane) : Bool :=
  gRecPoison s oid x.u || gRecPoison s oid x.v || pathPoison s oid (rootOf s oid x.u false) false x.v ||
    pathPoison s oid (rootOf s oid x.v true) false x.u || mutPoison s kind oid x

/-- The blocks that one mutation has superseded whose parents it has not: the roots of the list out of its first vertex and of the list
into its second, in this order, where these had entries. -/
def groupRoots (s : State) (oid : Nat) (bs : List Nat) : List Nat :=
  bs.filter (fun b => !bs.any (fun x => match blkRead s oid x with
    | .leaf _ => false
    | .idx cs => cs.any (fun c => c.blk == b)))

/-- The root of a list as it stood at a snapshot, for a cursor whose WALK is zero (R188): the list's own root while its version is
still the snapshot's, else the oldest deferred root since the snapshot that stood for a list of the same direction and holds as many
entries (DESIGN CHOICE, log entry 18). -/
def snapRoot (s : State) (oid v : Nat) (inn : Bool) (snap ver deg : Nat) : Nat :=
  if verOf s oid v inn = ver then rootOf s oid v inn
  else
    let ds := (deferred s oid).filter (fun b => seqLe snap b.2)
    ((nubN (ds.map (·.2))).findSome? (fun t =>
      let rs := groupRoots s oid ((ds.filter (fun b => b.2 == t)).map (·.1))
      (if inn then rs.getLast? else rs.head?).filter (fun b => (blkRead s oid b).cnt == deg))).getD (rootOf s oid v inn)

/-! ### Checks (R175, R363) -/

/-- GCheck of R175 up to the vertices: `write`, and the vertices in order. -/
def gCheck (s : State) (a : Nat) (write sup : Bool) (vs : List Nat) : Option TrapCode :=
  let id := oidOf a
  let e := entryOf s id
  if id ≤ 1 ∨ aliasId ≤ id ∨ !e.ok then some .objectInvalid
  else if e.kind ≠ 2 ∨ e.home ≠ 0 then some .objectInvalid
  else if !graphOk s id e then some .objectInvalid
  else if e.perm.testBit 3 ∧ !sup then some .protect
  else if !e.perm.testBit 0 then some .protect
  else if write ∧ !e.perm.testBit 1 then some .protect
  else if offOf a ≠ 0 then some .bounds
  else if vs.any (fun u => decide (gCap s id ≤ u)) then some .graphBounds
  else none

/-- A lane's cursor register. -/
def cursorAt (g : Gang) (n l : Nat) : Cursor :=
  Map.getD g.cur (32 * n + l) { oid := 0, st := 0, dir := 0, slot := 0, vtx := 0, snap := 0, ver := 0, rank := 0, deg := 0, root := 0 }

/-- HEAD of R188. -/
def Cursor.head (c : Cursor) : Nat := c.oid + c.st * 2 ^ 24 + c.dir * 2 ^ 26 + c.slot * 2 ^ 27

/-- A restored cursor that is not sound (R188). -/
def cursorBad (g : Gang) (c : Cursor) : Bool :=
  c.st == 3 || (c.st != 0 && !(Map.find? g.pins c.slot).any (fun p => p.oid == c.oid))

def putCursor (g : Gang) (n l : Nat) (c : Cursor) : Gang :=
  { g with cur := if c.st = 0 then Map.del g.cur (32 * n + l) else Map.put g.cur (32 * n + l) c }

/-- The graph address of the instruction. -/
def gAddr (c : Ctx) (f : GR) : Nat := rsw c.g f.a.toNat 2
/-- The vertex of a lane, or the edge {u, v} (R362). -/
def gVtx (c : Ctx) (f : GR) (l : Nat) : Nat := src c.g f.sb f.b 1 l
def gEdge (c : Ctx) (f : GR) (l : Nat) : Nat × Nat :=
  let x := src c.g f.sb f.b 2 l
  (x % 2 ^ 32, x / 2 ^ 32)

/-- A lane's failed check with the words of its record (R363). -/
structure GFault where
  f : LaneFault
  extra : List Word
  deriving DecidableEq, Repr

/-- Delivers a graph instruction's faults: EXTRA is that of the lowest lane that holds the record's code. -/
def gSettle (s : State) (c : Ctx) (fs : List GFault) : State :=
  let code := (chooseHandler (fs.map (·.f))).2
  settle s c (fs.map (·.f)) 0 ((((fs.filter (fun x => x.f.code == code)).head?).map (·.extra)).getD [])

def gfault (l : Nat) (code : TrapCode) (a : Nat) (extra : List Nat) : GFault :=
  { f := { lane := l, code := code, addr := addrOf (oidOf a) 0 }, extra := extra.map (BitVec.ofNat 32) }

/-- An operation on a graph object that precedes in the path's program order is not yet performed (R190). -/
def graphPending (c : Ctx) (oid : Nat) : Bool :=
  c.g.ops.any (fun o => c.p.prog.ops.contains o.id && (match o.body with
    | .graph r => r.oids.contains oid
    | _ => false))

/-- An operation of these lanes on a cursor register is not yet complete (R187). -/
def cursorPending (c : Ctx) (n : Nat) : Bool := c.g.ops.any (fun o => o.cur == some n && (o.mask &&& c.act) != 0)

/-- The release at DEVICE scope that a mutation of the path is, or at the wider scope of a FENCE before it (R191, R244). -/
def mutHead (s : State) (c : Ctx) : Head := headOf s c (max 4 (c.p.prog.rel.getD 4))

/-- Issues a graph request for the lanes that passed. -/
def gIssue (s : State) (c : Ctx) (f : GR) (kind : GraphKind) (oids dv : List Nat) (cur : Option Nat) (todo : List GraphLane) : State :=
  if todo.isEmpty then s
  else addOpCur s c (todo.foldl (fun m x => m ||| laneBit x.lane) 0)
    (.graph { kind := kind, oids := oids, dir := if f.dir then 1 else 0, strict := f.strict, cur := f.cur.toNat, d := f.d.toNat,
              px := f.px.toNat, head := mutHead s c, todo := todo }) dv [] (pxList f.px) false cur

/-- The edge and payload of a lane of a mutation. -/
def mutLane (c : Ctx) (f : GR) (l : Nat) : GraphLane := { lane := l, u := (gEdge c f l).1, v := (gEdge c f l).2, p := rv c.g f.c.toNat l }

/-- The check of one lane of a mutation (R175, R363). -/
def mutCheck (s : State) (c : Ctx) (f : GR) (kind : GraphKind) (l : Nat) : Option GFault :=
  let a := gAddr c f
  let id := oidOf a
  let (u, v) := gEdge c f l
  match gCheck s a true (c.p.kind == .sup) [u, v] with
  | some .graphBounds =>
    some (gfault l .graphBounds a (if gCap s id ≤ u then [u, v, 0, 0] else [v, u, 0, 1]))
  | some k => some (gfault l k a [])
  | none => if edgePoison s kind id (mutLane c f l) then some (gfault l .poison a []) else none

/-- The checks of the lanes in order, each made on the graph as the lanes before it leave it. -/
def mutChecks (c : Ctx) (f : GR) (kind : GraphKind) : List Nat → State → List (Nat × Option GFault)
  | [], _ => []
  | l :: ls, s =>
    let r := mutCheck s c f kind l
    (l, r) :: mutChecks c f kind ls (if r.isNone then (mutate s kind (oidOf (gAddr c f)) (mutLane c f l)).2 else s)

/-- GADDE, GDELE, GSETE: checks at issue; every lane's step is an event (R364). -/
def mutation (f : GR) (kind : GraphKind) (c : Ctx) (s : State) : State :=
  let rs := mutChecks c f kind (lanes c.act) s
  gSettle (gIssue s c f kind [oidOf (gAddr c f)] [f.d.toNat] none ((rs.filter (fun r => r.2.isNone)).map (fun r => mutLane c f r.1))) c
    (rs.filterMap (·.2))

/-- GADDE (R364). -/
def execGadde (f : GR) (s : State) : Host.Outcome State Fault Refusal := issue (shapeOf (.gadde f)) s (mutation f .gadde)
/-- GDELE (R364). -/
def execGdele (f : GR) (s : State) : Host.Outcome State Fault Refusal := issue (shapeOf (.gdele f)) s (mutation f .gdele)
/-- GSETE (R364). -/
def execGsete (f : GR) (s : State) : Host.Outcome State Fault Refusal := issue (shapeOf (.gsete f)) s (mutation f .gsete)

/-- The check of one lane of a read by vertex; `byRank` and `x` name the entry the controller goes to. -/
def readCheck (s : State) (c : Ctx) (a v : Nat) (inn : Bool) (entry : Option (Bool × Nat)) (l : Nat) : Option GFault :=
  let id := oidOf a
  match gCheck s a false (c.p.kind == .sup) [v] with
  | some .graphBounds => some (gfault l .graphBounds a [v])
  | some k => some (gfault l k a [])
  | none =>
    if gRecPoison s id v || entry.any (fun e => pathPoison s id (rootOf s id v inn) e.1 e.2) then some (gfault l .poison a [])
    else none

/-- What GLDE returns: the entry of a rank, or the sentinel (R181). -/
def gldeAt (s : State) (oid v : Nat) (inn : Bool) (k : Nat) : Nat × Nat × Bool :=
  if degOf s oid v inn ≤ k then (0xFFFFFFFF, 0, true)
  else match treeNth s oid 40 (rootOf s oid v inn) k with
    | some e => (e.1, e.2, false)
    | none => (0xFFFFFFFF, 0, true)

/-- A read by vertex: checks at issue, the read itself is an event (R365). -/
def graphRead (f : GR) (kind : GraphKind) (dv : List Nat) (entry : Nat → Option (Bool × Nat)) (c : Ctx) (s : State) : State :=
  let a := gAddr c f
  let chk := fun l => readCheck s c a (gVtx c f l) f.dir (entry (rv c.g f.c.toNat l)) l
  let todo := ((lanes c.act).filter (fun l => (chk l).isNone)).map (fun l =>
    ({ lane := l, u := gVtx c f l, v := rv c.g f.c.toNat l, p := 0 } : GraphLane))
  gSettle (gIssue s c f kind [oidOf a] dv none todo) c ((lanes c.act).filterMap chk)

/-- The bytes by which a list's releases are kept in `rels`: its version (R191). -/
def listKeys (s : State) (oid v : Nat) (inn : Bool) : List Nat := relKeys (.dev (gPhys s oid (verOff v inn))) none 4

/-- GLDE under .strict: performed at issue, since its check is made at the instant of the read (R363). -/
def strictGlde (f : GR) (c : Ctx) (s : State) : State :=
  let a := gAddr c f
  let id := oidOf a
  if graphPending c id then waitFor s c .flush
  else
    let chk := fun l =>
      let v := gVtx c f l
      let k := rv c.g f.c.toNat l
      match gCheck s a false (c.p.kind == .sup) [v] with
      | some .graphBounds => some (gfault l .graphBounds a [v, k])
      | some e => some (gfault l e a [])
      | none =>
        if degOf s id v f.dir ≤ k then some (gfault l .graphBounds a [v, k, degOf s id v f.dir])
        else if gRecPoison s id v || pathPoison s id (rootOf s id v f.dir) true k then some (gfault l .poison a [])
        else none
    let good := (lanes c.act).filter (fun l => (chk l).isNone)
    let ws := good.flatMap (fun l =>
      let r := gldeAt s id (gVtx c f l) f.dir (rv c.g f.c.toNat l)
      vWrites f.d.toNat l 2 (r.1 + 2 ^ 32 * r.2.1) ++ (if f.px.toNat < 12 then [.p f.px.toNat l r.2.2] else []))
    let s := good.foldl (fun t l => relRead t c none (listKeys s id (gVtx c f l) f.dir)) s
    let s := if good.isEmpty then s
      else addOp s c (good.foldl (fun m l => m ||| laneBit l) 0) (.writes ws) [f.d.toNat, f.d.toNat + 1] [] (pxList f.px) false
    gSettle s c ((lanes c.act).filterMap chk)

/-- GLDE (R365). -/
def execGlde (f : GR) (s : State) : Host.Outcome State Fault Refusal :=
  issue (shapeOf (.glde f)) s (if f.strict then strictGlde f
    else graphRead f .glde [f.d.toNat, f.d.toNat + 1] (fun k => some (true, k)))
/-- GFIND (R365). -/
def execGfind (f : GR) (s : State) : Host.Outcome State Fault Refusal :=
  issue (shapeOf (.gfind f)) s (graphRead f .gfind [f.d.toNat] (fun w => some (false, w)))
/-- GDEG (R365). -/
def execGdeg (f : GR) (s : State) : Host.Outcome State Fault Refusal :=
  issue (shapeOf (.gdeg f)) s (graphRead f .gdeg [f.d.toNat] (fun _ => none))
/-- GVER (R365). -/
def execGver (f : GR) (s : State) : Host.Outcome State Fault Refusal :=
  issue (shapeOf (.gver f)) s (graphRead f .gver [f.d.toNat] (fun _ => none))

/-- The bytes of a vertex payload as keys of `rels`. -/
def payKeys (s : State) (oid v : Nat) : List Nat := relKeys (.dev (gPhys s oid (vtxOff v))) none 4

/-- GLDV (R366): performed at issue, written at completion. -/
def execGldv (f : GR) (s : State) : Host.Outcome State Fault Refusal :=
  issue (shapeOf (.gldv f)) s (fun c s =>
    let a := gAddr c f
    let id := oidOf a
    if graphPending c id then waitFor s c .flush
    else
      let chk := fun l => readCheck s c a (gVtx c f l) false none l
      let good := (lanes c.act).filter (fun l => (chk l).isNone)
      let ws := good.flatMap (fun l => vWrites f.d.toNat l 1 (gNat s id (vtxOff (gVtx c f l)) 4))
      let acq := if f.ord.getLsbD 0 then some f.scope.toNat else none
      let s := good.foldl (fun t l => relRead t c acq (payKeys t id (gVtx c f l))) s
      let s := if good.isEmpty then s
        else addOp s c (good.foldl (fun m l => m ||| laneBit l) 0) (.writes ws) [f.d.toNat] [] [] false
      gSettle s c ((lanes c.act).filterMap chk))

/-- GSTV (R366): which of several lanes' payloads stands on one vertex is a free choice. -/
def execGstv (f : GR) (s : State) : Host.Outcome State Fault Refusal :=
  issue (shapeOf (.gstv f)) s (fun c s =>
    let a := gAddr c f
    let id := oidOf a
    let rel := f.ord.getLsbD 1
    if graphPending c id then waitFor s c .flush
    else match (if rel then releaseWait s c else none) with
    | some t => t
    | none =>
      let chk := fun l =>
        match gCheck s a true (c.p.kind == .sup) [gVtx c f l] with
        | some .graphBounds => some (gfault l .graphBounds a [gVtx c f l])
        | some k => some (gfault l k a [])
        | none => if gRecPoison s id (gVtx c f l) then some (gfault l .poison a []) else none
      let good := (lanes c.act).filter (fun l => (chk l).isNone)
      let wins := good.filter (fun l =>
        let same := good.filter (fun k => gVtx c f k == gVtx c f l)
        match same with
        | [_] => true
        | _ => same[Config.pick s.free (gVtx c f l) % same.length]? == some l)
      let h := (match (if rel then some f.scope.toNat else none), c.p.prog.rel with
        | some x, some y => some (max x y)
        | some x, none => some x
        | none, r => r).map (headOf s c)
      let s := wins.foldl (fun t l =>
        relWrite (gPut t id (vtxOff (gVtx c f l)) 4 (rv c.g f.c.toNat l)) (payKeys t id (gVtx c f l)) h false) (useFree s)
      let s := if good.isEmpty then s
        else addOp s c (good.foldl (fun m l => m ||| laneBit l) 0) (.writes []) [] [] [] false
      gSettle s c ((lanes c.act).filterMap chk))

/-! ### Cursors (R183 to R188, R367, R368) -/

/-- CURSOR_STATE with its record (R363). -/
def cursorFault (g : Gang) (n l : Nat) : GFault :=
  let c := cursorAt g n l
  { f := { lane := l, code := .cursorState, addr := addrOf c.oid 0 },
    extra := [BitVec.ofNat 32 n, BitVec.ofNat 32 c.head] }

/-- The pin slot GOPEN takes: the lowest valid for the identifier, else the lowest empty (R183). -/
def openSlot (g : Gang) (oid : Nat) : Option (Nat × Bool) :=
  match (List.range 8).find? (fun n => (Map.find? g.pins n).any (fun p => p.oid == oid)) with
  | some n => some (n, true)
  | none => ((List.range 8).find? (fun n => (Map.find? g.pins n).isNone)).map (fun n => (n, false))

/-- GOPEN (R183, R367): performed at issue, its predicate written at completion. -/
def execGopen (f : GR) (s : State) : Host.Outcome State Fault Refusal :=
  issue (shapeOf (.gopen f)) s (fun c s =>
    let a := gAddr c f
    let id := oidOf a
    let n := f.cur.toNat
    if graphPending c id || cursorPending c n then waitFor s c .flush
    else
      let chk := fun l =>
        if (cursorAt c.g n l).st ≠ 0 then some { cursorFault c.g n l with f := { lane := l, code := .cursorState, addr := addrOf id 0 } }
        else readCheck s c a (gVtx c f l) f.dir none l
      let good := (lanes c.act).filter (fun l => (chk l).isNone)
      let m := good.foldl (fun m l => m ||| laneBit l) (0 : Mask)
      let fs := (lanes c.act).filterMap chk
      if good.isEmpty then gSettle s c fs
      else
        let done := fun (t : State) (ok : Bool) =>
          gSettle (addOpCur t c m (.writes (good.map (fun l => .p f.px.toNat l ok))) [] [] (pxList f.px) false (some n)) c fs
        match openSlot c.g id with
        | none => done s false
        | some (slot, _) =>
          if rpend s id then done (bumpCore s c.core (quadOf s c.gk) 0x043 1) false
          else
            let g := gSeq s id
            let s := good.foldl (fun t l => relRead t c (some 4) (listKeys s id (gVtx c f l) f.dir)) s
            done (onGang s c.gk (fun gg =>
              let gg := { gg with pins := Map.put gg.pins slot { oid := id, min := g } }
              reMin (good.foldl (fun h l =>
                let v := gVtx c f l
                putCursor h n l { oid := id, st := 1, dir := if f.dir then 1 else 0, slot := slot, vtx := v, snap := g,
                                  ver := verOf s id v f.dir, rank := 0, deg := degOf s id v f.dir,
                                  root := rootOf s id v f.dir }) gg))) true)

/-- The checks of GNEXT and GSKIP: the cursor, then GCheck with its graph and vertex (R363). -/
def stepCheck (s : State) (c : Ctx) (n : Nat) (next : Bool) (l : Nat) : Option GFault :=
  let x := cursorAt c.g n l
  if x.st = 0 ∨ cursorBad c.g x then some (cursorFault c.g n l)
  else
    let a := addrOf x.oid 0
    match gCheck s a false (c.p.kind == .sup) [x.vtx] with
    | some .graphBounds => some (gfault l .graphBounds a [x.vtx])
    | some k => some (gfault l k a [])
    | none =>
      if gPoison s x.oid 0 || (next && decide (x.rank < x.deg) && pathPoison s x.oid x.root true x.rank) then some (gfault l .poison a [])
      else none

/-- GNEXT and GSKIP: checks at issue, performed by an event. -/
def cursorStep (f : GR) (kind : GraphKind) (dv : List Nat) (c : Ctx) (s : State) : State :=
  let n := f.cur.toNat
  if cursorPending c n then waitFor s c .flush
  else
    let chk := stepCheck s c n (kind == .gnext)
    let todo := ((lanes c.act).filter (fun l => (chk l).isNone)).map (fun l =>
      ({ lane := l, u := 0, v := 0, p := gVtx c f l } : GraphLane))
    let oids := nubN (todo.map (fun x => (cursorAt c.g n x.lane).oid))
    gSettle (gIssue s c f kind oids dv (some n) todo) c ((lanes c.act).filterMap chk)

/-- GNEXT (R368). -/
def execGnext (f : GR) (s : State) : Host.Outcome State Fault Refusal :=
  issue (shapeOf (.gnext f)) s (cursorStep f .gnext [f.d.toNat, f.d.toNat + 1])
/-- GSKIP (R368). -/
def execGskip (f : GR) (s : State) : Host.Outcome State Fault Refusal :=
  issue (shapeOf (.gskip f)) s (cursorStep f .gskip [])

/-- GPOS (R368). -/
def execGpos (f : GR) (s : State) : Host.Outcome State Fault Refusal :=
  issue (shapeOf (.gpos f)) s (fun c s =>
    let n := f.cur.toNat
    if cursorPending c n then waitFor s c .flush
    else
      let bad := (lanes c.act).filter (fun l => (cursorAt c.g n l).st == 0 || cursorBad c.g (cursorAt c.g n l))
      let good := (lanes c.act).filter (fun l => !bad.contains l)
      let s := onGang s c.gk (fun g => good.foldl (fun h l =>
        let x := cursorAt c.g n l
        let d := f.d.toNat
        let h := wv (wv (wv h d l x.rank) (d + 1) l x.deg) (d + 2) l x.ver
        if f.px.toNat < 12 then wp h f.px.toNat l (x.st == 2) else h) g)
      gSettle s c (bad.map (cursorFault c.g n)))

/-- GCLOSE (R368): an unsound restored cursor traps, a closed one is left as it is. -/
def execGclose (f : GR) (s : State) : Host.Outcome State Fault Refusal :=
  issue (shapeOf (.gclose f)) s (fun c s =>
    let n := f.cur.toNat
    if cursorPending c n then waitFor s c .flush
    else
      let bad := (lanes c.act).filter (fun l => (cursorAt c.g n l).st != 0 && cursorBad c.g (cursorAt c.g n l))
      let good := (lanes c.act).filter (fun l => !bad.contains l)
      let s := onGang s c.gk (fun g => reMin { g with cur := good.foldl (fun m l => Map.del m (32 * n + l)) g.cur })
      gSettle s c (bad.map (cursorFault c.g n)))

/-! ### Events -/

/-- An operation that precedes in program order must be performed first (R190, R238): one on the same object, and for a mutation, a
release, every one (R191). Cursor instructions on one register wait for each other before they issue (R187). -/
def graphBefore (g : Gang) (o : LaneOp) (r : GraphReq) (mutates : Bool) : Bool :=
  g.ops.any (fun x => o.after.contains x.id && (match x.body with
    | .graph q => mutates || q.oids.any (r.oids.contains ·)
    | .peer _ _ => mutates
    | .writes _ => false))

def opOf (s : State) (gk op : Nat) : Option LaneOp := (gangAt s gk).ops.find? (fun o => o.id == op)
def dropOp (g : Gang) (op : Nat) : Gang := { g with ops := g.ops.filter (fun o => o.id != op) }

/-- The object of a request by vertex. -/
def GraphReq.oid (r : GraphReq) : Nat := r.oids.headD 0

/-- One lane of a request has been performed, with `f` its register writes; after the last the instruction is complete, and
arrivals that waited for it are tested again (R137). -/
def laneDone (s : State) (gk op : Nat) (r : GraphReq) (rest : List GraphLane) (f : Gang → Gang) : State :=
  if rest.isEmpty then retest (onGang s gk (fun g => dropOp (f g) op)) gk
  else onGang s gk (fun g =>
    let g := f g
    { g with ops := g.ops.map (fun y => if y.id = op then { y with body := .graph { r with todo := rest } } else y) })

/-- Every program order that holds an operation remembers the heads its read has met (R244), with the path's placement now. -/
def noteSeen (s : State) (gk op : Nat) (hs : List Head) : State :=
  if hs.isEmpty then s
  else
    let up := fun (q : Prog) => if q.ops.contains op then
        { q with seen := addTo q.seen (hs.map (fun h =>
          { head := h, cluster := clusterOf s (gk / 64), own := h.path == q.uid || q.kin.contains h.path })) }
      else q
    let park := fun (d : Option Parked) => d.map (fun d => { d with prog := up d.prog })
    { s with paths := s.paths.map (fun e => (e.1, if e.2.gang = gk then
        { e.2 with prog := up e.2.prog, parked := park e.2.parked,
                   defer := e.2.defer.map (fun d => { d with prog := up d.prog, parked := park d.parked }) } else e.2)) }

def GraphKind.isMut : GraphKind → Bool
  | .gadde => true
  | .gdele => true
  | .gsete => true
  | _ => false

/-- A mutation must wait: only one that will commit is a release (R191). -/
def mutBefore (s : State) (g : Gang) (o : LaneOp) (r : GraphReq) : Bool :=
  graphBefore g o r (r.todo.head?.any (fun x => (mutate s r.kind r.oid x).1 == 0))

/-- GRAPH_MUTATION_COMMIT (R176, R178, R364): the next lane of a mutation. A lane for which the controller now would read a poisoned
sector, where the check at its issue met none, has no effect (R175; DESIGN CHOICE, log entry 18). -/
def execGraphMutationCommit (gk op : Nat) (s : State) : Host.Outcome State Fault Refusal :=
  event s (fun s =>
    match opOf s gk op with
    | none => s
    | some o =>
      match o.body with
      | .graph r =>
        match r.todo with
        | [] => s
        | x :: rest =>
          if !r.kind.isMut || mutBefore s (gangAt s gk) o r || seqBlocked s r.oid (nextSeq (gSeq s r.oid)) then s
          else if edgePoison s r.kind r.oid x then laneDone s gk op r rest id
          else
            let (st, t) := mutate s r.kind r.oid x
            let t := if st = 0 then relWrite t (listKeys t r.oid x.u false ++ listKeys t r.oid x.v true) (some r.head) false else t
            laneDone t gk op r rest (fun g =>
              let g := regWrite g (.v r.d x.lane (BitVec.ofNat 32 st))
              if r.px < 12 then regWrite g (.p r.px x.lane (st == 0)) else g)
      | _ => s)

/-- A read by vertex (R181): the register writes of one lane. -/
def readOut (s : State) (r : GraphReq) (x : GraphLane) : List RegWrite :=
  let inn := r.dir == 1
  let pw := fun b => if r.px < 12 then [RegWrite.p r.px x.lane b] else []
  match r.kind with
  | .glde =>
    let e := gldeAt s r.oid x.u inn x.v
    vWrites r.d x.lane 2 (e.1 + 2 ^ 32 * e.2.1) ++ pw e.2.2
  | .gfind =>
    let root := rootOf s r.oid x.u inn
    let e := if root = 0 then (0, none) else treeFind s r.oid x.v 40 root
    vWrites r.d x.lane 1 e.1 ++ pw e.2.isSome
  | .gdeg => vWrites r.d x.lane 1 (degOf s r.oid x.u inn)
  | .gver => vWrites r.d x.lane 1 (verOf s r.oid x.u inn)
  | _ => []

/-- GNEXT's part for one lane (R185): the entry returned, the end predicate, the cursor left. -/
def cursorNext (s : State) (x : Cursor) : Nat × Nat × Bool × Cursor :=
  if x.rank < x.deg then
    let e := (treeNth s x.oid 40 x.root x.rank).getD (0xFFFFFFFF, 0)
    (e.1, e.2, false, { x with rank := x.rank + 1 })
  else (0xFFFFFFFF, 0, true, { x with st := 2 })

/-- GSKIP's part (R185). -/
def cursorSkip (x : Cursor) (n : Nat) : Cursor :=
  let r := min (x.rank + n) x.deg
  { x with rank := r, st := if x.st = 2 ∧ r = x.deg then 2 else 1 }

/-- One lane of a cursor instruction, if its cursor still stands. -/
def cursorDo (s : State) (r : GraphReq) (g : Gang) (x : GraphLane) : Gang :=
  let c := cursorAt g r.cur x.lane
  if c.st = 0 ∨ !g.live.getLsbD x.lane then g
  else if r.kind = .gskip then putCursor g r.cur x.lane (cursorSkip c x.p)
  else
    let (n, p, e, c') := cursorNext s c
    let g := (vWrites r.d x.lane 2 (n + 2 ^ 32 * p)).foldl regWrite (putCursor g r.cur x.lane c')
    if r.px < 12 then regWrite g (.p r.px x.lane e) else g

/-- A sector that the controller reads for a lane of a read or cursor instruction is poisoned now. -/
def readPoison (s : State) (r : GraphReq) (g : Gang) (x : GraphLane) : Bool :=
  let c := cursorAt g r.cur x.lane
  let root := rootOf s r.oid x.u (r.dir == 1)
  match r.kind with
  | .gskip => gPoison s c.oid 0
  | .gnext => gPoison s c.oid 0 || (decide (c.rank < c.deg) && pathPoison s c.oid c.root true c.rank)
  | .glde => gRecPoison s r.oid x.u || pathPoison s r.oid root true x.v
  | .gfind => gRecPoison s r.oid x.u || pathPoison s r.oid root false x.v
  | _ => gRecPoison s r.oid x.u

/-- GRAPH_OP_COMPLETE (R181, R185): the next lane of a read or cursor instruction is performed; after the last the
instruction is complete. The spec leaves the lanes of one read unordered; they are performed in ascending order, and a lane that would
read a poisoned sector only now has no effect (DESIGN CHOICE, log entry 18). -/
def execGraphOpComplete (gk op : Nat) (s : State) : Host.Outcome State Fault Refusal :=
  event s (fun s =>
    match opOf s gk op with
    | none => s
    | some o =>
      match o.body with
      | .graph r =>
        if r.kind.isMut || graphBefore (gangAt s gk) o r false then s
        else
          match r.todo with
          | [] => s
          | x :: rest =>
            if readPoison s r (gangAt s gk) x then laneDone s gk op r rest id
            else if r.kind = .gnext ∨ r.kind = .gskip then
              let c := cursorAt (gangAt s gk) r.cur x.lane
              let t := if r.kind = .gskip then s else bumpDie s (gPhys s c.oid (vtxOff c.vtx) / 2 ^ 36) 0x110 1
              laneDone t gk op r rest (fun g => cursorDo s r g x)
            else
              let t := bumpDie s (gPhys s r.oid (vtxOff x.u) / 2 ^ 36) 0x110 1
              laneDone (noteSeen t gk op (relSeen s (listKeys s r.oid x.u (r.dir == 1)))) gk op r rest
                (fun g => (readOut s r x).foldl regWrite g)
      | _ => s)

/-- A deferred block and its tag that some pin holds (R189). -/
def pinHolds (s : State) (oid : Nat) (b : Nat × Nat) : Bool := ((pinsOf s oid).filter (· != 0xFFFFFFFF)).any (fun m => seqLe m b.2)

/-- A sweep of the identifier would free a block. -/
def sweepable (s : State) (oid : Nat) : Bool :=
  memNat s (entryAddr s oid + 8) 1 == 2 && graphOk s oid (entryOf s oid) && (deferred s oid).any (fun b => !pinHolds s oid b)

/-- GRAPH_SWEEP (R189): deferred blocks that no pin holds join the free list. -/
def execGraphSweep (oid : Nat) (s : State) : Host.Outcome State Fault Refusal :=
  event s (fun s =>
    let e := entryOf s oid
    if !e.ok || e.kind != 2 || !graphOk s oid e then s
    else
      let all := deferred s oid
      let kept := all.filter (pinHolds s oid)
      let freed := all.filter (fun b => !pinHolds s oid b)
      let s := (kept.zip (kept.drop 1 ++ [(0, 0)])).foldl (fun t x => setNext t oid x.1.1 x.2.1) s
      let s := gPut s oid 20 4 ((kept.head?.map (·.1)).getD 0)
      let s := gPut s oid 24 4 ((kept.getLast?.map (·.1)).getD 0)
      let s := gPut s oid 28 4 kept.length
      let s := freed.foldl (fun t b =>
        let o := blkOff t oid b.1
        let t := memPut t (gPhys t oid o) ((List.range 64).map (fun i => Config.blockByte (s.free + b.1) i))
        let t := gPut t oid o 4 (gNat t oid o 4 / 2 ^ 28 * 2 ^ 28 + gNat t oid 8 4)
        gPut (gPut t oid 8 4 b.1) oid 12 4 (gNat t oid 12 4 + 1)) s
      { s with free := s.free + 2 ^ 28 })

end Sys2Proof.Machine
end

