-- ==== Sys2Proof/Machine/Sys.lean ====
section
/-! DEFINITION. System instructions: special registers, traps, the return from a trap, first touch, the object table and
counters (R121, R141, R264, R381 to R388). -/

namespace Sys2Proof.Machine

/-- The trap record and lane-address block as bytes (R141). -/
def trapBytes (t : TrapRec) : List Byte :=
  leBytes 2 t.code.num ++ leBytes 1 t.cslot ++ leBytes 1 t.lcode.length ++ leBytes 4 t.fmask.toNat ++
    leBytes 8 t.pc.toNat ++ leBytes 4 t.rmask.toNat ++ leBytes 4 0 ++
    (List.range 8).map (fun k => BitVec.ofNat 8 ((t.lcode[k]?).map TrapCode.num |>.getD 0)) ++
    (List.range 8).flatMap (fun k => leBytes 4 (t.extra.getD k 0).toNat) ++
    (List.range 8).flatMap (fun k => leBytes 8 (t.laddr.getD k 0).toNat)

/-- The failing object address of lane `l` (R382): zero for a lane that is not recorded. -/
def faddrOf (t : TrapRec) (l : Nat) : Nat :=
  if t.fmask.getLsbD l then (t.laddr.getD ((lanes t.fmask).filter (fun k => decide (k < l))).length 0).toNat else 0

/-- The gang's FLAGS as SYSR returns it over the active lanes (R121). -/
def flagsWord (g : Gang) (act : Mask) : Nat :=
  ((lanes act).foldl (fun a l => a ||| rfl' g l) (0 : BitVec 6)).toNat + (if g.scopeMiss then 256 else 0)

/-- The value of an item in a lane (R121, R264). -/
def itemOf (s : State) (c : Ctx) (sel l : Nat) : Nat :=
  match sel with
  | 0 => l
  | 1 => c.p.mask.toNat
  | 2 => c.g.live.toNat
  | 3 => popc c.p.mask
  | 4 => c.g.no
  | 5 => (crewAt s c.ck).no
  | 6 => c.ck % 16
  | 7 => c.core
  | 8 => flagsWord c.g c.act
  | 9 => (c.p.trap.map (fun t => faddrOf t l)).getD 0
  | k => if 0x30 ≤ k then rvh c.g (k - 0x30) l
         else (c.p.trap.map (fun t => leNat (((trapBytes t).drop (4 * (k - 0x10))).take 4))).getD 0

/-- SYSR (R382). -/
def execSysr (f : SYS) (s : State) : Host.Outcome State Fault Refusal :=
  issue (shapeOf (.sysr f)) s (fun c s =>
    let sel := f.sel.toNat
    advance (onGang s c.gk (fun g => putD g f.sd f.d (if sel = 9 then 2 else 1) c.act (itemOf s c sel))) c.pk)

/-- SYSW (R382). -/
def execSysw (f : SYS) (s : State) : Host.Outcome State Fault Refusal :=
  issue (shapeOf (.sysw f)) s (fun c s =>
    let x := fun l => src c.g f.sa f.a 1 l
    let ls := lanes c.act
    let s := if f.sel = 8 then
        onGang s c.gk (fun g =>
          let g := ls.foldl (fun h l => wfl h l (BitVec.ofNat 6 (x l))) g
          match ls with
          | [] => g
          | l :: _ => { g with scopeMiss := (x l).testBit 8 })
      else onGang s c.gk (fun g => ls.foldl (fun h l => wvh h (f.sel.toNat - 0x30) l (x l)) g)
    advance s c.pk)

/-- TRAP (R383). -/
def execTrap (f : SYS) (s : State) : Host.Outcome State Fault Refusal :=
  issue (shapeOf (.trap f)) s (fun c s =>
    if c.act = 0 then advance s c.pk else trapAll s c .user c.act [f.imm.setWidth 32])

/-- BREAK (R383). -/
def execBrk (f : SYS) (s : State) : Host.Outcome State Fault Refusal :=
  issue (shapeOf (.brk f)) s (fun c s =>
    if c.act = 0 then advance s c.pk else trapAll s c .brk c.act [f.imm.setWidth 32])

/-- RETT in a handler path: it takes effect when the clause ends (R384). -/
def rettWith (sel : Nat) (km : Mask) (c : Ctx) (s : State) : State :=
  match c.p.trap with
  | none => trapAll s c .illegalOp c.p.mask []
  | some t =>
    if sel = 1 ∧ t.clause.isNone then trapAll s c .illegalOp c.p.mask []
    else advance (onPath s c.pk (fun p => { p with rett := some (sel, km) })) c.pk

/-- RETT (R384). -/
def execRett (f : SYS) (s : State) : Host.Outcome State Fault Refusal :=
  issue (shapeOf (.rett f)) s (rettWith 0 0)
/-- RETT.skip (R384). -/
def execRettSkip (f : SYS) (s : State) : Host.Outcome State Fault Refusal :=
  issue (shapeOf (.rettSkip f)) s (rettWith 1 0)
/-- RETT.kill (R384). -/
def execRettKill (f : SYS) (s : State) : Host.Outcome State Fault Refusal :=
  issue (shapeOf (.rettKill f)) s (rettWith 2 0)
/-- RETT.killg (R384). -/
def execRettKillg (f : SYS) (s : State) : Host.Outcome State Fault Refusal :=
  issue (shapeOf (.rettKillg f)) s (rettWith 3 0)
/-- RETT.sel (R384): lanes with a non-zero V[A] are killed. -/
def execRettSel (f : SYS) (s : State) : Host.Outcome State Fault Refusal :=
  issue (shapeOf (.rettSel f)) s (fun c s => rettWith 4 (maskOf c.act (fun l => rv c.g f.a.toNat l != 0)) c s)

/-- Maps the page of an address for MAPPG: the status of R385. No translation of the page from before stays, so that every later use
reaches the new frame. -/
def mapTouch (s : State) (die a : Nat) : Nat × State :=
  let oid := oidOf a
  let page := offOf a / 65536
  let e := entryOf s oid
  if oid ≤ 1 ∨ oid = aliasId ∨ oid = plainId ∨ !e.ok ∨ e.home ≠ 0 ∨ e.size ≤ offOf a ∨ (bounceOf s oid page).isSome ∨
      pageTarget s oid e page ≠ some none then (0, s)
  else match takeFrameNear s die with
    | none => (1, s)
    | some (f, t) =>
      match mapObjPage (zeroFrame t f) oid page (2 ^ 63 + f) with
      | none => (2, s)
      | some t => (0, { t with xlats := t.xlats.filter (fun x => !(x.oid == oid && x.page == page)) })

/-- MAPPG (R385): a DEVICE-scope release, so that the path's earlier operations are performed first; the status is written at
completion. -/
def execMappg (f : SYS) (s : State) : Host.Outcome State Fault Refusal :=
  issue (shapeOf (.mappg f)) s (fun c s =>
    let addr := fun l => src c.g f.sa f.a 2 l
    match (lanes c.act).find? (fun l => migrating s (addr l)), c.act != 0 && pendingOps c with
    | some l, _ => waitFor s c (.migration (oidOf (addr l)))
    | none, true => waitFor s c .flush
    | none, false =>
      let r := (lanes c.act).foldl (fun (acc : List RegWrite × State) l =>
        let x := mapTouch acc.2 (dieOf s c.core) (addr l)
        (acc.1 ++ vWrites f.d.toNat l 1 x.1, x.2)) ([], s)
      let s := if c.act = 0 then r.2 else addOp r.2 c c.act (.writes r.1) [f.d.toNat] [] [] false
      advance s c.pk)

/-! ### OBJNEW and OBJSET (R386, R387) -/

/-- Every extent record in use is as R149 has it. -/
def extsOk (s : State) (e : ObjEnt) : Bool :=
  ((List.range e.next).foldl (fun (a : Bool × Nat) i =>
    let x := extAt s e i a.2
    (a.1 && x.ok, x.first + x.n)) (true, 0)).1

/-- A template's fields as an entry. -/
def entOfBytes (bs : List Byte) : ObjEnt :=
  let n := fun o k => leNat ((bs.drop o).take k)
  { size := n 0 8, kind := n 8 1, perm := n 9 1, home := n 10 1, flags := n 11 1, ctab := n 12 4, peer := n 16 4, rid := n 20 4,
    extptr := n 24 8, next := n 32 4, extcap := n 36 4, dirtyptr := n 40 8, link := n 48 4, ok := true }

/-- Every page below the size is resident. -/
def wholeResident (s : State) (e : ObjEnt) : Bool :=
  ((extList s e).foldl (fun a x => if x.2.2.testBit 63 then a + (min (x.1 + x.2.1) (e.size / 65536) - x.1) else a) 0) ==
    e.size / 65536

/-- A code-table handle: 0, or a DATA object of at least 128 bytes (R146). -/
def ctabOk (s : State) (v : Nat) : Bool :=
  v == 0 || (decide (v < 2 ^ 24) && (entryOf s v).ok && (entryOf s v).kind == 1 && decide (128 ≤ (entryOf s v).size))

/-- The frames that the resident extents of a device-homed object name: first frame and count. -/
def resFrames (s : State) (e : ObjEnt) : List (Nat × Nat) :=
  if e.home ≠ 0 then [] else (extList s e).filterMap (fun x => if x.2.2.testBit 63 then some (x.2.2 % 2 ^ 23, x.2.1) else none)

/-- No two of some runs of frames share a frame. -/
def framesApart : List (Nat × Nat) → Bool
  | [] => true
  | x :: xs => xs.all (fun y => decide (x.1 + x.2 ≤ y.1 ∨ y.1 + y.2 ≤ x.1)) && framesApart xs

/-- A frame is named by at most one extent of at most one object (R149): the entry's frames and those of every object. -/
def framesFree (s : State) (e : ObjEnt) : Bool :=
  let mine := resFrames s e
  framesApart mine && (List.range s.mg.objtCnt).all (fun i =>
    let x := entryOf s i
    decide (i < 2) || !x.ok || (resFrames s x).all (fun y => mine.all (fun z => decide (y.1 + y.2 ≤ z.1 ∨ z.1 + z.2 ≤ y.1))))

/-- The offset of the first bad field of a template (R146, R149, R169, R386). -/
def templateBad (s : State) (bs : List Byte) : Option Nat :=
  let e := entOfBytes bs
  let n := fun o k => leNat ((bs.drop o).take k)
  let graph := e.kind == 2
  let cap := n 52 4
  let h := cdiv (256 + 32 * cap) 65536 * 65536
  let peer := e.home == 2
  ([ (0, decide (e.size ≤ 2 ^ 40) && (!graph || (e.size % 65536 == 0 && decide (h + 65536 ≤ e.size)))),
     (8, decide (1 ≤ e.kind ∧ e.kind ≤ 6)),
     (9, decide (e.perm < 16)),
     (10, decide (e.home ≤ 2) && (!graph || e.home == 0)),
     (11, decide (e.flags < 16) && (!(e.flags % 2 == 1) || e.kind == 5)),
     (12, ctabOk s e.ctab),
     (16, decide (e.peer < 1024)),
     (20, decide (e.rid < 2 ^ 24)),
     (24, e.extptr % 16 == 0 && (!peer || e.extptr == 0) && (peer || decide (e.extcap < e.next) || (extsOk s e && framesFree s e)) &&
        (!graph || wholeResident s e)),
     (32, !peer || e.next == 0),
     (36, decide (e.next ≤ e.extcap) && (!peer || e.extcap == 0)),
     (40, e.dirtyptr % 8 == 0 && (!peer || e.dirtyptr == 0)),
     (52, if graph then decide (1 ≤ cap ∧ cap ≤ 0xFFFFFFFE) else n 52 12 == 0),
     (56, n 56 8 == 0) ].find? (fun (x : Nat × Bool) => !x.2)).map (·.1)

/-- The lowest free identifier (R386). -/
def freeId (s : State) : Option Nat :=
  (List.range s.mg.objtCnt).find? (fun i => decide (2 ≤ i) && memNat s (entryAddr s i + 8) 1 == 0 && !rpend s i &&
    !s.reclaims.any (fun r => r.oid == i))

/-- Writes a fresh graph's header and vertex table (R171). -/
def initGraph (s : State) (oid cap : Nat) : State :=
  let s := (List.range (256 + 32 * cap)).foldl (fun t i => gPut t oid i 1 0) s
  let s := gPut s oid 0 4 cap
  gPut s oid 12 4 (gBlocks s oid)

/-- OBJNEW's read of its template: 8 bytes at a time, no watchpoint matching it (R106); at a peer one request reads it. -/
def templateAcc (s : State) (c : Ctx) (l a : Nat) : LaneAcc :=
  match peerOpOf s c l with
  | some _ => laneAcc s c 64 .read l (a, true)
  | none =>
    match (List.range 8).findSome? (fun i => (check s { c.whoAt l with noWatch := true } (a + 8 * i) 8 .read).map (·, a + 8 * i)) with
    | some x => { lane := l, addr := x.2, bad := some x.1, peer := none }
    | none => { lane := l, addr := a, bad := none, peer := none }

/-- OBJNEW creates the object that a template describes: its identifier, 0 where none is free (R386). -/
def newObject (s : State) (bs : List Byte) : Nat × State :=
  match freeId s with
  | none => (0, s)
  | some id =>
    let s := shootDown s id
    let s := putEntry s id 0 (bs.take 11 ++ leBytes 1 (leNat ((bs.drop 11).take 1) % 2) ++ (bs.drop 12).take 36 ++ leBytes 16 0)
    (id, if (bs.getD 8 0).toNat = 2 then initGraph s id (leNat ((bs.drop 52).take 4)) else s)

/-- OBJNEW (R386). -/
def execObjnew (f : SYS) (s : State) : Host.Outcome State Fault Refusal :=
  issue (shapeOf (.objnew f)) s (fun c s =>
    match lanes c.act with
    | [] => advance s c.pk
    | l :: _ =>
      let x := templateAcc s c l (src c.g f.sa f.a 2 l)
      if pendingOps c then waitFor s c .flush
      else match peerWait s c [x] 1 64 (fun _ => []) with
      | some t => t
      | none =>
        match x.bad with
        | some code => uniFault (dropAnswers s c) c code x.addr 0 (accExtra s c 64 .read [x])
        | none =>
          let bs := match x.peer with
            | some o => (o.answer.getD []).take 64
            | none => loadBytes s (c.whoAt l) x.addr 64
          let s := dropAnswers ((List.range 8).foldl (fun t i => let y := { x with addr := x.addr + 8 * i }
            touch (relRead t c none (accKeys t c 8 y)) (c.whoAt l) y.addr false) s) c
          match templateBad s bs with
          | some o => trapAll s c .illegalOp c.act [BitVec.ofNat 32 o]
          | none =>
            let r := newObject s bs
            advance (addOp r.2 c c.act (.writes ((lanes c.act).flatMap (fun l => vWrites f.d.toNat l 1 r.1))) [f.d.toNat] [] [] false) c.pk)

/-- OBJSET: `put` gives the entry's new bytes at an offset, or `none` for a value R146 or R149 refuses (R387). -/
def objset (f : SYS) (w : Nat) (c : Ctx) (s : State) (put : ObjEnt → Nat → Option (Nat × List Byte)) : State :=
  match lanes c.act with
  | [] => advance s c.pk
  | l :: _ =>
    let a := src c.g f.sa f.a 2 l
    let id := oidOf a
    if id ≤ 1 ∨ id = aliasId ∨ id = plainId ∨ s.mg.objtCnt ≤ id ∨ memNat s (entryAddr s id + 8) 1 = 0 then
      uniFault s c .objectInvalid a 1 []
    else match put (entryOf s id) (src c.g f.sd f.d w l) with
      | none => trapAll s c .illegalOp c.act []
      | some (o, bs) =>
        if pendingOps c then waitFor s c .flush
        else
          let s := putEntry s id o bs
          advance { s with shoots := s.shoots ++ [{ oid := id, who := .lanes c.gk c.p.mask }] } c.pk

/-- OBJSET.size (R387). -/
def execObjsetSize (f : SYS) (s : State) : Host.Outcome State Fault Refusal :=
  issue (shapeOf (.objsetSize f)) s (fun c s => objset f 2 c s (fun _ x =>
    if x % 2 ^ 41 ≤ 2 ^ 40 then some (0, leBytes 8 (x % 2 ^ 41)) else none))
/-- OBJSET.perm (R387). -/
def execObjsetPerm (f : SYS) (s : State) : Host.Outcome State Fault Refusal :=
  issue (shapeOf (.objsetPerm f)) s (fun c s => objset f 1 c s (fun _ x => some (9, leBytes 1 (x % 16))))
/-- OBJSET.ctab (R387). -/
def execObjsetCtab (f : SYS) (s : State) : Host.Outcome State Fault Refusal :=
  issue (shapeOf (.objsetCtab f)) s (fun c s => objset f 1 c s (fun _ x =>
    if ctabOk s (x % 2 ^ 24) then some (12, leBytes 4 (x % 2 ^ 24)) else none))
/-- OBJSET.unpois (R387). -/
def execObjsetUnpois (f : SYS) (s : State) : Host.Outcome State Fault Refusal :=
  issue (shapeOf (.objsetUnpois f)) s (fun c s => objset f 1 c s (fun e _ =>
    some (11, leBytes 1 (if e.flags.testBit 1 then e.flags - 2 else e.flags))))
/-- OBJSET.dirty (R387). -/
def execObjsetDirty (f : SYS) (s : State) : Host.Outcome State Fault Refusal :=
  issue (shapeOf (.objsetDirty f)) s (fun c s => objset f 2 c s (fun e x =>
    if x % 8 = 0 ∧ (e.home = 2 → x = 0) then some (40, leBytes 8 x) else none))

/-! ### Counters (R75 to R77, R388) -/

/-- CTRRD (R388). -/
def execCtrrd (f : SYS) (s : State) : Host.Outcome State Fault Refusal :=
  issue (shapeOf (.ctrrd f)) s (fun c s =>
    let n := f.imm.toNat % 64
    let key := if f.imm.getLsbD 6 then 0x10000 + 64 * dieOf s c.core + n else 16 * c.core + n
    let x := (ctrAt s key).count.toNat
    advance (onGang s c.gk (fun g => putD g f.sd f.d 2 c.act (fun _ => x))) c.pk)

end Sys2Proof.Machine
end

