-- ==== Sys2Proof/Machine/Launch.lean ====
section
/-! DEFINITION. The launch unit: ports and launch records, acceptance and rejection, eligibility, placement, retirement
and completion (R55 to R64, R78 to R81, R98, R119, R120, R226, R379, R405). -/

namespace Sys2Proof.Machine

/-! ### Launch records (R59, R61) -/

/-- A record's fields. -/
def parseLaunch (bs : List Byte) : LaunchRec :=
  let n := fun o k => leNat ((bs.drop o).take k)
  { code := n 0 4, entry := n 4 4, handler := n 8 4, crews := n 12 4 + 1, gangs := bitsN (n 16 1) 0 5 + 1, vinit := n 17 1,
    vmax := n 18 1, sregs := n 19 1, tiles := n 20 1, acc := n 21 1, scratch := n 22 1, ctl := n 23 1,
    waits := [n 24 4, n 28 4, n 32 4, n 36 4], signal := n 40 4, compl := n 44 4, arg := BitVec.ofNat 64 (n 48 8),
    tag := BitVec.ofNat 32 (n 56 4), bytes := bs }

/-- The class a record runs at (R59). -/
def LaunchRec.cls (r : LaunchRec) : Nat := r.ctl % 4
def LaunchRec.cor (r : LaunchRec) : Bool := r.ctl.testBit 2
def LaunchRec.ftz (r : LaunchRec) : Bool := r.ctl.testBit 3
def LaunchRec.fpx (r : LaunchRec) : Bool := r.ctl.testBit 4

/-- A reserved byte or bit is set (status 1 of R61). -/
def launchReserved (r : LaunchRec) : Bool :=
  decide (2 ^ 24 ≤ r.code ∨ 32 ≤ leNat ((r.bytes.drop 16).take 1) ∨ 32 ≤ r.ctl ∨ 2 ^ 24 ≤ r.signal ∨ 2 ^ 24 ≤ r.compl ∨
    leNat ((r.bytes.drop 60).take 4) ≠ 0) || r.waits.any (fun w => decide (2 ^ 24 ≤ w))

/-- A launch barrier object (R60). -/
def launchBarrier (s : State) (oid : Nat) : Bool :=
  let e := entryOf s oid
  e.ok && e.kind == 1 && decide (64 ≤ e.size)

/-- A completion object (R61). -/
def complOk (s : State) (oid : Nat) : Bool := launchBarrier s oid && (entryOf s oid).perm.testBit 1

/-! ### Room on a core (R79) -/

/-- What a core has free, or what a crew needs: crew slots, gang slots, path entries, V bytes, S and T registers, tiles,
granules; `gap` is the largest gap of the gangs counted. -/
structure Room where
  crews : Nat
  gangs : Nat
  paths : Nat
  v : Nat
  s : Nat
  t : Nat
  tiles : Nat
  gran : Nat
  gap : Nat
  deriving DecidableEq, Repr

def emptyRoom : Room :=
  { crews := Config.crewSlots, gangs := Config.gangSlots, paths := Config.pathEntries, v := Config.vBytesPerCore,
    s := Config.sRegsPerCore, t := Config.tRegsPerCore, tiles := Config.tilesPerCore, gran := Config.granules, gap := 0 }

/-- The need of a crew all of whose gangs have `vb` bytes of V registers (R79). -/
def launchNeed (r : LaunchRec) (vb : Nat) : Room :=
  { crews := 1, gangs := r.gangs, paths := r.gangs, v := r.gangs * vb, s := r.gangs * r.sregs * 16, t := r.gangs * r.tiles,
    tiles := r.acc, gran := r.scratch, gap := r.vmax * 1024 - vb }

/-- Room after a crew is placed, if the core can hold it whole. -/
def takeRoom (a n : Room) : Option Room :=
  let gap := Nat.max a.gap n.gap
  if n.crews ≤ a.crews ∧ n.gangs ≤ a.gangs ∧ n.paths ≤ a.paths ∧ n.v + gap ≤ a.v ∧ n.s ≤ a.s ∧ n.t ≤ a.t ∧
      n.tiles ≤ a.tiles ∧ n.gran ≤ a.gran then
    some { crews := a.crews - n.crews, gangs := a.gangs - n.gangs, paths := a.paths - n.paths, v := a.v - n.v, s := a.s - n.s,
           t := a.t - n.t, tiles := a.tiles - n.tiles, gran := a.gran - n.gran, gap := gap }
  else none

/-- The crews and gangs of a core. -/
def crewsOn (s : State) (core : Nat) : Map Crew := inRange s.crews (core * 16) (core * 16 + 16)
def gangsOn (s : State) (core : Nat) : Map Gang := inRange s.gangs (core * 64) (core * 64 + 64)

/-- What a core has free. A gang whose lanes have all exited holds no registers (R98). -/
def roomOf (s : State) (core : Nat) : Room :=
  let gs := gangsOn s core
  let lv := gs.filter (fun e => e.2.live != 0)
  let cs := crewsOn s core
  { crews := Config.crewSlots - cs.length, gangs := Config.gangSlots - gs.length, paths := freePaths s core, v := freeV s core,
    s := Config.sRegsPerCore - lv.foldl (fun a e => a + e.2.ns) 0, t := Config.tRegsPerCore - lv.foldl (fun a e => a + e.2.nt) 0,
    tiles := Config.tilesPerCore - cs.foldl (fun a e => a + e.2.tiles.length) 0,
    gran := Config.granules - cs.foldl (fun a e => a + e.2.gran.length) 0,
    gap := maxGap s core (64 * Config.coresMax) }

/-- Cores on which a crew may be placed. -/
def placeable (s : State) (core : Nat) : Bool := coreUp s core && s.scanning != some core

/-- The core of R80 among rooms by core: most free V bytes, then the lowest core. -/
def bestCore (rooms : List (Nat × Room)) (n : Room) : Option (Nat × Room) :=
  (leastBy (fun (a b : Nat × Room × Room) => decide (b.2.1.v < a.2.1.v) || (a.2.1.v == b.2.1.v && decide (a.1 < b.1)))
    (rooms.filterMap (fun x => (takeRoom x.2 n).map (fun r => (x.1, x.2, r))))).map (fun x => (x.1, x.2.2))

def roomsNow (s : State) : List (Nat × Room) :=
  ((List.range s.deal.length).filter (placeable s)).map (fun c => (c, roomOf s c))

/-- Whether crews with these needs, in order, all fit at once (R63). -/
def allFit (rooms : List (Nat × Room)) : List Room → Bool
  | [] => true
  | n :: ns => match bestCore rooms n with
    | none => false
    | some (c, r) => allFit (rooms.map (fun x => if x.1 = c then (c, r) else x)) ns

/-- Crews of one need that an empty core holds, at most 16. -/
def crewsPerCore (n : Room) : Nat → Room → Nat
  | 0, _ => 0
  | k + 1, a => match takeRoom a n with
    | none => 0
    | some b => 1 + crewsPerCore n k b

/-- Cores of the device as it will stand at full service (R57). -/
def coresAtFull (s : State) : Nat :=
  ((List.range s.deal.length).filter (fun c => !s.mg.dieFail.getLsbD (dieOf s c) && !s.outOfService.contains c)).length

/-- The status of R61 for a record that is in error. -/
def launchBad (s : State) (r : LaunchRec) : Option Nat :=
  let e := entryOf s r.code
  let inside := fun (o : Nat) => o % 8 == 0 && decide (o + 8 ≤ e.size)
  if launchReserved r then some 1
  else if r.vinit = 0 ∨ 32 < r.vinit ∨ r.vmax < r.vinit ∨ 32 < r.vmax ∨ 4 < r.sregs ∨ 8 < r.tiles ∨ 64 < r.acc ∨
      48 < r.scratch then some 2
  else if !(e.ok && e.kind == 4 && e.perm.testBit 2 && !e.perm.testBit 3 && inside r.entry &&
      (r.handler == 0xFFFFFFFF || inside r.handler)) then some 3
  else if (r.cor && !feature s 9) || (r.fpx && !feature s 10) then some 4
  else if (r.waits ++ [r.signal]).any (fun w => w != 0 && !launchBarrier s w) || (r.compl != 0 && !complOk s r.compl) then some 5
  else if (takeRoom emptyRoom (launchNeed r (r.vmax * 1024))).isNone then some 6
  else if r.cor && decide (crewsPerCore (launchNeed r (r.vinit * 1024)) 16 emptyRoom * coresAtFull s < r.crews) then some 7
  else none

/-! ### Counts and completion records (R60, R62) -/

/-- Adds to the pending count of an object atomically (R60); `rel` is the scope of the release at the run's end. -/
def addCount (s : State) (oid d : Nat) (rel : Option Nat) : State :=
  if oid = 0 then s else devPut s { addr := addrOf oid 0, bytes := leBytes 4 d, add := true, rel := rel, mark := none }

/-- Writes a completion record (R62): bytes 4 to 63, then the status, a SYSTEM-scope release. -/
def complete (s : State) (compl status : Nat) (tag : Word) (retired : Nat) (tFirst tLast : DWord) (killed code : Nat) : State :=
  if compl = 0 ∨ !complOk s compl then s
  else
    let s := devStore s (addrOf compl 4) (leBytes 4 tag.toNat ++ leBytes 8 retired ++ leBytes 8 tFirst.toNat ++
      leBytes 8 tLast.toNat ++ leBytes 4 killed ++ leBytes 4 code ++ leBytes 24 0)
    devPut s { addr := addrOf compl 0, bytes := leBytes 4 status, add := false, rel := some 5, mark := none }

/-- The request of a poll for a run's WAIT object (R60). -/
def pollOf (s : State) (rk oid : Nat) : Option PeerOp := s.peerOps.find? (fun o => o.owner == .poll rk oid)

/-- A run's WAIT object has been read as zero. -/
def waitRead (s : State) (rk oid : Nat) : State :=
  onRun s rk (fun r =>
    let left := r.left.filter (fun x => x != oid)
    { r with left := left, eligible := left.isEmpty })

/-- Reads one WAIT count of a run (R60). A count that stands at a peer is asked for there; the answer is read by a later poll. -/
def pollWait (rk : Nat) (s : State) (oid : Nat) : State :=
  match peerHome s (deviceWho 0) (addrOf oid 0) with
  | none => if objNat s (deviceWho 0) (addrOf oid 0) 4 = 0 then waitRead s rk oid else s
  | some e =>
    match pollOf s rk oid with
    | none =>
      match portOf s e.peer (addrOf oid 0) with
      | some p => if askRoom s p then askPeer s e p 1 (.poll rk oid) (addrOf oid 0) 4 [] else s
      | none => s
    | some o =>
      if o.answer.isNone && o.fail.isNone then s
      else
        let s := { s with peerOps := s.peerOps.filter (fun x => x.owner != .poll rk oid) }
        if o.answer.any (fun bs => leNat bs == 0) then waitRead s rk oid else s

/-- Reads the wait counts of launches not yet eligible (R60): each named object must have been read as zero once. -/
def pollWaits (s : State) : State :=
  s.runs.foldl (fun t e => if e.2.eligible then t else e.2.left.foldl (pollWait e.1) t) s

/-- The status of a run that has run to its end: the highest-numbered of those that apply (R61, R62). -/
def runStatus (r : Run) : Nat := if r.remoteLost then 0x11 else if r.killed ≠ 0 then 0x10 else 0

/-- The last writes of a run still wait, at which it ends (R60). -/
def ending (s : State) (rk : Nat) : Bool := marksDue s (.endRun rk) != 0

/-- The last acts of a run's retirement (R60, R62, R154). It is live until the last of its writes has been performed. -/
def finishRun (s : State) (rk : Nat) (status : Nat) : State :=
  let r := runAt s rk
  let s := flushDirty s (fun d => d.run == rk)
  let s := complete s r.lr.compl status r.lr.tag r.retired (r.tFirst.getD (-1)) (r.tLast.getD (-1)) r.killed
    ((r.killCode.map TrapCode.num).getD 0)
  let s := addCount s r.lr.signal (2 ^ 32 - 1) (some 4)
  pollWaits (if r.lr.compl = 0 ∧ r.lr.signal = 0 then { s with runs := Map.del s.runs rk } else devMark s (.endRun rk))

/-! ### Bring-up that waits for crew boundaries (R55, R57, R73) -/

/-- Every die that has not failed is trained. -/
def allTrained (s : State) : Bool := (List.range 8).all (fun d => s.mg.dieTrained.getLsbD d || s.mg.dieFail.getLsbD d)

/-- SVCFULL is set at a crew placement or retirement once every die is trained (R57). -/
def serviceFull (s : State) : State :=
  if allTrained s ∧ s.mg.dieTrained ≠ 0 then onMg s (fun m => { m with svcFull := true }) else s

/-- The physical cores a logical number may be dealt to: in service, ascending (R55). Cores of a die that is not yet trained take
part, since only a failed die or core has left service (DESIGN CHOICE, log entry 32). -/
def redealt (s : State) : List Nat :=
  sortBy (fun a b => decide (a < b)) (((List.range s.deal.length).filter (fun c =>
    !s.mg.dieFail.getLsbD (dieOf s c) && !s.outOfService.contains c)).map (physOf s))

/-- Per-core counters move with their cores (R77). -/
def moveCtrs (s : State) (old new : List Nat) : Map Ctr :=
  let core := s.ctrs.filter (fun e => decide (e.1 < 0x10000))
  let die := s.ctrs.filter (fun e => decide (0x10000 ≤ e.1))
  (new.zip (List.range new.length)).foldl (fun m x =>
    let o := old.idxOf x.1
    (core.filter (fun e => e.1 / 16 == o)).foldl (fun m e => Map.put m (16 * x.2 + e.1 % 16) e.2) m) die

/-- Logical numbers are dealt again at a moment when no run is live, where a core has left service (R55, R73). The
scratchpad and accumulator contents of the Plain move with their cores, release sequences with the bytes, and so does a scan test. -/
def redeal (s : State) : State :=
  if !s.runs.isEmpty ∨ redealt s = s.deal then s
  else
    let new := redealt s
    let shift := fun (m : Map Byte) (sz : Nat) => (new.zip (List.range new.length)).foldl (fun a x =>
      let o := s.deal.idxOf x.1
      (m.filter (fun e => e.1 / sz == o)).foldl (fun a e => Map.put a (x.2 * sz + e.1 % sz) e.2) a) ([] : Map Byte)
    let shiftB := fun (m : Map Bool) (sz : Nat) => (new.zip (List.range new.length)).foldl (fun a x =>
      let o := s.deal.idxOf x.1
      (m.filter (fun e => e.1 / sz == o)).foldl (fun a e => Map.put a (x.2 * sz + e.1 % sz) e.2) a) ([] : Map Bool)
    let shiftW := fun (m : Map Word) (sz : Nat) => (new.zip (List.range new.length)).foldl (fun a x =>
      let o := s.deal.idxOf x.1
      (m.filter (fun e => e.1 / sz == o)).foldl (fun a e => Map.put a (x.2 * sz + e.1 % sz) e.2) a) ([] : Map Word)
    { s with deal := new, outOfService := [], ctrs := moveCtrs s s.deal new,
             scanning := s.scanning.bind (fun c => if new.contains (physOf s c) then some (new.idxOf (physOf s c)) else none),
             plain := shift s.plain 0x400000, plainPoison := shiftB s.plainPoison 0x10000,
             rels := (new.zip (List.range new.length)).foldl (fun m x =>
               let o := s.deal.idxOf x.1
               (s.rels.filter (fun e => e.1 % 4 == 0 && e.1 / 0x1000000 == o)).foldl
                 (fun m e => Map.put m (x.2 * 0x1000000 + e.1 % 0x1000000) e.2) m) (s.rels.filter (fun e => e.1 % 4 != 0)),
             acc := shiftW s.acc (64 * 16384), accPoison := shiftB s.accPoison (64 * 1024), xlats := [] }

/-! ### Ports (R58, R64) -/

/-- A record joins a port's arrival order; `portRoom` holds. -/
def portTake (s : State) (p : Nat) (bs : List Byte) : State :=
  let s := { s with arrivals := s.arrivals ++ [p] }
  if (lqAt s p).length < 1024 ∧ (spillAt s p).isEmpty then { s with lq := Map.put s.lq p (lqAt s p ++ [bs]) }
  else
    let n := Map.getD s.spillCnt p 0
    let oid := (Map.getD s.mg.ovf p 0).toNat % 2 ^ 24
    let t := devStore s (addrOf oid (64 * (n % ovfCap s p))) bs
    let t := if (spillAt s p).isEmpty then signal t (p + 1) else t
    let t := bumpDie t 8 0x151 1
    { t with spill := Map.put t.spill p (spillAt s p ++ [bs]), spillCnt := Map.put t.spillCnt p (n + 1) }

/-- Host writes that a full port stalled arrive once it has room, in order. -/
def unstall (s : State) : Nat → State
  | 0 => s
  | n + 1 => match s.stalled with
    | [] => s
    | (p, bs) :: rest => if portRoom s p then unstall (portTake { s with stalled := rest } p bs) n else s

/-- What a read of the launch BAR returns (R58). -/
def readLaunchBar (_s : State) (_off : Nat) : Nat := 0

/-- LAUNCH_PORT_WRITE (R58, R59): `off` is the offset in the launch BAR. A write after a thermal trip is discarded and counted
(DESIGN CHOICE, log entry 32). -/
def execLaunchPortWrite (off : Nat) (data : List (BitVec 8)) (s : State) : Host.Outcome State Fault Refusal :=
  always s (fun s =>
    let p := off / 4096
    if !s.mg.hostReady then s
    else if data.length = 64 ∧ off % 64 = 0 ∧ p < 4 ∧ s.mg.launchEn ∧ !s.mg.tripped then
      let ctl := (data.getD 23 0).toNat
      let bs := data.take 23 ++ [BitVec.ofNat 8 (ctl / 4 * 4 + p)] ++ data.drop 24
      if s.stalled.isEmpty ∧ portRoom s p then portTake s p bs else { s with stalled := s.stalled ++ [(p, bs)] }
    else onMg s (fun m => { m with lpErr := m.lpErr + 1 }))

/-- A port's oldest record may be taken now: none that arrived before it at a port of a lower class still waits, and the pending count of
every launch taken before has been written (R60). -/
def mayAccept (s : State) (p : Nat) : Bool :=
  !(s.arrivals.takeWhile (fun q => q != p)).any (fun q => decide (q < p)) && s.devQ.isEmpty && (partOp s).isNone

/-- Takes the oldest record of a port. -/
def popPort (s : State) (p : Nat) : Option (List Byte × State) :=
  let s := { s with arrivals := s.arrivals.erase p }
  match lqAt s p with
  | [] => none
  | bs :: rest =>
    match spillAt s p with
    | [] => some (bs, { s with lq := Map.put s.lq p rest })
    | x :: xs => some (bs, { s with lq := Map.put s.lq p (rest ++ [x]), spill := Map.put s.spill p xs })

/-- Accepts or rejects a record (R60 to R62). -/
def acceptRecord (s : State) (p : Nat) (bs : List Byte) : State :=
  let r := parseLaunch bs
  match launchBad s r with
  | some st =>
    if r.compl ≠ 0 ∧ r.compl < 2 ^ 24 ∧ complOk s r.compl then
      pollWaits (complete s r.compl st r.tag 0 (-1) (-1) 0 0)
    else onMg s (fun m => { m with rejTag := r.tag, rejPort := p, rejStatus := st })
  | none =>
    let s := bumpDie (addCount s r.signal 1 none) 8 0x150 1
    pollWaits { s with
      nextRun := s.nextRun + 1,
      runs := Map.put s.runs s.nextRun
        (let left := nubN (r.waits.filter (fun w => w != 0)); { Run.blank with lr := r, cls := r.cls, left := left, eligible := left.isEmpty }) }

/-- LAUNCH_ACCEPT (R61, R64). -/
def execLaunchAccept (port : Nat) (s : State) : Host.Outcome State Fault Refusal :=
  event s (fun s =>
    if !s.mg.svcRed ∨ s.mg.tripped ∨ s.mg.ckptBusy ∨ !mayAccept s port then s
    else match popPort s port with
      | none => s
      | some (bs, t) => unstall (acceptRecord t port bs) (t.stalled.length))

/-- WAIT_COUNT_POLL (R60). -/
def execWaitCountPoll (s : State) : Host.Outcome State Fault Refusal := event s pollWaits

/-- SVCFULL_TIMEOUT (R57). -/
def execSvcfullTimeout (s : State) : Host.Outcome State Fault Refusal := event s serviceFull

/-- LAUNCH (R379). -/
def execLaunch (f : ENG) (s : State) : Host.Outcome State Fault Refusal :=
  issue (shapeOf (.launch f)) s (fun c s =>
    match lanes c.act with
    | [] => advance s c.pk
    | l :: _ =>
      let a := rsw c.g f.a.toNat 2
      let e := entryOf s (oidOf a)
      let x := laneAcc s { c with p := { c.p with noWatch := true } } 64 .read l (a, true)
      let x := if x.peer.isNone ∧ oidOf a ≠ aliasId ∧ oidOf a ≠ plainId ∧ e.ok ∧ e.kind ≠ 1 then
          { x with bad := some .objectInvalid } else x
      match peerWait s c [x] 1 64 (fun _ => []) with
      | some t => t
      | none =>
        match x.bad with
        | some code => uniFault (dropAnswers s c) c code a 0 (accExtra s c 64 .read [x])
        | none =>
          if pendingOps c then waitFor s c .flush
          else
            let bs := leBytes 64 (accRead s c 64 x)
            let p := leNat ((bs.drop 23).take 1) % 4
            if portRoom s p ∧ !s.stalled.any (fun x => x.1 == p) then
              let s := touch (relRead s c none (accKeys s c 64 x)) (c.whoAt l) a false
              advance (portTake (dropAnswers s c) p bs) c.pk
            else waitFor s c (.port p))

/-! ### Placement (R63, R78 to R82) -/

/-- The lowest `n` numbers below `m` that are not in use. -/
def lowestUnused (used : List Nat) (m n : Nat) : List Nat := ((List.range m).filter (fun i => !used.contains i)).take n

/-- The stochastic-rounding state at placement (R226). -/
def seedRng (crew gang lane : Nat) : Word :=
  let x := BitVec.ofNat 32 ((crew * 1024 + gang * 32 + lane) % 2 ^ 32 * 0x9E3779B9)
  if x = 0 then 0x9E3779B9 else x

/-- One gang of a placed crew and its path (R81). -/
def placeGang (s : State) (ck no : Nat) (lr : LaunchRec) (crewNo : Nat) : State :=
  let core := ck / 16
  match Map.lowestFree s.gangs (core * 64) 64, freePath s core with
  | some gk, some pk =>
    let g : Gang := { Gang.blank with
      core := core, slot := gk % 64, crew := ck, no := no, stamp := s.stampCnt, nv := lr.vinit * 8, ns := lr.sregs * 16,
      nt := lr.tiles, live := -1, ftz := lr.ftz, fpx := lr.fpx,
      rng := (List.range 32).map (fun l => (l, seedRng crewNo no l)) }
    let g := if lr.sregs = 0 then g else wsw g 0 2 lr.arg.toNat
    { s with stampCnt := s.stampCnt + 1,
             gangs := Map.put s.gangs gk g,
             paths := Map.put s.paths pk (Path.at gk (BitVec.ofNat 64 (addrOf lr.code lr.entry)) (-1) 0 s.stampCnt) }
  | _, _ => s

/-- A crew slot with its granules and tiles, the lowest free ones (R405). -/
def seatCrew (s : State) (core : Nat) (c : Crew) (ngran ntiles : Nat) : Option (Nat × State) :=
  match Map.lowestFree s.crews (core * 16) 16 with
  | none => none
  | some ck =>
    let cs := crewsOn s core
    let gran := lowestUnused (cs.flatMap (fun e => e.2.gran)) 48 ngran
    let tiles := lowestUnused (cs.flatMap (fun e => e.2.tiles)) 64 ntiles
    some (ck, { s with crews := Map.put s.crews ck { c with gran := gran, tiles := tiles } })

/-- Places the next crew of a run on a core (R81). -/
def placeCrew (s : State) (rk core : Nat) : State :=
  let r := runAt s rk
  let c : Crew := { Crew.blank with run := rk, no := r.next, ng := r.lr.gangs }
  match seatCrew s core c r.lr.scratch r.lr.acc with
  | none => s
  | some (ck, s) =>
    let s := (List.range r.lr.gangs).foldl (fun t no => placeGang t ck no r.lr r.next) s
    serviceFull (onRun s rk (fun r => { r with next := r.next + 1, tFirst := some (r.tFirst.getD (Config.nsAt s.tick)) }))

/-- Places as many crews of a co-resident run as remain. -/
def placeAll (s : State) (rk : Nat) : Nat → State
  | 0 => s
  | n + 1 =>
    let r := runAt s rk
    match bestCore (roomsNow s) (launchNeed r.lr (r.lr.vinit * 1024)) with
    | none => s
    | some (c, _) => placeAll (placeCrew s rk c) rk n

/-- Eligible runs with a crew to place or to resume, in the order of R63. -/
def eligibleRuns (s : State) : List (Nat × Run) :=
  sortBy (fun a b => decide (a.2.cls < b.2.cls) || (a.2.cls == b.2.cls && decide (a.1 < b.1)))
    (s.runs.filter (fun e => e.2.eligible && (decide (e.2.next < e.2.lr.crews) || s.pre.any (fun p => p.run == e.1))))

/-- The need of a pre-empted crew. -/
def preNeed (s : State) (p : PreCrew) : Room :=
  let lr := (runAt s p.run).lr
  { crews := 1, gangs := p.nvs.length, paths := p.npaths, v := p.nvs.foldl (fun a n => a + 128 * n) 0,
    s := p.nvs.length * lr.sregs * 16, t := p.nvs.length * lr.tiles, tiles := lr.acc, gran := lr.scratch,
    gap := p.nvs.foldl (fun a n => Nat.max a (128 * (lr.vmax * 8 - n))) 0 }

/-- The pre-empted crews of a run in crew order. -/
def preOf (s : State) (rk : Nat) : List PreCrew :=
  sortBy (fun a b => decide (a.no < b.no)) (s.pre.filter (fun p => p.run == rk))

/-- The core that a pre-empted crew can resume on now: its recorded one after a restore (R72), else that of R80. -/
def resumeCore (s : State) (p : PreCrew) : Option Nat :=
  let n := preNeed s p
  if p.sameCore && placeable s p.core && (takeRoom (roomOf s p.core) n).isSome then some p.core
  else (bestCore (roomsNow s) n).map (·.1)

/-- What the launch unit would do next about placement: a run with the crew to resume, or none for its next new one. -/
def nextPlacement (s : State) : List (Nat × Run) → Nat → Option (Nat × Option PreCrew)
  | [], _ => none
  | (rk, r) :: rest, block =>
    if block ≤ r.cls then nextPlacement s rest block
    else
      let need := launchNeed r.lr (r.lr.vinit * 1024)
      match preOf s rk with
      | p :: ps =>
        if r.lr.cor && !p.sameCore && decide (ps.length + 1 = r.next - r.retired) &&
            !allFit (roomsNow s) ((p :: ps).map (preNeed s)) then nextPlacement s rest r.cls
        else match resumeCore s p with
          | some _ => some (rk, some p)
          | none => nextPlacement s rest (if r.lr.cor then r.cls else block)
      | [] =>
        if r.lr.cor && r.next == 0 then
          if allFit (roomsNow s) (List.replicate r.lr.crews need) then some (rk, none) else nextPlacement s rest r.cls
        else if (bestCore (roomsNow s) need).isSome then some (rk, none)
        else nextPlacement s rest block

/-- The next placement. None is made during a checkpoint, and after a restore none until the host sets LAUNCHEN (R72). -/
def placing (s : State) : Option (Nat × Option PreCrew) :=
  if s.mg.tripped ∨ s.mg.ckptBusy ∨ s.mg.restored then none else nextPlacement s (eligibleRuns s) 4

/-- CREW_PLACE (R63, R78 to R80): the next unplaced crew, or every crew of a co-resident run. -/
def execCrewPlace (s : State) : Host.Outcome State Fault Refusal :=
  event s (fun s =>
    match placing s with
    | some (rk, none) =>
      let r := runAt s rk
      placeAll s rk (if r.lr.cor then r.lr.crews - r.next else 1)
    | _ => s)

/-! ### Retirement (R98, R119, R120) -/

/-- The gang's bits leave every barrier object its crew's barrier unit has updated (R137). -/
def leaveBarriers (s : State) (g : Gang) : State :=
  (crewAt s g.crew).bars.foldl (fun t off =>
    if (barAt t g.crew off).init && (barAt t g.crew off).members.testBit g.no then
      barUpdate t g.crew off (fun b => { b with members := clearBit b.members g.no, arrived := clearBit b.arrived g.no })
    else t) s

/-- A gang with no live lane and no lane operation outstanding retires (R119). -/
def retireGang (s : State) (gk : Nat) : State :=
  let g := gangAt s gk
  let s := onGang s gk (fun g => { g with pins := [], arr := [] })
  let s := leaveBarriers s g
  let s := if g.lost.isEmpty then s else onRun s (crewAt s g.crew).run (fun r => { r with remoteLost := true })
  let s := endReclaims s (fun e => e.gang == gk && e.stamp == g.stamp)
  let s := onCrew s g.crew (fun c => { c with gone := c.gone ++ [{ (gangAt s gk) with ops := [], lost := [] }] })
  { s with gangs := Map.del s.gangs gk,
           harvs := s.harvs.filter (fun h => h.gang != gk),
           peerOps := s.peerOps.filter (fun o => match o.owner with
             | .lane g _ _ _ => g != gk
             | .fetch g _ _ => g != gk
             | _ => true) }

def retirable (g : Gang) : Bool := g.live == 0 && g.ops.isEmpty

/-- GANG_RETIRE (R119). -/
def execGangRetire (g : Nat) (s : State) : Host.Outcome State Fault Refusal :=
  event s (fun s => if (Map.find? s.gangs g).any retirable then retireGang s g else s)

/-- The crew's slot may be freed (R120). -/
def releasable (s : State) (ck : Nat) : Bool :=
  (Map.find? s.crews ck).isSome && (gangsOfCrew s ck).isEmpty && !s.eng.any (fun e => e.2.crew == ck)

/-- A crew of a run has retired: the run's last one ends it (R60, R62). -/
def crewRetired (s : State) (rk : Nat) : State :=
  let s := onRun s rk (fun r => { r with retired := r.retired + 1, tLast := some (Config.nsAt s.tick) })
  let r := runAt s rk
  let s := serviceFull s
  redeal (if r.lr.crews ≤ r.retired then finishRun s rk (runStatus r) else pollWaits s)

/-- CREW_SLOT_RELEASE (R98, R120). -/
def execCrewSlotRelease (c : Nat) (s : State) : Host.Outcome State Fault Refusal :=
  event s (fun s =>
    if releasable s c then crewRetired { s with crews := Map.del s.crews c } (crewAt s c).run else s)

end Sys2Proof.Machine
end

