-- ==== Sys2Proof/Machine/Preempt.lean ====
section
/-! DEFINITION. Register growth, pre-emption, the save area and resumption (R91 to R97, R129 to R134, R164). -/

namespace Sys2Proof.Machine

/-! ### Register images (R129 to R134) -/

/-- KIND and WAIT of R132. -/
def PathKind.num : PathKind → Nat
  | .ordinary => 0 | .user => 1 | .sup => 2
def PathKind.ofNum (n : Nat) : PathKind := if n = 1 then .user else if n = 2 then .sup else .ordinary

def waitCode (p : Path) : Nat × Nat :=
  match p.wait with
  | .barrier off _ => (1, off)
  | .gang => (2, 0)
  | .batch n => (3, n.toNat)
  | .growth _ => (4, 0)
  | .parked _ => (5, 0)
  | .held n => (6, n)
  | _ => (0, 0)

/-- A deferred side of R132. -/
def sideBytes (d : Option Side) (byte38 : Nat) : List Byte :=
  match d with
  | some d => leBytes 8 d.pc.toNat ++ leBytes 4 d.mask.toNat ++ leBytes 2 d.depth ++ leBytes 2 byte38
  | none => leBytes 14 0 ++ leBytes 2 byte38

/-- A path-table entry image (R132). -/
def pathImage (p : Path) : List Byte :=
  leBytes 8 p.pc.toNat ++ leBytes 4 p.mask.toNat ++ leBytes 2 p.depth ++ leBytes 1 p.kind.num ++ leBytes 1 (waitCode p).1 ++
    leBytes 8 p.stamp ++ sideBytes (p.defer[0]?) p.defer.length ++ sideBytes (p.defer[1]?) 0 ++
    leBytes 4 (match p.parked with
      | some d => d.mask.toNat
      | none => 0) ++ leBytes 4 (waitCode p).2 ++
    (match p.kind, p.trap with
     | .ordinary, _ => leBytes 128 0
     | _, some t => trapBytes t
     | _, none => leBytes 128 0)

/-- A cursor register (R188). WALK holds the root block of the list at the snapshot. -/
def cursorBytes (c : Cursor) : List Byte :=
  leBytes 4 c.head ++ leBytes 4 c.vtx ++ leBytes 4 c.snap ++ leBytes 4 c.ver ++ leBytes 4 c.rank ++ leBytes 4 c.deg ++
    leBytes 4 c.root ++ leBytes 36 0

def flagRow (g : Gang) (k : Nat) : Nat :=
  ((List.range 32).foldl (fun a l => if (rfl' g l).getLsbD k then a ||| laneBit l else a) (0 : Mask)).toNat

/-- The sections of an image after its header, with its paths in index order. -/
def imageBody (g : Gang) (ps : List Path) : List Byte :=
  let words := fun (n : Nat) (f : Nat → Nat) => (List.range n).flatMap (fun i => leBytes 4 (f i))
  words g.ns (rs g) ++
    words 12 (fun n => (Map.getD g.p n 0).toNat) ++ words 6 (flagRow g) ++ words 32 (fun l => (rrng g l).toNat) ++ words 14 (fun _ => 0) ++
    words (32 * g.nv) (fun i => rv g (i / 32) (i % 32)) ++ words (256 * g.nt) (fun i => rt g (i / 256) (i / 8 % 32) (i % 8)) ++
    (List.range 256).flatMap (fun i => cursorBytes (cursorAt g (i / 32) (i % 32))) ++
    (List.range 8).flatMap (fun n => match Map.find? g.pins n with
      | some p => leBytes 4 (p.oid + 2 ^ 31) ++ leBytes 4 p.min ++ leBytes 8 0
      | none => leBytes 16 0) ++
    leBytes 64 0 ++ ps.flatMap pathImage ++
    (List.range 8).flatMap (fun n => match g.arr[n]? with
      | some r => leBytes 4 r.off ++ leBytes 4 r.phase.toNat ++ leBytes 4 r.mask.toNat ++ leBytes 4 1
      | none => leBytes 16 0)

/-- VGREQ: the largest allocation, in units of 8, that a path of the gang is blocked for (R130, R291). -/
def vgreqOf (ps : List Path) : Nat :=
  ps.foldl (fun a p => match p.wait with
    | .growth n => Nat.max a (n / 8)
    | _ => a) 0

/-- The image header (R130) with a CRC of `crc`. -/
def imageHead (len : Nat) (g : Gang) (np vgreq crewNo crc : Nat) (retired : Bool) : List Byte :=
  leBytes 4 len ++ leBytes 1 g.no ++ leBytes 1 retired.toNat ++ leBytes 1 np ++ leBytes 1 (g.nv / 8) ++
    leBytes 4 g.live.toNat ++ leBytes 4 g.killed.toNat ++ leBytes 8 g.stamp ++
    leBytes 4 (g.scopeMiss.toNat + 2 * g.ftz.toNat + 4 * g.fpx.toNat) ++ leBytes 1 vgreq ++ leBytes 1 g.tabort.toNat ++
    leBytes 2 0 ++ leBytes 4 g.openB.num.toNat ++ leBytes 4 (crewNo % 2 ^ 32) ++ leBytes 4 crc ++ leBytes 212 0

/-- A gang's image (R129). -/
def gangImage (g : Gang) (ps : List Path) (crewNo : Nat) (retired : Bool) : List Byte :=
  let body := if retired then [] else imageBody g ps
  let np := if retired then 0 else ps.length
  let crc := crc32c (imageHead (256 + body.length) g np (vgreqOf ps) crewNo 0 retired ++ body)
  imageHead (256 + body.length) g np (vgreqOf ps) crewNo crc retired ++ body

/-! ### Save areas and pin records (R95, R164) -/

/-- Bytes that an image of a gang never exceeds. -/
def imageRoom (lr : LaunchRec) : Nat := 256 + 64 * lr.sregs + 256 + 1024 * lr.vmax + 1024 * lr.tiles + 16384 + 128 + 64 + 192 * 32 + 128

/-- Granules of the save area of a crew. -/
def areaSize (lr : LaunchRec) : Nat := cdiv (lr.gangs * imageRoom lr) 65536 + lr.acc + lr.scratch

/-- Save areas in use: first granule and size. -/
def areasUsed (s : State) : List (Nat × Nat) :=
  s.pre.map (fun p => (p.gran, p.size)) ++ (s.crews.filter (fun e => e.2.draining)).map (fun e => e.2.area)

/-- The lowest granules of the save pool free for an area. In an object that stands at a peer none can be allocated (DESIGN CHOICE, log
entry 30). -/
def freeArea (s : State) (n : Nat) : Option Nat :=
  let cap := ringCap s s.mg.savePool 65536
  if s.mg.savePool = 0 ∨ (entryOf s s.mg.savePool).home = 2 then none
  else (List.range (cap + 1)).find? (fun g => decide (g + n ≤ cap) && !(areasUsed s).any (fun u => decide (u.1 < g + n ∧ g < u.1 + u.2)))

/-- The records of the pin overflow table that hold no pin, as offsets (R164); a table that stands at a peer has none free (DESIGN
CHOICE, log entry 30). -/
def freePinRecs (s : State) : List Nat :=
  let e := entryOf s s.mg.pinOvf
  if s.mg.pinOvf = 0 ∨ !e.ok ∨ e.kind ≠ 1 ∨ e.home = 2 then []
  else ((List.range (e.size / 16)).map (16 * ·)).filter (fun o => !(objNat s (deviceWho 0) (addrOf s.mg.pinOvf o) 4).testBit 31)

/-- The pins a crew holds: gang number, pin number, pin. -/
def crewPins (s : State) (ck : Nat) : List (Nat × Nat × Pin) :=
  (gangsOfCrew s ck).flatMap (fun e => e.2.pins.map (fun p => (e.2.no, p.1, p.2)))

/-- Pin records that the crews already draining will take (R164). -/
def pinsDue (s : State) : Nat :=
  (s.crews.filter (fun e => e.2.draining)).foldl (fun a e => a + (crewPins s e.1).length) 0

/-- Begins a drain, if a save area and pin records can be had (R94, R95, R164). -/
def beginDrain (s : State) (ck : Nat) : Option State :=
  let c := crewAt s ck
  if c.draining then some s
  else
    let n := areaSize (runAt s c.run).lr
    let pins := (crewPins s ck).length
    match freeArea s n with
    | none => none
    | some g =>
      if pins ≠ 0 ∧ (freePinRecs s).length < pinsDue s + pins then none
      else
        let s := onCrew s ck (fun c => { c with draining := true, area := (g, n) })
        let s := bumpRange s (16 * (ck / 16)) (16 * (ck / 16) + 16) 0x041 1 none
        some (endReclaims s (fun e => e.crew == ck))

/-- Begins the drains of several crews, all or none. -/
def beginDrains (s : State) (cks : List Nat) : Option State := cks.foldlM beginDrain s

/-- A side stands where a drain may save it (R94): at a clause boundary, or within a clause in a wait that is not over. -/
def rests (s : State) (gk : Nat) (clause : Option Clause) (w : Wait) : Bool :=
  let g := gangAt s gk
  clause.isNone || (match w with
    | .barrier off ph => (barAt s g.crew off).phase == ph.toNat
    | .batch n => g.closed.any (fun b => decide ((n - b.num).toNat < 2 ^ 31))
    | .growth _ => true
    | .arrival => decide (8 ≤ g.arr.length)
    | .port c => !portRoom s c
    | _ => false)

/-- An entry's running side and its deferred sides all stand where a drain may save them (R94, R116). -/
def drained (s : State) (p : Path) : Bool :=
  !transPending s p && rests s p.gang p.clause p.wait && p.defer.all (fun d => rests s p.gang d.clause d.wait)

/-- Every operation of the crew has completed and every path has stopped. -/
def drainReady (s : State) (ck : Nat) : Bool :=
  (crewAt s ck).draining && !s.eng.any (fun e => e.2.crew == ck && (match e.2.kind with
      | .reclaim oid => !s.reclaims.any (fun r => r.oid == oid && r.searched)
      | _ => true)) &&
    (gangsOfCrew s ck).all (fun e => e.2.ops.isEmpty && e.2.live != 0 && (pathsOfGang s e.1).all (fun x => drained s x.2))

/-- A crew, its gangs and its paths leave the core. -/
def dropCrew (s : State) (ck : Nat) : State :=
  let gs := gangsOfCrew s ck
  let mine := fun (p : Path) => gs.any (fun e => e.1 == p.gang)
  { s with paths := s.paths.filter (fun e => !mine e.2),
           gangs := s.gangs.filter (fun e => e.2.crew != ck),
           crews := Map.del s.crews ck,
           peerOps := s.peerOps.filter (fun o => match o.owner with
             | .lane g _ _ _ => !gs.any (fun e => e.1 == g)
             | .fetch g _ _ => !gs.any (fun e => e.1 == g)
             | _ => true) }

/-- Writes a run of bytes into a save area, its poison beside it. -/
def areaPut (s : State) (gran off : Nat) (bs : List Byte) : State := devStore s (addrOf s.mg.savePool (65536 * gran + off)) bs

/-- The words of an accumulator tile of a core. -/
def tileBase (core tile : Nat) : Nat := (core * 64 + tile) * 16384

/-- Writes an accumulator tile or a granule of the Plain into a granule of the area. -/
def saveTile (s : State) (base gran : Nat) : State :=
  let t := areaPut s gran 0 ((List.range 16384).flatMap (fun i => leBytes 4 (Map.getD s.acc (base + i) 0).toNat))
  (List.range 1024).foldl (fun t i => if Map.getD s.accPoison (base / 16 + i) false then
    poisonByte t (deviceWho 0) (addrOf s.mg.savePool (65536 * gran + 64 * i)) else t) t

def saveGranule (s : State) (base gran : Nat) : State :=
  let t := areaPut s gran 0 ((List.range 65536).map (fun i => Map.getD s.plain (base + i) Config.emptyByte))
  (List.range 1024).foldl (fun t i => if Map.getD s.plainPoison (base / 64 + i) false then
    poisonByte t (deviceWho 0) (addrOf s.mg.savePool (65536 * gran + 64 * i)) else t) t

/-- Writes the pins of a crew to the overflow table (R164). -/
def savePins (s : State) (ck gran : Nat) : State :=
  ((crewPins s ck).zip (freePinRecs s)).foldl (fun t x =>
    devStore t (addrOf s.mg.pinOvf x.2)
      (leBytes 4 (x.1.2.2.oid + 2 ^ 31) ++ leBytes 4 x.1.2.2.min ++ leBytes 4 gran ++ leBytes 4 (x.1.2.1 + 256 * x.1.1))) s

/-- What no image holds of a gang. -/
def hideGang (g : Gang) : Gang := { g with v := [], s := [], p := [], t := [], cur := [], flags := [], rng := [], pins := [], arr := [] }

/-- The release sequences of a crew's scratchpad, by crew-relative byte (R96, R244). -/
def crewRels (s : State) (core : Nat) (gran : List Nat) : Map Rel :=
  (gran.zip (List.range gran.length)).flatMap (fun x =>
    (s.rels.filter (fun e => e.1 % 4 == 0 && e.1 / 4 / 65536 == core * 64 + x.1)).map (fun e => (x.2 * 65536 + e.1 / 4 % 65536, e.2)))

/-- Saves a drained crew and frees its slot (R94, R95). -/
def saveCrew (s : State) (ck : Nat) : State :=
  let c := crewAt s ck
  let core := ck / 16
  let lr := (runAt s c.run).lr
  let gs := gangsOfCrew s ck
  let paths := fun (gk : Nat) => (pathsOfGang s gk).map (·.2)
  let images := (List.range c.ng).flatMap (fun n =>
    match List.find? (fun (e : Nat × Gang) => e.2.no == n) gs with
    | some e => gangImage e.2 (paths e.1) c.no false
    | none =>
      let g := (c.gone.find? (fun g => g.no == n)).getD { Gang.blank with no := n }
      gangImage { g with nv := 0, ns := 0, nt := 0 } [] c.no true)
  let (gran, size) := c.area
  let t := savePins (endReclaims s (fun e => e.crew == ck)) ck gran
  let t := areaPut t gran 0 images
  let first := gran + cdiv images.length 65536
  let t := (c.tiles.zip (List.range c.tiles.length)).foldl (fun u x => saveTile u (tileBase core x.1) (first + x.2)) t
  let t := (c.gran.zip (List.range c.gran.length)).foldl (fun u x =>
    saveGranule u (core * 0x400000 + 65536 * x.1) (first + lr.acc + x.2)) t
  let keys := (s.paths.filter (fun e => gs.any (fun x => x.1 == e.2.gang))).map (·.1)
  let p : PreCrew :=
    { run := c.run, no := c.no, gran := gran, size := size, core := core, sameCore := s.mg.ckptBusy, saved := s.mg.ckptBusy, ng := c.ng,
      nvs := gs.map (fun e => e.2.nv), npaths := keys.length, tiles := c.tiles, scratch := c.gran, bars := c.bars,
      gone := c.gone, released := [], hidG := gs.map (fun e => hideGang e.2), hidP := gs.flatMap (fun e => (paths e.1).map (fun q => (e.2.no, q))),
      rels := crewRels s core c.gran }
  let t := dropCrew t ck
  keys.foldl freeEntry { t with pre := t.pre ++ [p] }

/-- DRAIN_COMPLETE (R94): its writes of the pin overflow table and of the save area find room, so that they are performed before the
Mirror entries are withdrawn and the crew's slot is freed. -/
def execDrainComplete (c : Nat) (s : State) : Host.Outcome State Fault Refusal :=
  event s (fun s =>
    if drainReady s c ∧ (crewPins s c).length ≤ (freePinRecs s).length then
      let t := saveCrew s c
      if t.devQ.isEmpty then t else s
    else s)

/-! ### Resumption (R96, R133) -/

/-- The clause a path stands in at an address that is no clause's header: the nearest header before it that reaches it.
Used where only the image is left of a path. -/
def clauseBack (s : State) (w : Who) (pc : DWord) : Option Clause :=
  (List.range 16).findSome? (fun d =>
    let h := pc - BitVec.ofNat 64 (8 * (d + 1))
    match fetchAt s w h.toNat with
    | .word x => match parseHeader x with
      | some hd => if d ≤ hd.n then
          some { hdr := h, n := hd.n, cls := hd.cls, yld := hd.yld, sets := hd.sets,
                 words := (List.range (hd.n + 1)).map (fun i => fetchAt s w (h.toNat + 8 * (i + 1))), slot := d, uid := 0 }
        else none
      | none => none
    | _ => none)

/-- `none` at a header. -/
def clauseAt (s : State) (w : Who) (pc : DWord) : Option Clause :=
  match fetchAt s w pc.toNat with
  | .word x => if (parseHeader x).isSome then none else clauseBack s w pc
  | _ => none

def TrapCode.ofNum (n : Nat) : TrapCode :=
  ([.firstTouch, .illegalOp, .illegalClause, .priv, .bounds, .objectInvalid, .protect, .align, .poison, .rangeLocked,
    .remoteLost, .pageHost, .uniformSplit, .pairAlign, .pathLimit, .gwaitMismatch, .engineAbort, .barrierMember,
    .graphBounds, .cursorState, .fpEnabled, .user, .brk, .watch] : List TrapCode).getD n .illegalOp

/-- A trap record from its image (R141). Where only the image is left, a trap that rows 2 to 7 of R269 or the gang's wait itself may raise
is taken to have come before that wait was met (DESIGN CHOICE, log entry 33). -/
def trapOf (bs : List Byte) (clause : Option Clause) (stray : Bool) (met : Option Bool) : TrapRec :=
  let n := fun o k => leNat ((bs.drop o).take k)
  let pc := BitVec.ofNat 64 (n 8 8)
  let early : List Nat := [1, 2, 3, 13, 15]
  { code := TrapCode.ofNum (n 0 2), cslot := n 2 1, fmask := BitVec.ofNat 32 (n 4 4), pc := pc, rmask := BitVec.ofNat 32 (n 16 4),
    lcode := (List.range (n 3 1)).map (fun k => TrapCode.ofNum (n (24 + k) 1)),
    extra := (List.range 8).map (fun k => BitVec.ofNat 32 (n (32 + 4 * k) 4)),
    laddr := (List.range 8).map (fun k => BitVec.ofNat 64 (n (64 + 8 * k) 8)), clause := clause,
    hdr := (clause.map (·.hdr)).getD pc, stray := stray, met := met.getD (!early.contains (n 0 2)) }

/-- The instruction that a path within a clause stands at. -/
def standsOn (p : Path) : Option Instr :=
  match p.clause.bind (fun c => c.words[c.slot]?) with
  | some (.word x) => decode x
  | _ => none

/-- A path from its image (R132): `hid` is the path as it stood, where the launch unit still knows it and the image agrees
with it. The state is the one the crew's scratchpad and the gang have been restored in; `freed` are the breakpoints released meanwhile, `u` is a fresh
path number. -/
def pathOf (s : State) (ck gk : Nat) (bs : List Byte) (vgreq : Nat) (hid : Option Path) (freed : List Nat) (u : Nat) : Path :=
  let n := fun o k => leNat ((bs.drop o).take k)
  let pc := BitVec.ofNat 64 (n 0 8)
  let kind := PathKind.ofNum (n 14 1)
  let known := hid.filter (fun p => p.pc == pc && p.kind == kind)
  let w : Who := { crew := some ck, core := ck / 16, slot := gk % 64, sup := kind == .sup, use := .fetch, noWatch := false, run := 0 }
  let side := fun (o k : Nat) =>
    let spc := BitVec.ofNat 64 (n o 8)
    let was := (known.bind (fun p => p.defer[k]?)).filter (fun d => d.pc == spc)
    match was with
    | some d => { d with mask := BitVec.ofNat 32 (n (o + 8) 4), depth := n (o + 12) 2 }
    | none => ({ pc := spc, mask := BitVec.ofNat 32 (n (o + 8) 4), depth := n (o + 12) 2, clause := clauseAt s w spc, wait := .none,
                 kind := .ordinary, parked := none, trap := none, stray := false, arrived := none, prog := Prog.fresh (u + 1 + k),
                 again := false } : Side)
  let trap : Option TrapRec := if kind = .ordinary then none
    else
      let tb := (bs.drop 64).take 128
      match known.bind (·.trap) with
      | some t => some (trapOf tb t.clause t.stray (some t.met))
      | none =>
        let tpc := BitVec.ofNat 64 (leNat ((tb.drop 8).take 8))
        some (trapOf tb (clauseAt s w tpc) false none)
  let p := known.getD { Path.at gk pc 0 0 0 with prog := Prog.fresh u, clause := clauseAt s w pc, vectored := kind == .ordinary || trap.any (fun t => t.pc != pc) }
  let parkMask := BitVec.ofNat 32 (n 56 4)
  let parked : Option Parked := if parkMask = 0 then none
    else match known.bind (·.parked) with
      | some d => some { d with mask := parkMask }
      | none =>
        let at0 : Path := { Path.at gk ((trap.map (·.pc)).getD pc) 0 0 0 with clause := trap.bind (·.clause) }
        let xfer := (standsOn at0).any (fun i => (shapeOf i).xfer)
        let (npc, ncl) := if xfer then (at0.pc, at0.clause) else nextPos at0
        some { pc := npc, mask := parkMask, depth := n 12 2, clause := ncl, xfer := xfer, stray := false, prog := Prog.fresh (u + 3) }
  let off := n 60 4
  let phase := BitVec.ofNat 32 (barAt s ck off).phase
  let sent : Option Word := match standsOn p with
    | some (.baraw _) => some ((((gangAt s gk).arr.find? (fun r => r.off == off)).map (·.phase)).getD phase)
    | _ => none
  let wait : Wait := match n 15 1 with
    | 1 => .barrier off (match known.map Path.wait with
        | some (.barrier _ ph) => ph
        | _ => sent.getD phase)
    | 2 => .gang
    | 3 => .batch (BitVec.ofNat 32 (n 60 4))
    | 4 => match known.map Path.wait with
        | some (.growth m) => .growth m
        | _ => .growth (8 * vgreq)
    | 5 => match known.map Path.wait with
        | some (.parked t) => .parked t
        | some w => w
        | none => .parked s.nextTag
    | 6 => if freed.contains (n 60 4) then .none else .held (n 60 4)
    | _ => .none
  { p with gang := gk, pc := pc, mask := BitVec.ofNat 32 (n 8 4), depth := n 12 2, kind := kind, wait := wait,
           stamp := n 16 8, defer := ([side 24 0, side 40 1]).take (n 38 1), parked := parked,
           trap := match trap, known.bind (·.trap) with
             | some t, some k => some (if wait = .none ∧ n 15 1 = 5 then { t with extra := k.extra } else t)
             | t, _ => t,
           slot := none, urgent := none, swapHint := false, claimed := none,
           arrived := if n 15 1 = 1 ∧ known.isNone then sent else p.arrived }

/-- Whether an image is whole: its CRC matches and no sector of it is poisoned (R133). -/
def imageOk (s : State) (a : Nat) : Bool :=
  let w := deviceWho 0
  let len := objNat s w a 4
  decide (256 ≤ len ∧ len % 64 = 0 ∧ len ≤ 1048576) && !rangePoisoned s w a len &&
    (let bs := loadBytes s w a len
     crc32c (bs.take 40 ++ leBytes 4 0 ++ bs.drop 44) == leNat ((bs.drop 40).take 4))

/-- The bytes of the images at `as`, which begin at `a`: tiles and scratchpad follow from the next 64 KiB boundary (R95). -/
def imagesLen (s : State) (a : Nat) (as : List Nat) : Nat :=
  ((as.getLast?).map (fun x => x + objNat s (deviceWho 0) x 4 - a)).getD 0

/-- The addresses of a crew's images, or none where one is damaged. -/
def imagesAt (s : State) : Nat → Nat → Option (List Nat)
  | 0, _ => some []
  | n + 1, a => if imageOk s a then (imagesAt s n (a + objNat s (deviceWho 0) a 4)).map (a :: ·) else none

/-- The addresses of the images of `n` gangs as their lengths lead from one to the next, damaged or not. -/
def headsAt (s : State) : Nat → Nat → List Nat
  | 0, _ => []
  | n + 1, a =>
    let len := objNat s (deviceWho 0) a 4
    if 256 ≤ len ∧ len % 64 = 0 ∧ len ≤ 1048576 then a :: headsAt s n (a + len) else []

/-- A cursor from its bytes (R188); `was` is the cursor as it stood, where the launch unit still knows it. A WALK of zero is found again
from RANK, in the list as it stood at the snapshot. -/
def cursorOf (s : State) (bs : List Byte) (was : Option Cursor) : Cursor :=
  let n := fun o k => leNat ((bs.drop o).take k)
  let h := n 0 4
  let c : Cursor := { oid := h % 2 ^ 24, st := bitsN h 24 2, dir := bitsN h 26 1, slot := bitsN h 27 3, vtx := n 4 4, snap := n 8 4,
                      ver := n 12 4, rank := n 16 4, deg := n 20 4, root := n 24 4 }
  if c.st ≠ 0 ∧ c.root = 0 ∧ c.deg ≠ 0 then
    match was.filter (fun x => { x with st := c.st, slot := c.slot, rank := c.rank, root := 0 } == c) with
    | some x => { c with root := x.root }
    | none => { c with root := snapRoot s c.oid c.vtx (c.dir == 1) c.snap c.ver c.deg }
  else c

/-- A gang from its image, in a new slot (R129 to R134). -/
def gangOf (s : State) (ck gk : Nat) (lr : LaunchRec) (bs : List Byte) (hid : Option Gang) : Gang :=
  let n := fun o k => leNat ((bs.drop o).take k)
  let ns := 16 * lr.sregs
  let nv := 8 * n 7 1
  let nt := lr.tiles
  let base : Gang := { hid.getD Gang.blank with
    core := ck / 16, slot := gk % 64, crew := ck, no := n 4 1, stamp := n 16 8, nv := nv, ns := ns, nt := nt,
    live := BitVec.ofNat 32 (n 8 4), killed := BitVec.ofNat 32 (n 12 4), scopeMiss := (n 24 4).testBit 0,
    ftz := (n 24 4).testBit 1, fpx := (n 24 4).testBit 2, tabort := BitVec.ofNat 8 (n 29 1), tpend := 0,
    openB := Batch.fresh (BitVec.ofNat 32 (n 32 4)), closed := [], undeliv := 0x0F, ops := [] }
  let oP := 256 + 4 * ns
  let oV := oP + 256
  let oT := oV + 128 * nv
  let oC := oT + 1024 * nt
  let oPin := oC + 16384
  let oArr := oPin + 128 + 64 + 192 * n 6 1
  let g := (List.range ns).foldl (fun g i => ws g i (n (256 + 4 * i) 4)) base
  let g := (List.range 12).foldl (fun (g : Gang) i => { g with p := Map.setD g.p i (BitVec.ofNat 32 (n (oP + 4 * i) 4)) 0 }) g
  let g := (List.range 32).foldl (fun g l =>
    wrng (wfl g l ((List.range 6).foldl (fun a k => if (n (oP + 48 + 4 * k) 4).testBit l then a ||| (1 <<< k) else a) 0)) l
      (BitVec.ofNat 32 (n (oP + 72 + 4 * l) 4))) g
  let g := (List.range (32 * nv)).foldl (fun g i => wv g (i / 32) (i % 32) (n (oV + 4 * i) 4)) g
  let g := (List.range (256 * nt)).foldl (fun g i => wt g (i / 256) (i / 8 % 32) (i % 8) (n (oT + 4 * i) 4)) g
  let g := (List.range 256).foldl (fun g i => putCursor g (i / 32) (i % 32) (cursorOf s ((bs.drop (oC + 64 * i)).take 64) (hid.bind (fun h => Map.find? h.cur i)))) g
  let g := (List.range 8).foldl (fun (g : Gang) i => if (n (oPin + 16 * i) 4).testBit 31 then
      { g with pins := Map.put g.pins i { oid := n (oPin + 16 * i) 4 % 2 ^ 24, min := n (oPin + 16 * i + 4) 4 } } else g) g
  { g with arr := (List.range 8).filterMap (fun i => let o := oArr + 16 * i
      if (n (o + 12) 4).testBit 0 then
        some { off := n o 4, phase := BitVec.ofNat 32 (n (o + 4) 4), mask := BitVec.ofNat 32 (n (o + 8) 4) }
      else none) }

/-- Restores one gang and its paths from the image at `a`. -/
def resumeGang (s : State) (ck : Nat) (lr : LaunchRec) (p : PreCrew) (a : Nat) : State :=
  let w := deviceWho 0
  let bs := loadBytes s w a (objNat s w a 4)
  let no := leNat ((bs.drop 4).take 1)
  if leNat ((bs.drop 5).take 1) = 1 then s
  else match Map.lowestFree s.gangs (ck / 16 * 64) 64 with
    | none => s
    | some gk =>
      let g := gangOf s ck gk lr bs (p.hidG.find? (fun g => g.no == no))
      let s := { s with gangs := Map.put s.gangs gk g }
      let np := leNat ((bs.drop 6).take 1)
      let o := 256 + 4 * g.ns + 256 + 128 * g.nv + 1024 * g.nt + 16384 + 128 + 64
      let hid := (p.hidP.filter (fun x => x.1 == no)).map (·.2)
      (List.range np).foldl (fun t j =>
        match freePath t (ck / 16) with
        | none => t
        | some pk =>
          let q := pathOf t ck gk ((bs.drop (o + 192 * j)).take 192) (leNat ((bs.drop 28).take 1)) (hid[j]?) p.released t.nextUid
          let t := setPath { t with nextUid := t.nextUid + 4 } pk q
          if q.wait = .parked t.nextTag then
            let r := q.trap.map (·.extra) |>.getD []
            { t with nextTag := t.nextTag + 1,
                     svcs := t.svcs ++ [{ tag := t.nextTag, kind := [1, 2, 6].getD (r.getD 2 0).toNat 1, oid := (r.getD 0 0).toNat,
                                          page := (r.getD 1 0).toNat, eng := none, posted := false }] }
          else t) s

/-- The breakpoints that hold paths of a pre-empted crew, as its images have them (R105, R132). -/
def heldIn (s : State) (p : PreCrew) : List Nat :=
  let w := deviceWho 0
  let lr := (runAt s p.run).lr
  (((imagesAt s p.ng (addrOf s.mg.savePool (65536 * p.gran))).getD []).flatMap (fun a =>
    let o := a + 256 + 64 * lr.sregs + 256 + 1024 * objNat s w (a + 7) 1 + 1024 * lr.tiles + 16384 + 128 + 64
    if objNat s w (a + 5) 1 = 1 then []
    else (List.range (objNat s w (a + 6) 1)).filterMap (fun j =>
      if objNat s w (o + 192 * j + 15) 1 = 6 then some (objNat s w (o + 192 * j + 60) 4) else none))).filter
        (fun n => !p.released.contains n)

/-- Removes the crew's records from the pin overflow table (R96). -/
def dropPinRecs (s : State) (gran : Nat) : State :=
  let e := entryOf s s.mg.pinOvf
  if s.mg.pinOvf = 0 ∨ !e.ok ∨ e.kind ≠ 1 then s
  else (List.range (e.size / 16)).foldl (fun t i =>
    let a := addrOf s.mg.pinOvf (16 * i)
    if (objNat t (deviceWho 0) a 4).testBit 31 ∧ objNat t (deviceWho 0) (a + 8) 4 = gran then
      devStore t a (leBytes 16 0) else t) s

/-- Reads a granule of the area back into an accumulator tile, its poison with it. -/
def loadTile (s : State) (base gran : Nat) : State :=
  let a := addrOf s.mg.savePool (65536 * gran)
  let t := (List.range 16384).foldl (fun (t : State) i =>
    { t with acc := Map.setD t.acc (base + i) (BitVec.ofNat 32 (objNat s (deviceWho 0) (a + 4 * i) 4)) 0 }) s
  (List.range 1024).foldl (fun (t : State) i =>
    { t with accPoison := Map.setD t.accPoison (base / 16 + i) (rangePoisoned s (deviceWho 0) (a + 64 * i) 64) false }) t

/-- Reads a granule of the scratchpad back, `i`-th of its crew, with its release sequences. -/
def loadGranule (s : State) (base gran i : Nat) (rels : Map Rel) : State :=
  let a := addrOf s.mg.savePool (65536 * gran)
  let t := plainPut s base (loadBytes s (deviceWho 0) a 65536)
  let stays := t.rels.filter (fun e => !(e.1 % 4 == 0 && decide (4 * base ≤ e.1 ∧ e.1 < 4 * (base + 65536))))
  let back := (rels.filter (fun e => e.1 / 65536 == i)).foldl (fun m e => Map.put m (4 * (base + e.1 % 65536)) e.2) stays
  let t := { t with rels := back }
  (List.range 1024).foldl (fun (t : State) i =>
    { t with plainPoison := Map.setD t.plainPoison (base / 64 + i) (rangePoisoned s (deviceWho 0) (a + 64 * i) 64) false }) t

/-- A crew whose image is damaged: every live lane counts as killed and the crew has retired (R133). A gang that a kill has counted
already counts no more (R62); a store that one of them has lost shows in the run (R44). -/
def lostCrew (s : State) (p : PreCrew) : State :=
  let s := dropPinRecs s p.gran
  let fresh := p.nvs.length - (p.hidG.filter (fun g => g.killed != 0)).length
  let lost := p.hidG.any (fun g => !g.lost.isEmpty)
  let s := onRun s p.run (fun r =>
    { r with killed := r.killed + fresh, killCode := if fresh = 0 then r.killCode else some (r.killCode.getD .poison),
             remoteLost := r.remoteLost || lost })
  crewRetired s p.run

/-- Resumes a pre-empted crew on a core (R96); `seat` gives it its former granules and tiles. -/
def resumeOn (s : State) (p : PreCrew) (core : Nat) (seat : Bool) : State :=
  let lr := (runAt s p.run).lr
  let s := { s with pre := s.pre.filter (fun x => !(x.run == p.run && x.no == p.no)) }
  let a := addrOf s.mg.savePool (65536 * p.gran)
  match imagesAt s p.ng a with
  | none => lostCrew s p
  | some as =>
    let c : Crew := { Crew.blank with run := p.run, no := p.no, ng := p.ng, bars := p.bars, gone := p.gone }
    match seatCrew s core c lr.scratch lr.acc with
    | none => s
    | some (ck, s) =>
      let s := if seat then onCrew s ck (fun c => { c with gran := p.scratch, tiles := p.tiles }) else s
      let c := crewAt s ck
      let first := p.gran + cdiv (imagesLen s a as) 65536
      let s := (c.tiles.zip (List.range c.tiles.length)).foldl (fun u x => loadTile u (tileBase core x.1) (first + x.2)) s
      let s := (c.gran.zip (List.range c.gran.length)).foldl (fun u x =>
        loadGranule u (core * 0x400000 + 65536 * x.1) (first + lr.acc + x.2) x.2 p.rels) s
      let s := as.foldl (fun t x => resumeGang t ck lr p x) s
      serviceFull (dropPinRecs s p.gran)

/-- CREW_RESUME (R96): the `k`-th pre-empted crew, when the launch unit has reached it. A co-resident run resumes whole. -/
def execCrewResume (k : Nat) (s : State) : Host.Outcome State Fault Refusal :=
  event s (fun s =>
    match placing s, s.pre[k]? with
    | some (_, some p), some q =>
      if p.run = q.run ∧ p.no = q.no then
        let all := if (runAt s p.run).lr.cor then preOf s p.run else [p]
        all.foldl (fun t x => match resumeCore t x with
          | some c => resumeOn t x c false
          | none => t) s
      else s
    | _, _ => s)

/-- A write of SAVEPOOL (R95). A crew that drains has its save area already and counts as pre-empted. -/
def writeSavepool (s : State) (v : Nat) : State :=
  if s.pre.isEmpty ∧ !s.crews.any (fun e => e.2.draining) then onMg s (fun m => { m with savePool := v % 2 ^ 24 }) else s
/-- SAVEPOOL_WRITE (R95). -/
def execSavepoolWrite (v : BitVec 32) (s : State) : Host.Outcome State Fault Refusal :=
  regEvent s (fun s => writeSavepool s v.toNat)

/-! ### Growth (R91, R92) and priority (R93) -/

/-- Grants a gang an allocation of `n`: the paths it serves may try VGROW again (R291). -/
def growthGrant (s : State) (gk n : Nat) : State :=
  let nv := Nat.max (gangAt s gk).nv n
  let s := onGang s gk (fun g => { g with nv := nv })
  { s with paths := s.paths.map (fun e => (e.1, if e.2.gang = gk then
      (match e.2.wait with
       | .growth m => if m ≤ nv then { e.2 with wait := .none } else e.2
       | _ => e.2) else e.2)) }

/-- The oldest blocked request of a core: its gang and its registers (R91). -/
def oldestWant (s : State) (core : Nat) : Option (Nat × Gang × Nat) :=
  (blockedGrowth s core).head?.bind (fun e => (growthWants s e.1).head?.map (fun w => (e.1, e.2, w.2)))

/-- VGROW_GRANT (R91). -/
def execVgrowGrant (g : Nat) (s : State) : Host.Outcome State Fault Refusal :=
  event s (fun s =>
    match oldestWant s (g / 64) with
    | some (k, _, n) => if k = g ∧ growthFits s g n then growthGrant s g n else s
    | none => s)

/-- The stamp of a crew's gang 0. -/
def crewStamp (s : State) (ck : Nat) : Nat :=
  match gangsOfCrew s ck with
  | e :: _ => e.2.stamp - e.2.no
  | [] => 0

/-- The crews of a co-resident run, or the crew alone. -/
def drainSet (s : State) (ck : Nat) : List Nat :=
  let rk := (crewAt s ck).run
  if (runAt s rk).lr.cor then (s.crews.filter (fun e => e.2.run == rk)).map (·.1) else [ck]

/-- The youngest of some crews. -/
def youngest (s : State) (cks : List Nat) : Option Nat := leastBy (fun a b => decide (crewStamp s b < crewStamp s a)) cks

/-- The crew that a growth deadlock pre-empts among `others`, where `blocked` are those that hold a blocked gang: crews of co-resident
runs are exempt from both steps while any other qualifies (R92). -/
def victim (s : State) (others blocked : List Nat) : Option Nat :=
  let free := fun (cks : List Nat) => cks.filter (fun ck => !(runAt s (crewAt s ck).run).lr.cor)
  ([free blocked, free others, blocked, others].find? (fun cks => !cks.isEmpty)).bind (youngest s)

/-- A growth deadlock: every resident gang of the core is blocked, or one is and no path of the core can issue (R92). -/
def growthStuck (s : State) (core : Nat) : Bool :=
  let gs := (gangsOn s core).filter (fun e => e.2.live != 0)
  !(blockedGrowth s core).isEmpty &&
    (gs.all (fun e => !(growthWants s e.1).isEmpty) || !(inRange s.paths (core * 512) (core * 512 + 512)).any (fun e => ready s e.1 e.2))

/-- GROWTH_DEADLOCK_BREAK (R92): the first step that applies. -/
def execGrowthDeadlockBreak (core : Nat) (s : State) : Host.Outcome State Fault Refusal :=
  event s (fun s =>
    if !growthStuck s core ∨ (crewsOn s core).any (fun e => e.2.draining) then s
    else match oldestWant s core with
      | none => s
      | some (gk, g, n) =>
        if 128 * (n - g.nv) ≤ freeV s core then growthGrant s gk n
        else
          let others := ((crewsOn s core).map (·.1)).filter (fun ck => ck != g.crew)
          let blocked := others.filter (fun ck => (blockedGrowth s core).any (fun e => e.2.crew == ck))
          match victim s others blocked with
          | none => s
          | some ck => (beginDrains s (drainSet s ck)).getD s)

/-- The room of a core once some of its crews have left. -/
def roomWithout (s : State) (core : Nat) (cks : List Nat) : Room := roomOf (cks.foldl dropCrew s) core

/-- Crews of a core that may be pre-empted for priority, youngest first (R93). -/
def yielders (s : State) (core : Nat) : List Nat :=
  sortBy (fun a b => decide (crewStamp s b < crewStamp s a))
    (((crewsOn s core).filter (fun e => decide (2 ≤ (runAt s e.2.run).cls) && !(runAt s e.2.run).lr.cor)).map (·.1))

/-- The sublists of `k` elements. -/
def picks : Nat → List Nat → List (List Nat)
  | 0, _ => [[]]
  | _ + 1, [] => []
  | k + 1, x :: xs => (picks k xs).map (x :: ·) ++ picks (k + 1) xs

/-- What the crews need that a run would place or resume next (R78, R63): one, or every one of a co-resident run. -/
def needsOf (s : State) (rk : Nat) (r : Run) : List Room :=
  let need := launchNeed r.lr (r.lr.vinit * 1024)
  match preOf s rk with
  | p :: ps => if r.lr.cor then (p :: ps).map (preNeed s) else [preNeed s p]
  | [] => if r.lr.cor && r.next == 0 then List.replicate r.lr.crews need else [need]

/-- The fewest of a core's crews whose going lets crews with these needs all fit, the youngest among equally many. -/
def toYield (s : State) (needs : List Room) (core : Nat) : Option (List Nat) :=
  let ys := yielders s core
  ((List.range (ys.length + 1)).flatMap (fun k => picks k ys)).find? (fun cks =>
    allFit ((roomsNow s).map (fun x => if x.1 = core then (core, roomWithout s core cks) else x)) needs)

/-- The crews whose pre-emption makes room for the first crew of a run that does not fit (R93): on the core that takes the fewest. -/
def priorityFor (s : State) (rk : Nat) (r : Run) : Option (List Nat) :=
  let ns := needsOf s rk r
  match (List.range ns.length).find? (fun k => !allFit (roomsNow s) (ns.take (k + 1))) with
  | none => none
  | some k =>
    let opts := ((List.range s.deal.length).filter (placeable s)).filterMap (fun c => (toYield s (ns.take (k + 1)) c).map (fun x => (c, x)))
    (leastBy (fun (a b : Nat × List Nat) => decide (a.2.length < b.2.length)) opts).map (·.2)

/-- PRIORITY_PREEMPT (R93): an eligible class-0 launch has been unable to place its next crew. -/
def execPriorityPreempt (s : State) : Host.Outcome State Fault Refusal :=
  event s (fun s =>
    if s.mg.tripped ∨ s.mg.ckptBusy ∨ s.mg.restored ∨ s.crews.any (fun e => e.2.draining) then s
    else match ((eligibleRuns s).filter (fun e => e.2.cls == 0)).findSome? (fun e => priorityFor s e.1 e.2) with
      | some cks => (beginDrains s cks).getD s
      | none => s)

end Sys2Proof.Machine
end

