-- ==== Sys2Proof/Machine/Sched.lean ====
section
/-! DEFINITION. The quadrant scheduler, clause fetch, merging, the Lens, and what a step does next (R82 to R86, R100, R101,
R105, R113 to R116, R252 to R256, R269, R279). -/

namespace Sys2Proof.Machine

/-! ### The active set (R83 to R86) -/

/-- The paths of a quadrant (core·4 + quadrant), as R82 binds them. -/
def quadPaths (s : State) (q : Nat) : Map Path :=
  (inRange s.paths (q / 4 * 512) (q / 4 * 512 + 512)).filter (fun e => quadOf s e.2.gang == q % 4)

/-- The launch class of a path's crew. -/
def pathClass (s : State) (p : Path) : Nat := (runAt s (crewAt s (gangAt s p.gang).crew).run).cls

/-- The order of R85. -/
def rankBefore (s : State) (a b : Nat × Path) : Bool :=
  match a.2.urgent, b.2.urgent with
  | some x, some y => decide (x < y) || (x == y && decide (a.1 < b.1))
  | some _, none => true
  | none, some _ => false
  | none, none =>
    decide (pathClass s a.2 < pathClass s b.2) || (pathClass s a.2 == pathClass s b.2 && older a b)

/-- The ready paths of a quadrant that stand in the pending set. -/
def readyPending (s : State) (q : Nat) : Map Path := (quadPaths s q).filter (fun e => e.2.slot.isNone && ready s e.1 e.2)

/-- The WAIT flags of the header a path stands before are not all clear (R126, R252). -/
def flagWait (s : State) (pk : Nat) (p : Path) : Bool :=
  p.clause.isNone && (match fetchAt s (pathWho s pk p) p.pc.toNat with
    | _ => false)

/-- An active path at a clause boundary is about to wait long, or has been told to leave (R84, R256): on a flag, at WAITG or at a
breakpoint. A path within a clause stays in the active set until that clause ends, also in the long waits of R291, R334 and R338 (R83;
log entry 31). -/
def leavesSlot (s : State) (pk : Nat) (p : Path) : Bool :=
  p.clause.isNone && (p.swapHint || (match p.wait with
    | .gang => !waitOver s pk p
    | .held _ => true
    | _ => flagWait s pk p))

/-- An urgent pending path still claims this path's slot (R86). -/
def claimHolds (s : State) (p : Path) : Bool :=
  p.claimed.any (fun k => (Map.find? s.paths k).any (fun x => x.slot.isNone && x.urgent.isSome && ready s k x))

/-- The urgent pending path that has claimed this path's slot still waits, ready or not. -/
def claimKept (s : State) (p : Path) : Bool :=
  p.claimed.any (fun k => (Map.find? s.paths k).any (fun x => x.slot.isNone && x.urgent.isSome))

/-- A path has claimed a slot of its quadrant. -/
def hasClaim (s : State) (q k : Nat) : Bool := (quadPaths s q).any (fun e => e.2.slot.isSome && e.2.claimed == some k)

/-- The active path whose slot an urgent pending path claims: the lowest-ranked that is not urgent and not claimed (R86). -/
def claimVictim (s : State) (q : Nat) : Option (Nat × Path) :=
  (sortBy (rankBefore s) ((quadPaths s q).filter (fun e => e.2.slot.isSome && e.2.urgent.isNone && !claimKept s e.2))).getLast?

/-- The pending path that enters next, and the slot it enters: that of a path whose clause has ended under a claim (R86), an empty
one, or that of a path that leaves (R84): where several leave at once, the lowest-ranked of them (DESIGN CHOICE, log entry 31). -/
def swapFor (s : State) (q : Nat) : Option (Nat × Nat × Option Nat) :=
  let ps := quadPaths s q
  let act := ps.filter (fun e => e.2.slot.isSome)
  match (act.filter (fun e => e.2.clause.isNone && claimHolds s e.2)).head? with
  | some (v, x) => some (x.claimed.getD 0, x.slot.getD 0, some v)
  | none =>
    let pend := readyPending s q
    match (List.range 8).find? (fun n => !act.any (fun e => e.2.slot == some n)) with
    | some n => (leastBy (rankBefore s) (pend.filter (fun e => e.2.urgent.isSome)) <|> leastBy older pend).map (fun e => (e.1, n, none))
    | none =>
      match leastBy older pend, (sortBy (rankBefore s) (act.filter (fun e => leavesSlot s e.1 e.2))).getLast? with
      | some (k, _), some (v, x) => some (k, x.slot.getD 0, some v)
      | _, _ => none

/-- A path enters a slot (R84). -/
def swapIn (s : State) (q : Nat) : State :=
  match swapFor s q with
  | none => s
  | some (k, n, v) =>
    let s := match v with
      | some v => onPath s v (fun p => { p with slot := none, swapHint := false, claimed := none })
      | none => s
    bumpCore (onPath s k (fun p => { p with slot := some n })) (q / 4) (q % 4) 0x009 1

/-- ACTIVE_SET_SWAP (R84). -/
def execActiveSetSwap (q : Nat) (s : State) : Host.Outcome State Fault Refusal := event s (fun s => swapIn s q)

/-- PATH_URGENT (R86): a ready path that has not been selected for 128 cycles. In the pending set it claims the slot of the
lowest-ranked active path that is not urgent, which yields when its clause ends; where there was none to claim, it tries again. -/
def execPathUrgent (p : Nat) (s : State) : Host.Outcome State Fault Refusal :=
  event s (fun s =>
    match Map.find? s.paths p with
    | none => s
    | some x =>
      let q := 4 * (p / 512) + quadOf s x.gang
      if !ready s p x ∨ (x.urgent.isSome ∧ (x.slot.isSome ∨ hasClaim s q p)) then s
      else
        let s := setPath s p { x with urgent := some (x.urgent.getD s.tick) }
        if x.slot.isSome then s
        else match claimVictim s q with
          | some (v, _) => swapIn (onPath s v (fun y => { y with claimed := some p })) q
          | none => s)

/-- SLEEP_EXPIRE (R279). -/
def execSleepExpire (p : Nat) (s : State) : Host.Outcome State Fault Refusal :=
  event s (fun s => onPath s p (fun x => if x.wait = .sleep then { x with wait := .none } else x))

/-- An active path whose clause has ended may begin no other before it has yielded its slot (R86, R256). -/
def mustYield (s : State) (q : Nat) (p : Path) : Bool :=
  p.clause.isNone && (claimHolds s p || (p.swapHint && !(readyPending s q).isEmpty))

/-- The path of a quadrant that is selected (R85): ready, active, and not one that has to leave for a pending path. -/
def selected (s : State) (q : Nat) : Option Nat :=
  (leastBy (rankBefore s) ((quadPaths s q).filter (fun e =>
    e.2.slot.isSome && ready s e.1 e.2 && !mustYield s q e.2))).map (·.1)

/-! ### Stall reasons and what time adds to counters (R75, R76, R99) -/

/-- An operation of the path's lanes will write a register that the instruction names (R255). -/
def regWait (s : State) (p : Path) (i : Instr) : Bool :=
  let sh := shapeOf i
  (gangAt s p.gang).ops.any (fun o => (o.mask &&& p.mask) != 0 &&
    (o.dv.any (sh.dv.contains ·) || o.ds.any (sh.ds.contains ·) || o.dp.any (sh.dp.contains ·)))

/-- VRDI and VWRI wait in the collector for every outstanding write of a V register (R290). -/
def movesV : Instr → Bool
  | .vrdi _ => true
  | .vwri _ => true
  | _ => false

/-- The path awaits words of a clause, or a TARGETS entry (R99, R271). -/
def fetches (p : Path) : Bool := p.clause.isNone || (standsOn p).any (fun i => (shapeOf i).xfer)

/-- The highest-ranked stall reason that holds a path (R99), `none` where it is ready. A wait for earlier accesses counts as FLAG,
unless a register still to be written holds it (COLLECTOR, R255, R290); so does a wait for a peer, unless for a clause or a TARGETS entry
(FETCH, R271). A path of a draining crew, which begins no clause, counts as awaiting one (DESIGN CHOICE, log entry 31). -/
def stallOf (s : State) (pk : Nat) (p : Path) : Option Nat :=
  match p.wait with
  | .parked _ => some 6
  | .held _ => some 2
  | .fetchHost _ => some 1
  | .sleep => some 11
  | w =>
    if !p.vectored then some 2
    else if waitOver s pk p then
      if p.clause.isSome then none
      else if flagWait s pk p ∨ transPending s p then some 6
      else if (crewAt s (gangAt s p.gang).crew).draining then some 1
      else none
    else match w with
      | .barrier _ _ => some 3
      | .arrival => some 3
      | .gang => some 4
      | .batch _ => some 5
      | .batchSlot => some 5
      | .table => some 7
      | .locks _ => some 7
      | .port _ => some 7
      | .growth _ => some 8
      | .tile _ => some 9
      | .peer => some (if fetches p then 1 else 6)
      | .zport _ => some (if fetches p then 1 else 6)
      | .flush => some (if (standsOn p).any (fun i => movesV i || regWait s p i) then 9 else 6)
      | _ => some 6

/-- The rank a path that is not selected is charged: a ready one NOT_SELECTED, or COLLECTOR or PIPE_BUSY as its beats find room,
which is a free value (R99). -/
def charged (s : State) (pk : Nat) (p : Path) : Nat :=
  (stallOf s pk p).getD (if p.slot.isNone then 11 else 9 + Config.cycles s.tick (2 ^ 20 + pk) % 3)

/-- The quadrants that a core counter counts (R75). -/
def quadsOf (c : Ctr) : List Nat :=
  (List.range 4).filter (fun q => c.evsel.extractLsb' 26 4 == 0 || c.evsel.getLsbD (26 + q))

/-- What the passing of a step adds to a counter (R76): the cycles are free, and each resident path that is not selected is charged them
once, for its reason. What engine operations of a core add to its counts of Plain accesses is a free value (R194). -/
def timeGain (s : State) (key : Nat) (c : Ctr) : Nat :=
  let code := (c.evsel.extractLsb' 0 10).toNat
  if key < 0x10000 then
    let core := key / 16
    let n := Config.cycles s.tick core
    if code = 0x001 then n * (quadsOf c).length
    else if 0x010 ≤ code ∧ code ≤ 0x01A then
      n * ((quadsOf c).flatMap (fun q => (quadPaths s (4 * core + q)).filter (fun e =>
        selected s (4 * core + q) != some e.1 && charged s e.1 e.2 == code - 0x00F))).length
    else if code = 0x020 ∨ code = 0x021 ∨ code = 0x031 then Config.timedCount s.tick key
    else if 0x022 ≤ code ∧ code ≤ 0x025 ∧ s.eng.any (fun e => e.2.gang / 64 == core) then Config.timedCount s.tick key
    else 0
  else
    let d := (key - 0x10000) / 64
    if code = 0x100 then Config.cycles s.tick (1024 + d)
    else if d < 8 ∧ 0x101 ≤ code ∧ code ≤ 0x104 then Config.timedCount s.tick key
    else if d < 8 ∧ code = 0x122 ∧ (freeBounce s d).isNone then Config.cycles s.tick (1024 + d)
    else 0

/-- Time passes for the counters that are enabled. -/
def elapse (s : State) : State :=
  (s.ctrs.filter (fun e => e.2.evsel.getLsbD 31)).foldl (fun t e => let n := timeGain s e.1 e.2; if n = 0 then t else bumpCtr t e.1 n) s

/-! ### The Lens (R100, R101) -/

/-- The fields and the form of a memory instruction: its address from an S pair, or from V pairs. -/
def memOf : Instr → Option (MEM × Bool)
  | .ldV f => some (f, false)
  | .ldS f => some (f, true)
  | .stV f => some (f, false)
  | .stS f => some (f, true)
  | .ldc f => some (f, true)
  | .prefV f => some (f, false)
  | .prefS f => some (f, true)
  | .aadd f => some (f, false)
  | .amin f => some (f, false)
  | .amax f => some (f, false)
  | .aand f => some (f, false)
  | .aor f => some (f, false)
  | .axor f => some (f, false)
  | .axchg f => some (f, false)
  | .acas f => some (f, false)
  | .acas2 f => some (f, false)
  | .afadd f => some (f, false)
  | .amaxe f => some (f, false)
  | _ => none

/-- LEVEL of a lane's access (R101, R193): its place in the Plain, a peer, or one of the caches or DRAM, which is a free value. Of a Plain
slice on another die, which the table does not name, it is 4; of a host-homed object, for whose memory the table has no code, it is a free
value too (DESIGN CHOICE, log entry 31). -/
def levelOf (s : State) (c : Ctx) (a : Nat) : Nat :=
  if oidOf a = aliasId ∨ oidOf a = plainId then Nat.min 4 (2 + plainFar s c.core (offOf (canon s c.who a)))
  else if (peerHome s c.who a).isSome then 7
  else [1, 5, 6].getD ((Config.freeWord (s.free + 6)).toNat % 3) 1

/-- The address that lane `l` of an instruction reads or writes: of a memory instruction, LDC's base being uniform and its lanes at the
one address, or of a transfer through a TARGETS object. -/
def accessAt (c : Ctx) (i : Instr) (l : Nat) : Option Nat :=
  match i with
  | .ldc f => some (laneEA c f true false l).1
  | .brx f => some (rsw c.g f.b.toNat 2 + 16 * src c.g f.sa f.a 1 l)
  | .callx f => some (rsw c.g f.b.toNat 2 + 16 * src c.g f.sa f.a 1 l)
  | _ => (memOf i).map (fun m => (laneEA c m.1 m.2 m.2 l).1)

/-- LEVEL of the instruction a path stands at: the farthest that an active lane reaches, 0 for no memory access. -/
def lensLevel (s : State) (pk : Nat) (p : Path) : Nat :=
  match standsOn p with
  | none => 0
  | some i => match ctxOf { s with cur := pk } (shapeOf i).guard with
    | some c => ((lanes c.act).filterMap (accessAt c i)).foldl (fun a x => Nat.max a (levelOf s c x)) 0
    | none => 0

/-- A Lens record of the path `p` in entry `pk` of quadrant `quad`, crew class `cls`. Its latencies are free values. -/
def lensBytes (s : State) (pk quad cls : Nat) (p : Path) (pc : DWord) (state word level stall : Nat) : List Byte :=
  let free := fun (k n : Nat) => leBytes n (Config.freeWord (s.free + k)).toNat
  let cslot := (p.clause.map (·.slot)).getD 0
  leBytes 8 (Config.nsAt s.tick).toNat ++ leBytes 1 (pk / 512) ++ leBytes 1 quad ++ leBytes 1 (p.gang % 64) ++
    leBytes 1 state ++ leBytes 2 (pk % 512) ++ leBytes 1 cslot ++ leBytes 1 level ++ leBytes 8 pc.toNat ++
    leBytes 4 p.mask.toNat ++ leBytes 1 stall ++ leBytes 1 cls ++ leBytes 2 0 ++
    leBytes 8 word ++ free 1 2 ++ free 2 2 ++ free 3 2 ++ free 4 2 ++ free 5 2 ++ leBytes 14 0

/-- STALL of a record: the reason that holds the path, for a ready one 0 or a reason of a ready path (a free value). -/
def lensStall (s : State) (pk : Nat) (p : Path) : Nat :=
  (stallOf s pk p).getD ([0, 9, 10, 11].getD ((Config.freeWord s.free).toNat % 4) 0)

/-- The record of a path as it stands. -/
def lensOf (s : State) (pk : Nat) (p : Path) (state word level : Nat) : List Byte :=
  lensBytes s pk (quadOf s p.gang) (pathClass s p) p p.pc state word level (lensStall s pk p)

/-- Appends a Lens record, behind those that still wait for room (R103). -/
def lensRecord (s : State) (rec' : List Byte) (core quad : Nat) : State :=
  let oid := s.mg.traceCtl.toNat % 2 ^ 24
  let cap := ringCap s oid 64
  if !s.mg.traceCtl.getLsbD 63 ∨ oid = 0 ∨ cap = 0 then s
  else
    let due := marksDue s .lensNext
    if !s.mg.traceCtl.getLsbD 61 ∧ cap ≤ (s.mg.lensNext - s.mg.lensRead).toNat + due then
      onMg s (fun m => { m with lensDrop := min 0xFFFF (m.lensDrop + 1) })
    else
      let s := devStore s (addrOf oid (64 * ((s.mg.lensNext.toNat + due) % 2 ^ 32 % cap))) rec'
      bumpCore (devMark s .lensNext) core quad 0x050 1

/-- The next instruction of a path: its address, slot and word; before a clause that it may begin, the first of that clause. -/
def nextWord (s : State) (pk : Nat) (p : Path) : Option (DWord × Nat × Nat) :=
  match p.clause with
  | some c => some (p.pc, c.slot, match c.words[c.slot]? with
    | some (.word w) => w.toNat
    | _ => 0)
  | none => match fetchAt s (pathWho s pk p) (p.pc.toNat + 8) with
    | .word w => some (p.pc + 8, 0, w.toNat)
    | _ => none

/-- LENS_SAMPLE (R100): a quadrant's counter has reached zero; `slot` is the active slot it chooses, `reload` the value
drawn. A path that awaits fetch is recorded at once, the next instruction of any other is tagged. Whether the path that last exited in
an empty slot did so within 64 cycles is a free choice. -/
def execLensSample (q slot reload : Nat) (s : State) : Host.Outcome State Fault Refusal :=
  event s (fun s =>
    if slot ≥ 8 ∨ reload < 61440 ∨ 69632 < reload then s
    else
      let s := { s with lens := Map.put s.lens q reload }
      match List.find? (fun (e : Nat × Path) => e.2.slot == some slot) (quadPaths s q) with
      | none =>
        match Map.find? s.exits (8 * q + slot) with
        | some x =>
          if Config.justExited s.free then
            lensRecord { s with free := s.free + 8 } (lensBytes s x.pk x.quad x.cls x.path
              ((x.path.clause.map (·.hdr)).getD x.path.pc) 2 0 0 0) (q / 4) (q % 4)
          else { s with free := s.free + 8 }
        | none => s
      | some (k, p) =>
        let t := { s with free := s.free + 8 }
        if !s.mg.traceCtl.getLsbD 63 ∨ !p.vectored then s
        else if p.clause.isNone ∧ stallOf s k p = some 1 then lensRecord t (lensOf s k p 1 0 0) (q / 4) (q % 4)
        else match nextWord s k p with
          | none => s
          | some (pc, n, w) => { t with lensTags := t.lensTags ++ [{
              pk := k, gang := p.gang, pc := pc, cslot := n, mask := p.mask,
              bytes := lensOf s k { p with pc := pc } 0 w (if p.clause.isSome then lensLevel s k p else 0),
              tried := false, next := (gangAt s p.gang).nextOp, ops := none }] })

/-- The instruction `w` that the path `p` in entry `pk` is selected to issue is a tagged one: its record is that of this selection. -/
def lensTry (s : State) (pk : Nat) (p : Path) (w : Nat) : State :=
  if s.lensTags.any (fun t => t.gang == p.gang && t.pc == p.pc && t.ops.isNone && (t.mask &&& p.mask) != 0) then
    { s with free := s.free + 8, lensTags := s.lensTags.map (fun t =>
        if t.gang = p.gang ∧ t.pc = p.pc ∧ t.ops = none ∧ t.mask &&& p.mask ≠ 0 then
          { t with pk := pk, mask := p.mask, bytes := lensOf s pk p 0 w (lensLevel s pk p), tried := true }
        else t) }
  else s

/-- A side stands at a tagged instruction, or before its clause: not yet in it, or put back there by the wait of R122. -/
def tagStands (t : LensTag) (m : Mask) (pc : DWord) (clause : Option Clause) (w : Wait) : Bool :=
  (m &&& t.mask) != 0 &&
    ((clause.isSome && pc == t.pc) ||
      (clause.isNone && pc + BitVec.ofNat 64 (8 * (t.cslot + 1)) == t.pc && (!t.tried || w == .gang)))

/-- A tagged instruction is still to be issued. -/
def tagWaits (s : State) (t : LensTag) : Bool :=
  (pathsOfGang s t.gang).any (fun e => (e.2.vectored && tagStands t e.2.mask e.2.pc e.2.clause e.2.wait) ||
    e.2.defer.any (fun d => tagStands t d.mask d.pc d.clause d.wait))

/-- A RETT, whose kills are its own effect. -/
def isRett (w : Nat) : Bool :=
  match decode (BitVec.ofNat 64 w) with
  | some (.rett _) => true
  | _ => false

/-- The state a tagged instruction has reached (R101), and the tag as it now stands: COMPLETED once the operations that it began have
ended, TRAPPED where lanes of it have trapped, to a handler or to their end, FLUSHED where they were killed or drained before. -/
def tagState (s : State) (t : LensTag) : Option Nat × LensTag :=
  let g := gangAt s t.gang
  let gone := (Map.find? s.gangs t.gang).isNone || (g.killed &&& t.mask) == t.mask
  match t.ops with
  | some ops => (if !g.ops.any (fun o => ops.contains o.id) then some 0 else if gone then some 5 else none, t)
  | none =>
    if tagWaits s t then (none, { t with tried := false, next := g.nextOp })
    else if (pathsOfGang s t.gang).any (fun e => e.2.trap.any (fun r => (r.fmask &&& t.mask) != 0 &&
        (r.pc == t.pc || (!t.tried && r.pc + BitVec.ofNat 64 (8 * (t.cslot + 1)) == t.pc)))) then (some 3, t)
    else if !t.tried then (some 5, t)
    else if (g.killed &&& t.mask) ≠ 0 ∧ !isRett (leNat ((t.bytes.drop 32).take 8)) then (some 3, t)
    else
      let ops := (g.ops.filter (fun o => decide (t.next ≤ o.id) && (o.mask &&& t.mask) != 0)).map (·.id)
      (if ops.isEmpty then some 0 else none, { t with ops := some ops })

/-- Writes the records of tagged instructions that have ended. -/
def lensSettle (s : State) : State :=
  match s.lensTags with
  | [] => s
  | ts => ts.foldl (fun u t => match tagState s t with
      | (some st, t) => lensRecord u (t.bytes.take 11 ++ leBytes 1 st ++ t.bytes.drop 12) (t.pk / 512) (leNat ((t.bytes.drop 9).take 1))
      | (none, t) => { u with lensTags := u.lensTags ++ [t] }) { s with lensTags := [] }

/-! ### Beginning a clause (R104, R113 to R116, R252 to R254) -/

/-- A path may merge: it stands before a header, ordinary, neither held nor with sides of its own (R113, R114). -/
def mergeable (p : Path) : Bool :=
  p.kind == .ordinary && p.clause.isNone && p.vectored && !p.stray && p.defer.isEmpty && p.parked.isNone &&
    !(match p.wait with
      | .held _ => true
      | .parked _ => true
      | _ => false)

/-- The other entries of the gang that stand before the same header at the same depth. -/
def meets (s : State) (pk : Nat) (p : Path) : List (Nat × Path) :=
  if !mergeable p then []
  else (pathsOfGang s p.gang).filter (fun e => e.1 != pk && mergeable e.2 && e.2.pc == p.pc && e.2.depth == p.depth)

/-- Merges two entries (R113): the merged path and its entry; the other entry is freed. -/
def mergeTwo (s : State) (a b : Nat × Path) : Nat × State :=
  let (o, y) := if older a b then (a, b) else (b, a)
  let k := Nat.min a.1 b.1
  let m : Path := { o.2 with
    mask := a.2.mask ||| b.2.mask, slot := match o.2.slot with
      | some n => some n
      | none => y.2.slot,
    claimed := if o.2.slot.isSome then o.2.claimed else y.2.claimed,
    prog := a.2.prog.join b.2.prog s.nextUid, urgent := none, wait := .none,
    noWatch := false, limit := none, issued := 0 }
  let s := bumpCore { s with nextUid := s.nextUid + 1 } (k / 512) (quadOf s m.gang) 0x007 1
  (k, freeEntry (setPath s k m) (Nat.max a.1 b.1))

def mergeAll (s : State) (pk : Nat) : List Nat → Nat × State
  | [] => (pk, s)
  | k :: ks =>
    match Map.find? s.paths pk, Map.find? s.paths k with
    | some p, some q => let r := mergeTwo s (pk, p) (k, q); mergeAll r.2 r.1 ks
    | _, _ => mergeAll s pk ks

/-- The running side merges with its top deferred side where that stands at the same header (R116). -/
def mergeSide (s : State) (pk : Nat) : Nat → State
  | 0 => s
  | n + 1 =>
    match Map.find? s.paths pk with
    | none => s
    | some p =>
      match p.defer with
      | d :: ds =>
        if d.clause.isNone ∧ d.pc = p.pc ∧ d.depth = p.depth ∧ p.kind = .ordinary ∧ !d.stray ∧ !p.stray ∧ d.kind = .ordinary then
          mergeSide (bumpCore (setPath { s with nextUid := s.nextUid + 1 } pk
            { p with mask := p.mask ||| d.mask, defer := ds, prog := p.prog.join d.prog s.nextUid }) (pk / 512) (quadOf s p.gang) 0x007 1)
            pk n
        else s
      | [] => s

/-- The requests to peers for the words of a path's clause are done with. -/
def dropFetch (s : State) (pk : Nat) : State :=
  { s with peerOps := s.peerOps.filter (fun o => match o.owner with
      | .fetch _ k _ => k != pk
      | _ => true) }

/-- The words of a peer-homed CODE object are asked for, where they are not yet, and the path waits for them or for room (R152). -/
def fetchPeer (s : State) (pk : Nat) (p : Path) (w : Who) (as : List Nat) : State :=
  as.foldl (fun t a =>
    match fetchAt t w a, fetchOp t w a, peerHome t w a with
    | .wait, none, some e => match portOf t e.peer a with
      | some n => if askRoom t n then askPeer t e n 1 (.fetch p.gang pk p.prog.uid) a 8 []
          else onPath t pk (fun p => { p with wait := .zport n })
      | none => t
    | _, _, _ => t) (onPath s pk (fun p => { p with wait := .peer }))

/-- EXTRA of a fetch that a peer has failed (R155). -/
def lostExtra (code : Nat) : List Word := [0, 0, BitVec.ofNat 32 code]

/-- A fault of a clause fetch or a header, in the path's lanes (R253). -/
def headerFault (s : State) (pk : Nat) (p : Path) (code : TrapCode) (extra : List Word) : State :=
  let a := p.pc.toNat
  (takeTrap (dropFetch s pk) { pk := pk, pc := p.pc, cslot := 0, clause := none, hdr := p.pc, akind := 0, extra := extra, xfer := false }
    (((lanes p.mask)).map (fun l => { lane := l, code := code, addr := if code = .illegalClause then 0 else a }))).1

/-- A fetch that meets a non-resident host-homed page posts a request of KIND 4, and the path waits (R152). -/
def fetchStall (s : State) (pk : Nat) (a : DWord) : State :=
  let tag := s.nextTag
  onPath { s with nextTag := tag + 1,
                  svcs := s.svcs ++ [{ tag := tag, kind := 4, oid := oidOf a.toNat, page := offOf a.toNat / 65536, eng := none,
                                       posted := false }] }
    pk (fun p => { p with wait := .fetchHost tag })

/-- Reads the words of a clause at its beginning, each once (R254): `none` with the address where a page must be fetched
first. -/
def clauseWords (s : State) (w : Who) (h n : Nat) : List Fetched :=
  (List.range (n + 1)).map (fun i =>
    if 2 ^ 40 < offOf h + 8 * (i + 2) then .bad .bounds else fetchAt s w (h + 8 * (i + 1)))

/-- The path begins the clause it stands before. -/
def beginClause (s : State) (pk : Nat) : State :=
  match Map.find? s.paths pk with
  | none => s
  | some p =>
    let w := pathWho s pk p
    if transPending s p then s
    else if p.stray then headerFault s pk p .bounds []
    else match fetchAt s w p.pc.toNat with
      | .bad .pageHost => fetchStall s pk p.pc
      | .bad c => headerFault s pk p c []
      | .lost code => headerFault s pk p .remoteLost (lostExtra code)
      | .wait => fetchPeer s pk p w [p.pc.toNat]
      | .word x =>
        match parseHeader x with
        | none => headerFault s pk p .illegalClause []
        | some h =>
          if h.waits.any (flagSet (gangAt s p.gang)) then s
          else
            let ws := clauseWords s w p.pc.toNat h.n
            match (List.range ws.length).find? (fun i => ws[i]? == some (.bad .pageHost)) with
            | some i => fetchStall s pk (p.pc + BitVec.ofNat 64 (8 * (i + 1)))
            | none =>
              if ws.contains .wait then
                fetchPeer s pk p w ((List.range ws.length).map (fun i => p.pc.toNat + 8 * (i + 1)))
              else
              let s := touch (dropFetch s pk) w p.pc.toNat false
              let s := bumpCore s (pk / 512) (quadOf s p.gang) 0x002 1
              setPath { s with nextUid := s.nextUid + 1 } pk { p with
                pc := p.pc + 8, wait := .none, swapHint := false, issued := 0, limit := none,
                clause := some { hdr := p.pc, n := h.n, cls := h.cls, yld := h.yld, sets := h.sets, words := ws, slot := 0,
                                 uid := s.nextUid } }

/-- CLAUSE_FETCH (R253, R254): a ready active path begins its next clause; before it does, it is held at a breakpoint
(R105) or merges (R113). -/
def execClauseFetch (p : Nat) (s : State) : Host.Outcome State Fault Refusal :=
  event s (fun s =>
    match Map.find? s.paths p with
    | none => s
    | some x =>
      if x.clause.isSome ∨ x.slot.isNone ∨ !ready s p x ∨ mustYield s (4 * (p / 512) + quadOf s x.gang) x then s
      else match breakHit s p x with
        | some n =>
          let t := setPath s p { x with wait := .held n, urgent := none }
          lensRecord { t with free := t.free + 8 } (lensOf t p { x with wait := .held n } 4 0 0) (p / 512) (quadOf s x.gang)
        | none =>
          let t := onPath s p (fun q => { q with urgent := none })
          let t := mergeSide t p 2
          let r := mergeAll t p ((meets t p (pathAt t p)).map (·.1))
          beginClause r.2 r.1)

/-- HANDLER_VECTOR (R142): a handler path that waits for nothing stands at its handler's first header. -/
def execHandlerVector (p : Nat) (s : State) : Host.Outcome State Fault Refusal :=
  event s (fun s => onPath s p (fun x =>
    if x.vectored ∨ x.wait ≠ .none then x else { x with pc := handlerPc s x, vectored := true, stray := false }))

/-! ### Completion of lane operations (R255) -/

/-- LONG_LATENCY_COMPLETE (R255): destinations are written, or the answers of a peer to a store are in; lost stores are
kept for R352. -/
def execLongLatencyComplete (g op : Nat) (s : State) : Host.Outcome State Fault Refusal :=
  event s (fun s =>
    match opOf s g op with
    | none => s
    | some o =>
      match o.body with
      | .graph _ => s
      | .writes ws => onGang s g (fun x => dropOp (ws.foldl regWrite x) op)
      | .peer tags ws =>
        let rs := s.peerOps.filter (fun r => tags.contains r.tag)
        if rs.any (fun r => r.answer.isNone && r.fail.isNone) then s
        else
          let lost := rs.filterMap (fun r => match r.fail, r.owner with
            | some code, .lane _ _ n l => some ({ op := n, lane := l, addr := r.addr, code := code } : Lost)
            | _, _ => none)
          let s := { s with peerOps := s.peerOps.filter (fun r => !tags.contains r.tag) }
          retest (onGang s g (fun x => { dropOp (ws.foldl regWrite x) op with lost := x.lost ++ lost })) g)

/-! ### What a step does -/

/-- What the step does: runs an instruction or event, or has already done all it does. -/
inductive Choice where
  | run (i : Instr) (s : State)
  | rest (s : State)
  deriving DecidableEq, Repr

/-- The clause class of an opcode, `none` where it may stand in a clause of every class (R267). -/
def wordClass (o : Nat) : Option Nat :=
  if o < 7 ∨ o = 0xF then none else if o = 7 then some 2 else if o < 0xB ∨ o = 0x1E then some 5 else if o < 0x80 then some 0 else if o < 0xB0 then some 1 else if o < 0xC0 then some 2
  else if o < 0xD0 then some 4 else if o < 0xE0 then some 3 else if o < 0xF0 then some 4 else some 5

/-- A word that decodes to no instruction: row 2 of R269 precedes the forming of act, a field that names no member is
row 5 and takes the active mask. -/
def illegalWord (s : State) (w : DWord) : State :=
  match ctxOf s (guardOf w) with
  | none => s
  | some c =>
    let o := opcOf w
    let row2 := fmtOfOpc o ≠ some (fmtOf w) ∨ (wordClass o).any (fun k => k != c.cl.cls)
    let sh : Shape := { mkShape (guardOf w) 6 [] true [] [] with xfer := decide (1 ≤ o ∧ o ≤ 6) }
    trapShape s sh c .illegalOp (if row2 ∨ !guardOk (guardOf w) ∨ c.act = 0 then c.p.mask else c.act)

/-- A word whose fetch failed (row 1 of R269): after the handler the clause begins again. -/
def badWord (s : State) (pk : Nat) (p : Path) (c : Clause) (code : TrapCode) (extra : List Word) : State :=
  (takeTrap s { pk := pk, pc := p.pc, cslot := c.slot, clause := none, hdr := c.hdr, akind := 0, extra := extra, xfer := false }
    ((lanes p.mask).map (fun l => { lane := l, code := code, addr := p.pc.toNat }))).1

/-- The lane of a register write, 32 for a uniform register. -/
def writeLane : RegWrite → Nat
  | .v _ l _ => l
  | .s _ _ => 32
  | .p _ l _ => l

/-- Register writes of outstanding long-latency operations that an instruction sees already: a free choice for each lane of each
operation, so that a pair is seen whole or not at all (R20, R127). What has been seen stays. -/
def landEarly (s : State) (gk : Nat) : State :=
  match (gangAt s gk).ops.flatMap (fun o => match o.body with
    | .writes ws => ws.map (fun w => (33 * o.id + writeLane w, w))
    | _ => []) with
  | [] => s
  | w :: ws =>
    let early := (w :: ws).filter (fun x => Config.seenEarly s.free x.1)
    useFree (onGang s gk (fun g => early.foldl (fun g x => regWrite g x.2) g))

/-- The selected path's next instruction. -/
def issuePath (s : State) (pk : Nat) : Choice :=
  match Map.find? s.paths pk with
  | none => .rest s
  | some p =>
    let t := { setPath s pk { p with urgent := none } with cur := pk }
    match p.clause with
    | none => .run (.clauseFetch pk) t
    | some c =>
      match c.words[c.slot]? with
      | some (.word w) => match decode w with
        | some i => .run i (landEarly (lensTry t pk p w.toNat) p.gang)
        | none => .rest (illegalWord (lensTry t pk p w.toNat) w)
      | some (.bad code) => .rest (badWord t pk p c code [])
      | some (.lost code) => .rest (badWord t pk p c .remoteLost (lostExtra code))
      | some .wait => .rest t
      | none => .rest t

/-- A quadrant's turn: its selected path issues; where there is none, a pending path may enter. -/
def issueQuad (s : State) (q : Nat) : Choice :=
  match selected s q with
  | some pk => issuePath s pk
  | none => if (swapFor s q).isSome then .run (.activeSetSwap q) s else .rest s

/-- The first of several choices. -/
def orElse {α : Type} : List (Unit → Option α) → Option α
  | [] => none
  | f :: fs => match f () with
    | some a => some a
    | none => orElse fs

/-- Quadrants that hold a path. -/
def busyQuads (s : State) : List Nat := nubN (s.paths.map (fun e => 4 * (e.1 / 512) + quadOf s e.2.gang))

/-- The event that carries one lane operation on. -/
def opEvent (s : State) (gk : Nat) (g : Gang) (o : LaneOp) : Option Instr :=
  match o.body with
  | .writes _ => some (.longLatencyComplete gk o.id)
  | .peer tags _ =>
    if s.peerOps.any (fun r => tags.contains r.tag && r.answer.isNone && r.fail.isNone) then none
    else some (.longLatencyComplete gk o.id)
  | .graph r =>
    if (if r.kind.isMut then mutBefore s g o r else graphBefore g o r false) then none
    else if r.kind.isMut then
      if seqBlocked s r.oid (nextSeq (gSeq s r.oid)) then some (.graphSweep r.oid) else some (.graphMutationCommit gk o.id)
    else some (.graphOpComplete gk o.id)

/-- The event that carries one engine operation on. -/
def engEvent (s : State) (op : Nat) (e : EngOp) : Option Instr :=
  let cl := clusterOf s (e.gang / 64)
  let tile := fun (t : Nat) => if (Map.getD s.tileQ t []).head? = some op then some (Instr.tileOpPerform (t / 64) (t % 64)) else none
  match e.kind with
  | .copy _ _ _ _ _ => some (.copyComplete op)
  | .decode _ _ _ => some (.copyComplete op)
  | .fill _ _ _ => some (.windowFillComplete op)
  | .scatter _ _ => some (.windowScatterComplete op)
  | .xform _ _ => if (Map.getD s.prism cl []).head? = some op then some (.prismTransformComplete cl) else none
  | .pass _ _ _ _ _ => if Map.find? s.granted cl = some op then some (.passComplete op)
      else if (Map.find? s.granted cl).isNone ∧ ((grantOrder s (Map.getD s.resv cl [])).head?).any (fun r => r.op == op && grantable s r) then
        some (.matrixGrant cl) else none
  | .azero t => tile t
  | .drainT t _ _ _ => tile t
  | .fillT t _ _ _ => tile t
  | .drainPlain t _ _ _ => tile t
  | .fillPlain t _ _ _ => tile t
  | .reclaim _ => none

/-- A list turned so that place `n` comes first. -/
def turned {α : Type} (xs : List α) (n : Nat) : List α := xs.drop (n % xs.length) ++ xs.take (n % xs.length)

/-- A reclaim whose next search would lead somewhere: the first one, or one that finds no pin (R166). -/
def searchDue (s : State) (r : Reclaim) : Bool :=
  !r.freeing && (!r.searched || ((pinsOf s r.oid).isEmpty && !implicitPin s r.oid)) &&
    !engHolds s r.oid

/-- What paths do: a handler is vectored, an instruction issues, a path enters the active set. -/
def pathMoves (s : State) : List (Unit → Option Choice) :=
  [ fun _ => (List.find? (fun (e : Nat × Path) => !e.2.vectored && e.2.wait == .none) s.paths).map (fun e =>
      .run (.handlerVector e.1) s),
    fun _ => (turned (busyQuads s) s.tick).findSome? (fun q => (selected s q).map (issuePath s)),
    fun _ => ((busyQuads s).find? (fun q => (swapFor s q).isSome)).map (fun q => .run (.activeSetSwap q) s) ]

/-- What the rest of the part does: operations complete, gangs and crews retire, crews are placed. -/
def unitMoves (s : State) : List (Unit → Option Choice) :=
  [ fun _ => (s.gangs.findSome? (fun e => e.2.ops.findSome? (opEvent s e.1 e.2))).map (fun i => .run i s),
    fun _ => (s.eng.findSome? (fun e => engEvent s e.1 e.2)).map (fun i => .run i s),
    fun _ => (List.find? (fun (e : Nat × Gang) => retirable e.2) s.gangs).map (fun e => .run (.gangRetire e.1) s),
    fun _ => (List.find? (fun (e : Nat × Crew) => drainReady s e.1) s.crews).map (fun e => .run (.drainComplete e.1) s),
    fun _ => (List.find? (fun (e : Nat × Crew) => releasable s e.1) s.crews).map (fun e => .run (.crewSlotRelease e.1) s),
    fun _ => (s.shoots.find? (fun x => !graphBusy s x.oid && !peerBusy s x.oid && !freeHeld s x.oid)).map (fun x => .run (.shootdownComplete x.oid) s),
    fun _ => (s.harvs.findSome? (fun h =>
      (List.find? (fun (e : Nat × Path) => e.2.gang == h.gang && (e.2.mask &&& h.mask) != 0) s.paths).map (·.1))).map
        (fun k => .run (.harvestComplete k) s),
    fun _ => (s.reclaims.find? (searchDue s)).map (fun r => .run (.reclaimSearch r.oid) s),
    fun _ => (s.gangs.findSome? (fun e => (oldestWant s (e.1 / 64)).bind (fun x =>
      if x.1 = e.1 ∧ growthFits s e.1 x.2.2 then some e.1 else none))).map (fun k => .run (.vgrowGrant k) s),
    fun _ => (List.find? (fun (e : Nat × Path) => e.2.wait == .sleep) s.paths).map (fun e => .run (.sleepExpire e.1) s),
    fun _ => if s.svcs.any (fun v => !v.posted) ∧ (s.mg.hsNext - s.mg.hsRead).toNat < hsSize s then
      some (.run .hostServiceRequest s) else none,
    fun _ => if s.mg.svcRed ∧ !s.mg.tripped ∧ !s.mg.ckptBusy then
      ((List.range 4).find? (fun p => !(lqAt s p).isEmpty && mayAccept s p)).map (fun p => .run (.launchAccept p) s) else none,
    fun _ => if s.runs.any (fun e => !e.2.eligible) ∧ (pollWaits s).runs ≠ s.runs then some (.run .waitCountPoll s) else none,
    fun _ => match placing s with
      | some (_, none) => some (.run .crewPlace s)
      | some (_, some p) => (List.find? (fun (x : PreCrew × Nat) => x.1.run == p.run && x.1.no == p.no)
          (s.pre.zip (List.range s.pre.length))).map (fun x => .run (.crewResume x.2) s)
      | none => none ]

/-- A ready path is passed over, or as an urgent one finds a slot to claim only now (R86). -/
def starved (s : State) (pk : Nat) (p : Path) : Bool :=
  let q := 4 * (pk / 512) + quadOf s p.gang
  if p.urgent.isNone then selected s q != some pk else p.slot.isNone && !hasClaim s q pk && (claimVictim s q).isSome

/-- What the part does at longer intervals, or when nothing else is left to do: a starved path becomes urgent, sweeps,
pages leave the bounce buffer, growth deadlocks are broken. -/
def slowMoves (s : State) : List (Unit → Option Choice) :=
  [ fun _ => (List.find? (fun (e : Nat × Path) => ready s e.1 e.2 && starved s e.1 e.2) (turned s.paths (s.tick / 512))).map
      (fun e => .run (.pathUrgent e.1) s),
    fun _ => ((List.range s.mg.objtCnt).find? (fun i => decide (2 ≤ i) && sweepable s i)).map (fun i => .run (.graphSweep i) s),
    fun _ => (List.find? (fun (e : Nat × Nat) => (entryOf s (e.1 / 2 ^ 24)).home != 1) s.bounce).bind (fun e =>
      match execPagerMap (e.1 / 2 ^ 24) (e.1 % 2 ^ 24) s with
      | .next t => if t.bounce = s.bounce then none else some (.run (.pagerMap (e.1 / 2 ^ 24) (e.1 % 2 ^ 24)) s)
      | _ => none),
    fun _ => ((nubN (s.gangs.map (fun e => e.1 / 64))).find? (growthStuck s)).map (fun c => .run (.growthDeadlockBreak c) s) ]

/-- What happens when the tape says nothing: the part goes on by itself. Paths go first, the other units at every 16th
tick, the slow moves at every 512th, so that none of them is held off for good. -/
def defaultMove (s : State) : Option Choice :=
  let units := turned (unitMoves s) (s.tick / 16)
  let slow := turned (slowMoves s) (s.tick / 512)
  if s.tick % 512 = 0 then orElse (slow ++ units ++ pathMoves s)
  else if s.tick % 16 = 0 then orElse (units ++ pathMoves s ++ slow)
  else orElse (pathMoves s ++ units ++ slow)

/-- An event, and not an instruction that a word encodes. -/
def isEvent (i : Instr) : Bool := (encode i).isNone

/-- One step of the machine before its instruction or event: what the tape says, otherwise what the part does by itself. -/
def choose (s : State) : Choice :=
  let s := elapse { lensSettle s with tick := s.tick + 1 }
  match s.tape with
  | .event i :: t => if isEvent i then .run i { s with tape := t } else .rest { s with tape := t }
  | .issue q :: t => issueQuad { s with tape := t } q
  | [] => (defaultMove s).getD (.rest s)

/-! ### A word as the next instruction -/

/-- A launch record of the widest crew of one gang. -/
def readyLaunch : LaunchRec :=
  { LaunchRec.blank with code := 0x10, crews := 1, gangs := 1, vinit := 32, vmax := 32, sregs := 4, tiles := 8, acc := 64, scratch := 48 }

/-- A gang with every register allocated and every lane live. -/
def readyGang : Gang := { Gang.blank with nv := 256, ns := 64, nt := 8, live := -1 }

/-- A path of that gang at the one slot of a clause that holds a word. -/
def readyPath (w : DWord) : Path :=
  let o := opcOf w
  let c : Clause := { hdr := BitVec.ofNat 64 (addrOf 0x10 0), n := 0, cls := (wordClass o).getD 0, yld := 0, sets := [],
                      words := [.word w], slot := 0, uid := 0 }
  { Path.at 0 (BitVec.ofNat 64 (addrOf 0x10 8)) (-1) 0 0 with clause := some c, slot := some 0 }

/-- The resident crew, gang and path of `State.withFetchWord`. -/
def fetchReady (s : State) (w : DWord) : State :=
  { s with
    tape := [.issue 0],
    runs := Map.put s.runs 0 { Run.blank with lr := readyLaunch, eligible := true, next := 1 },
    crews := Map.put s.crews 0 { Crew.blank with ng := 1, gran := List.range 48, tiles := List.range 64 },
    gangs := Map.put s.gangs 0 readyGang,
    paths := Map.put s.paths 0 (readyPath w),
    lensTags := [],
    mg := { s.mg with featAcc0 := 0x7FF, tripped := false } }

end Sys2Proof.Machine
end

