-- ==== Sys2Proof/Machine/Power.lean ====
section
/-! DEFINITION. Rails, clock, power, temperature and resets (R5, R32, R34 to R37). -/

namespace Sys2Proof.Machine

/-! ### The clock step (R34, R37) -/

/-- The service demand. -/
def serviceDemand (s : State) : Nat := if s.mg.svcFull then 0 else 6
/-- The largest of the four demands. -/
def topDemand (s : State) : Nat :=
  Nat.max (Nat.max s.mg.demThermal s.mg.demPower) (Nat.max s.mg.clkCeil (serviceDemand s))

/-- CLKSTAT. -/
def clkStat (s : State) : Nat :=
  let top := topDemand s
  let dec := fun (d : Nat) => top != 0 && decide (s.mg.clkStep ≤ top) && d == top
  s.mg.clkStep + (if dec s.mg.demThermal then 2 ^ 12 else 0) + (if dec s.mg.demPower then 2 ^ 13 else 0) +
    (if dec (serviceDemand s) then 2 ^ 14 else 0) + (if dec s.mg.clkCeil then 2 ^ 15 else 0)

/-- CLOCK_STEP_CHANGE (R34): one step toward the largest demand. -/
def execClockStepChange (s : State) : Host.Outcome State Fault Refusal :=
  event s (fun s =>
    let top := topDemand s
    onMg s (fun m => { m with clkStep := if m.clkStep < top then m.clkStep + 1 else if top < m.clkStep then m.clkStep - 1 else m.clkStep }))

/-- The host ceiling (R37): a value of 7 to 15 is ignored. -/
def writeClkceil (s : State) (v : Nat) : State := if v % 16 ≤ 6 then onMg s (fun m => { m with clkCeil := v % 16 }) else s
/-- The power cap in watts, clamped (R37). -/
def writePwrcap (s : State) (v : Nat) : State := onMg s (fun m => { m with pwrCap := Nat.min 2400 (Nat.max 1200 (v % 4096)) })

/-- CLKCEIL_WRITE (R37). -/
def execClkceilWrite (v : BitVec 32) (s : State) : Host.Outcome State Fault Refusal := regEvent s (fun s => writeClkceil s v.toNat)
/-- PWRCAP_WRITE (R37). -/
def execPwrcapWrite (v : BitVec 32) (s : State) : Host.Outcome State Fault Refusal := regEvent s (fun s => writePwrcap s v.toNat)

/-- TEMPMAX takes a reading of the hottest sensor: dies 0 to 9. -/
def reading (s : State) (degc die : Nat) : State :=
  onMg s (fun m => { m with tempDegc := Nat.min degc 255, tempDie := die % 10 })

/-- THERMAL_DEMAND_RISE (R34): the hottest sensor reads 95 °C or more. -/
def execThermalDemandRise (degc die : Nat) (s : State) : Host.Outcome State Fault Refusal :=
  event s (fun s =>
    let s := reading s degc die
    if 95 ≤ degc then onMg s (fun m => { m with demThermal := Nat.min 6 (m.demThermal + 1) }) else s)

/-- THERMAL_DEMAND_FALL (R34): every sensor has read below 90 °C for 10 ms. -/
def execThermalDemandFall (degc die : Nat) (s : State) : Host.Outcome State Fault Refusal :=
  event s (fun s =>
    let s := reading s degc die
    if degc < 90 then onMg s (fun m => { m with demThermal := m.demThermal - 1 }) else s)

/-- POWER_DEMAND_RISE (R34): the input power averaged over 1 ms exceeds PWRCAP. -/
def execPowerDemandRise (watts : Nat) (s : State) : Host.Outcome State Fault Refusal :=
  event s (fun s => if s.mg.pwrCap < watts then onMg s (fun m => { m with demPower := Nat.min 6 (m.demPower + 1) }) else s)

/-- POWER_DEMAND_FALL (R34): the average has stayed below 95 % of PWRCAP for 10 ms. -/
def execPowerDemandFall (watts : Nat) (s : State) : Host.Outcome State Fault Refusal :=
  event s (fun s => if 100 * watts < 95 * s.mg.pwrCap then onMg s (fun m => { m with demPower := m.demPower - 1 }) else s)

/-! ### Answers of a peer (R39, R46, R47, R155) -/

/-- Gives the operations in flight that bear a tag their outcome. An answer whose TAG no operation in flight bears is dropped:
DESIGN CHOICE, log entry 24. -/
def settleTag (s : State) (p : Nat) (m : Msg) (ops : List Nat) (f : PeerOp → PeerOp) : State :=
  { s with peerOps := s.peerOps.map (fun o =>
      if o.tag = m.tag ∧ o.port = p ∧ o.answer.isNone ∧ o.fail.isNone ∧ ops.contains o.op then f o else o) }

/-- Data of an answer join those before them, as parts of a stream where stream blocks were asked for (R46); the message that FLAGS
bit 1 marks as the last completes the operation (R39). -/
def joinData (m : Msg) (g : Seg) (o : PeerOp) : PeerOp :=
  let o := if o.stream then { o with segs := o.segs ++ [g] } else { o with sofar := o.sofar ++ m.data }
  if m.flags.testBit 1 then { o with answer := some o.sofar, sofar := [] } else o

/-- A read of the device's own in flight bears the message's TAG. -/
def ownRead (s : State) (p : Nat) (m : Msg) : Bool :=
  s.peerOps.any (fun o => o.tag == m.tag && o.port == p && o.answer.isNone && o.fail.isNone && o.op == 1)

/-- A stream block as the message of a peer brings it: its symbols, or where FLAGS bit 0 is set the block itself, which the decoder at
the destination expands (R46). -/
def msgSeg (m : Msg) : Seg := if m.flags.testBit 0 then .block m.data else .syms m.data

/-- An error answer of three bytes, the poison code and a number of symbols, stands for a bad block that the peer has expanded
(DESIGN CHOICE, log entry 22). -/
def badSeg (m : Msg) (o : PeerOp) : Bool := o.stream && decide (m.data.length = 3 ∧ (m.data.headD 0).toNat = TrapCode.poison.num)

/-- Counts an expansion at the port's I/O die (R46, R47). -/
def countBlock (s : State) (p : Nat) (bad : Bool) : State :=
  bumpDie (bumpDie s (portDie p) 0x140 1) (portDie p) 0x141 bad.toNat

/-- An answer takes effect on the operation whose TAG it bears. -/
def takeAnswer (s : State) (p : Nat) (m : Msg) : State :=
  match m.op with
  | 2 => settleTag s p m [1, 8] (joinData m (.syms m.data))
  | 4 => settleTag s p m [3] (fun o => { o with answer := some [] })
  | 6 => settleTag s p m [5] (fun o => { o with answer := some m.data })
  | 9 => settleTag s p m [1, 3, 5, 8] (fun o =>
      if badSeg m o then joinData m (.bad (leNat (m.data.drop 1))) o else { o with fail := some (m.data.headD 0).toNat })
  | 7 => settleTag s p m [1] (joinData m (msgSeg m))
  | _ => s

/-- A message is an answer, or a block that answers a read of the device's own. -/
def isAnswer (s : State) (p : Nat) (m : Msg) : Bool :=
  m.op == 2 || m.op == 4 || m.op == 6 || m.op == 9 || (m.op == 7 && ownRead s p m)

/-! ### Losing a link (R41, R44) -/

/-- A port's link is lost: its replay buffer is discarded and it leaves every route. What is in flight through it completes as
lost; an operation is in flight until its last answer has arrived back, so that answers received whole still count. -/
def dropLink (s : State) (p : Nat) : State :=
  if !(zportAt s p).up then s
  else
    let s := (zportAt s p).rx.foldl (fun t m => if isAnswer t p m then takeAnswer t p m else t) s
    let s := onPort s p (fun z => { ZPort.blank with
      peerCap := z.peerCap, retries := z.retries, lostCnt := z.lostCnt, protoErr := z.protoErr })
    let ofPort := fun (k : Nat) => decide (2 ^ 32 + 65536 * p ≤ k ∧ k < 2 ^ 32 + 65536 * p + 65536)
    let s := { s with eng := s.eng.filter (fun e => !ofPort e.1),
                      peerOps := s.peerOps.filter (fun o => match o.owner with
                        | .eng k _ => !ofPort k
                        | _ => true) }
    pumpDev { s with peerOps := s.peerOps.map (fun o =>
        if o.port = p ∧ o.answer.isNone ∧ o.fail.isNone then { o with fail := some 0 } else o) }

/-! ### Trip and resets (R5, R36) -/

/-- A record not yet accepted reports a status (R36, R61). -/
def abortRecord (status : Nat) (s : State) (bs : List Byte) : State :=
  let r := parseLaunch bs
  if r.compl < 2 ^ 24 then complete s r.compl status r.tag 0 (-1) (-1) 0 0 else s

/-- Every launch not yet complete reports a status: live runs in the order of their acceptance, then the records that wait at the
ports. A run that has ended already has its record on the way. -/
def abortRuns (s : State) (status : Nat) : State :=
  ((List.range 4).flatMap (fun p => lqAt s p ++ spillAt s p) ++ s.stalled.map (·.2)).foldl (abortRecord status)
    ((s.runs.map (·.1)).foldl (fun t rk => if ending t rk then t else finishRun t rk status) s)

/-- Every crew, gang and operation is gone, and every record and write that waits. -/
def stopCores (s : State) : State :=
  { s with paths := [], gangs := [], crews := [], pre := [], runs := [], eng := [], locks := [], tileQ := [], resv := [], granted := [],
           prism := [], harvs := [], peerOps := [], lensTags := [], exits := [], devQ := [], lq := [], spill := [], stalled := [],
           arrivals := [] }

/-- THERMAL_TRIP (R36): at step 6 a sensor reads 105 °C or more, or at any step 110 °C or more. A save under way goes on as the one
save after the trip, a restore under way ends with FAIL (DESIGN CHOICE, log entry 33). -/
def execThermalTrip (degc die : Nat) (s : State) : Host.Outcome State Fault Refusal :=
  event s (fun s =>
    if s.mg.tripped ∨ !(decide (110 ≤ degc) || (decide (105 ≤ degc) && s.mg.clkStep == 6)) then s
    else
      let restoring := s.mg.ckptBusy && s.mg.ckptGo.2.1
      let saving := s.mg.ckptBusy && !s.mg.ckptGo.2.1
      let s := onMg (reading s degc die) (fun m => { m with
        tempTrips := Nat.min 255 (m.tempTrips + 1), tripped := true, tripSaved := saving, ckptBusy := saving,
        ckptFail := m.ckptFail || restoring })
      let s := stopCores (lastWrites (abortRuns s 0x12))
      let s := (s.zports.map (·.1)).foldl dropLink s
      signal s 0)

/-- What a reset by the host keeps: what the manual says counts until a cold reset, the rails, the history of scan
tests, the fabric the host has set up, and its own memory. -/
def resetKeep (s : State) (cold : Bool) : State :=
  let m := s.mg
  let r := State.reset
  let mg := { r.mg with
    railMain := m.railMain, railAux := m.railAux, pgood := m.pgood, msix := m.msix, fabricNo := m.fabricNo, routes := m.routes,
    removed := m.removed, apertureSize := m.apertureSize, streamCap := m.streamCap, flash := m.flash }
  let mg := if cold then mg else { mg with
    tempTrips := m.tempTrips, apErr := m.apErr, lpErr := m.lpErr, errRing := m.errRing, errCnt := m.errCnt }
  { r with tape := s.tape, tick := s.tick, free := s.free, hostMem := s.hostMem, ckpt := s.ckpt, mg := mg,
           mem := if cold ∨ m.tripped then [] else s.mem, poison := if cold ∨ m.tripped then [] else s.poison }

/-- HOST_RESET (R36, R61): launches not yet complete report RESET. -/
def execHostReset (s : State) : Host.Outcome State Fault Refusal :=
  always s (fun s => resetKeep (if s.mg.tripped then s else lastWrites (abortRuns s 0x13)) false)

/-- COLD_RESET (R5). -/
def execColdReset (s : State) : Host.Outcome State Fault Refusal := always s (fun s => resetKeep s true)

/-- RAILS_GOOD (R32). -/
def execRailsGood (s : State) : Host.Outcome State Fault Refusal :=
  always s (fun s => onMg s (fun m => { m with railMain := true, railAux := true, pgood := true }))

/-- RAIL_REMOVED (R32): 0 is VMAIN, any other number VAUX. Everything the rail fed is lost. -/
def execRailRemoved (rail : Nat) (s : State) : Host.Outcome State Fault Refusal :=
  always s (fun s => onMg (resetKeep s true) (fun m =>
    { m with railMain := m.railMain && rail != 0, railAux := m.railAux && rail == 0, pgood := false }))

end Sys2Proof.Machine
end

