-- ==== Sys2Proof/Machine/Bringup.lean ====
section
/-! DEFINITION. Firmware, training of dies, features, supervisor handlers, attestation, scan tests and memory errors (R51 to
R56, R65 to R69, R73, R74, R168). -/

namespace Sys2Proof.Machine

/-! ### Firmware (R65 to R67) -/

/-- A measurement register takes a digest (R67). -/
def measure (old digest : BitVec 512) : BitVec 512 := sha512 (leBytes 64 old.toNat ++ leBytes 64 digest.toNat)

/-- FWSTAT changes STATE: vector 0 is signalled (R48, R66). -/
def fwGoes (s : State) (st reason : Nat) : State := signal (onMg s (fun m => { m with fwState := st, fwReason := reason })) 0

/-- The reason the ROM finds in an image by itself; what it finds under the vendor key and the fused minimum is outside the model,
and is the event's to say (R65, R66). -/
def imageReason (img : Map Byte) (reason : Nat) : Nat :=
  let len := mapNat img 8 4
  if mapNat img 0 4 ≠ 0x5A465744 then 1
  else if 16777216 - 512 < len then 2
  else if mapBytes img 12 64 ≠ leBytes 64 (sha512 (mapBytes img 512 len)).toNat then 3
  else if reason = 4 ∨ reason = 5 then reason else 0

/-- Header and body of an image, and its security version. -/
def imageBytes (img : Map Byte) : List Byte := mapBytes img 0 (512 + mapNat img 8 4)
def imageSvn (img : Map Byte) : Word := BitVec.ofNat 32 (mapNat img 4 4)

/-- An image starts: its measurement, its security version. M1 takes the digest of header and body as R67 has a handler's register
take one (DESIGN CHOICE, log entry 8). -/
def fwStart (s : State) (img : Map Byte) (rec' : Bool) (reason : Nat) : State :=
  fwGoes (onMg s (fun m => { m with m1 := measure m.m1 (sha512 (imageBytes img)), fwSvn := imageSvn img, fwRec := rec' })) 1 reason

/-- BOOT_IMAGE_CHECK (R66): the ROM checks the image in flash. M0 takes the digest of the ROM (DESIGN CHOICE, log entry 8). -/
def execBootImageCheck (reason : Nat) (svn : BitVec 32) (s : State) : Host.Outcome State Fault Refusal :=
  event s (fun s =>
    if !s.mg.pgood ∨ s.mg.fwState ≠ 0 then s
    else
      let r := imageReason s.mg.flash reason
      if r = 0 ∧ svn ≠ imageSvn s.mg.flash then s
      else
        let s := onMg s (fun m => { m with m0 := measure m.m0 Config.romDigest })
        if r = 0 then fwStart s s.mg.flash false 0 else fwGoes s 2 r)

/-- A write of FWLOAD, obeyed only while WAITING or BAD (R66). -/
def writeFwload (s : State) (cmd : Nat) : State :=
  if (s.mg.fwState = 2 ∨ s.mg.fwState = 4) ∧ (cmd = 1 ∨ cmd = 3) then
    fwGoes (onMg s (fun m => { m with fwToFlash := cmd == 3 })) 3 s.mg.fwReason
  else s

/-- FWLOAD_CHECK_START (R66). -/
def execFwloadCheckStart (s : State) : Host.Outcome State Fault Refusal := hostEvent s (fun s => writeFwload s 1)
/-- FWLOAD_CHECK_WRITE_START (R66). -/
def execFwloadCheckWriteStart (s : State) : Host.Outcome State Fault Refusal := hostEvent s (fun s => writeFwload s 3)

/-- The flash after a write of an image: the image, or after a failed write open bytes wherever the write may have reached. -/
def flashAfter (s : State) (img : Map Byte) (failed : Bool) : Map Byte :=
  if failed then (List.range (512 + mapNat img 8 4)).foldl (fun m i => Map.setD m i (Config.flashByte s.tick i) Config.emptyByte) s.mg.flash
  else img

/-- FW_CHECK_DONE (R66): the check of the staged image ends; after a check that also writes the flash, the write ends, in
failure where `reason` is 6. What is written and started then is the image that was verified. -/
def execFwCheckDone (reason : Nat) (svn : BitVec 32) (s : State) : Host.Outcome State Fault Refusal :=
  event s (fun s =>
    if s.mg.fwState = 3 then
      let r := imageReason s.mg.staging reason
      if r ≠ 0 then fwGoes s 4 r
      else if svn ≠ imageSvn s.mg.staging then s
      else if s.mg.fwToFlash then fwGoes (onMg s (fun m => { m with fwCopy := m.staging })) 5 0
      else fwStart s s.mg.staging true 0
    else if s.mg.fwState = 5 then
      let t := onMg s (fun m => { m with flash := flashAfter s m.fwCopy (reason == 6) })
      fwStart t s.mg.fwCopy true (if reason = 6 then 6 else 0)
    else s)

/-- PERST_DEASSERT (R54): the function becomes ready. -/
def execPerstDeassert (s : State) : Host.Outcome State Fault Refusal :=
  event s (fun s => if s.mg.pgood ∧ s.mg.fwState ≠ 0 then onMg s (fun m => { m with hostReady := true }) else s)

/-! ### Training (R54 to R56) -/

/-- The die that trains next: dies train in order. -/
def nextDie (s : State) : Option Nat :=
  (List.range 8).find? (fun d => !s.mg.dieTrained.getLsbD d && !s.mg.dieFail.getLsbD d)

/-- Logical numbers are dealt before the first die is trained (R55). -/
def firstDeal (s : State) : State :=
  if s.deal.isEmpty then { s with deal := (List.range 128).filter (fun c => !s.mg.removed.contains c && !s.mg.dieFail.getLsbD (c / 16)) }
  else s

/-- DIE_TRAINED (R56): the die's frames enter the pool; the first die sets SVCRED. -/
def execDieTrained (d : Nat) (s : State) : Host.Outcome State Fault Refusal :=
  event s (fun s =>
    if s.mg.fwState ≠ 1 ∨ nextDie s ≠ some d then s
    else
      let s := firstDeal s
      onMg { s with pool := Map.put s.pool (d * 2 ^ 20) Config.framesPerDie } (fun m =>
        { m with dieTrained := m.dieTrained ||| (1#8 <<< d), svcRed := true }))

/-- DIE_TRAIN_FAIL (R55): a training of the die fails; the third time the die is marked. -/
def execDieTrainFail (d : Nat) (s : State) : Host.Outcome State Fault Refusal :=
  event s (fun s =>
    if s.mg.fwState ≠ 1 ∨ nextDie s ≠ some d then s
    else
      let s := firstDeal s
      let n := Map.getD s.mg.trainTries d 0 + 1
      let s := onMg s (fun m => { m with trainTries := Map.put m.trainTries d n })
      if n < 3 then s else redeal (onMg s (fun m => { m with dieFail := m.dieFail ||| (1#8 <<< d) })))

/-! ### Features, handlers, LAUNCHEN (R51 to R53, R68) -/

/-- Neither LAUNCHEN nor a live run stands in the way. -/
def quiet (s : State) : Bool := !s.mg.launchEn && s.runs.isEmpty

/-- A write of FEATACC0 or FEATACC1 (R52). -/
def writeFeatacc (s : State) (n : Nat) (v : Word) : State :=
  if quiet s then
    onMg s (fun m => if n = 0 then { m with featAcc0 := v &&& BitVec.ofNat 32 Config.features0 } else { m with featAcc1 := 0 })
  else onMg s (fun m => { m with featLock := true })

/-- FEATACC_WRITE (R52). -/
def execFeataccWrite (n : Nat) (v : BitVec 32) (s : State) : Host.Outcome State Fault Refusal :=
  regEvent s (fun s => writeFeatacc s n v)

/-- The value of FTHNDL or PHHNDL installs a handler (R68). -/
def handlerOk (s : State) (v : DWord) : Bool :=
  let e := entryOf s (v.toNat % 2 ^ 24)
  let entry := v.toNat / 2 ^ 32
  e.ok && e.kind == 4 && e.home == 0 && e.perm.testBit 2 && e.perm.testBit 3 && entry % 8 == 0 && decide (entry + 8 ≤ e.size)

/-- The bytes of an object, as Dyfiow reads them. -/
def objBytes (s : State) (oid : Nat) : List Byte := loadBytes s (deviceWho 0) (addrOf oid 0) (entryOf s oid).size

/-- A write of FTHNDL (0) or PHHNDL (R67, R68). Reserved bits are not stored. -/
def writeHandler (s : State) (n : Nat) (v : DWord) : State :=
  if !quiet s then onMg s (fun m => { m with hndLock := true })
  else
    let v := BitVec.ofNat 64 (v.toNat / 2 ^ 32 * 2 ^ 32 + v.toNat % 2 ^ 24)
    let ok := handlerOk s v
    let d := sha512 (objBytes s (v.toNat % 2 ^ 24))
    onMg s (fun m =>
      if n = 0 then { m with ftHndl := v, ftInst := ok, m2 := if ok then measure m.m2 d else m.m2 }
      else { m with phHndl := v, phInst := ok, m3 := if ok then measure m.m3 d else m.m3 })

/-- HANDLER_INSTALL_WRITE (R68). -/
def execHandlerInstallWrite (n : Nat) (v : BitVec 64) (s : State) : Host.Outcome State Fault Refusal :=
  hostEvent s (fun s => writeHandler s n v)

/-- A write of DEVCTL (R54, R68). -/
def writeLaunchen (s : State) (v : Word) : State :=
  if !v.getLsbD 0 then onMg s (fun m => { m with launchEn := false })
  else if s.mg.ftInst && s.mg.phInst then onMg s (fun m => { m with launchEn := true, restored := false })
  else onMg s (fun m => { m with hndMiss := true })

/-- LAUNCHEN_WRITE (R68). -/
def execLaunchenWrite (v : BitVec 32) (s : State) : Host.Outcome State Fault Refusal := regEvent s (fun s => writeLaunchen s v)

/-! ### The object table's registers (R168) -/

/-- Writes of OBJTBASE, OBJTCNT and PINOVF (R168). A COUNT of 0xFF_FFFF stores 0xFF_FFFE. -/
def writeObjtbase (s : State) (v : Nat) : State := if quiet s then onMg s (fun m => { m with objtBase := v % 2 ^ 23 }) else s
def writeObjtcnt (s : State) (v : Nat) : State :=
  if quiet s then onMg s (fun m => { m with objtCnt := Nat.min 0xFFFFFE (v % 2 ^ 24) }) else s
def writePinovf (s : State) (v : Nat) : State :=
  if s.pre.isEmpty ∧ !s.crews.any (fun e => e.2.draining) then onMg s (fun m => { m with pinOvf := v % 2 ^ 24 }) else s

/-- OBJTBASE_WRITE (R168). -/
def execObjtbaseWrite (v : BitVec 32) (s : State) : Host.Outcome State Fault Refusal :=
  regEvent s (fun s => writeObjtbase s v.toNat)
/-- OBJTCNT_WRITE (R168). -/
def execObjtcntWrite (v : BitVec 32) (s : State) : Host.Outcome State Fault Refusal :=
  regEvent s (fun s => writeObjtcnt s v.toNat)
/-- PINOVF_WRITE (R168). -/
def execPinovfWrite (v : BitVec 32) (s : State) : Host.Outcome State Fault Refusal :=
  regEvent s (fun s => writePinovf s v.toNat)

/-! ### Attestation (R69) -/

/-- DEVSTAT (R54). -/
def devStat (s : State) : Nat :=
  let m := s.mg
  m.dieTrained.toNat + 2 ^ 8 * s.deal.length + 2 ^ 16 * m.dieFail.toNat + 2 ^ 26 * m.hndLock.toNat + 2 ^ 27 * m.hndMiss.toNat +
    2 ^ 28 * m.featLock.toNat + 2 ^ 29 * m.fwRec.toNat + 2 ^ 30 * m.svcRed.toNat + 2 ^ 31 * m.svcFull.toNat

/-- The report (R69): its fields in the order of the rule, one directly after the other, zeros up to byte 511 (DESIGN CHOICE, log entry
8). -/
def attestReport (s : State) : List Byte :=
  let m := s.mg
  let body := (List.range 64).map (fun i => Map.getD m.attNonce i 0) ++ leBytes 64 m.m0.toNat ++ leBytes 64 m.m1.toNat ++
    leBytes 64 m.m2.toNat ++ leBytes 64 m.m3.toNat ++ leBytes 4 m.featAcc0.toNat ++ leBytes 4 m.featAcc1.toNat ++
    leBytes 4 (devStat s) ++ leBytes 16 (m.removed.foldl (fun a c => a ||| 2 ^ c) 0)
  body ++ Config.sign (leBytes 64 (sha512 body).toNat)

/-- A write of ATTREQ (R69). -/
def writeAttreq (s : State) (v : Word) : State := onMg s (fun m => if v.getLsbD 0 then { m with attReq := 1 } else m)
/-- ATTREQ_WRITE (R69). -/
def execAttreqWrite (v : BitVec 32) (s : State) : Host.Outcome State Fault Refusal := regEvent s (fun s => writeAttreq s v)

/-- ATTEST_REPORT_DONE (R69). -/
def execAttestReportDone (s : State) : Host.Outcome State Fault Refusal :=
  event s (fun s =>
    if s.mg.attReq ≠ 1 then s
    else
      let bs := attestReport s
      onMg s (fun m => { m with attReq := 3, attReport := (List.range 512).map (fun i => (i, bs.getD i 0)) }))

/-! ### Scan tests (R73) -/

/-- SCAN_TEST_START (R73): a core that holds no crew, while SCANCTL bit 31 is set. One core is under test at a time: the spec does not say
whether several may be (DESIGN CHOICE, log entry 36). -/
def execScanTestStart (core : Nat) (s : State) : Host.Outcome State Fault Refusal :=
  event s (fun s =>
    if s.mg.scanCtl.getLsbD 31 ∧ coreUp s core ∧ (crewsOn s core).isEmpty ∧ s.scanning = none then { s with scanning := some core }
    else s)

/-- SCAN_TEST_DONE (R73): `ok` when the signature matches or the test was aborted. -/
def execScanTestDone (core sig : Nat) (ok : Bool) (s : State) : Host.Outcome State Fault Refusal :=
  event s (fun s =>
    if s.scanning ≠ some core then s
    else
      let s := { s with scanning := none }
      if ok then s
      else
        let phys := physOf s core
        let s := onMg s (fun m => { m with removed := m.removed ++ [phys], scanLog := (phys, sig) })
        redeal (signal { s with outOfService := s.outOfService ++ [core] } 0))

/-! ### Memory errors (R74) -/

/-- Objects whose resident pages lie in a frame. -/
def ownersOf (s : State) (frame : Nat) : List Nat :=
  (List.range s.mg.objtCnt).filter (fun i =>
    let e := entryOf s i
    decide (2 ≤ i) && e.ok && e.home == 0 && (extList s e).any (fun x =>
      x.2.2.testBit 63 && decide (x.2.2 % 2 ^ 23 ≤ frame ∧ frame < x.2.2 % 2 ^ 23 + x.2.1)))

/-- UNCORRECTABLE_ERROR (R74): `src` as SRC of ERRLOG, `loc` the frame or the logical core, `sect` the sector within it. -/
def execUncorrectableError (src loc sect : Nat) (s : State) : Host.Outcome State Fault Refusal :=
  event s (fun s =>
    let dram := decide (src = 1 ∨ src = 4)
    let okLoc := if dram then frameOk loc && decide (sect < 1024)
      else decide (loc < s.deal.length) && (if src = 2 then decide (sect < 65536) else decide (src = 3 ∧ sect < 49152))
    if !okLoc then s
    else
      let die := if dram then loc / 2 ^ 20 else dieOf s loc
      let t := if dram then { s with poison := Map.setD s.poison (loc * 1024 + sect) true false }
        else if src = 2 then { s with accPoison := Map.setD s.accPoison (loc * 65536 + sect) true false }
        else { s with plainPoison := Map.setD s.plainPoison (loc * 65536 + sect) true false }
      let t := if dram then (ownersOf s loc).foldl (fun t i => setObjFlag t i 1 true) t else t
      let entry := leBytes 8 (Config.nsAt s.tick).toNat ++ leBytes 4 loc ++ leBytes 2 sect ++ leBytes 1 die ++ leBytes 1 src
      let base := 16 * (s.mg.errCnt.toNat % 16)
      bumpDie (onMg t (fun m =>
        { m with errRing := (List.range 16).foldl (fun r i => Map.setD r (base + i) (entry.getD i 0) 0) m.errRing, errCnt := m.errCnt + 1 }))
        die (if src = 1 then 0x106 else 0x108) 1)

/-- CORRECTABLE_ERROR (R74). -/
def execCorrectableError (die src : Nat) (s : State) : Host.Outcome State Fault Refusal :=
  event s (fun s => bumpDie s die (if src = 1 then 0x105 else 0x107) 1)

end Sys2Proof.Machine
end

