-- ==== Sys2Proof/Machine/Checkpoint.lean ====
section
/-! DEFINITION. Checkpoint save and restore (R70 to R72). -/

namespace Sys2Proof.Machine

/-! ### The target -/

/-- The address of the image's first byte at the target of the operation in progress; a peer's store is kept by number. -/
def ckptBase (s : State) : Nat :=
  if s.mg.ckptGo.1 then s.mg.ckptGo.2.2.toNat % 1024 * 2 ^ 48 else s.mg.ckptGo.2.2.toNat

/-- `n` bytes of the target from image offset `o`. -/
def ckptNat (s : State) (o n : Nat) : Nat := mapNat (if s.mg.ckptGo.1 then s.ckpt else s.hostMem) (ckptBase s + o) n
def ckptBytes (s : State) (o n : Nat) : List Byte := leBytes n (ckptNat s o n)

/-- Applies a change to the target's store. -/
def onTarget (s : State) (f : Map Byte → Map Byte) : State :=
  if s.mg.ckptGo.1 then { s with ckpt := f s.ckpt } else { s with hostMem := f s.hostMem }

def targetPut (s : State) (o : Nat) (bs : List Byte) : State := onTarget s (fun m => mapPut m (ckptBase s + o) bs)

/-! ### The layout (R72) -/

/-- The dies in an image, in order. -/
def diesIn (mask : Nat) : List Nat := (List.range 8).filter (fun d => mask.testBit d)
/-- The frame at position `i` of an image's frame sequence. -/
def frameAt (dies : List Nat) (i : Nat) : Nat := dies.getD (i / Config.framesPerDie) 0 * 2 ^ 20 + i % Config.framesPerDie
def frameCount (dies : List Nat) : Nat := dies.length * Config.framesPerDie
def crcBase (dies : List Nat) : Nat := 4096 + frameCount dies * 65536
def poisBase (dies : List Nat) : Nat := crcBase dies + 4 * frameCount dies
def runBase (dies : List Nat) : Nat := poisBase dies + frameCount dies * 128
def crewBase (dies : List Nat) (nrun : Nat) : Nat := runBase dies + 128 * nrun

/-- The bytes of a frame. -/
def frameBytes (s : State) (f : Nat) : List Byte := (List.range 65536).map (fun i => Map.getD s.mem (f * 65536 + i) Config.emptyByte)

/-- The header (R72). -/
def ckptHeader (s : State) (dies : List Nat) (npois nrun ncrew : Nat) : List Byte :=
  let m := s.mg
  let len := crewBase dies nrun + 32 * ncrew
  let bs := leBytes 4 0x5A434B50 ++ leBytes 4 m.tripped.toNat ++ leBytes 8 len ++ leBytes 1 m.dieTrained.toNat ++ leBytes 3 0 ++
    leBytes 4 Config.framesPerDie ++ leBytes 4 m.objtBase ++ leBytes 4 m.objtCnt ++ leBytes 4 m.pinOvf ++ leBytes 4 m.savePool ++
    leBytes 4 m.featAcc0.toNat ++ leBytes 4 m.featAcc1.toNat ++ leBytes 4 npois ++ leBytes 4 nrun ++ leBytes 4 ncrew ++ leBytes 4 0 ++
    leBytes 8 m.ckptTime.toNat ++ List.replicate 4020 0
  bs ++ leBytes 4 (crc32c bs)

/-- Live runs in the order of R63. -/
def runsInOrder (s : State) : List (Nat × Run) :=
  sortBy (fun a b => decide (a.2.cls < b.2.cls) || (a.2.cls == b.2.cls && decide (a.1 < b.1))) s.runs

/-- A run record (R72). -/
def runRecord (r : Run) : List Byte :=
  r.lr.bytes.take 64 ++ leBytes 8 r.retired ++ leBytes 8 r.next ++ leBytes 8 ((r.tFirst.map BitVec.toNat).getD (2 ^ 64 - 1)) ++
    leBytes 4 r.killed ++ leBytes 4 ((r.killCode.map TrapCode.num).getD 0) ++ leBytes 32 0

/-- A crew record (R72). -/
def crewRecord (idx : Nat) (p : PreCrew) : List Byte :=
  leBytes 4 idx ++ leBytes 4 p.no ++ leBytes 4 p.gran ++ leBytes 1 p.core ++ leBytes 19 0

/-! ### Saving (R71) -/

/-- The save ends: the crews it stopped resume, each on its own core with its own granules and tiles. One whose core has left service or
is under test meanwhile resumes later, through placement, as do crews stopped before and those a restore has entered. -/
def resumeAll (s : State) : State :=
  if s.mg.tripped then s
  else
    let s := (s.pre.filter (·.saved)).foldl (fun t p =>
      if placeable t p.core then resumeOn t { p with sameCore := false, saved := false } p.core true else t) s
    { s with pre := s.pre.map (fun p => if p.saved then { p with sameCore := false, saved := false } else p) }

/-- The save stops with FAIL; a crew still draining goes on where it stands. -/
def saveFails (s : State) : State :=
  let s := { s with crews := s.crews.map (fun (e : Nat × Crew) => (e.1, { e.2 with draining := false })) }
  let s := resumeAll s
  onMg s (fun m => { m with ckptBusy := false, ckptFail := true })

/-- A restore image is refused (R72). -/
def imageRefused (s : State) : Bool :=
  decide (ckptNat s 0 4 ≠ 0x5A434B50 ∨ ckptNat s 4092 4 ≠ crc32c (ckptBytes s 0 4092) ∨ ckptNat s 20 4 ≠ Config.framesPerDie ∨
    ckptNat s 40 4 &&& Config.features0 ≠ ckptNat s 40 4 ∨ ckptNat s 44 4 ≠ 0 ∨
    ((ckptNat s 4 4).testBit 0 = true ∧ (ckptNat s 52 4 ≠ 0 ∨ ckptNat s 56 4 ≠ 0))) ||
  (diesIn (ckptNat s 16 1)).any (fun d => !s.mg.dieTrained.getLsbD d)

/-- A save begins (R71): after a trip it drains nothing, and the host may take one. -/
def startSave (s : State) : State :=
  if s.mg.tripped then
    if s.mg.tripSaved then s else onMg s (fun m => { m with ckptBusy := true, ckptProg := 0, ckptPois := 0, tripSaved := true })
  else
    let t := onMg s (fun m => { m with ckptBusy := true, ckptProg := 0, ckptPois := 0 })
    match beginDrains t (t.crews.map (·.1)) with
    | some u => u
    | none => onMg s (fun m => { m with ckptFail := true })

/-- A restore begins (R71, R72): only with no run live and LAUNCHEN 0. -/
def startRestore (s : State) : State :=
  if !quiet s ∨ s.mg.tripped then s
  else if imageRefused s then onMg s (fun m => { m with ckptFail := true })
  else onMg s (fun m => { m with ckptBusy := true, ckptProg := 0, ckptPois := 0 })

/-- A write of CKPTCTL (R70 to R72): a GO takes TARGET, DIR and CKPTADDR as they stand then, and the time, and is ignored while BUSY
is 1. -/
def writeCkptctl (s : State) (v : Word) : State :=
  let s := onMg s (fun m => { m with
    ckptDone := m.ckptDone && !v.getLsbD 30, ckptFail := m.ckptFail && !v.getLsbD 29, ckptTarget := v.getLsbD 2, ckptDir := v.getLsbD 1 })
  if s.mg.ckptBusy ∨ !v.getLsbD 0 then s
  else
    let s := onMg s (fun m => { m with ckptGo := (m.ckptTarget, m.ckptDir, m.ckptAddr), ckptTime := Config.nsAt s.tick })
    if s.mg.ckptDir then startRestore s else startSave s

/-- CHECKPOINT_SAVE_GO (R71): the write of CKPTCTL. -/
def execCheckpointSaveGo (v : BitVec 32) (s : State) : Host.Outcome State Fault Refusal :=
  regEvent s (fun s => if v.getLsbD 1 then s else writeCkptctl s v)

/-- The image of the device as it stands (R72). -/
def writeImage (s : State) : State :=
  let dies := diesIn s.mg.dieTrained.toNat
  let inImage := fun (f : Nat) => decide (f < 2 ^ 23) && dies.contains (f / 2 ^ 20)
  let pos := fun (f : Nat) => dies.idxOf (f / 2 ^ 20) * Config.framesPerDie + f % 2 ^ 20
  let runs := if s.mg.tripped then [] else runsInOrder s
  let crews := if s.mg.tripped then [] else s.pre
  let pois := s.poison.filter (fun e => inImage (e.1 / 1024))
  let len := crewBase dies runs.length + 32 * crews.length
  let base := ckptBase s
  let t := onTarget s (fun m =>
    let m := m.filter (fun e => decide (e.1 < base ∨ base + len ≤ e.1))
    let m := s.mem.foldl (fun m e => if inImage (e.1 / 65536) then
      Map.setD m (base + 4096 + pos (e.1 / 65536) * 65536 + e.1 % 65536) e.2 Config.emptyByte else m) m
    let m := (List.range (frameCount dies)).foldl (fun m i =>
      mapPut m (base + crcBase dies + 4 * i) (leBytes 4 (crc32c (frameBytes s (frameAt dies i))))) m
    pois.foldl (fun m e =>
      let i := pos (e.1 / 1024) * 1024 + e.1 % 1024
      let a := base + poisBase dies + i / 8
      Map.setD m a (Map.getD m a Config.emptyByte ||| (1#8 <<< (i % 8))) Config.emptyByte) m)
  let t := targetPut t 0 (ckptHeader s dies pois.length runs.length crews.length)
  let t := (runs.zip (List.range runs.length)).foldl (fun t x => targetPut t (runBase dies + 128 * x.2) (runRecord x.1.2)) t
  let t := (crews.zip (List.range crews.length)).foldl (fun t x =>
    targetPut t (crewBase dies runs.length + 32 * x.2) (crewRecord ((runs.map (·.1)).idxOf x.1.run) x.1)) t
  onMg t (fun m => { m with ckptProg := BitVec.ofNat 32 (len / 2 ^ 30), ckptPois := BitVec.ofNat 32 pois.length })

/-- CHECKPOINT_SAVE_DONE (R71): every crew stands in its save area, no page in a bounce frame, and no write of the part waits. -/
def execCheckpointSaveDone (s : State) : Host.Outcome State Fault Refusal :=
  always s (fun s =>
    if !s.mg.ckptBusy ∨ s.mg.ckptGo.2.1 ∨ (!s.mg.tripped ∧ (!s.crews.isEmpty ∨ !s.bounce.isEmpty ∨ !s.devQ.isEmpty)) then s
    else
      let t := writeImage s
      let t := resumeAll t
      signal (onMg t (fun m => { m with ckptBusy := false, ckptDone := true })) 0)

/-- CHECKPOINT_TARGET_STOPPED (R70): the target has stopped accepting data. -/
def execCheckpointTargetStopped (s : State) : Host.Outcome State Fault Refusal :=
  always s (fun s => if s.mg.ckptBusy ∧ !s.mg.ckptGo.2.1 then saveFails s else s)

/-! ### Restoring (R72) -/

/-- CHECKPOINT_RESTORE_GO (R72): the write of CKPTCTL. -/
def execCheckpointRestoreGo (v : BitVec 32) (s : State) : Host.Outcome State Fault Refusal :=
  regEvent s (fun s => if v.getLsbD 1 then writeCkptctl s v else s)

/-- Steps 1 to 3: the frames of the image's dies and their poison. -/
def restoreFrames (s : State) (dies : List Nat) : State :=
  let here := fun (f : Nat) => decide (f < 2 ^ 23) && dies.contains (f / 2 ^ 20)
  let s := { s with mem := s.mem.filter (fun e => !here (e.1 / 65536)), poison := s.poison.filter (fun e => !here (e.1 / 1024)),
                    rels := [], xlats := [], dirty := [] }
  (List.range (frameCount dies)).foldl (fun t i =>
    let f := frameAt dies i
    let bs := ckptBytes s (4096 + 65536 * i) 65536
    let t := memPut t (f * 65536) bs
    let bad := crc32c bs ≠ ckptNat s (crcBase dies + 4 * i) 4
    (List.range 1024).foldl (fun (t : State) k =>
      let n := 1024 * i + k
      if bad ∨ (ckptNat s (poisBase dies + n / 8) 1).testBit (n % 8) then
        { t with poison := Map.setD t.poison (f * 1024 + k) true false, mg := { t.mg with ckptPois := t.mg.ckptPois + 1 } }
      else t) t) s

/-- A run from its record; its eligibility is found again (R60). -/
def runOf (s : State) (a : Nat) : Run :=
  let lr := parseLaunch (ckptBytes s a 64)
  let n := fun o k => ckptNat s (a + o) k
  let left := nubN (lr.waits.filter (fun w => w != 0))
  { Run.blank with lr := lr, cls := lr.cls, left := left, eligible := left.isEmpty, retired := n 64 8, next := n 72 8,
                   tFirst := if n 80 8 = 2 ^ 64 - 1 then none else some (BitVec.ofNat 64 (n 80 8)), killed := n 88 4,
                   killCode := if n 88 4 = 0 then none else some (TrapCode.ofNum (n 92 4)) }

/-- The barrier objects of a saved scratchpad, by what BINIT and the barrier unit leave in one: STATE 1, MEMBERS some of the crew's
gangs, ARRIVED some of the members, ENGPEND 0, bytes 20 to 31 zero. The image names them nowhere (DESIGN CHOICE, log entry 33). -/
def barsIn (s : State) (a grans ng : Nat) : List Nat :=
  let w := deviceWho 0
  ((List.range (2048 * grans)).map (32 * ·)).filter (fun o =>
    let n := fun k => objNat s w (a + o + k) 4
    decide (n 0 ≠ 0 ∧ n 0 < 2 ^ ng ∧ n 4 &&& n 0 = n 4 ∧ n 12 = 0 ∧ n 16 = 1) && objNat s w (a + o + 20) 12 == 0)

/-- A pre-empted crew from its record and its images: what it needs of a core, its barrier objects, and the lanes its gangs have had
killed, which R133 needs where an image proves damaged. A gang whose image cannot be found counts as live (DESIGN CHOICE, log entry
33). -/
def preOfRecord (s t : State) (first a : Nat) : PreCrew :=
  let n := fun o k => ckptNat s (a + o) k
  let rk := first + n 0 4
  let lr := (runAt t rk).lr
  let w := deviceWho 0
  let at' := addrOf t.mg.savePool (65536 * n 8 4)
  let tiles := n 8 4 + cdiv (imagesLen t at' ((imagesAt t lr.gangs at').getD [])) 65536
  let heads := headsAt t lr.gangs at'
  let live := heads.filter (fun a => objNat t w (a + 5) 1 == 0)
  let unseen := lr.gangs - heads.length
  { run := rk, no := n 4 4, gran := n 8 4, size := areaSize lr, core := n 12 1, sameCore := true, saved := false, ng := lr.gangs,
    nvs := live.map (fun a => 8 * objNat t w (a + 7) 1) ++ List.replicate unseen (8 * lr.vinit),
    npaths := live.foldl (fun x a => x + objNat t w (a + 6) 1) unseen, tiles := [], scratch := [],
    bars := barsIn t (addrOf t.mg.savePool (65536 * (tiles + lr.acc))) lr.scratch lr.gangs, gone := [], released := [],
    hidG := live.map (fun a => { Gang.blank with no := objNat t w (a + 4) 1, killed := BitVec.ofNat 32 (objNat t w (a + 12) 4) }),
    hidP := [], rels := [] }

/-- CHECKPOINT_RESTORE_DONE (R72): steps 1 to 6. -/
def execCheckpointRestoreDone (s : State) : Host.Outcome State Fault Refusal :=
  event s (fun s =>
    if !s.mg.ckptBusy ∨ !s.mg.ckptGo.2.1 then s
    else
      let n := fun o k => ckptNat s o k
      let dies := diesIn (n 16 1)
      let t := restoreFrames s dies
      let t := onMg t (fun m => { m with
        objtBase := n 24 4 % 2 ^ 23, objtCnt := n 28 4 % 2 ^ 24, pinOvf := n 32 4 % 2 ^ 24, savePool := n 36 4 % 2 ^ 24,
        featAcc0 := BitVec.ofNat 32 (n 40 4), featAcc1 := BitVec.ofNat 32 (n 44 4),
        ckptProg := BitVec.ofNat 32 (n 8 8 / 2 ^ 30) })
      let nrun := n 52 4
      let first := t.nextRun
      let t := { t with nextRun := first + nrun,
                        runs := (List.range nrun).foldl (fun m i => Map.put m (first + i) (runOf s (runBase dies + 128 * i))) t.runs }
      let pre := (List.range (n 56 4)).map (fun i => preOfRecord s t first (crewBase dies nrun + 32 * i))
      let stamps := pre.flatMap (fun p => ((imagesAt t p.ng (addrOf t.mg.savePool (65536 * p.gran))).getD []).map (fun a =>
        objNat t (deviceWho 0) (a + 16) 8))
      let t := { t with pre := pre, stampCnt := stamps.foldl (fun a x => Nat.max a (x + 1)) t.stampCnt,
                        pool := dies.foldl (fun m d => Map.put (m.filter (fun e => e.1 / 2 ^ 20 != d)) (d * 2 ^ 20) Config.framesPerDie) t.pool }
      signal (onMg (pollWaits t) (fun m => { m with ckptBusy := false, ckptDone := true, restored := true })) 0)

end Sys2Proof.Machine
end

