-- ==== Sys2Proof/Machine/FloatOps.lean ====
section
/-! DEFINITION. Floating-point, exact-pair and narrow-format instructions (R293, R299 to R318). -/

namespace Sys2Proof.Machine

/-- What a lane's operation gives: destination bits, flags raised, rounding state. -/
structure LOut where
  d : Nat
  fl : Nat
  rng : Word
  deriving DecidableEq, Repr

/-- Lanes that would raise INVALID, DIVIDE or OVERFLOW fault under FPX (R228). -/
def fpBad (c : Ctx) (fl : Nat → Nat) : List LaneFault :=
  if c.g.fpx then
    ((lanes c.act).filter (fun l => fl l &&& 7 != 0)).map (fun l => { lane := l, code := .fpEnabled, addr := 0 })
  else []

/-- Completes a floating-point instruction: the lanes of FP_ENABLED change nothing, the others write the destination by
`put`, OR their flags and keep their rounding state (R228, R229). -/
def finishF (c : Ctx) (s : State) (res : Nat → LOut) (put : Gang → Mask → Gang) : State :=
  let bad := fpBad c (fun l => (res l).fl)
  let good := c.act &&& ~~~ faultMask bad
  let extra := bad.foldl (fun a b => a ||| (res b.lane).fl) 0
  settle (onGang s c.gk (fun g =>
    (lanes good).foldl (fun h l => wrng (wfl h l (rfl' h l ||| BitVec.ofNat 6 (res l).fl)) l (res l).rng) (put g good)))
    c bad 0 [BitVec.ofNat 32 extra]

def rmode (f : RRR) : Mode := if rsrBit f then .rsr else modeOf f.rnd

/-- One call of Round in a lane: under RSR it draws from the lane's state (R226). -/
def roundL (fm : Fmt) (mode : Mode) (sat ftz : Bool) (x : FVal) (rng : Word) : Nat × Nat × Word :=
  let r := if mode = .rsr then nextRand rng else rng
  let (v, fl) := roundF fm mode sat ftz r.toNat x
  (v, fl, r)

/-- Runs an element operation over the elements of a register in ascending order (R221, R229). -/
def runE (w : Nat) (el : Nat → Word → Nat × Nat × Word) : Nat → Nat → Word → LOut
  | 0, _, rng => { d := 0, fl := 0, rng := rng }
  | n + 1, i, rng =>
    let (x, fl, r) := el i rng
    let o := runE w el n (i + 1) r
    { d := x + 2 ^ w * o.d, fl := fl ||| o.fl, rng := o.rng }

def fN (f : RRR) : Nat := if (fmtOfCode f.type.toNat).width = 16 then 2 else 1

/-- A group 0x4 instruction by its element operation on codes (R300). -/
def fltOp (f : RRR) (el : Fmt → Bool → Nat → Nat → Nat → Word → Nat × Nat × Word) (c : Ctx) (s : State) : State :=
  let fm := fmtOfCode f.type.toNat
  let w := fw f.type
  let pick := fun x i => x / 2 ^ (fm.width * i) % 2 ^ fm.width
  let res := fun l => runE fm.width (fun i rng => el fm c.g.ftz (pick (src c.g f.sa f.a w l) i)
    (pick (src c.g f.sb f.b w l) i) (pick (src c.g f.sc f.c w l) i) rng) (fN f) 0 (rrng c.g l)
  finishF c s res (fun g m => putD g f.sd f.d w m (fun l => (res l).d))

/-- Reads the operands, applies an exact operation and rounds its result. -/
def fltExact (f : RRR) (op : Mode → FVal → FVal → FVal → FVal × Nat) : Ctx → State → State :=
  fltOp f (fun fm ftz a b c rng =>
    let (x, f1) := op (rmode f) (readF fm ftz a) (readF fm ftz b) (readF fm ftz c)
    let (r, f2, rng) := roundL fm (rmode f) f.sat ftz x rng
    (r, f1 ||| f2, rng))

/-- An element operation without rounding state. -/
def fltPlain (f : RRR) (el : Fmt → Bool → Nat → Nat → Nat × Nat) : Ctx → State → State :=
  fltOp f (fun fm ftz a b _ rng => let (r, fl) := el fm ftz a b; (r, fl, rng))

/-- FADD (R302). -/
def execFadd (f : RRR) (s : State) : Host.Outcome State Fault Refusal :=
  issue (shapeOf (.fadd f)) s (fltExact f (fun m a b _ => addV m a b))

/-- FSUB (R302). -/
def execFsub (f : RRR) (s : State) : Host.Outcome State Fault Refusal :=
  issue (shapeOf (.fsub f)) s (fltExact f (fun m a b _ => addV m a b.negate))

/-- FMUL (R302). -/
def execFmul (f : RRR) (s : State) : Host.Outcome State Fault Refusal :=
  issue (shapeOf (.fmul f)) s (fltExact f (fun _ a b _ => mulV a b))

/-- FMULZ (R233). -/
def execFmulz (f : RRR) (s : State) : Host.Outcome State Fault Refusal :=
  issue (shapeOf (.fmulz f)) s (fltOp f (fun fm ftz a b _ rng =>
    match mulzF fm ftz a b with
    | some z => (z, 0, rng)
    | none =>
      let (x, f1) := mulV (readF fm ftz a) (readF fm ftz b)
      let (r, f2, rng) := roundL fm (rmode f) f.sat ftz x rng
      (r, f1 ||| f2, rng)))

/-- FMIN (R304). -/
def execFmin (f : RRR) (s : State) : Host.Outcome State Fault Refusal :=
  issue (shapeOf (.fmin f)) s (fltPlain f (fun fm ftz a b => minmaxF fm true ftz a b))

/-- FFMA (R305). -/
def execFfma (f : RRR) (s : State) : Host.Outcome State Fault Refusal :=
  issue (shapeOf (.ffma f)) s (fltExact f (fun m a b c => fmaV m a b c))

/-- FMAX (R304). -/
def execFmax (f : RRR) (s : State) : Host.Outcome State Fault Refusal :=
  issue (shapeOf (.fmax f)) s (fltPlain f (fun fm ftz a b => minmaxF fm false ftz a b))

/-- FDIV (R303). -/
def execFdiv (f : RRR) (s : State) : Host.Outcome State Fault Refusal :=
  issue (shapeOf (.fdiv f)) s (fltExact f (fun _ a b _ => divV a b))

/-- FSQRT (R303). -/
def execFsqrt (f : RRR) (s : State) : Host.Outcome State Fault Refusal :=
  issue (shapeOf (.fsqrt f)) s (fltExact f (fun _ a _ _ => sqrtV a))

/-- FRCP (R303). -/
def execFrcp (f : RRR) (s : State) : Host.Outcome State Fault Refusal :=
  issue (shapeOf (.frcp f)) s (fltExact f (fun _ a _ _ => divV one a))

/-- FRSQ (R303). -/
def execFrsq (f : RRR) (s : State) : Host.Outcome State Fault Refusal :=
  issue (shapeOf (.frsq f)) s (fltExact f (fun _ a _ _ => rsqV a))

/-- FEXP2 (R302, R303). -/
def execFexp2 (f : RRR) (s : State) : Host.Outcome State Fault Refusal :=
  issue (shapeOf (.fexp2 f)) s (fltPlain f (fun fm ftz a _ =>
    let v := readF fm ftz a
    let (x, y, f1) := exp2V v
    let (r, f2) := roundEnds fm (rmode f) f.sat ftz x y (exp2Lt v)
    (r, f1 ||| f2)))

/-- FLOG2 (R302, R303). -/
def execFlog2 (f : RRR) (s : State) : Host.Outcome State Fault Refusal :=
  issue (shapeOf (.flog2 f)) s (fltPlain f (fun fm ftz a _ =>
    let v := readF fm ftz a
    let (x, y, f1) := log2V v
    let (r, f2) := roundEnds fm (rmode f) f.sat ftz x y (fun t => log2Lt v t != t.neg)
    (r, f1 ||| f2)))

/-- FRND (R306). -/
def execFrnd (f : RRR) (s : State) : Host.Outcome State Fault Refusal :=
  issue (shapeOf (.frnd f)) s (fltPlain f (fun fm ftz a _ => frndF fm (rmode f) ftz a))

/-- FCLASS: a 32-bit mask, one for each element, read as the bits are (R307). -/
def execFclass (f : RRR) (s : State) : Host.Outcome State Fault Refusal :=
  issue (shapeOf (.fclass f)) s (fun c s =>
    let fm := fmtOfCode f.type.toNat
    advance (onGang s c.gk (fun g => putD g f.sd f.d 1 c.act (fun l =>
      let x := src c.g f.sa f.a (fw f.type) l
      joinE 16 ((List.range (fN f)).map (fun i => fclassF fm (x / 2 ^ (fm.width * i) % 2 ^ fm.width)))))) c.pk)

/-- FCMP: P[D] by value; under FPX an INVALID lane keeps its predicate (R293). -/
def execFcmp (f : RRR) (s : State) : Host.Outcome State Fault Refusal :=
  issue (shapeOf (.fcmp f)) s (fun c s =>
    let fm := fmtOfCode f.type.toNat
    let r := fun l => fcmpF fm c.g.ftz f.func.toNat (src c.g f.sa f.a (fw f.type) l % 2 ^ fm.width)
      (src c.g f.sb f.b (fw f.type) l % 2 ^ fm.width)
    finishF c s (fun l => { d := 0, fl := (r l).2, rng := rrng c.g l })
      (fun g m => putP g f.d.toNat m (fun l => (r l).1)))

/-- An exact-pair instruction: the pair of an exact value of two operands of `wa` registers (R231, R308, R309). -/
def pairOp (f : RRR) (wa : Nat) (op : Nat → Nat → Nat × Nat) (c : Ctx) (s : State) : State :=
  let res := fun l =>
    let (d, fl) := op (src c.g f.sa f.a wa l) (src c.g f.sb f.b wa l)
    ({ d := d, fl := fl, rng := rrng c.g l } : LOut)
  finishF c s res (fun g m => putD g f.sd f.d 2 m (fun l => (res l).d))

/-- The exact value of two .f32 operands as a pair (R231). -/
def pairExact (op : FVal → FVal → FVal × Nat) (a b : Nat) : Nat × Nat :=
  let (x, f1) := op (decodeF fF32 a) (decodeF fF32 b)
  let (r, f2) := pairOf x
  (r, f1 ||| f2)

/-- FADDX (R231). -/
def execFaddx (f : RRR) (s : State) : Host.Outcome State Fault Refusal :=
  issue (shapeOf (.faddx f)) s (pairOp f 1 (pairExact (fun a b => addV .rne a b)))

/-- FSUBX (R231). -/
def execFsubx (f : RRR) (s : State) : Host.Outcome State Fault Refusal :=
  issue (shapeOf (.fsubx f)) s (pairOp f 1 (pairExact (fun a b => addV .rne a b.negate)))

/-- FMULX (R231). -/
def execFmulx (f : RRR) (s : State) : Host.Outcome State Fault Refusal :=
  issue (shapeOf (.fmulx f)) s (pairOp f 1 (pairExact mulV))

/-- DWADD (R309). -/
def execDwadd (f : RRR) (s : State) : Host.Outcome State Fault Refusal :=
  issue (shapeOf (.dwadd f)) s (pairOp f 2 dwadd)

/-- DWMUL (R309). -/
def execDwmul (f : RRR) (s : State) : Host.Outcome State Fault Refusal :=
  issue (shapeOf (.dwmul f)) s (pairOp f 2 dwmul)

/-- DWRND: the sum of a pair rounded once, FTZ ignored (R310). -/
def execDwrnd (f : RRR) (s : State) : Host.Outcome State Fault Refusal :=
  issue (shapeOf (.dwrnd f)) s (fun c s =>
    let res := fun l =>
      let (x, f1) := pairVal (rmode f) (src c.g f.sa f.a 2 l)
      let (d, f2, rng) := roundL (fmtOfCode f.type.toNat) (rmode f) f.sat false x (rrng c.g l)
      ({ d := d, fl := f1 ||| f2, rng := rng } : LOut)
    finishF c s res (fun g m => putD g f.sd f.d (fw f.type) m (fun l => (res l).d)))

/-- CVT (R312). -/
def execCvt (f : RRR) (s : State) : Host.Outcome State Fault Refusal :=
  issue (shapeOf (.cvt f)) s (fun c s =>
    let st := f.func.toNat % 16
    let dt := f.type.toNat
    let res := fun l =>
      let draw := nextRand (rrng c.g l)
      let (d, fl, called) := cvtVal st dt (rmode f) f.sat c.g.ftz draw.toNat (src c.g f.sa f.a (cw st) l)
      ({ d := d, fl := fl, rng := if called && rsrBit f then draw else rrng c.g l } : LOut)
    finishF c s res (fun g m => putD g f.sd f.d (cw dt) m (fun l => (res l).d)))

/-- Replaces element `k` of width `w` of a register. -/
def putElem (x w k y : Nat) : Nat := x % 2 ^ (w * k) + y * 2 ^ (w * k) + x / 2 ^ (w * (k + 1)) * 2 ^ (w * (k + 1))

/-- PACK (R314). -/
def execPack (f : RRR) (s : State) : Host.Outcome State Fault Refusal :=
  issue (shapeOf (.pack f)) s (fun c s =>
    let t := f.type.toNat
    let k := f.func.toNat % 8
    let res := fun l =>
      let draw := nextRand (rrng c.g l)
      let (y, fl, called) := packElem t (rmode f) draw.toNat (src c.g f.sa f.a 1 l) (src c.g f.sb f.b 1 l % 256)
      ({ d := putElem (src c.g f.sd f.d 1 l) (convWidth t) k y, fl := fl,
         rng := if called && rsrBit f then draw else rrng c.g l } : LOut)
    finishF c s res (fun g m => putD g f.sd f.d 1 m (fun l => (res l).d)))

/-- UNPACK (R315). -/
def execUnpack (f : RRR) (s : State) : Host.Outcome State Fault Refusal :=
  issue (shapeOf (.unpack f)) s (fun c s =>
    let t := f.type.toNat
    let k := f.func.toNat % 8
    let res := fun l =>
      let y := src c.g f.sa f.a 1 l / 2 ^ (convWidth t * k) % 2 ^ convWidth t
      let (d, fl) := unpackElem t (rmode f) f.sat c.g.ftz y (src c.g f.sb f.b 1 l % 256)
      ({ d := d, fl := fl, rng := rrng c.g l } : LOut)
    finishF c s res (fun g m => putD g f.sd f.d 1 m (fun l => (res l).d)))

/-- SCALEQ (R313). -/
def execScaleq (f : RRR) (s : State) : Host.Outcome State Fault Refusal :=
  issue (shapeOf (.scaleq f)) s (alu f 1 (fun a _ _ => scaleCode f.type.toNat a))

/-- The dot product of the packed elements of two registers (R316). -/
def dotI (t : ITy) (a b : Nat) : Int := (List.range t.n).foldl (fun x i => x + elemV t a i * elemV t b i) 0

/-- The result of DOT4 and DOT8, of the signedness of the type (R316). -/
def dotVal (f : RRR) (a b c : Nat) : Nat :=
  let t := ityOf f.type
  let r := valOf t.sg 32 c + dotI t a b
  wrapI 32 (if f.sat then clampI t.sg 32 r else r)

/-- DOT4 (R316). -/
def execDot4 (f : RRR) (s : State) : Host.Outcome State Fault Refusal :=
  issue (shapeOf (.dot4 f)) s (alu f 1 (fun a b c => dotVal f a b c))

/-- DOT8 (R316). -/
def execDot8 (f : RRR) (s : State) : Host.Outcome State Fault Refusal :=
  issue (shapeOf (.dot8 f)) s (alu f 1 (fun a b c => dotVal f a b c))

/-- c + Σ aᵢ · bᵢ exactly, with the flags of its special values (R317). -/
def dotF (mode : Mode) (fm : Fmt) (cv : FVal) (a b : Nat) : FVal × Nat :=
  let ps := (List.range 4).map (fun i => mulV (decodeF fm (byteN a i)) (decodeF fm (byteN b i)))
  let has := fun (n : Bool) => (cv :: ps.map (·.1)).contains (.inf n)
  ps.foldl (fun x p =>
    let (r, f2) := addV mode x.1 p.1
    (r, x.2 ||| p.2 ||| f2)) (cv, if has true && has false then fINVALID else 0)

/-- DOTF8 (R317). -/
def execDotf8 (f : RRR) (s : State) : Host.Outcome State Fault Refusal :=
  issue (shapeOf (.dotf8 f)) s (fun c s =>
    let res := fun l =>
      let (x, f1) := dotF (rmode f) (fmtOfCode f.type.toNat) (readF fF32 c.g.ftz (src c.g f.sc f.c 1 l))
        (src c.g f.sa f.a 1 l) (src c.g f.sb f.b 1 l)
      let (d, f2, rng) := roundL fF32 (rmode f) f.sat c.g.ftz x (rrng c.g l)
      ({ d := d, fl := f1 ||| f2, rng := rng } : LOut)
    finishF c s res (fun g m => putD g f.sd f.d 1 m (fun l => (res l).d)))

/-- Byte `r` of the window that begins at V[n] (R318). -/
def winByte (g : Gang) (n l r : Nat) : Nat := byteN (rv g (n + r / 4) l) (r % 4)

/-- Writes bytes to registers from V[n], padded with zeros to whole registers. -/
def putWin (g : Gang) (n l : Nat) (bs : List Nat) : Gang :=
  (List.range (cdiv bs.length 4)).foldl
    (fun h k => wv h (n + k) l (joinE 8 ((List.range 4).map (fun j => bs.getD (4 * k + j) 0)))) g

/-- XSECT (R318): windows, then the offset pair, then the count. -/
def execXsect (f : RRR) (s : State) : Host.Outcome State Fault Refusal :=
  issue (shapeOf (.xsect f)) s (fun c s =>
    let g0 := c.g
    let a := f.a.toNat
    let b := f.b.toNat
    let w := f.c.toNat
    advance (onGang s c.gk (fun g => (lanes c.act).foldl (fun h l =>
      let wa := rv g0 a l
      let wb := rv g0 (a + 1) l
      let m := wa &&& wb
      let is := (List.range 32).filter (fun i => m.testBit i)
      let outA := is.map (fun i => winByte g0 w l (onesN wa i))
      let outB := is.map (fun i => winByte g0 (w + 8) l (onesN wb i))
      let h := putWin (putWin h w l outA) (w + 8) l outB
      let h := wv (wv h b l (rv g0 b l + onesN wa 32)) (b + 1) l (rv g0 (b + 1) l + onesN wb 32)
      wv h f.d.toNat l is.length) g)) c.pk)

end Sys2Proof.Machine
end

