-- ==== Sys2Proof/Machine/Peer.lean ====
section
/-! DEFINITION. Zalak ports: flits received, replays, losses and training, and the messages of peers: requests executed here
and the answers to the device's own (R38 to R47, R155, R205). -/

namespace Sys2Proof.Machine

/-! ### Flits (R38 to R41) -/

/-- A message from its header and the data of its head flit. -/
def parseMsg (b : List Byte) : Msg :=
  let n := fun o k => leNat ((b.drop o).take k)
  let len := n 16 2
  { addr := BitVec.ofNat 64 (n 0 8), tgt := n 8 2 % 1024, src := n 10 2 % 1024, op := n 12 1, flags := n 13 1, tag := n 14 2, len := len,
    rsvOk := decide (n 8 2 < 1024 ∧ n 10 2 < 1024 ∧ n 13 1 < 4 ∧ n 18 6 = 0), data := (b.drop 24).take (min len 224) }

/-- R39: a target takes the message. One longer than its OP admits, or a stream block where the part has not advertised that it can
hold them, counts as a protocol error too (DESIGN CHOICE, log entry 22). -/
def msgOk (s : State) (m : Msg) : Bool :=
  m.rsvOk && decide (1 ≤ m.op ∧ m.op ≤ 9) && m.tgt == s.mg.fabricNo &&
    (if m.op = 7 then decide (m.len ≤ 4240) && s.mg.streamCap else decide (m.len ≤ 4096))

/-- An answer to a message, on the port it came by. -/
def reply (s : State) (p : Nat) (m : Msg) (op : Nat) (data : List Byte) : State :=
  sendMsg s p { addr := m.addr, tgt := m.src, src := s.mg.fabricNo, op := op, flags := 2, tag := m.tag, len := data.length, rsvOk := true,
                data := data }

/-- Error responses that found no room go out as room comes (R39, R40). -/
def flushErrs (s : State) (p : Nat) : State :=
  (zportAt s p).errs.foldl (fun t m =>
    if zRoom t p 1 then reply (onPort t p (fun z => { z with errs := z.errs.drop 1 })) p m 9 [] else t) s

/-- A message received whole (R39). -/
def takeMsg (s : State) (p : Nat) (m : Msg) : State :=
  if msgOk s m then onPort s p (fun z => { z with rx := z.rx ++ [m] })
  else onPort s p (fun z => { z with protoErr := z.protoErr + 1, errs := z.errs ++ [m] })

/-- Flits that an ACK acknowledges leave the replay buffer. -/
def ackTo (z : ZPort) (a : Nat) : ZPort :=
  { z with tx := z.tx.filter (fun e => !decide ((a + 4096 - e.1) % 4096 < 2048)) }

/-- What an accepted flit carries (R38, R40): a message's head or more of it, or the sequence number to replay from. A head that comes
while an earlier message of the port is only partly received takes its place (DESIGN CHOICE, log entry 22). -/
def takeBody (s : State) (p kind : Nat) (body : List Byte) : State :=
  match kind, (zportAt s p).part with
  | 1, _ =>
    let m := parseMsg body
    if m.data.length = m.len then takeMsg (onPort s p (fun z => { z with part := none })) p m
    else onPort s p (fun z => { z with part := some (m, m.len - m.data.length) })
  | 2, some (m, left) =>
    let m := { m with data := m.data ++ body.take (min left 248) }
    if left ≤ 248 then takeMsg (onPort s p (fun z => { z with part := none })) p m
    else onPort s p (fun z => { z with part := some (m, left - 248) })
  | 3, _ => onPort s p (fun z => { z with resend := some (leNat (body.take 2) % 4096) })
  | _, _ => s

/-- An accepted flit: its ACK and CREDIT, what it carries, then the error responses that wait. Its own buffer is free again at
once, and where nothing else goes out an idle flit tells so (DESIGN CHOICE, log entry 22). -/
def acceptFlit (s : State) (p : Nat) (flit : List Byte) : State :=
  let x := leNat (flit.take 4)
  let s := onPort s p (fun z => { ackTo z (bitsN x 16 12) with
    rxSeq := (z.rxSeq + 1) % 4096, discard := false, freed := z.freed + 1, credit := z.credit + 8 * bitsN x 28 4 })
  let t := flushErrs (takeBody s p (bitsN x 12 4) ((flit.drop 4).take 248)) p
  if (zportAt t p).txSeq = (zportAt s p).txSeq ∧ zRoom t p 1 then sendFlit t p 0 (List.replicate 248 0) else t

/-- ZALAK_FLIT_RECEIVE (R40). While it discards, the receiver names the missing number again where a flit comes with a bad CRC, which
may be the replay itself (DEDUCED, log entry 22). -/
def execZalakFlitReceive (port : Nat) (flit : List (BitVec 8)) (s : State) : Host.Outcome State Fault Refusal :=
  event s (fun s =>
    let z := zportAt s port
    if !z.up ∨ flit.length ≠ 256 then s
    else
      let s := bumpDie s (portDie port) 0x131 1
      let whole := crc32c (flit.take 252) == leNat (flit.drop 252)
      if whole ∧ leNat (flit.take 2) % 4096 = z.rxSeq then pumpDev (acceptFlit s port flit)
      else if (z.discard ∧ whole) ∨ !zRoom s port 1 then s
      else sendFlit (onPort s port (fun z => { z with discard := true })) port 3 (padTo 248 (leBytes 2 z.rxSeq)))

/-- ZALAK_REPLAY (R40, R41): the transmitter replays from the flit that the far side has named. -/
def execZalakReplay (port seq : Nat) (s : State) : Host.Outcome State Fault Refusal :=
  event s (fun s =>
    let z := zportAt s port
    if !z.up ∨ z.resend ≠ some seq ∨ !z.tx.any (fun e => e.1 == seq) ∨ 16 ≤ z.replays then s
    else
      bumpDie (onPort s port (fun z =>
        { z with resend := none, retries := z.retries + 1, replayAt := seq, replays := if z.replayAt = seq then z.replays + 1 else 1 }))
        (portDie port) 0x132 1)

/-- A port declares its link lost (R41, R44). -/
def loseLink (s : State) (p : Nat) : State :=
  signal (bumpDie (onPort (dropLink s p) p (fun z => { z with lostCnt := z.lostCnt + 1 })) (portDie p) 0x133 1) 0

/-- LINK_LOST (R41, R44): 16 consecutive replays have begun at one sequence number. -/
def execLinkLost (port : Nat) (s : State) : Host.Outcome State Fault Refusal :=
  event s (fun s => if (zportAt s port).up ∧ 16 ≤ (zportAt s port).replays then loseLink s port else s)

/-- ACK_TIMEOUT (R41): no acknowledgement for 10 µs while flits are outstanding. -/
def execAckTimeout (port : Nat) (s : State) : Host.Outcome State Fault Refusal :=
  event s (fun s => if (zportAt s port).up ∧ !(zportAt s port).tx.isEmpty then loseLink s port else s)

/-- PORT_TRAIN_RETRY (R38): the port stays down. -/
def execPortTrainRetry (_port : Nat) (s : State) : Host.Outcome State Fault Refusal := event s (fun s => s)

/-- PORT_TRAINED (R38, R46): `cap` is what the far side advertises; the part itself advertises `streamCap`. -/
def execPortTrained (port : Nat) (cap : Bool) (s : State) : Host.Outcome State Fault Refusal :=
  event s (fun s =>
    if 48 ≤ port ∨ (zportAt s port).up ∨ s.mg.fwState ≠ 1 ∨ s.mg.tripped then s
    else onPort s port (fun z => { ZPort.blank with
      up := true, peerCap := cap, retries := z.retries, lostCnt := z.lostCnt, protoErr := z.protoErr }))

/-! ### Requests of a peer (R155, R159) -/

/-- A message asks this device for an access. -/
def isRequest (m : Msg) : Bool := m.op == 1 || m.op == 3 || m.op == 5 || m.op == 7 || m.op == 8

/-- The first message of an OP before which no request for the same object waits. -/
def nextMsg (op : Nat) : List Msg → List Nat → Option Msg
  | [], _ => none
  | m :: ms, busy =>
    if m.op = op ∧ !(isRequest m && busy.contains (oidOf m.addr.toNat)) then some m
    else nextMsg op ms (if isRequest m then oidOf m.addr.toNat :: busy else busy)

/-- The engine operation that stands for a request while it stalls. -/
def reqKey (p : Nat) (m : Msg) : Nat := 2 ^ 32 + 65536 * p + m.tag
def reqEng (s : State) (p : Nat) (m : Msg) : EngOp :=
  (Map.find? s.eng (reqKey p m)).getD
    { gang := 2 ^ 40, stamp := 2 ^ 40, crew := 2 ^ 40, batch := none, bar := none, kind := .reclaim 0, cancelled := false, refused := [], st := 0,
      held := [], late := [] }

/-- A peer as an agent: an engine of the device, in user mode. -/
def peerWho : Who := { crew := none, core := 1008, slot := 0, sup := false, use := .engine, noWatch := true, run := 2 ^ 40 }

/-- What the device has begun for a request is done with: its stall and its own requests to a peer. -/
def dropReq (s : State) (k : Nat) : State :=
  { s with eng := Map.del s.eng k, peerOps := s.peerOps.filter (fun o => match o.owner with
      | .eng j _ => j != k
      | _ => true) }

/-- The message is done with. -/
def dropMsg (s : State) (p : Nat) (m : Msg) : State := dropReq (onPort s p (fun z => { z with rx := z.rx.erase m })) (reqKey p m)

/-- The request waits, for the host's answer about a page or for a peer of its own. -/
def stallReq (s : State) (p : Nat) (m : Msg) : State := { s with eng := Map.put s.eng (reqKey p m) (reqEng s p m) }

/-- OP 0x09 with the trap code of a failed check (R155). -/
def refuse (s : State) (p : Nat) (m : Msg) (c : TrapCode) : State := reply (dropMsg s p m) p m 9 (leBytes 1 c.num)
def answerMsg (s : State) (p : Nat) (m : Msg) (op : Nat) (data : List Byte) : State := reply (dropMsg s p m) p m op data

/-- Runs `f` on the next message of an OP, if the port can carry its answer. -/
def onRequest (s : State) (p op : Nat) (f : State → Msg → State) : State :=
  match nextMsg op (zportAt s p).rx [] with
  | some m => if (zportAt s p).up && zRoom s p 64 then f s m else s
  | none => s

/-- Reads ranges for a peer, as an engine operation of this device does, and answers with what `f` makes of the bytes: a check that fails,
poison included, answers OP 0x09. -/
def serveRead (s : State) (p : Nat) (m : Msg) (w : Who) (rs : List (Nat × Nat)) (f : State → List Byte → State) : State :=
  match rs.findSome? (fun r => rangeCheck s w r.1 r.2 .read []) with
  | some c => refuse s p m c
  | none =>
    match moveIn s w (reqEng s p m) (reqKey p m) 0 (rs.flatMap (fun r => rangePieces s w r.1 r.2)) with
    | (s, none) => stallReq s p m
    | (s, some cs) =>
      if cs.flatten.any (fun x => !x.ok) then refuse s p m .remoteLost
      else if cs.flatten.any (·.bad) then refuse s p m .poison
      else f s (cs.flatten.map (·.b))

/-- One stream block of an answer, `n` of its symbols being wanted, `last` if no other follows: the block where the far side can hold
one, else its symbols, expanded here (R46); a bad block is answered as so many poisoned symbols (R47; log entry 22). -/
def answerBlock (s : State) (p : Nat) (m : Msg) (b : Block) (bad : Bool) (bs : List Byte) (n : Nat) (last : Bool) : State :=
  let cap := (zportAt s p).peerCap && !bad
  let data := if cap then bs.take b.size else if bad then leBytes 1 TrapCode.poison.num ++ leBytes 2 n else b.syms.take n
  let t := if (zportAt s p).peerCap then s else countBlock s p b.bad
  sendMsg t p { addr := m.addr, tgt := m.src, src := s.mg.fabricNo, op := if cap then 7 else if bad then 9 else 2,
                flags := cap.toNat + 2 * last.toNat, tag := m.tag, len := data.length, rsvOk := true, data := data }

/-- A read of a stream (R46): its blocks are answered one at a time, the request standing for what is left of it. -/
def serveStream (s : State) (p : Nat) (m : Msg) : State :=
  let w := { peerWho with use := .stream }
  let a := m.addr.toNat
  let size := (entryOf s (oidOf a)).size
  let left := leNat (m.data.take 4)
  match rangeCheck s w a (size - offOf a) .read [] with
  | some c => refuse s p m c
  | none =>
    if left = 0 ∨ size < offOf a + 144 then answerMsg s p m 2 []
    else match ctabIn s w (reqEng s p m) (reqKey p m) a with
      | (s, none) => stallReq s p m
      | (s, some tab) =>
        match moveIn s w (reqEng s p m) (reqKey p m) 0 (rangePieces s w a (min 4240 (size - offOf a))) with
        | (s, none) => stallReq s p m
        | (s, some cs) =>
          let cs := cs.flatten
          if cs.any (fun x => !x.ok) then refuse s p m .remoteLost
          else
            let b := expandBlock (cs.map (·.b)) tab
            let n := min left b.syms.length
            let next := cdiv (offOf a + b.size) 16 * 16
            let last := decide (left ≤ n ∨ size < next + 144) || b.last
            let t := if last then dropMsg s p m
              else onPort (dropReq s (reqKey p m)) p (fun z => { z with rx := z.rx.map (fun x => if x = m then
                { m with addr := BitVec.ofNat 64 (addrOf (oidOf a) next), data := leBytes 4 (left - n) } else x) })
            answerBlock t p m b (b.bad || (cs.take b.size).any (·.bad)) (cs.map (·.b)) n last

/-- Bytes that a read request asks for: its 4 data bytes, at most 4,096 (DESIGN CHOICE, log entry 22). -/
def wanted (m : Msg) : Nat := Nat.min 4096 (leNat (m.data.take 4))

/-- ZALAK_READ_REQUEST (R155). FLAGS bit 0 asks for stream blocks from the address on, of an object that holds a stream (R46; log entry
22). -/
def execZalakReadRequest (port : Nat) (s : State) : Host.Outcome State Fault Refusal :=
  event s (fun s => onRequest s port 1 (fun s m =>
    if m.flags.testBit 0 then serveStream s port m
    else serveRead s port m peerWho [(m.addr.toNat, wanted m)] (fun s bs => answerMsg s port m 2 bs)))

/-- ZALAK_GATHER_REQUEST (R205): the elements that the request names, in order. -/
def execZalakGatherRequest (port : Nat) (s : State) : Host.Outcome State Fault Refusal :=
  event s (fun s => onRequest s port 8 (fun s m =>
    let n := fun o k => leNat ((m.data.drop o).take k)
    serveRead s port m peerWho ((List.range (n 1 1)).map (fun i => (addrOf (oidOf m.addr.toNat) (n (8 + 8 * i) 8), n 0 1)))
      (fun s bs => answerMsg s port m 2 bs)))

/-- Writes cells for a peer, as an engine operation of this device does, and after the last message of the operation answers OP 0x04. -/
def serveWrite (s : State) (p : Nat) (m : Msg) (cs : List Cell) : State :=
  let a := m.addr.toNat
  match rangeCheck s peerWho a cs.length .write [] with
  | some c => refuse s p m c
  | none =>
    match moveOut s peerWho (reqKey p m) 0 (rangePieces s peerWho a cs.length) cs with
    | .stalled s => stallReq s p m
    | .done st t =>
      if st.getLsbD 0 then refuse t p m .remoteLost
      else if m.flags.testBit 1 then answerMsg t p m 4 [] else dropMsg t p m

/-- ZALAK_WRITE_REQUEST (R155). -/
def execZalakWriteRequest (port : Nat) (s : State) : Host.Outcome State Fault Refusal :=
  event s (fun s => onRequest s port 3 (fun s m => serveWrite s port m (m.data.map (fun b => { b := b, bad := false, ok := true }))))

/-- An atomic for a peer (R155, R348): answers OP 0x06 with the old value, which for an object that stands at another peer is that one's
answer. -/
def serveAtomic (s : State) (p : Nat) (m : Msg) : State :=
  let a := m.addr.toNat
  let n := fun o k => leNat ((m.data.drop o).take k)
  let k := n 1 1
  match AtomOp.ofNum (n 0 1) with
  | none => refuse s p m .illegalOp
  | some op =>
    if k ≠ 4 ∧ k ≠ 8 ∧ k ≠ 16 ∧ (k ≠ 1 ∨ op ≠ .maxe) then refuse s p m .illegalOp
    else
      match rangeCheck s peerWho a k .atomic [] with
      | some c => refuse s p m c
      | none =>
        if a % k ≠ 0 then refuse s p m .align
        else if (peerHome s peerWho a).isSome then
          let s := engAsk s peerWho (reqKey p m) [{ i := 0, op := 5, addr := a, n := k, data := m.data }]
          match (engReq s (reqKey p m) 0).map (fun o => (o.answer, o.fail)) with
          | some (some bs, _) => answerMsg s p m 6 bs
          | some (none, some _) => refuse s p m .remoteLost
          | _ => s
        else if rangePoisoned s peerWho a k then refuse s p m .poison
        else
          match hostMiss s peerWho (reqEng s p m) [{ addr := some a, len := k }] with
          | some pg => stallHost (stallReq s p m) (reqKey p m) pg
          | none =>
            if dstMigrates s [{ addr := some a, len := k }] then s
            else if (reqEng s p m).refused.contains (oidOf a * 2 ^ 24 + offOf a / 65536) then refuse s p m .pageHost
            else match engPages s peerWho a k with
              | none => s
              | some t =>
                let l := locate t peerWho a
                let far := match l with
                  | .host _ => true
                  | _ => false
                if far && (!(op == .add || op == .xchg || op == .cas) || Config.hostRefuses s.tick a) then refuse s p m .objectInvalid
                else
                  let r := atomAt t l op k (n 8 k) (n (8 + k) k)
                  let t := if r.2.1 then relWrite r.2.2 (relKeys l none k) none true else r.2.2
                  answerMsg (touch t peerWho a true) p m 6 (leBytes k r.1)

/-- ZALAK_ATOMIC_REQUEST (R155). -/
def execZalakAtomicRequest (port : Nat) (s : State) : Host.Outcome State Fault Refusal :=
  event s (fun s => onRequest s port 5 (fun s m => serveAtomic s port m))

/-! ### Answers of a peer (R39, R155) -/

/-- The next answer of an OP takes effect; the part's own writes go on after it. -/
def onAnswer (s : State) (p op : Nat) : State :=
  match nextMsg op (zportAt s p).rx [] with
  | some m => pumpDev (takeAnswer (onPort s p (fun z => { z with rx := z.rx.erase m })) p m)
  | none => s

/-- ZALAK_READ_DATA (R39). -/
def execZalakReadData (port : Nat) (s : State) : Host.Outcome State Fault Refusal := event s (fun s => onAnswer s port 2)

/-- ZALAK_WRITE_ACK (R343). -/
def execZalakWriteAck (port : Nat) (s : State) : Host.Outcome State Fault Refusal := event s (fun s => onAnswer s port 4)

/-- ZALAK_ATOMIC_RESULT (R39). -/
def execZalakAtomicResult (port : Nat) (s : State) : Host.Outcome State Fault Refusal := event s (fun s => onAnswer s port 6)

/-- ZALAK_ERROR_RESPONSE (R39, R155): the operation completes as lost, with the peer's trap code. -/
def execZalakErrorResponse (port : Nat) (s : State) : Host.Outcome State Fault Refusal := event s (fun s => onAnswer s port 9)

/-- What a stream block writes at the address it names (R46, R47): FLAGS bit 0 says that it is still compressed, and it is expanded here. -/
def msgBlock (m : Msg) : Block :=
  if m.flags.testBit 0 then expandBlock m.data none
  else { syms := m.data, bad := false, last := false, size := m.data.length }

/-- ZALAK_STREAM_BLOCK (R46, R47): a block answers a read of the device's own, or is written at the address it names; a bad block
poisons the lines it fills. -/
def execZalakStreamBlock (port : Nat) (s : State) : Host.Outcome State Fault Refusal :=
  event s (fun s =>
    match nextMsg 7 (zportAt s port).rx [] with
    | none => s
    | some m =>
      if ownRead s port m then pumpDev (takeAnswer (onPort s port (fun z => { z with rx := z.rx.erase m })) port m)
      else onRequest s port 7 (fun s m =>
        let b := msgBlock m
        let t := serveWrite s port m (b.syms.map (fun y => { b := y, bad := b.bad, ok := true }))
        if m.flags.testBit 0 && !(zportAt t port).rx.contains m then countBlock t port b.bad else t))

end Sys2Proof.Machine
end

