-- ==== Sys2Proof/Machine/Predicate.lean ====
section
/-! DEFINITION. Integer compares, predicate logic, strings and hashing (R292, R294 to R297). -/

namespace Sys2Proof.Machine

/-- CMP: P[D] in each active lane (R292). -/
def execCmp (f : RRR) (s : State) : Host.Outcome State Fault Refusal :=
  issue (shapeOf (.cmp f)) s (fun c s =>
    let t := ityOf f.type
    advance (onGang s c.gk (fun g => putP g f.d.toNat c.act (fun l =>
      let a := src c.g f.sa f.a (iw f.type) l
      let b := src c.g f.sb f.b (iw f.type) l
      condI f.func.toNat (elemV t a 0) (elemV t b 0) (a &&& b)))) c.pk)

/-- A predicate operation: FUNC bits 0 and 1 negate the sources (R294). -/
def predOp (f : RRR) (fn : Bool → Bool → Bool) (c : Ctx) (s : State) : State :=
  advance (onGang s c.gk (fun g => putP g f.d.toNat c.act (fun l =>
    fn (rp c.g f.a.toNat l != f.func.getLsbD 0) (rp c.g f.b.toNat l != f.func.getLsbD 1)))) c.pk

/-- PAND (R294). -/
def execPand (f : RRR) (s : State) : Host.Outcome State Fault Refusal :=
  issue (shapeOf (.pand f)) s (predOp f (fun a b => a && b))

/-- POR (R294). -/
def execPor (f : RRR) (s : State) : Host.Outcome State Fault Refusal :=
  issue (shapeOf (.por f)) s (predOp f (fun a b => a || b))

/-- PXOR (R294). -/
def execPxor (f : RRR) (s : State) : Host.Outcome State Fault Refusal :=
  issue (shapeOf (.pxor f)) s (predOp f (fun a b => a != b))

/-- PNOT (R294). -/
def execPnot (f : RRR) (s : State) : Host.Outcome State Fault Refusal :=
  issue (shapeOf (.pnot f)) s (predOp f (fun a _ => !a))

/-- PMOV: copy, true or false (R294). -/
def execPmov (f : RRR) (s : State) : Host.Outcome State Fault Refusal :=
  issue (shapeOf (.pmov f)) s (fun c s =>
    advance (onGang s c.gk (fun g => putP g f.d.toNat c.act (fun l =>
      match f.func.toNat with
      | 0 => rp c.g f.a.toNat l
      | 1 => true
      | _ => false))) c.pk)

/-- The order of two 4-byte strings as −1, 0 or +1 (R295). -/
def scmpVal (a b : Nat) : Nat → Nat → Int
  | 0, _ => 0
  | n + 1, i => if byteN a i < byteN b i then -1 else if byteN b i < byteN a i then 1 else scmpVal a b n (i + 1)

/-- SCMP (R295). -/
def execScmp (f : RRR) (s : State) : Host.Outcome State Fault Refusal :=
  issue (shapeOf (.scmp f)) s (alu f 1 (fun a b c => if c ≠ 0 then c else wrapI 32 (scmpVal a b 4 0)))

/-- SEQB (R295). -/
def execSeqb (f : RRR) (s : State) : Host.Outcome State Fault Refusal :=
  issue (shapeOf (.seqb f)) s (alu f 1 (fun a b _ =>
    joinE 1 ((List.range 4).map (fun i => if byteN a i = byteN b i then 1 else 0))))

/-- SFIND (R295). -/
def execSfind (f : RRR) (s : State) : Host.Outcome State Fault Refusal :=
  issue (shapeOf (.sfind f)) s (alu f 1 (fun a b _ => ((List.range 4).find? (fun i => byteN a i == b % 256)).getD 4))

/-- CRC over the low bytes of b that TYPE gives (R296). -/
def execCrc (f : RRR) (s : State) : Host.Outcome State Fault Refusal :=
  issue (shapeOf (.crc f)) s (alu f 1 (fun a b _ =>
    let n := if f.type = 1 then 4 else if f.type = 5 then 2 else 1
    crcBytes a (leBytes n b)))

/-- R297. -/
def hmixVal (a b : Nat) : Nat :=
  let x := a ^^^ b
  let x := x ^^^ (x / 2 ^ 31)
  let x := x * 0xA3B195C54E6F1D27 % 2 ^ 64
  let x := x ^^^ (x / 2 ^ 29)
  let x := x * 0x8F2D7C43B169E0A5 % 2 ^ 64
  x ^^^ (x / 2 ^ 32)

/-- HMIX (R297). -/
def execHmix (f : RRR) (s : State) : Host.Outcome State Fault Refusal :=
  issue (shapeOf (.hmix f)) s (alu f 2 (fun a b _ => hmixVal a b))

/-- BSWAP: the bytes of each element in reverse order (R295). -/
def execBswap (f : RRR) (s : State) : Host.Outcome State Fault Refusal :=
  issue (shapeOf (.bswap f)) s (aluU f (fun t a _ _ =>
    joinE 8 (((List.range (t.w / 8)).map (fun i => byteN a i)).reverse)))

end Sys2Proof.Machine
end

