-- ==== Sys2Proof/Machine/Regs.lean ====
section
/-! DEFINITION. The rest of the management window and the aperture: trace control, breakpoints, watchpoints, every register
write by offset, what a register reads, and host accesses to objects (R4, R37, R50 to R54, R64 to R77, R95, R103 to R106,
R168, R412). -/

namespace Sys2Proof.Machine

/-! ### Trace control (R103) -/

/-- A write of TRACECTL: a changed buffer object zeroes its NEXT and READ; records still to be written to the former one no longer count. -/
def writeTracectl (s : State) (v : DWord) : State :=
  let v := v &&& 0xE000FFFFFFFFFFFF#64
  let old := s.mg.traceCtl.toNat
  let lens := v.toNat % 2 ^ 24 == old % 2 ^ 24
  let marks := bitsN v.toNat 24 24 == bitsN old 24 24
  onMg { s with devQ := s.devQ.filter (fun d => (lens || d.mark != some .lensNext) && (marks || d.mark != some .markNext)) } (fun m =>
    let m := if lens then m else { m with lensNext := 0, lensRead := 0 }
    let m := if marks then m else { m with markNext := 0, markRead := 0 }
    { m with traceCtl := v })

/-- TRACECTL_WRITE (R103). -/
def execTracectlWrite (v : BitVec 64) (s : State) : Host.Outcome State Fault Refusal := regEvent s (fun s => writeTracectl s v)

/-! ### Breakpoints and watchpoints (R104 to R106) -/

/-- A pre-empted crew's save area holds a path that breakpoint `n` holds still. -/
def heldSaved (s : State) (n : Nat) (p : PreCrew) : Bool := (heldIn s p).contains n

/-- Every path that breakpoint `n` holds goes on, those of pre-empted crews when they resume (R105). -/
def releaseHeld (s : State) (n : Nat) : State :=
  { s with
    paths := s.paths.map (fun e => (e.1, if e.2.wait = .held n then { e.2 with wait := .none } else e.2)),
    pre := s.pre.map (fun p => if heldSaved s n p then { p with released := p.released ++ [n] } else p) }

/-- HELD of a breakpoint (R104): some path stands held at it, a pre-empted crew's included. -/
def heldBy (s : State) (n : Nat) : Bool := s.paths.any (fun e => e.2.wait == .held n) || s.pre.any (heldSaved s n)

/-- The CORE field keeps its value at a write of 128 to 255 (R104, R106). -/
def keepCore (old v : Word) : Word := if v.getLsbD 23 then (v &&& 0xFF00FFFF#32) ||| (old &&& 0x00FF0000#32) else v

/-- A write of BKPTCTLn (R104, R105). -/
def writeBkptctl (s : State) (n : Nat) (v : Word) : State :=
  if 4 ≤ n then s
  else
    let x := keepCore (Map.getD s.mg.bkptCtl n 0) v &&& 0x90FF003F#32
    let x := if v.getLsbD 29 then x &&& 0x7FFFFFFF#32 else x
    let s := onMg s (fun m => { m with bkptCtl := Map.setD m.bkptCtl n x 0 })
    if x.getLsbD 31 then s else releaseHeld s n

/-- A write of BKPTADDRn (R104). -/
def writeBkptaddr (s : State) (n : Nat) (v : DWord) : State :=
  if 4 ≤ n then s else onMg s (fun m => { m with bkptAddr := Map.setD m.bkptAddr n v 0 })

/-- BKPT_RELEASE (R105): a write of BKPTCTLn. -/
def execBkptRelease (n : Nat) (v : BitVec 32) (s : State) : Host.Outcome State Fault Refusal :=
  regEvent s (fun s => writeBkptctl s n v)

/-- A write of WATCHCTLn (R106): an SZ of 17 to 31 stores 16. -/
def writeWatchctl (s : State) (n : Nat) (v : Word) : State :=
  if 4 ≤ n then s
  else
    let x := keepCore (Map.getD s.mg.watchCtl n 0) v &&& 0xF0FF07FF#32
    let x := if 16 < (x.extractLsb' 6 5).toNat then (x &&& 0xFFFFF83F#32) ||| (16#32 <<< 6) else x
    onMg s (fun m => { m with watchCtl := Map.setD m.watchCtl n x 0 })

/-- A write of WATCHADDRn (R106). -/
def writeWatchaddr (s : State) (n : Nat) (v : DWord) : State :=
  if 4 ≤ n then s else onMg s (fun m => { m with watchAddr := Map.setD m.watchAddr n v 0 })

/-- WATCHPOINT_WRITE (R106): `hi` selects WATCHCTLn. -/
def execWatchpointWrite (n : Nat) (hi : Bool) (v : BitVec 64) (s : State) : Host.Outcome State Fault Refusal :=
  regEvent s (fun s => if hi then writeWatchctl s n (v.truncate 32) else writeWatchaddr s n v)

/-! ### Registers that only hold a value -/

/-- An access that is not performed counts in APERR (R412). -/
def apErr (s : State) : State := onMg s (fun m => { m with apErr := m.apErr + 1 })

/-- DEVSTAT's flags are cleared by writing 1 (R54). -/
def writeDevstat (s : State) (v : Word) : State :=
  onMg s (fun m => { m with featLock := m.featLock && !v.getLsbD 28, hndMiss := m.hndMiss && !v.getLsbD 27,
                            hndLock := m.hndLock && !v.getLsbD 26 })

/-- TRACEDROP: a 1 in either field clears the field (R103). -/
def writeTracedrop (s : State) (v : Word) : State :=
  onMg s (fun m => { m with markDrop := if v.toNat / 2 ^ 16 = 0 then m.markDrop else 0,
                            lensDrop := if v.toNat % 2 ^ 16 = 0 then m.lensDrop else 0 })

/-- EVSEL: OVF is cleared by writing 1; QMASK is reserved in a die counter (R75). -/
def writeEvsel (s : State) (key : Nat) (v : Word) : State :=
  let c := ctrAt s key
  let keep := if key < 0x10000 then 0xBC0003FF#32 else 0x800003FF#32
  putCtr s key { c with evsel := (v &&& keep) ||| (if v.getLsbD 30 then 0 else c.evsel &&& 0x40000000#32) }

def writeCount (s : State) (key : Nat) (v : DWord) : State := putCtr s key { ctrAt s key with count := v }

/-- Eight bytes of the staging area (R66). -/
def writeStaging (s : State) (o : Nat) (v : DWord) : State :=
  if s.mg.fwState = 3 then s else onMg s (fun m => { m with staging := mapPut m.staging o (leBytes 8 v.toNat) })

/-- Eight bytes of the nonce (R69). -/
def writeNonce (s : State) (o : Nat) (v : DWord) : State := onMg s (fun m => { m with attNonce := mapPut m.attNonce o (leBytes 8 v.toNat) })

/-- HSRING: an SZ of 10 to 15 stores 9 (R168). -/
def writeHsring (s : State) (v : DWord) : State :=
  onMg s (fun m => { m with hsRing := BitVec.ofNat 64 (v.toNat / 4096 * 4096 + Nat.min 9 (v.toNat % 16)) })

/-- The fabric number and the route table, which the host assigns by means the spec does not give (R42): offset 2^32 takes
the number in bits 9:0, offset 2^32 + 1 + p up to four ports of peer p, one in each byte. Offset 2^32 + 1025 resizes the aperture to 2^v
GiB, v up to 9 (R49): the host does so in the function's configuration space. -/
def writeFabric (s : State) (off : Nat) (v : DWord) : State :=
  if off = 2 ^ 32 then onMg s (fun m => { m with fabricNo := v.toNat % 1024 })
  else if off ≤ 2 ^ 32 + 1024 then
    let ps := nubN (((List.range 4).map (fun i => bitsN v.toNat (8 * i) 8)).filter (fun p => decide (p < 48)))
    onMg s (fun m => { m with routes := Map.setD m.routes (off - 2 ^ 32 - 1) ps [] })
  else if off = 2 ^ 32 + 1025 ∧ v.toNat ≤ 9 then onMg s (fun m => { m with apertureSize := 2 ^ (30 + v.toNat) })
  else s

/-! ### Writes by offset -/

/-- The registers below 0x700. -/
def writeLow (s : State) (off : Nat) (v : DWord) : State :=
  let w : Word := v.truncate 32
  match off with
  | 0x18 => writeFeatacc s 0 w
  | 0x1C => writeFeatacc s 1 w
  | 0x40 => writeDevstat s w
  | 0x44 => writeLaunchen s w
  | 0x60 => writeHandler s 0 v
  | 0x68 => writeHandler s 1 v
  | 0x104 => writeClkceil s w.toNat
  | 0x108 => writePwrcap s w.toNat
  | 0x304 => writeFwload s (w.toNat % 4)
  | 0x400 => writeCkptctl s w
  | 0x408 => onMg s (fun m => { m with ckptAddr := v })
  | 0x500 => onMg s (fun m => { m with scanCtl := w &&& 0x8000FFFF#32 })
  | _ => if 0x200 ≤ off ∧ off < 0x210 ∧ off % 4 = 0 then
      onMg s (fun m => { m with ovf := Map.setD m.ovf ((off - 0x200) / 4) (w &&& 0xFFFFFF#32) 0 })
    else s

/-- The registers from 0x700 below 0x1000. -/
def writeMid (s : State) (off : Nat) (v : DWord) : State :=
  let w : Word := v.truncate 32
  match off with
  | 0x700 => writeSavepool s w.toNat
  | 0x740 => writeTracectl s v
  | 0x750 => onMg s (fun m => { m with lensRead := w, markRead := v.extractLsb' 32 32 })
  | 0x758 => writeTracedrop s w
  | 0x800 => writeObjtbase s w.toNat
  | 0x804 => writeObjtcnt s w.toNat
  | 0x808 => writePinovf s w.toNat
  | 0x810 => writeShoot s w.toNat
  | 0x820 => writeHsring s v
  | 0x82C => onMg s (fun m => { m with hsRead := w })
  | 0x830 => writeHsanswer s v
  | _ =>
    if 0x780 ≤ off ∧ off < 0x7C0 then
      if off % 16 = 0 then writeBkptaddr s ((off - 0x780) / 16) v
      else if off % 16 = 8 then writeBkptctl s ((off - 0x780) / 16) w else s
    else if 0x7C0 ≤ off ∧ off < 0x800 then
      if off % 16 = 0 then writeWatchaddr s ((off - 0x7C0) / 16) v
      else if off % 16 = 8 then writeWatchctl s ((off - 0x7C0) / 16) w else s
    else if 0x840 ≤ off ∧ off < 0x860 then apErr s else s

/-- The rest of the window: nonce, ATTREQ, counters, APERTAB, staging. -/
def writeHigh (s : State) (off : Nat) (v : DWord) : State :=
  let w : Word := v.truncate 32
  let ctr := fun (key o : Nat) => if o = 0 then writeEvsel s key w else if o = 8 then writeCount s key v else s
  if off < 0x1040 then (if off % 8 = 0 then writeNonce s (off - 0x1000) v else s)
  else if off = 0x1040 then writeAttreq s w
  else if off < 0x10000 then s
  else if off < 0x12800 then ctr (0x10000 + (off - 0x10000) / 16) (off % 16)
  else if off < 0x20000 then s
  else if off < 0x28000 then ctr ((off - 0x20000) / 16) (off % 16)
  else if 0x40000 ≤ off ∧ off < 0x50000 then
    (if off % 8 = 0 then onMg s (fun m => { m with apertab := Map.setD m.apertab ((off - 0x40000) / 8) v 0 }) else s)
  else if 0x1000000 ≤ off ∧ off < 0x2000000 then (if off % 8 = 0 then writeStaging s (off - 0x1000000) v else s)
  else if 2 ^ 32 ≤ off then writeFabric s off v
  else s

/-- Registers whose write makes the device act on its memory or its firmware: handlers, FWLOAD, SHOOT, HSANSWER. After a thermal trip
they ignore it (R71; log entry 32). -/
def actsOnDevice (off : Nat) : Bool := [0x60, 0x68, 0x304, 0x810, 0x830].contains off

/-- A write of a whole register. Read-only registers and offsets that hold none ignore it (R4). -/
def writeReg (s : State) (off : Nat) (v : DWord) : State :=
  if s.mg.tripped && actsOnDevice off then s
  else if off < 0x700 then writeLow s off v else if off < 0x1000 then writeMid s off v else writeHigh s off v

/-- REGISTER_WRITE (R4). -/
def execRegisterWrite (off : Nat) (v : BitVec 64) (s : State) : Host.Outcome State Fault Refusal :=
  regEvent s (fun s => writeReg s off v)

/-! ### What a register reads (R4) -/

def bit (b : Bool) (n : Nat) : Nat := if b then 2 ^ n else 0

/-- The registers below 0x700. REJLOG holds TAG in bits 31:0, the port from bit 32 and the status from bit 40: DESIGN CHOICE, log entry
25. -/
def readLow (s : State) (off : Nat) : Nat :=
  let m := s.mg
  match off with
  | 0x10 => Config.features0
  | 0x18 => m.featAcc0.toNat
  | 0x1C => m.featAcc1.toNat
  | 0x40 => devStat s
  | 0x44 => bit m.launchEn 0
  | 0x60 => m.ftHndl.toNat
  | 0x68 => m.phHndl.toNat
  | 0x100 => clkStat s
  | 0x104 => m.clkCeil
  | 0x108 => m.pwrCap
  | 0x10C => m.tempDegc + 2 ^ 8 * m.tempDie + 2 ^ 16 * m.tempTrips
  | 0x200 => (Map.getD m.ovf 0 0).toNat
  | 0x204 => (Map.getD m.ovf 1 0).toNat
  | 0x208 => (Map.getD m.ovf 2 0).toNat
  | 0x20C => (Map.getD m.ovf 3 0).toNat
  | 0x210 => m.lpErr.toNat
  | 0x220 => m.rejTag.toNat + 2 ^ 32 * m.rejPort + 2 ^ 40 * m.rejStatus
  | 0x300 => m.fwState + 2 ^ 8 * m.fwReason
  | 0x308 => m.fwSvn.toNat
  | 0x400 => bit m.ckptBusy 31 + bit m.ckptDone 30 + bit m.ckptFail 29 + bit m.ckptTarget 2 + bit m.ckptDir 1
  | 0x408 => m.ckptAddr.toNat
  | 0x410 => m.ckptProg.toNat
  | 0x414 => m.ckptPois.toNat
  | 0x500 => m.scanCtl.toNat
  | 0x610 => m.apErr.toNat
  | _ => 0

/-- The registers from 0x700 below 0x1000. -/
def readMid (s : State) (off : Nat) : Nat :=
  let m := s.mg
  let n := off / 16 % 4
  match off with
  | 0x700 => m.savePool
  | 0x740 => m.traceCtl.toNat
  | 0x748 => m.lensNext.toNat + 2 ^ 32 * m.markNext.toNat
  | 0x750 => m.lensRead.toNat + 2 ^ 32 * m.markRead.toNat
  | 0x758 => m.lensDrop + 2 ^ 16 * m.markDrop
  | 0x800 => m.objtBase
  | 0x804 => m.objtCnt
  | 0x808 => m.pinOvf
  | 0x810 => bit (s.shoots.any (fun x => x.who == .reg)) 31
  | 0x820 => m.hsRing.toNat
  | 0x828 => m.hsNext.toNat
  | 0x82C => m.hsRead.toNat
  | 0xA00 => m.errCnt.toNat
  | _ =>
    if 0x780 ≤ off ∧ off < 0x7C0 then
      if off % 16 = 0 then (Map.getD m.bkptAddr n 0).toNat
      else if off % 16 = 8 then (Map.getD m.bkptCtl n 0).toNat + bit (heldBy s n) 30 else 0
    else if 0x7C0 ≤ off ∧ off < 0x800 then
      if off % 16 = 0 then (Map.getD m.watchAddr n 0).toNat
      else if off % 16 = 8 then (Map.getD m.watchCtl n 0).toNat else 0
    else if 0x880 ≤ off ∧ off < 0x8A0 ∧ off % 4 = 0 then freeFrames s ((off - 0x880) / 4)
    else if 0x900 ≤ off ∧ off < 0xA00 ∧ off % 8 = 0 then
      leNat ((List.range 8).map (fun i => Map.getD m.errRing (off - 0x900 + i) 0))
    else 0

/-- What a read of the register at an offset returns; of a byte array, the 8 bytes from the offset on. -/
def readReg (s : State) (off : Nat) : Nat :=
  let m := s.mg
  let ctr := fun (key o : Nat) => if o = 0 then (ctrAt s key).evsel.toNat else if o = 8 then (ctrAt s key).count.toNat else 0
  let bytes := fun (f : Nat → Byte) => leNat ((List.range 8).map f)
  if off < 0x700 then (if off = 0x540 then bytes (fun i => Config.openByte (m.scanLog.1 * 256 + m.scanLog.2 * 65536 + i)) else readLow s off)
  else if off < 0x1000 then readMid s off
  else if off < 0x1040 then bytes (fun i => Map.getD m.attNonce (off - 0x1000 + i) 0)
  else if off = 0x1040 then m.attReq.toNat
  else if 0x1200 ≤ off ∧ off < 0x1400 then bytes (fun i => Map.getD m.attReport (off - 0x1200 + i) 0)
  else if 0x1400 ≤ off ∧ off < 0x10000 then bytes (fun i => Config.openByte (off + i))
  else if 0x10000 ≤ off ∧ off < 0x12800 then ctr (0x10000 + (off - 0x10000) / 16) (off % 16)
  else if 0x20000 ≤ off ∧ off < 0x28000 then ctr ((off - 0x20000) / 16) (off % 16)
  else if 0x40000 ≤ off ∧ off < 0x50000 then (Map.getD m.apertab ((off - 0x40000) / 8) 0).toNat
  else if 0x1000000 ≤ off ∧ off < 0x2000000 then bytes (fun i => Map.getD m.staging (off - 0x1000000 + i) Config.emptyByte)
  else 0

/-! ### The aperture (R50) -/

/-- The host as an agent. -/
def hostWho : Who := { crew := none, core := 1008, slot := 0, sup := true, use := .host, noWatch := true, run := 0 }

/-- The object address behind an aperture offset, `none` past the aperture or through a zero entry. -/
def apertureAddr (s : State) (off : Nat) : Option Nat :=
  let e := (Map.getD s.mg.apertab (off / 2 ^ 26) 0).toNat
  if s.mg.apertureSize ≤ off ∨ e = 0 then none else some ((e + off % 2 ^ 26) % 2 ^ 64)

/-- The pages of a range. -/
def pagesOf (a n : Nat) : List Nat :=
  if n = 0 then [] else (List.range ((a + n - 1) / 65536 - a / 65536 + 1)).map (fun i => if i = 0 then a else (a / 65536 + i) * 65536)

/-- A host access of `n` bytes is performed: it lies in one segment, the object admits and permits it, it stays within the
object, and it meets no non-resident page of a host-homed object. -/
def hostMay (s : State) (off a n : Nat) (kind : AccKind) : Bool :=
  let id := oidOf a
  decide (n ≤ 4096 ∧ off % 2 ^ 26 + n ≤ 2 ^ 26) &&
  (if id = aliasId ∨ id = plainId then inScratch s hostWho a n
   else
     let e := (lookup s hostWho id (offOf a / 65536)).1
     e.ok && admits e.kind .host kind == 1 && permits e.perm kind true && decide (offOf a + n ≤ e.size) &&
       (e.home == 2 || (pagesOf a n).all (fun b => match (lookup s hostWho id (offOf b / 65536)).2 with
         | some (some _) => true
         | some none => e.home == 0 || (bounceOf s id (offOf b / 65536)).isSome
         | none => false)))

/-- The host's read of `n` bytes at an address of a peer, once it has been sent there. -/
def hostAsk (s : State) (a n : Nat) : Option PeerOp :=
  s.peerOps.find? (fun o => o.owner == .host && o.op == 1 && o.addr == BitVec.ofNat 64 a && o.n == n)

/-- A host read is answered. -/
def hostGets (s : State) (bs : List Byte) (ep : Bool) : State := { s with hostRead := bs, hostEp := ep }

/-- A host read that is not performed: all ones, counted in APERR. -/
def hostOnes (s : State) (n : Nat) : State := apErr (hostGets s (List.replicate (Nat.min n 4096) 255) false)

/-- The requests of one host access to a peer, one for each line (R42), those of them sent that find room. -/
def hostAsks (s : State) (e : ObjEnt) (ps : List Piece) : State :=
  ps.foldl (fun t p => match p.addr with
    | none => t
    | some x => match hostAsk t x p.len, portOf t e.peer x with
      | none, some k => if askRoom t k then askPeer t e k 1 .host x p.len [] else t
      | _, _ => t) s

/-- A host read of a peer-homed object travels to the peer (R43); the event that takes it up again answers it. One that no live port
carries, or whose answer is lost or refused, reads all ones and counts; bytes that the peer refuses as poisoned are open, and the answer
has the poisoned attribute (DESIGN CHOICE, log entry 25). -/
def hostReadPeer (s : State) (e : ObjEnt) (a n : Nat) : State :=
  let ps := linePieces a n
  let s := hostAsks s e ps
  let os := ps.map (fun p => p.addr.bind (fun x => hostAsk s x p.len))
  let t := { s with peerOps := s.peerOps.filter (fun o => !os.contains (some o)) }
  if os.any (fun o => o.any (fun o => o.answer.isNone && o.fail.isNone)) then s
  else if os.any (·.isNone) then (if (livePorts s e.peer).isEmpty then hostOnes t n else s)
  else if os.any (fun o => o.any (fun o => o.answer.isNone && o.fail != some 8)) then hostOnes t n
  else
    let bs := (ps.zip os).flatMap (fun x => (List.range x.1.len).map (fun i => match x.2.bind (·.answer) with
      | some bs => bs.getD i 0
      | none => Config.openByte (s.tick * 4096 + (x.1.addr.getD 0) % 4096 + i)))
    hostGets t bs (os.any (fun o => o.any (·.fail.isSome)))

/-- APERTURE_READ (R50): the data and the EP attribute of the completion. After a thermal trip it is not performed (log entry 32). -/
def execApertureRead (off len : Nat) (s : State) : Host.Outcome State Fault Refusal :=
  regEvent s (fun s =>
    match apertureAddr s off with
    | none => hostOnes s len
    | some a =>
      if s.mg.tripped ∨ !hostMay s off a len .read then hostOnes s len
      else match peerHome s hostWho a with
        | some e => hostReadPeer s e a len
        | none => (pagesOf a len).foldl (fun t b => touch t hostWho b false)
            (hostGets s (loadBytes s hostWho a len) (len != 0 && rangePoisoned s hostWho a len)))

/-- The lines of a host write go to a peer, all of them or none (R42). -/
def hostSends (s : State) (e : ObjEnt) : List (Piece × List Byte) → Option State
  | [] => some s
  | x :: xs => x.1.addr.bind (fun a => (portOf s e.peer a).bind (fun k =>
      if askRoom s k then hostSends (askPeer s e k 3 .host a x.2.length x.2) e xs else none))

/-- APERTURE_WRITE (R50): poison stays. A write that would need a bounce frame or a port where none has room has not arrived yet. -/
def execApertureWrite (off : Nat) (data : List (BitVec 8)) (s : State) : Host.Outcome State Fault Refusal :=
  regEvent s (fun s =>
    match apertureAddr s off with
    | none => apErr s
    | some a =>
      if s.mg.tripped ∨ !hostMay s off a data.length .write then apErr s
      else match peerHome s hostWho a with
        | some e =>
          if (livePorts s e.peer).isEmpty then apErr s
          else (hostSends s e (cutPieces (linePieces a data.length) data)).getD s
        | none =>
          match engPages s hostWho a data.length with
          | some t => (pagesOf a data.length).foldl (fun t b => touch t hostWho b false) (storeBytes t hostWho a data)
          | none => s)

end Sys2Proof.Machine
end

