-- ==== Sys2Proof/Machine/XLane.lean ====
section
/-! DEFINITION. Cross-lane instructions (R320 to R328). -/

namespace Sys2Proof.Machine

/-- Writes a value per lane, and a predicate where PX names one, and goes on. -/
def xlDone (f : XL) (w : Nat) (val : Nat → Nat) (pv : Nat → Bool) (c : Ctx) (s : State) : State :=
  advance (onGang s c.gk (fun g =>
    let h := putD g f.sd f.d w c.act val
    if f.px.toNat < 12 then putP h f.px.toNat c.act pv else h)) c.pk

def xsrc (c : Ctx) (f : XL) (w l : Nat) : Nat := src c.g f.sa f.a w l

/-- The ballot of R322. -/
def ballot (c : Ctx) (f : XL) : Mask := maskOf c.act (fun l => xsrc c f 1 l != 0)

def voteOut (f : XL) (b : Mask) (l : Nat) : Nat :=
  match fnBits f 0 2 with
  | 0 => b.toNat
  | 1 => popc b
  | 2 => popc (b &&& BitVec.ofNat 32 (2 ^ l - 1))
  | _ => lowLane b

def voteTest (f : XL) (b act : Mask) : Bool :=
  match fnBits f 2 2 with
  | 1 => b == act
  | 2 => b != 0
  | _ => b == act || b == 0

/-- VOTE (R322). -/
def execVote (f : XL) (s : State) : Host.Outcome State Fault Refusal :=
  issue (shapeOf (.vote f)) s (fun c s =>
    let b := ballot c f
    xlDone f 1 (voteOut f b) (fun _ => voteTest f b c.act) c s)

/-- The source lane of SHFL, if any (R323). -/
def shflFrom (f : XL) (act : Mask) (l b : Nat) : Option Nat :=
  let w := match fnBits f 2 2 with
    | 0 => 32
    | 1 => 16
    | _ => 8
  let q := l % w
  let base := l - q
  let p : Int := match fnBits f 0 2 with
    | 0 => (b : Int)
    | 1 => (q : Int) - sext 32 b
    | 2 => ((q ^^^ b : Nat) : Int)
    | _ =>
      let seg := (lanes act).filter (fun k => decide (base ≤ k ∧ k < base + w))
      let r := (seg.filter (fun k => decide (k < l))).length
      ((seg.getD ((r + b) % seg.length) l - base : Nat) : Int)
  if 0 ≤ p ∧ p < (w : Nat) ∧ act.getLsbD (base + p.toNat) then some (base + p.toNat) else none

/-- SHFL: an absent lane keeps its destination (R323). -/
def execShfl (f : XL) (s : State) : Host.Outcome State Fault Refusal :=
  issue (shapeOf (.shfl f)) s (fun c s =>
    let w := iw f.type
    let from' := fun l => shflFrom f c.act l (src c.g f.sb f.b 1 l)
    let val := fun l => match from' l with
      | some k => xsrc c f w k
      | none => rvw c.g f.d.toNat l w
    xlDone f w val (fun l => (from' l).isNone) c s)

/-- R236: the key of a lane. -/
def matchKeyOf (f : XL) (x : Nat) : Nat :=
  if fnBits f 1 1 = 1 then
    let fm := fmtOfCode f.type.toNat
    let k := x % 2 ^ fm.width
    if fnBits f 0 1 = 1 then
      let v := decodeF fm k
      if v.isNan then 2 ^ 64 else if v.isZero then 0 else k
    else k
  else x % 2 ^ (ityOf f.type).w

/-- MATCH (R324). -/
def execMatchKey (f : XL) (s : State) : Host.Outcome State Fault Refusal :=
  issue (shapeOf (.matchKey f)) s (fun c s =>
    let w := if fnBits f 1 1 = 1 then fw f.type else iw f.type
    let key := fun l => matchKeyOf f (xsrc c f w l)
    let same := fun l => maskOf c.act (fun k => key k == key l)
    xlDone f w (fun l => (same l).toNat) (fun l => lowLane (same l) == l) c s)

/-- The operation of R325 on two patterns. -/
def combI (t : ITy) (op a b : Nat) : Nat :=
  match op with
  | 0 => (a + b) % 2 ^ t.w
  | 1 => if valOf t.sg t.w a ≤ valOf t.sg t.w b then a else b
  | 2 => if valOf t.sg t.w a ≤ valOf t.sg t.w b then b else a
  | 3 => a &&& b
  | 4 => a ||| b
  | _ => a ^^^ b

/-- The identity of R325. -/
def identI (t : ITy) (op : Nat) : Nat :=
  match op with
  | 1 => if t.sg then 2 ^ (t.w - 1) - 1 else 2 ^ t.w - 1
  | 2 => if t.sg then 2 ^ (t.w - 1) else 0
  | 3 => 2 ^ t.w - 1
  | _ => 0

def foldI (t : ITy) (op : Nat) (vs : List Nat) : Nat := vs.foldl (combI t op) (identI t op)

/-- SCAN (R325). -/
def execScan (f : XL) (s : State) : Host.Outcome State Fault Refusal :=
  issue (shapeOf (.scan f)) s (fun c s =>
    let t := ityOf f.type
    let w := iw f.type
    let excl := fnBits f 3 1 = 1
    let val := fun l => foldI t (fnBits f 0 3)
      (((lanes c.act).filter (fun k => decide (k < l) || (k == l && !excl))).map (xsrc c f w))
    xlDone { f with px := 15 } w val (fun _ => false) c s)

/-- REDI (R325). -/
def execRedi (f : XL) (s : State) : Host.Outcome State Fault Refusal :=
  issue (shapeOf (.redi f)) s (fun c s =>
    let w := iw f.type
    let r := foldI (ityOf f.type) (fnBits f 0 3) ((lanes c.act).map (xsrc c f w))
    xlDone { f with px := 15 } w (fun _ => r) (fun _ => false) c s)

/-- One level of the tree of R234, flags ORed. -/
def treeLevel (comb : Nat → Nat → Nat × Nat) : List Nat → List Nat × Nat
  | a :: b :: rest =>
    let (x, f1) := comb a b
    let (xs, f2) := treeLevel comb rest
    (x :: xs, f1 ||| f2)
  | vs => (vs, 0)

/-- The tree of R234, with a level of fuel for each halving. -/
def tree (comb : Nat → Nat → Nat × Nat) : Nat → List Nat → Nat × Nat
  | 0, vs => (vs.headD 0, 0)
  | n + 1, vs =>
    if vs.length ≤ 1 then (vs.headD 0, 0)
    else
      let (xs, f1) := treeLevel comb vs
      let (r, f2) := tree comb n xs
      (r, f1 ||| f2)

/-- Completes a reduction: every lane gets its value and flags, or faults under FPX (R326). -/
def redDone (f : XL) (w : Nat) (res : Nat → Nat × Nat) (c : Ctx) (s : State) : State :=
  finishF c s (fun l => { d := (res l).1, fl := (res l).2, rng := rrng c.g l })
    (fun g m => putD g f.sd f.d w m (fun l => (res l).1))

/-- REDF (R326). -/
def execRedf (f : XL) (s : State) : Host.Outcome State Fault Refusal :=
  issue (shapeOf (.redf f)) s (fun c s =>
    let w := fw f.type
    let r := tree (faddF (fmtOfCode f.type.toNat) (modeOf f.rnd) c.g.ftz) 6 ((lanes c.act).map (xsrc c f w))
    redDone f w (fun _ => r) c s)

/-- REDX (R326). -/
def execRedx (f : XL) (s : State) : Host.Outcome State Fault Refusal :=
  issue (shapeOf (.redx f)) s (fun c s =>
    let r := tree dwadd 6 ((lanes c.act).map (xsrc c f 2))
    redDone f 2 (fun _ => r) c s)

/-- The lanes of the segment that holds lane `l` (R327). -/
def segment (heads : Nat → Bool) : List Nat → List Nat → Nat → List Nat
  | [], cur, _ => cur
  | k :: ks, cur, l =>
    if heads k then (if cur.contains l then cur else segment heads ks [k] l)
    else segment heads ks (cur ++ [k]) l

/-- SEGRED (R327). -/
def execSegred (f : XL) (s : State) : Host.Outcome State Fault Refusal :=
  issue (shapeOf (.segred f)) s (fun c s =>
    let kind := fnBits f 4 2
    let w := if kind = 0 then iw f.type else if kind = 1 then fw f.type else 2
    let seg := fun l => (segment (fun k => rp c.g f.px.toNat k) (lanes c.act) [] l).map (xsrc c f w)
    if kind = 0 then
      advance (onGang s c.gk (fun g => putD g f.sd f.d w c.act (fun l => foldI (ityOf f.type) (fnBits f 0 3) (seg l)))) c.pk
    else if kind = 1 then
      redDone f w (fun l => tree (faddF (fmtOfCode f.type.toNat) (modeOf f.rnd) c.g.ftz) 6 (seg l)) c s
    else redDone f w (fun l => tree dwadd 6 (seg l)) c s)

end Sys2Proof.Machine
end

