-- ==== Sys2Proof/Machine/Dispatch.lean ====
section
/-! DEFINITION. One arm per constructor of Instr, each one call of its meaning. -/

namespace Sys2Proof.Machine

/-- The meaning of an instruction or event. -/
def exec (i : Instr) (s : State) : Host.Outcome State Fault Refusal :=
  match i with
  | .bra f => Sys2Proof.Machine.execBra f s
  | .brx f => Sys2Proof.Machine.execBrx f s
  | .call f => Sys2Proof.Machine.execCall f s
  | .callx f => Sys2Proof.Machine.execCallx f s
  | .ret f => Sys2Proof.Machine.execRet f s
  | .exit f => Sys2Proof.Machine.execExit f s
  | .waitg f => Sys2Proof.Machine.execWaitg f s
  | .yieldp f => Sys2Proof.Machine.execYieldp f s
  | .mark f => Sys2Proof.Machine.execMark f s
  | .sleep f => Sys2Proof.Machine.execSleep f s
  | .loopd f => Sys2Proof.Machine.execLoopd f s
  | .nop f => Sys2Proof.Machine.execNop f s
  | .add f => Sys2Proof.Machine.execAdd f s
  | .sub f => Sys2Proof.Machine.execSub f s
  | .addc f => Sys2Proof.Machine.execAddc f s
  | .subb f => Sys2Proof.Machine.execSubb f s
  | .mul f => Sys2Proof.Machine.execMul f s
  | .mulh f => Sys2Proof.Machine.execMulh f s
  | .mulw f => Sys2Proof.Machine.execMulw f s
  | .mad f => Sys2Proof.Machine.execMad f s
  | .div f => Sys2Proof.Machine.execDiv f s
  | .rem f => Sys2Proof.Machine.execRem f s
  | .min f => Sys2Proof.Machine.execMin f s
  | .max f => Sys2Proof.Machine.execMax f s
  | .abs f => Sys2Proof.Machine.execAbs f s
  | .neg f => Sys2Proof.Machine.execNeg f s
  | .andr f => Sys2Proof.Machine.execAndr f s
  | .orr f => Sys2Proof.Machine.execOrr f s
  | .xorr f => Sys2Proof.Machine.execXorr f s
  | .andn f => Sys2Proof.Machine.execAndn f s
  | .notr f => Sys2Proof.Machine.execNotr f s
  | .shl f => Sys2Proof.Machine.execShl f s
  | .shr f => Sys2Proof.Machine.execShr f s
  | .sar f => Sys2Proof.Machine.execSar f s
  | .rot f => Sys2Proof.Machine.execRot f s
  | .clz f => Sys2Proof.Machine.execClz f s
  | .popc f => Sys2Proof.Machine.execPopc f s
  | .brev f => Sys2Proof.Machine.execBrev f s
  | .bfe f => Sys2Proof.Machine.execBfe f s
  | .bfi f => Sys2Proof.Machine.execBfi f s
  | .sel f => Sys2Proof.Machine.execSel f s
  | .mov f => Sys2Proof.Machine.execMov f s
  | .mkaddr f => Sys2Proof.Machine.execMkaddr f s
  | .adda f => Sys2Proof.Machine.execAdda f s
  | .vrdi f => Sys2Proof.Machine.execVrdi f s
  | .vwri f => Sys2Proof.Machine.execVwri f s
  | .vgrow f => Sys2Proof.Machine.execVgrow f s
  | .moviV f => Sys2Proof.Machine.execMoviV f s
  | .moviS f => Sys2Proof.Machine.execMoviS f s
  | .movhV f => Sys2Proof.Machine.execMovhV f s
  | .movhS f => Sys2Proof.Machine.execMovhS f s
  | .addImmV f => Sys2Proof.Machine.execAddImmV f s
  | .addImmS f => Sys2Proof.Machine.execAddImmS f s
  | .shlImmV f => Sys2Proof.Machine.execShlImmV f s
  | .shlImmS f => Sys2Proof.Machine.execShlImmS f s
  | .shrImmV f => Sys2Proof.Machine.execShrImmV f s
  | .shrImmS f => Sys2Proof.Machine.execShrImmS f s
  | .sarImmV f => Sys2Proof.Machine.execSarImmV f s
  | .sarImmS f => Sys2Proof.Machine.execSarImmS f s
  | .andImmV f => Sys2Proof.Machine.execAndImmV f s
  | .andImmS f => Sys2Proof.Machine.execAndImmS f s
  | .orImmV f => Sys2Proof.Machine.execOrImmV f s
  | .orImmS f => Sys2Proof.Machine.execOrImmS f s
  | .cmp f => Sys2Proof.Machine.execCmp f s
  | .fcmp f => Sys2Proof.Machine.execFcmp f s
  | .pand f => Sys2Proof.Machine.execPand f s
  | .por f => Sys2Proof.Machine.execPor f s
  | .pxor f => Sys2Proof.Machine.execPxor f s
  | .pnot f => Sys2Proof.Machine.execPnot f s
  | .pmov f => Sys2Proof.Machine.execPmov f s
  | .fadd f => Sys2Proof.Machine.execFadd f s
  | .fsub f => Sys2Proof.Machine.execFsub f s
  | .fmul f => Sys2Proof.Machine.execFmul f s
  | .fmulz f => Sys2Proof.Machine.execFmulz f s
  | .fmin f => Sys2Proof.Machine.execFmin f s
  | .ffma f => Sys2Proof.Machine.execFfma f s
  | .fmax f => Sys2Proof.Machine.execFmax f s
  | .fdiv f => Sys2Proof.Machine.execFdiv f s
  | .fsqrt f => Sys2Proof.Machine.execFsqrt f s
  | .frcp f => Sys2Proof.Machine.execFrcp f s
  | .frsq f => Sys2Proof.Machine.execFrsq f s
  | .fexp2 f => Sys2Proof.Machine.execFexp2 f s
  | .flog2 f => Sys2Proof.Machine.execFlog2 f s
  | .frnd f => Sys2Proof.Machine.execFrnd f s
  | .fclass f => Sys2Proof.Machine.execFclass f s
  | .faddx f => Sys2Proof.Machine.execFaddx f s
  | .fsubx f => Sys2Proof.Machine.execFsubx f s
  | .fmulx f => Sys2Proof.Machine.execFmulx f s
  | .dwadd f => Sys2Proof.Machine.execDwadd f s
  | .dwmul f => Sys2Proof.Machine.execDwmul f s
  | .dwrnd f => Sys2Proof.Machine.execDwrnd f s
  | .cvt f => Sys2Proof.Machine.execCvt f s
  | .pack f => Sys2Proof.Machine.execPack f s
  | .unpack f => Sys2Proof.Machine.execUnpack f s
  | .scaleq f => Sys2Proof.Machine.execScaleq f s
  | .dot4 f => Sys2Proof.Machine.execDot4 f s
  | .dot8 f => Sys2Proof.Machine.execDot8 f s
  | .dotf8 f => Sys2Proof.Machine.execDotf8 f s
  | .xsect f => Sys2Proof.Machine.execXsect f s
  | .scmp f => Sys2Proof.Machine.execScmp f s
  | .seqb f => Sys2Proof.Machine.execSeqb f s
  | .sfind f => Sys2Proof.Machine.execSfind f s
  | .crc f => Sys2Proof.Machine.execCrc f s
  | .hmix f => Sys2Proof.Machine.execHmix f s
  | .bswap f => Sys2Proof.Machine.execBswap f s
  | .ldV f => Sys2Proof.Machine.execLdV f s
  | .ldS f => Sys2Proof.Machine.execLdS f s
  | .stV f => Sys2Proof.Machine.execStV f s
  | .stS f => Sys2Proof.Machine.execStS f s
  | .ldc f => Sys2Proof.Machine.execLdc f s
  | .prefV f => Sys2Proof.Machine.execPrefV f s
  | .prefS f => Sys2Proof.Machine.execPrefS f s
  | .aadd f => Sys2Proof.Machine.execAadd f s
  | .amin f => Sys2Proof.Machine.execAmin f s
  | .amax f => Sys2Proof.Machine.execAmax f s
  | .aand f => Sys2Proof.Machine.execAand f s
  | .aor f => Sys2Proof.Machine.execAor f s
  | .axor f => Sys2Proof.Machine.execAxor f s
  | .axchg f => Sys2Proof.Machine.execAxchg f s
  | .acas f => Sys2Proof.Machine.execAcas f s
  | .acas2 f => Sys2Proof.Machine.execAcas2 f s
  | .afadd f => Sys2Proof.Machine.execAfadd f s
  | .amaxe f => Sys2Proof.Machine.execAmaxe f s
  | .fence f => Sys2Proof.Machine.execFence f s
  | .pin f => Sys2Proof.Machine.execPin f s
  | .unpin f => Sys2Proof.Machine.execUnpin f s
  | .reclaim f => Sys2Proof.Machine.execReclaim f s
  | .harvest f => Sys2Proof.Machine.execHarvest f s
  | .tlbinv f => Sys2Proof.Machine.execTlbinv f s
  | .vote f => Sys2Proof.Machine.execVote f s
  | .shfl f => Sys2Proof.Machine.execShfl f s
  | .matchKey f => Sys2Proof.Machine.execMatchKey f s
  | .scan f => Sys2Proof.Machine.execScan f s
  | .redi f => Sys2Proof.Machine.execRedi f s
  | .redf f => Sys2Proof.Machine.execRedf f s
  | .redx f => Sys2Proof.Machine.execRedx f s
  | .segred f => Sys2Proof.Machine.execSegred f s
  | .binit f => Sys2Proof.Machine.execBinit f s
  | .bjoin f => Sys2Proof.Machine.execBjoin f s
  | .bleave f => Sys2Proof.Machine.execBleave f s
  | .barv f => Sys2Proof.Machine.execBarv f s
  | .barw f => Sys2Proof.Machine.execBarw f s
  | .baraw f => Sys2Proof.Machine.execBaraw f s
  | .batch f => Sys2Proof.Machine.execBatch f s
  | .bwait f => Sys2Proof.Machine.execBwait f s
  | .gadde f => Sys2Proof.Machine.execGadde f s
  | .gdele f => Sys2Proof.Machine.execGdele f s
  | .gsete f => Sys2Proof.Machine.execGsete f s
  | .glde f => Sys2Proof.Machine.execGlde f s
  | .gfind f => Sys2Proof.Machine.execGfind f s
  | .gdeg f => Sys2Proof.Machine.execGdeg f s
  | .gver f => Sys2Proof.Machine.execGver f s
  | .gldv f => Sys2Proof.Machine.execGldv f s
  | .gstv f => Sys2Proof.Machine.execGstv f s
  | .gopen f => Sys2Proof.Machine.execGopen f s
  | .gnext f => Sys2Proof.Machine.execGnext f s
  | .gskip f => Sys2Proof.Machine.execGskip f s
  | .gpos f => Sys2Proof.Machine.execGpos f s
  | .gclose f => Sys2Proof.Machine.execGclose f s
  | .cpasync f => Sys2Proof.Machine.execCpasync f s
  | .cpasyncDec f => Sys2Proof.Machine.execCpasyncDec f s
  | .wbind f => Sys2Proof.Machine.execWbind f s
  | .wunbind f => Sys2Proof.Machine.execWunbind f s
  | .xformCopy2d f => Sys2Proof.Machine.execXformCopy2d f s
  | .xformTranspose f => Sys2Proof.Machine.execXformTranspose f s
  | .xformConvert f => Sys2Proof.Machine.execXformConvert f s
  | .xformExpand f => Sys2Proof.Machine.execXformExpand f s
  | .xformCsr2spr f => Sys2Proof.Machine.execXformCsr2spr f s
  | .xformCrc f => Sys2Proof.Machine.execXformCrc f s
  | .mpass f => Sys2Proof.Machine.execMpass f s
  | .mquery f => Sys2Proof.Machine.execMquery f s
  | .azero f => Sys2Proof.Machine.execAzero f s
  | .adrainT f => Sys2Proof.Machine.execAdrainT f s
  | .adrainPlain f => Sys2Proof.Machine.execAdrainPlain f s
  | .afillT f => Sys2Proof.Machine.execAfillT f s
  | .afillPlain f => Sys2Proof.Machine.execAfillPlain f s
  | .txv f => Sys2Proof.Machine.execTxv f s
  | .vxt f => Sys2Proof.Machine.execVxt f s
  | .launch f => Sys2Proof.Machine.execLaunch f s
  | .sysr f => Sys2Proof.Machine.execSysr f s
  | .sysw f => Sys2Proof.Machine.execSysw f s
  | .trap f => Sys2Proof.Machine.execTrap f s
  | .brk f => Sys2Proof.Machine.execBrk f s
  | .rett f => Sys2Proof.Machine.execRett f s
  | .rettSkip f => Sys2Proof.Machine.execRettSkip f s
  | .rettKill f => Sys2Proof.Machine.execRettKill f s
  | .rettKillg f => Sys2Proof.Machine.execRettKillg f s
  | .rettSel f => Sys2Proof.Machine.execRettSel f s
  | .mappg f => Sys2Proof.Machine.execMappg f s
  | .objnew f => Sys2Proof.Machine.execObjnew f s
  | .objsetSize f => Sys2Proof.Machine.execObjsetSize f s
  | .objsetPerm f => Sys2Proof.Machine.execObjsetPerm f s
  | .objsetCtab f => Sys2Proof.Machine.execObjsetCtab f s
  | .objsetUnpois f => Sys2Proof.Machine.execObjsetUnpois f s
  | .objsetDirty f => Sys2Proof.Machine.execObjsetDirty f s
  | .ctrrd f => Sys2Proof.Machine.execCtrrd f s
  | .clauseFetch p => Sys2Proof.Machine.execClauseFetch p s
  | .handlerVector p => Sys2Proof.Machine.execHandlerVector p s
  | .hostServiceRequest => Sys2Proof.Machine.execHostServiceRequest s
  | .activeSetSwap q => Sys2Proof.Machine.execActiveSetSwap q s
  | .pathUrgent p => Sys2Proof.Machine.execPathUrgent p s
  | .sleepExpire p => Sys2Proof.Machine.execSleepExpire p s
  | .lensSample q slot reload => Sys2Proof.Machine.execLensSample q slot reload s
  | .longLatencyComplete g op => Sys2Proof.Machine.execLongLatencyComplete g op s
  | .graphOpComplete g op => Sys2Proof.Machine.execGraphOpComplete g op s
  | .graphMutationCommit g op => Sys2Proof.Machine.execGraphMutationCommit g op s
  | .graphSweep oid => Sys2Proof.Machine.execGraphSweep oid s
  | .gangRetire g => Sys2Proof.Machine.execGangRetire g s
  | .crewSlotRelease c => Sys2Proof.Machine.execCrewSlotRelease c s
  | .vgrowGrant g => Sys2Proof.Machine.execVgrowGrant g s
  | .growthDeadlockBreak core => Sys2Proof.Machine.execGrowthDeadlockBreak core s
  | .priorityPreempt => Sys2Proof.Machine.execPriorityPreempt s
  | .drainComplete c => Sys2Proof.Machine.execDrainComplete c s
  | .crewPlace => Sys2Proof.Machine.execCrewPlace s
  | .crewResume k => Sys2Proof.Machine.execCrewResume k s
  | .launchPortWrite off data => Sys2Proof.Machine.execLaunchPortWrite off data s
  | .launchAccept port => Sys2Proof.Machine.execLaunchAccept port s
  | .waitCountPoll => Sys2Proof.Machine.execWaitCountPoll s
  | .svcfullTimeout => Sys2Proof.Machine.execSvcfullTimeout s
  | .rangeLockAcquire p => Sys2Proof.Machine.execRangeLockAcquire p s
  | .copyComplete op => Sys2Proof.Machine.execCopyComplete op s
  | .windowFillComplete op => Sys2Proof.Machine.execWindowFillComplete op s
  | .windowScatterComplete op => Sys2Proof.Machine.execWindowScatterComplete op s
  | .prismTransformComplete cluster => Sys2Proof.Machine.execPrismTransformComplete cluster s
  | .matrixGrant cluster => Sys2Proof.Machine.execMatrixGrant cluster s
  | .passComplete op => Sys2Proof.Machine.execPassComplete op s
  | .tileOpPerform core tile => Sys2Proof.Machine.execTileOpPerform core tile s
  | .reclaimSearch oid => Sys2Proof.Machine.execReclaimSearch oid s
  | .dirtyFlushTimeout oid page => Sys2Proof.Machine.execDirtyFlushTimeout oid page s
  | .shootdownComplete oid => Sys2Proof.Machine.execShootdownComplete oid s
  | .harvestComplete p => Sys2Proof.Machine.execHarvestComplete p s
  | .pagerMap oid page => Sys2Proof.Machine.execPagerMap oid page s
  | .migrationEnd outcome bad => Sys2Proof.Machine.execMigrationEnd outcome bad s
  | .migreqWrite data => Sys2Proof.Machine.execMigreqWrite data s
  | .hsanswerWrite v => Sys2Proof.Machine.execHsanswerWrite v s
  | .shootWrite v => Sys2Proof.Machine.execShootWrite v s
  | .objtbaseWrite v => Sys2Proof.Machine.execObjtbaseWrite v s
  | .objtcntWrite v => Sys2Proof.Machine.execObjtcntWrite v s
  | .pinovfWrite v => Sys2Proof.Machine.execPinovfWrite v s
  | .savepoolWrite v => Sys2Proof.Machine.execSavepoolWrite v s
  | .feataccWrite n v => Sys2Proof.Machine.execFeataccWrite n v s
  | .launchenWrite v => Sys2Proof.Machine.execLaunchenWrite v s
  | .handlerInstallWrite n v => Sys2Proof.Machine.execHandlerInstallWrite n v s
  | .clkceilWrite v => Sys2Proof.Machine.execClkceilWrite v s
  | .pwrcapWrite v => Sys2Proof.Machine.execPwrcapWrite v s
  | .clockStepChange => Sys2Proof.Machine.execClockStepChange s
  | .thermalDemandRise degc die => Sys2Proof.Machine.execThermalDemandRise degc die s
  | .thermalDemandFall degc die => Sys2Proof.Machine.execThermalDemandFall degc die s
  | .powerDemandRise watts => Sys2Proof.Machine.execPowerDemandRise watts s
  | .powerDemandFall watts => Sys2Proof.Machine.execPowerDemandFall watts s
  | .thermalTrip degc die => Sys2Proof.Machine.execThermalTrip degc die s
  | .railsGood => Sys2Proof.Machine.execRailsGood s
  | .bootImageCheck reason svn => Sys2Proof.Machine.execBootImageCheck reason svn s
  | .fwloadCheckStart => Sys2Proof.Machine.execFwloadCheckStart s
  | .fwloadCheckWriteStart => Sys2Proof.Machine.execFwloadCheckWriteStart s
  | .fwCheckDone reason svn => Sys2Proof.Machine.execFwCheckDone reason svn s
  | .perstDeassert => Sys2Proof.Machine.execPerstDeassert s
  | .dieTrained d => Sys2Proof.Machine.execDieTrained d s
  | .dieTrainFail d => Sys2Proof.Machine.execDieTrainFail d s
  | .hostReset => Sys2Proof.Machine.execHostReset s
  | .coldReset => Sys2Proof.Machine.execColdReset s
  | .attreqWrite v => Sys2Proof.Machine.execAttreqWrite v s
  | .attestReportDone => Sys2Proof.Machine.execAttestReportDone s
  | .checkpointSaveGo v => Sys2Proof.Machine.execCheckpointSaveGo v s
  | .checkpointSaveDone => Sys2Proof.Machine.execCheckpointSaveDone s
  | .checkpointRestoreGo v => Sys2Proof.Machine.execCheckpointRestoreGo v s
  | .checkpointRestoreDone => Sys2Proof.Machine.execCheckpointRestoreDone s
  | .scanTestStart core => Sys2Proof.Machine.execScanTestStart core s
  | .scanTestDone core sig ok => Sys2Proof.Machine.execScanTestDone core sig ok s
  | .uncorrectableError src loc sect => Sys2Proof.Machine.execUncorrectableError src loc sect s
  | .correctableError die src => Sys2Proof.Machine.execCorrectableError die src s
  | .tracectlWrite v => Sys2Proof.Machine.execTracectlWrite v s
  | .bkptRelease n v => Sys2Proof.Machine.execBkptRelease n v s
  | .watchpointWrite n hi v => Sys2Proof.Machine.execWatchpointWrite n hi v s
  | .apertureRead off len => Sys2Proof.Machine.execApertureRead off len s
  | .apertureWrite off data => Sys2Proof.Machine.execApertureWrite off data s
  | .registerWrite off v => Sys2Proof.Machine.execRegisterWrite off v s
  | .zalakFlitReceive port flit => Sys2Proof.Machine.execZalakFlitReceive port flit s
  | .zalakReplay port seq => Sys2Proof.Machine.execZalakReplay port seq s
  | .linkLost port => Sys2Proof.Machine.execLinkLost port s
  | .ackTimeout port => Sys2Proof.Machine.execAckTimeout port s
  | .portTrainRetry port => Sys2Proof.Machine.execPortTrainRetry port s
  | .portTrained port cap => Sys2Proof.Machine.execPortTrained port cap s
  | .zalakReadRequest port => Sys2Proof.Machine.execZalakReadRequest port s
  | .zalakReadData port => Sys2Proof.Machine.execZalakReadData port s
  | .zalakWriteRequest port => Sys2Proof.Machine.execZalakWriteRequest port s
  | .zalakWriteAck port => Sys2Proof.Machine.execZalakWriteAck port s
  | .zalakAtomicRequest port => Sys2Proof.Machine.execZalakAtomicRequest port s
  | .zalakAtomicResult port => Sys2Proof.Machine.execZalakAtomicResult port s
  | .zalakStreamBlock port => Sys2Proof.Machine.execZalakStreamBlock port s
  | .zalakGatherRequest port => Sys2Proof.Machine.execZalakGatherRequest port s
  | .zalakErrorResponse port => Sys2Proof.Machine.execZalakErrorResponse port s
  | .railRemoved rail => Sys2Proof.Machine.execRailRemoved rail s
  | .checkpointTargetStopped => Sys2Proof.Machine.execCheckpointTargetStopped s

end Sys2Proof.Machine
end

