-- ==== Sys2Proof/Machine/Step.lean ====
section
/-! DEFINITION. One step of the machine, and the state in which a given word is the next instruction. -/

namespace Sys2Proof.Machine

/-- One step: an event of the part or the outside world, or one instruction of one path. -/
def step (s : State) : Host.Outcome State Fault Refusal :=
  match choose s with
  | .run i t => exec i t
  | .rest t => .next t

/-- `s` with one resident gang whose path has begun a clause that holds the word, every feature accepted, and the tape
naming its quadrant. It stands for bring-up, the load of a CODE object, a launch, its placement and the fetch of the
clause. -/
def State.withFetchWord (s : State) (nbits w : Nat) : State :=
  fetchReady s (BitVec.ofNat 64 (w % 2 ^ nbits))

end Sys2Proof.Machine
end

