-- ==== Sys2Proof/Safety.lean ====
section
/-! DEFINITION. What claims are stated in: the invariant that every step keeps, and when an instruction of the current
path runs its own meaning. -/

namespace Sys2Proof.Machine

/-- The management registers that bound the clock and the power hold legal values (R34, R37): step, demands and ceiling
are at most 6, the cap lies between 1,200 and 2,400 watts; the staging window, the flash and the image under verification stand in their
canonical form. -/
def Mgmt.ok (m : Mgmt) : Prop :=
  m.clkStep ≤ 6 ∧ m.demThermal ≤ 6 ∧ m.demPower ≤ 6 ∧ m.clkCeil ≤ 6 ∧ 1200 ≤ m.pwrCap ∧ m.pwrCap ≤ 2400 ∧
    Memory.wf m.staging = true ∧ Memory.wf m.flash = true ∧ Memory.wf m.fwCopy = true

/-- The invariant: every byte store stands in its canonical form, so that equal memories are equal data, and the clock
and power registers are legal. -/
def Inv (s : State) : Prop :=
  Memory.wf s.mem = true ∧ Memory.wf s.plain = true ∧ Memory.wf s.hostMem = true ∧ s.mg.ok ∧ Memory.wf s.ckpt = true

/-- The word instruction `i` of the current path, which stands in `c`, passes the checks of R269 in the state `s`, waits
for no other path of its gang (R122) and for no earlier write (R255). These are conditions on the state and the
instruction's fields alone. -/
structure Runs (i : Instr) (s : State) (c : Ctx) : Prop where
  stands : ctxOf s (shapeOf i).guard = some c
  checks : precheck s (shapeOf i) c = none
  together : (shapeOf i).gw = true → c.p.kind = .ordinary → c.p.again = false → c.p.mask = c.g.live
  uniform : uniformBad (shapeOf i) c = false
  written : wawPending (shapeOf i) c = false

/-- The state as a meaning finds it: an instruction that has not waited has been counted (R76). -/
def counted (s : State) (c : Ctx) : State := if c.p.wait = .none then countIssue s c else s

/-! ### What an instruction leaves -/

/-- Only the event counters differ. -/
def OnlyCtrs (s u : State) : Prop := u = { s with ctrs := u.ctrs }

/-- What an instruction writes to the registers of its gang in the lanes of `m`: `w` registers from `d` (S registers when
`sd`, with the value of the lowest lane; none when `w` is 0), a predicate, sticky flags, the rounding state. -/
structure Effect where
  m : Mask
  sd : Bool := false
  d : Nat := 0
  w : Nat := 0
  val : Nat → Nat := fun _ => 0
  pn : Option Nat := none
  pval : Nat → Bool := fun _ => false
  fl : Nat → BitVec 6 := fun _ => 0
  rng : Option (Nat → Word) := none

/-- Nothing but gang `k` differs between `s` and `u`. -/
structure OnlyGang (s u : State) (k : Nat) : Prop where
  state : u = { s with gangs := u.gangs }
  others : ∀ j, j ≠ k → Map.find? u.gangs j = Map.find? s.gangs j

/-- `u` is `s` after the writes of `e` in the gang of `c`, and nothing else: every register, flag and byte that `e` does
not name reads as before. -/
structure Writes (s u : State) (c : Ctx) (e : Effect) : Prop where
  only : OnlyGang s u c.gk
  rest : ∃ v x p fl r, Map.find? u.gangs c.gk = some { c.g with v := v, s := x, p := p, flags := fl, rng := r }
  vs : ∀ n l, l < 32 → rv (gangAt u c.gk) n l =
    if e.sd = false ∧ e.m.getLsbD l = true ∧ e.d ≤ n ∧ n < e.d + e.w then e.val l / 2 ^ (32 * (n - e.d)) % 2 ^ 32
    else rv c.g n l
  ss : ∀ n, rs (gangAt u c.gk) n =
    if e.sd = true ∧ e.m ≠ 0 ∧ e.d ≤ n ∧ n < e.d + e.w then e.val (lowLane e.m) / 2 ^ (32 * (n - e.d)) % 2 ^ 32
    else rs c.g n
  ps : ∀ n l, l < 32 → rp (gangAt u c.gk) n l =
    if e.pn = some n ∧ e.m.getLsbD l = true then e.pval l else rp c.g n l
  fs : ∀ l, l < 32 → rfl' (gangAt u c.gk) l =
    if e.m.getLsbD l = true then rfl' c.g l ||| e.fl l else rfl' c.g l
  rs' : ∀ l, l < 32 → rrng (gangAt u c.gk) l =
    match e.rng with
    | some r => if e.m.getLsbD l = true then r l else rrng c.g l
    | none => rrng c.g l

/-- `i` completes in `s`: it has the effect `e`, then the path goes on to the next slot or clause. -/
def Completes (i : Instr) (s : State) (c : Ctx) (e : Effect) : Prop :=
  ∃ u, exec i s = .next (advance u c.pk) ∧ Writes (counted s c) u c e

/-- The operands of an RRR instruction in a lane, `w` registers each, as they stood before it. -/
def opA (f : RRR) (c : Ctx) (w l : Nat) : Nat := src c.g f.sa f.a w l
def opB (f : RRR) (c : Ctx) (w l : Nat) : Nat := src c.g f.sb f.b w l
def opC (f : RRR) (c : Ctx) (w l : Nat) : Nat := src c.g f.sc f.c w l

/-- The effect of an RRR instruction that writes one destination of `w` registers in its active lanes. -/
def toD (f : RRR) (c : Ctx) (w : Nat) (val : Nat → Nat) : Effect :=
  { m := c.act, sd := f.sd, d := f.d.toNat, w := w, val := val }

/-- What a floating-point instruction whose lanes give `res` leaves (R228, R229): in the lanes of `m` the destination, the
sticky flags and the rounding state. -/
def floatEffect (sd : Bool) (d w : Nat) (res : Nat → LOut) (m : Mask) : Effect :=
  { m := m, sd := sd, d := d, w := w, val := fun l => (res l).d, fl := fun l => BitVec.ofNat 6 (res l).fl,
    rng := some (fun l => (res l).rng) }

/-- How a floating-point instruction ends, `e m` being its effect in the lanes of `m` and `fl` the flags its lanes raise
(R228): without FPX, or where no lane raises INVALID, DIVIDE or OVERFLOW, it completes. Under FPX the lanes that raise
one trap FP_ENABLED and change nothing, EXTRA word 0 their flags; the others complete. -/
def FloatDone (i : Instr) (s : State) (c : Ctx) (fl : Nat → Nat) (e : Mask → Effect) : Prop :=
  ((c.g.fpx = false ∨ ∀ l ∈ lanes c.act, fl l % 8 = 0) → Completes i s c (e c.act)) ∧
  (c.g.fpx = true →
    let bad := (lanes c.act).filter (fun l => decide (fl l % 8 ≠ 0))
    ∃ u, exec i s = .next (settle u c (bad.map (fun l => { lane := l, code := .fpEnabled, addr := 0 })) 0
        [BitVec.ofNat 32 (bad.foldl (fun a l => a ||| fl l) 0)]) ∧
      Writes (counted s c) u c (e (maskOf c.act (fun l => decide (fl l % 8 = 0)))))

/-! ### Exact values of the number rules -/

/-- A finite value in units of 2^k, for a `k` not above its exponent. -/
def FVal.units (v : FVal) (k : Int) : Int :=
  match v with
  | .fin n m e => if n then -((m * 2 ^ (e - k).toNat : Nat) : Int) else (m * 2 ^ (e - k).toNat : Nat)
  | _ => 0

/-- The whole number `y` that a mode selects for x / 2^w (R225), `u` being the number drawn under RSR. -/
def Selects (mode : Mode) (u : Nat) (x : Int) (w : Nat) (y : Int) : Prop :=
  let p : Int := (2 ^ w : Nat)
  match mode with
  | .rne => 2 * (y * p - x).natAbs ≤ 2 ^ w ∧ (2 * (y * p - x).natAbs = 2 ^ w → y % 2 = 0)
  | .rtz => y = x.tdiv p
  | .rup => x ≤ y * p ∧ y * p < x + p
  | .rdn => y * p ≤ x ∧ x < y * p + p
  | .rsr => y = x.tdiv p + (if 2 ^ 32 ≤ x.natAbs % 2 ^ w * 2 ^ 32 / 2 ^ w + u then x.sign else 0)

/-- `m` stands for a number with which `c` compares every whole number: it is that number, or it is odd and its neighbours enclose
the number. -/
def StandsFor (m : Nat) (c : Nat → Ordering) : Prop := c m = .eq ∨ (m % 2 = 1 ∧ c (m - 1) = .lt ∧ c (m + 1) = .gt)

/-- The faulting mask of R139: the active mask, or PATHMASK when it is zero. -/
def faultable (c : Ctx) : Mask := if c.act = 0 then c.p.mask else c.act

/-- Row 2 or 3 of R269 fails: class, slot of a control transfer or of a .g instruction, guard. -/
def badPlace (sh : Shape) (c : Ctx) : Prop :=
  (sh.cls ≠ 6 ∧ sh.cls ≠ c.cl.cls) ∨ (sh.xfer = true ∧ c.cl.slot ≠ c.cl.n) ∨ (sh.slot0 = true ∧ c.cl.slot ≠ 0) ∨
    guardOk sh.guard = false

/-- Row 4 or 5 of R269 fails: a feature that is not accepted, a field value, a register beyond the allocation. -/
def badFields (s : State) (sh : Shape) (c : Ctx) : Prop :=
  (∃ b ∈ sh.feats, feature s b = false) ∨ sh.ok = false ∨ (∃ n ∈ sh.vr, c.g.nv ≤ n) ∨ (∃ n ∈ sh.sr, c.g.ns ≤ n) ∨
    (∃ n ∈ sh.tr, c.g.nt ≤ n) ∨ (∃ n ∈ sh.ar, c.lr.acc ≤ n)

end Sys2Proof.Machine
end

