-- ==== Sys2Proof/Certificates/Slice0/Obligations.lean ====
section
/-! DEFINITION. The statements for the provers, in the order of OBLIGATIONS.json. A statement about a step of a word
instruction names the context `c` of the current path and asks `Runs i s c`: the checks of R269 and the waits of R122 and
R255 are passed. Its effect is said of the counted state (R76), and the path then goes on by `advance` (R254). -/

open Sys2Proof Sys2Proof.Machine

/-- R257 to R264: no bit of an encoding is dropped. -/
def Obligations.DecodeOfEncode : Prop :=
  ∀ (i : Instr) (w : DWord), memberOk i = true → encode i = some w → decode w = some i

/-- R257 to R264: every bit of a word that decodes is a field of the instruction. -/
def Obligations.EncodeOfDecode : Prop :=
  ∀ (w : DWord) (i : Instr), decode w = some i → encode i = some w ∧ memberOk i = true

/-- The worked encodings of the spec: one of each format, and the word it says decodes to no instruction. -/
def Obligations.SampleWords : Prop :=
  decode 0x0000000000042F21 = some (.moviS { g := { gp := 15, gn := false }, d := 4, a := 0, imm := 0 }) ∧
  decode 0x000000020E0F2F27 = some (.shlImmS { g := { gp := 15, gn := false }, d := 15, a := 14, imm := 2 }) ∧
  decode 0x0800000706050F14 = some (.xorr {
    g := { gp := 15, gn := false }, d := 5, a := 6, b := 7, c := 0, type := 0, rnd := 0,
    sat := false, sa := false, sb := false, sc := false, func := 2, sd := false }) ∧
  decode 0x0000000000006106 = some (.exit { g := { gp := 1, gn := false }, d := 0, a := 0, off := 0 }) ∧
  decode 0x0000000000008F07 = some (.waitg {
    g := { gp := 15, gn := false }, d := 0, a := 0, b := 0, px := 0, type := 0, rnd := 0,
    gw := false, sa := false, sb := false, sd := false, rsv := 0, fn := 0 }) ∧
  decode 0x00008A00061D4F84 = some (.ldc {
    g := { gp := 15, gn := false }, d := 29, a := 6, b := 0, size := 2, ord := 1, scope := 4,
    off := 0 }) ∧
  decode 0x2F020C0A080EAFE4 = some (.mpass {
    g := { gp := 15, gn := false }, d := 14, a := 8, b := 10, c := 12, tile := 2, rsv := 0,
    sa := true, sb := true, sc := true, sd := true, scope := 2, dec := false }) ∧
  decode 0x000000040400EFF4 = some (.rettSel {
    g := { gp := 15, gn := false }, d := 0, a := 4, sel := 4, sa := false, sd := false,
    imm := 0 }) ∧
  decode 0x0000000000040F21 = none

/-- R252, R253: what makes a header, and its fields. -/
def Obligations.HeaderFields : Prop :=
  ∀ (w : DWord),
    let x := w.toNat
    let f := fun (lo n : Nat) => x / 2 ^ lo % 2 ^ n
    let good := f 32 8 = 0xA7 ∧ f 4 4 < 6 ∧ f 30 2 ≠ 3 ∧ f 40 24 = 0 ∧ (f 24 1 = 1 → f 20 4 < 12) ∧
      (f 29 1 = 1 → f 25 4 < 12) ∧ (f 24 1 = 0 → f 20 4 = 0) ∧ (f 29 1 = 0 → f 25 4 = 0)
    ((parseHeader w).isSome = true ↔ good) ∧
    ∀ h, parseHeader w = some h → h.n = f 0 4 ∧ h.cls = f 4 4 ∧ h.yld = f 30 2 ∧
      (∀ k, k ∈ h.waits ↔ k < 12 ∧ f (8 + k) 1 = 1) ∧
      (∀ k, k ∈ h.sets ↔ (f 24 1 = 1 ∧ k = f 20 4) ∨ (f 29 1 = 1 ∧ k = f 25 4))

/-- R5: the reset state satisfies the invariant. -/
def Obligations.ResetInvariant : Prop := Inv State.reset

/-- Inv: canonical byte stores, those of the checkpoint target and of the firmware images among them; CLKSTEP, the demands and the ceiling at most 6, the cap from 1,200 to 2,400 W (R34, R37). -/
def Obligations.StepInvariant : Prop := ∀ s t : State, Inv s → step s = .next t → Inv t

/-- R3: bytes are stored in order, least significant first; the canonical form determines the store. -/
def Obligations.MemoryBytes : Prop :=
  (∀ m n : Map Byte, Memory.wf m = true → Memory.wf n = true →
    (∀ a, Map.getD m a Config.emptyByte = Map.getD n a Config.emptyByte) → m = n) ∧
  (∀ (m : Map Byte) (a : Nat) (bs : List Byte) (x : Nat),
    Map.getD (mapPut m a bs) x Config.emptyByte =
      if a ≤ x ∧ x < a + bs.length then bs.getD (x - a) Config.emptyByte else Map.getD m x Config.emptyByte) ∧
  (∀ n x : Nat, leNat (leBytes n x) = x % 256 ^ n) ∧
  (∀ (m : Map Byte) (a n : Nat), Memory.wf m = true →
    mapBytes m a n = (List.range n).map (fun i => Map.getD m (a + i) Config.emptyByte))

/-- R254, R269: the selected path's word is decoded and executed. `tape`, `tick`, `cur` and `free` are the model's own (logs 1,
2), and so is when an outstanding write is seen (log 35). -/
def Obligations.StepRunsInstruction : Prop :=
  (∀ (s : State) (q pk : Nat) (rest : List Move) (p : Path) (cl : Clause) (w : DWord) (i : Instr),
    let t := elapse { lensSettle s with tick := s.tick + 1 }
    t.tape = .issue q :: rest → selected { t with tape := rest } q = some pk →
    Map.find? t.paths pk = some p → p.clause = some cl → cl.words[cl.slot]? = some (.word w) → decode w = some i →
    step s = exec i (landEarly (lensTry { t with
      tape := rest, cur := pk, paths := Map.put t.paths pk { p with urgent := none } } pk p w.toNat) p.gang)) ∧
  (∀ (s : State) (i : Instr) (rest : List Move),
    let t := elapse { lensSettle s with tick := s.tick + 1 }
    t.tape = .event i :: rest → encode i = none → step s = exec i { t with tape := rest }) ∧
  (∀ s : State, s.lensTags = [] → (∀ e ∈ s.ctrs, e.2.evsel.getLsbD 31 = false) →
    elapse { lensSettle s with tick := s.tick + 1 } = { s with tick := s.tick + 1 }) ∧
  (∀ (s : State) (pk : Nat) (p : Path) (w : Nat), ∃ t, lensTry s pk p w = t ∧
    t = { s with lensTags := t.lensTags, free := t.free } ∧ (s.lensTags = [] → t = s)) ∧
  (∀ (s : State) (k : Nat), ∃ t, landEarly s k = t ∧ t = { s with gangs := t.gangs, free := t.free } ∧
    (∀ j, j ≠ k → Map.find? t.gangs j = Map.find? s.gangs j) ∧
    let g := gangAt s k
    let h := gangAt t k
    let due := fun (w : RegWrite) => ∃ o ∈ g.ops, ∃ ws, o.body = .writes ws ∧ w ∈ ws
    h = { g with v := h.v, s := h.s, p := h.p } ∧
    (∀ n l, l < 32 → rv h n l = rv g n l ∨ ∃ x, due (.v n l x) ∧ rv h n l = x.toNat) ∧
    (∀ n, rs h n = rs g n ∨ ∃ x, due (.s n x) ∧ rs h n = x.toNat) ∧
    ∀ n l, l < 32 → rp h n l = rp g n l ∨ ∃ b, due (.p n l b) ∧ rp h n l = b)

/-- Nothing of the opcode table is left without a meaning; the one stop is the model's own noPath (log 38). -/
def Obligations.ExecCompletes : Prop :=
  ∀ (i : Instr) (s : State),
    (encode i = none → ∃ t, exec i s = .next t) ∧
    (encode i ≠ none → (ctxOf s (shapeOf i).guard).isSome = true → ∃ t, exec i s = .next t) ∧
    (encode i ≠ none → ctxOf s (shapeOf i).guard = none → exec i s = .fault .noPath)

/-- Rows 2 to 8 of R269 with the masks of R139. -/
def Obligations.ChecksInOrder : Prop :=
  ∀ (i : Instr) (s : State) (c : Ctx), encode i ≠ none → ctxOf s (shapeOf i).guard = some c →
    let sh := shapeOf i
    (badPlace sh c → exec i s = .next (trapShape s sh c .illegalOp c.p.mask)) ∧
    (¬ badPlace sh c → badFields s sh c → exec i s = .next (trapShape s sh c .illegalOp (faultable c))) ∧
    (¬ badPlace sh c → ¬ badFields s sh c → sh.sup = true → c.p.kind ≠ .sup →
      exec i s = .next (trapShape s sh c .priv (faultable c))) ∧
    (¬ badPlace sh c → ¬ badFields s sh c → ¬ (sh.sup = true ∧ c.p.kind ≠ .sup) → (∃ n ∈ sh.even, n % 2 = 1) →
      (∀ g, i = .ret g → c.p.depth ≠ 0) →
      exec i s = .next (trapShape s sh c .pairAlign (faultable c))) ∧
    (precheck s sh c = none → (sh.gw = true → c.p.kind = .ordinary → c.p.again = false → c.p.mask = c.g.live) →
      sh.wS = true → c.act ≠ 0 → c.p.mask ≠ c.g.live → exec i s = .next (trapAll s c .uniformSplit c.act []))

/-- R116, R122: the wait of a gang and its mismatch; R255: the wait for an outstanding write. That the wait puts the path back before
its header, that lanes in handlers are awaited, the literal test of the mismatch, and that an instruction executed again after its wait
was met does not wait again are the model's reading (log 11). -/
def Obligations.WaitsBeforeEffect : Prop :=
  ∀ (i : Instr) (s : State) (c : Ctx), encode i ≠ none → ctxOf s (shapeOf i).guard = some c →
    precheck s (shapeOf i) c = none →
    ((shapeOf i).gw = true → c.p.kind = .ordinary → c.p.again = false → c.p.mask ≠ c.g.live →
      let w : Path := { c.p with pc := c.cl.hdr, clause := none, wait := .gang }
      let t : State := { s with paths := Map.put s.paths c.pk w }
      (gangMismatch t c.gk = false ∨ oldestOf t c.gk ≠ some c.pk →
        (w.defer = [] → exec i s = .next t) ∧
        ∀ d ds, w.defer = d :: ds → ∃ u q, exec i s = .next u ∧ u = { s with paths := u.paths } ∧
          Map.find? u.paths c.pk = some q ∧ q.mask = d.mask ∧ q.pc = d.pc ∧ q.clause = d.clause ∧ q.wait = .none ∧
          q.prog = d.prog ∧ q.defer = ({
            pc := c.cl.hdr, mask := c.p.mask, depth := c.p.depth, clause := none, wait := .gang, kind := .ordinary
            parked := c.p.parked, trap := c.p.trap, stray := c.p.stray, arrived := c.p.arrived, prog := c.p.prog
            again := false } : Side) :: ds ∧
          ∀ k, k ≠ c.pk → Map.find? u.paths k = Map.find? s.paths k) ∧
      (gangMismatch t c.gk = true → oldestOf t c.gk = some c.pk →
        exec i s = .next (trapAll s c .gwaitMismatch c.p.mask []))) ∧
    (((shapeOf i).gw = true → c.p.kind = .ordinary → c.p.again = false → c.p.mask = c.g.live) →
      uniformBad (shapeOf i) c = false → wawPending (shapeOf i) c = true →
      ∃ t, exec i s = .next t ∧ t = { s with paths := t.paths, ctrs := t.ctrs } ∧
        Map.find? t.paths c.pk = some { c.p with wait := .flush } ∧
        ∀ k, k ≠ c.pk → Map.find? t.paths k = Map.find? s.paths k)

/-- R140 to R142, R156, R157: entry to a handler. The record's `met` and the numbers of paths are the model's own (logs 11, 1). -/
def Obligations.TrapEntry : Prop :=
  ∀ (s : State) (st : Site) (fs : List LaneFault) (p : Path) (kind : PathKind) (code : TrapCode),
    Map.find? s.paths st.pk = some p → p.kind = .ordinary → fs.Pairwise (fun a b => a.lane < b.lane) → fs ≠ [] →
    chooseHandler fs = (kind, code) →
    (kind = .user → (runAt s (crewAt s (gangAt s p.gang).crew).run).lr.handler ≠ 0xFFFFFFFF) →
    let t := (takeTrap s st fs).1
    let m := faultMask fs
    let rest := p.mask &&& ~~~ m
    let host := code = .pageHost
    let u := s.nextUid
    ∃ extra,
    let isHandler := fun (h : Path) => h.kind = kind ∧ h.gang = p.gang ∧ h.mask = m ∧ h.pc = st.pc ∧ h.stamp = p.stamp ∧
      h.depth = p.depth ∧ h.vectored = false ∧ h.wait = (if host then .parked s.nextTag else .none) ∧ h.trap = some
        { code := code, cslot := st.cslot, fmask := m, pc := st.pc, rmask := rest, lcode := (fs.take 8).map (·.code),
          extra := extra, laddr := (fs.take 8).map (fun f => BitVec.ofNat 64 f.addr), clause := st.clause, hdr := st.hdr,
          stray := p.stray, met := p.again || p.mask == (gangAt s p.gang).live }
    (kind = .user → extra = st.extra) ∧
    (kind = .sup → ∃ f page, f ∈ fs ∧ f.code = code ∧ (∀ g ∈ fs, g.code = code → f.lane ≤ g.lane) ∧
      (∃ g ∈ fs, g.code = code ∧ oidOf g.addr = oidOf f.addr ∧ offOf g.addr / 65536 = page) ∧
      (∀ g ∈ fs, g.code = code → oidOf g.addr = oidOf f.addr → page ≤ offOf g.addr / 65536) ∧
      extra = [BitVec.ofNat 32 (oidOf f.addr), BitVec.ofNat 32 page, BitVec.ofNat 32 st.akind]) ∧
    t = { s with paths := t.paths, ctrs := t.ctrs, nextUid := if rest = 0 then u else u + 2,
                 nextTag := if host then s.nextTag + 1 else s.nextTag,
                 svcs := s.svcs ++ if host then [{
                   tag := s.nextTag, kind := if st.akind = 0 then 1 else if st.akind = 1 then 2 else 6,
                   oid := (extra.getD 0 0).toNat, page := (extra.getD 1 0).toNat, eng := none, posted := false }] else [] } ∧
    (rest = 0 → (∃ h, Map.find? t.paths st.pk = some h ∧ isHandler h ∧ h.defer = p.defer ∧ h.parked = p.parked ∧ h.slot = p.slot ∧
        h.prog = p.prog) ∧
      ∀ k, k ≠ st.pk → Map.find? t.paths k = Map.find? s.paths k) ∧
    (∀ n, rest ≠ 0 → freePath s (st.pk / 512) = some n → n ≠ st.pk →
      (∃ h, Map.find? t.paths n = some h ∧ isHandler h ∧ h.defer = [] ∧ h.slot = none ∧ h.prog = p.prog.fork u) ∧
      Map.find? t.paths st.pk = some { p with mask := rest, prog := p.prog.fork (u + 1) } ∧
      ∀ k, k ≠ st.pk → k ≠ n → Map.find? t.paths k = Map.find? s.paths k) ∧
    (rest ≠ 0 → freePath s (st.pk / 512) = none →
      (∃ h d, Map.find? t.paths st.pk = some h ∧ isHandler h ∧ h.parked = some d ∧
        d.mask = rest ||| (p.parked.map (·.mask)).getD 0 ∧ d.xfer = st.xfer ∧ h.defer = p.defer ∧ h.slot = p.slot ∧
        (d.pc, d.clause) = if st.xfer then (p.pc, p.clause) else nextPos p) ∧
      ∀ k, k ≠ st.pk → Map.find? t.paths k = Map.find? s.paths k)

/-- R140: the choice of the handler and of the record's CODE, by the numbers of R138. -/
def Obligations.HandlerOrder : Prop :=
  ∀ (fs : List LaneFault), fs ≠ [] →
    ((∃ f ∈ fs, f.code = .firstTouch) → chooseHandler fs = (.sup, .firstTouch)) ∧
    ((∀ f ∈ fs, f.code ≠ .firstTouch) → (∃ f ∈ fs, f.code = .pageHost) → chooseHandler fs = (.sup, .pageHost)) ∧
    ((∀ f ∈ fs, f.code ≠ .firstTouch ∧ f.code ≠ .pageHost) →
      (chooseHandler fs).1 = .user ∧ (∃ f ∈ fs, f.code = (chooseHandler fs).2) ∧
      ∀ f ∈ fs, (chooseHandler fs).2.num ≤ f.code.num)

/-- R143, with the release of registers of R98. -/
def Obligations.KilledLanes : Prop :=
  (∀ (s : State) (gk : Nat) (g : Gang) (m : Mask) (code : TrapCode), Map.find? s.gangs gk = some g → m &&& g.live ≠ 0 →
    ∃ h, Map.find? (kill s gk m code).gangs gk = some h ∧ h.live = g.live &&& ~~~ (m &&& g.live) ∧
      h.killed = g.killed ||| (m &&& g.live) ∧ (h.live = 0 → h.v = [] ∧ h.s = [] ∧ h.p = [] ∧ h.t = [])) ∧
  (∀ (s : State) (gk : Nat) (g : Gang) (m : Mask) (code : TrapCode) (r : Run), Map.find? s.gangs gk = some g →
    m &&& g.live ≠ 0 → Map.find? s.runs (crewAt s g.crew).run = some r →
    Map.find? (kill s gk m code).runs (crewAt s g.crew).run = some
      (if g.killed = 0 then { r with killed := r.killed + 1, killCode := some (r.killCode.getD code) } else r)) ∧
  (∀ (s : State) (st : Site) (fs : List LaneFault) (p : Path), Map.find? s.paths st.pk = some p →
    ∃ u, OnlyCtrs s u ∧
      (p.kind ≠ .ordinary → (takeTrap s st fs).1 = kill u p.gang (gangAt s p.gang).live (chooseHandler fs).2) ∧
      (p.kind = .ordinary → (chooseHandler fs).1 = .user →
        (runAt s (crewAt s (gangAt s p.gang).crew).run).lr.handler = 0xFFFFFFFF →
        (takeTrap s st fs).1 = kill u p.gang (faultMask fs) (chooseHandler fs).2))

/-- R254: what a completing instruction does to its path, when no parked lanes stand in its entry. -/
def Obligations.ClauseFlow : Prop :=
  ∀ (s : State) (k : Nat) (p : Path) (c : Clause), Map.find? s.paths k = some p → p.clause = some c → p.parked = none →
    (c.slot < c.n ∨ p.rett = none) →
    let t := advance s k
    t = { s with paths := t.paths } ∧ (∀ j, j ≠ k → Map.find? t.paths j = Map.find? s.paths j) ∧
    Map.find? t.paths k = some
      (if c.slot < c.n then
        { p with pc := p.pc + 8, clause := some { c with slot := c.slot + 1 }, noWatch := false, issued := 0,
                 limit := none, wait := .none, again := false, arrived := none }
      else
        { p with pc := c.hdr + BitVec.ofNat 64 (8 * (c.n + 2)), clause := none, noWatch := false, issued := 0,
                 limit := none, stray := false, again := false, arrived := none, swapHint := decide (c.yld ≠ 0),
                 wait := if c.yld = 3 then .sleep else .none, slot := if c.yld = 3 then none else p.slot })

/-- R284, R285 under R220 and R221. -/
def Obligations.IntegerArithmetic : Prop :=
  ∀ (f : RRR) (s : State) (c : Ctx),
    let t := ityOf f.type
    let a := fun l i => elemV t (opA f c (iw f.type) l) i
    let b := fun l i => elemV t (opB f c (iw f.type) l) i
    let d := fun l i => elemV t (opC f c (iw f.type) l) i
    let E := fun (r : Nat → Nat → Int) => toD f c (iw f.type) (fun l => perElem t (fun i =>
      wrapI t.w (if f.sat then clampI t.sg t.w (r l i) else r l i)))
    let x := fun l => opA f c 1 l
    let y := fun l => opB f c 1 l
    let k := fun l => (rp c.g f.c.toNat l).toNat
    (Runs (.add f) s c → Completes (.add f) s c (E (fun l i => a l i + b l i))) ∧
    (Runs (.sub f) s c → Completes (.sub f) s c (E (fun l i => a l i - b l i))) ∧
    (Runs (.mul f) s c → Completes (.mul f) s c (E (fun l i => a l i * b l i))) ∧
    (Runs (.mulh f) s c → Completes (.mulh f) s c (E (fun l i => a l i * b l i / (2 ^ 32 : Nat)))) ∧
    (Runs (.mad f) s c → Completes (.mad f) s c (E (fun l i => a l i * b l i + d l i))) ∧
    (Runs (.div f) s c → Completes (.div f) s c (E (fun l i =>
      if b l i = 0 then (if t.sg then -1 else (2 ^ t.w : Nat) - 1) else (a l i).tdiv (b l i)))) ∧
    (Runs (.rem f) s c → Completes (.rem f) s c (E (fun l i => if b l i = 0 then a l i else a l i - b l i * (a l i).tdiv (b l i)))) ∧
    (Runs (.min f) s c → Completes (.min f) s c (E (fun l i => min (a l i) (b l i)))) ∧
    (Runs (.max f) s c → Completes (.max f) s c (E (fun l i => max (a l i) (b l i)))) ∧
    (Runs (.abs f) s c → Completes (.abs f) s c (E (fun l i => ((a l i).natAbs : Int)))) ∧
    (Runs (.neg f) s c → Completes (.neg f) s c (E (fun l i => -a l i))) ∧
    (Runs (.addc f) s c → Completes (.addc f) s c ({ toD f c 1 (fun l => (x l + y l + k l) % 2 ^ 32) with
      pn := some f.c.toNat, pval := fun l => decide (2 ^ 32 ≤ x l + y l + k l) })) ∧
    (Runs (.subb f) s c → Completes (.subb f) s c ({ toD f c 1 (fun l => (((x l : Int) - y l - k l) % (2 ^ 32 : Nat)).toNat) with
      pn := some f.c.toNat, pval := fun l => decide ((x l : Int) - y l - k l < 0) }))

/-- R284, R286; that SAR of an unsigned type fills with zeros is the model's reading (log 13). -/
def Obligations.BitInstructions : Prop :=
  ∀ (f : RRR) (s : State) (c : Ctx),
    let t := ityOf f.type
    let a := fun l i => elemU t (opA f c (iw f.type) l) i
    let b := fun l i => elemU t (opB f c (iw f.type) l) i
    let k := fun l i => if t.w = 64 then b l i % 2 ^ 32 else b l i
    let E := fun (r : Nat → Nat → Nat) => toD f c (iw f.type) (fun l => perElem t (r l))
    (Runs (.andr f) s c → Completes (.andr f) s c (E (fun l i => a l i &&& b l i))) ∧
    (Runs (.orr f) s c → Completes (.orr f) s c (E (fun l i => a l i ||| b l i))) ∧
    (Runs (.xorr f) s c → Completes (.xorr f) s c (E (fun l i => a l i ^^^ b l i))) ∧
    (Runs (.andn f) s c → Completes (.andn f) s c (E (fun l i => a l i &&& (2 ^ t.w - 1 - b l i)))) ∧
    (Runs (.notr f) s c → Completes (.notr f) s c (E (fun l i => 2 ^ t.w - 1 - a l i))) ∧
    (Runs (.shl f) s c → Completes (.shl f) s c (E (fun l i => if t.w ≤ k l i then 0 else a l i * 2 ^ k l i % 2 ^ t.w))) ∧
    (Runs (.shr f) s c → Completes (.shr f) s c (E (fun l i => if t.w ≤ k l i then 0 else a l i / 2 ^ k l i))) ∧
    (Runs (.sar f) s c → Completes (.sar f) s c (E (fun l i =>
      wrapI t.w (elemV t (opA f c (iw f.type) l) i / (2 ^ min (k l i) t.w : Nat))))) ∧
    (Runs (.rot f) s c → Completes (.rot f) s c (E (fun l i => a l i * 2 ^ (k l i % t.w) % 2 ^ t.w + a l i / 2 ^ (t.w - k l i % t.w)))) ∧
    (Runs (.clz f) s c → Completes (.clz f) s c (E (fun l i => if a l i = 0 then t.w else t.w - 1 - Nat.log2 (a l i)))) ∧
    (Runs (.popc f) s c → Completes (.popc f) s c (E (fun l i => ((List.range t.w).filter (fun j => (a l i).testBit j)).length))) ∧
    (Runs (.brev f) s c → Completes (.brev f) s c (E (fun l i => joinE 1 ((List.range t.w).map (fun j => if (a l i).testBit (t.w - 1 - j) then 1 else 0)))))

/-- R284 (MULW), R287, R288. -/
def Obligations.MovesAndFields : Prop :=
  ∀ (f : RRR) (s : State) (c : Ctx),
    let t := ityOf f.type
    let w := iw f.type
    let a := fun l => opA f c w l
    let b := fun l => opB f c w l
    let pos := fun l => opB f c 1 l % 256
    let len := fun l => min (opB f c 1 l / 256 % 256) t.w
    (Runs (.mulw f) s c → Completes (.mulw f) s c (toD f c 2 (fun l => wrapI 64 (elemV t (opA f c 1 l) 0 * elemV t (opB f c 1 l) 0)))) ∧
    (Runs (.bfe f) s c → Completes (.bfe f) s c (toD f c w (fun l =>
      let x := a l / 2 ^ pos l % 2 ^ len l
      if len l = 0 then 0
      else if t.sg = true ∧ 2 ^ (len l - 1) ≤ x then 2 ^ t.w - 2 ^ len l + x else x))) ∧
    (Runs (.bfi f) s c → Completes (.bfi f) s c (toD f c w (fun l => joinE 1 ((List.range t.w).map (fun j =>
      if (if pos l ≤ j ∧ j < pos l + len l then a l / 2 ^ (j - pos l) % 2 else opC f c w l / 2 ^ j % 2) = 1 then 1 else 0))))) ∧
    (Runs (.sel f) s c → Completes (.sel f) s c (toD f c w (fun l => if rp c.g f.func.toNat l then a l else b l))) ∧
    (Runs (.mov f) s c → Completes (.mov f) s c (toD f c w a)) ∧
    (Runs (.mkaddr f) s c → Completes (.mkaddr f) s c (toD f c 2 (fun l =>
      opA f c 1 l % 2 ^ 24 * 2 ^ 40 + opC f c 1 l % 256 * 2 ^ 32 + opB f c 1 l))) ∧
    (Runs (.adda f) s c → Completes (.adda f) s c (toD f c 2 (fun l =>
      let x := opA f c 2 l
      let o : Int := (x % 2 ^ 40 : Nat) + elemV t (b l) 0
      if 0 ≤ o ∧ o < (2 ^ 40 : Nat) then x / 2 ^ 40 * 2 ^ 40 + o.toNat else (o % (2 ^ 40 : Nat)).toNat)))

/-- R289, with the limits of its immediates. -/
def Obligations.Immediates : Prop :=
  ∀ (f : RRI) (s : State) (c : Ctx),
    let V := fun (val : Nat → Nat → Nat) =>
      ({ m := c.act, sd := false, d := f.d.toNat, w := 1, val := fun l => val (rv c.g f.a.toNat l) f.imm.toNat } : Effect)
    let S := fun (val : Nat → Nat → Nat) =>
      ({ m := c.act, sd := true, d := f.d.toNat, w := 1, val := fun _ => val (rs c.g f.a.toNat) f.imm.toNat } : Effect)
    (Runs (.moviV f) s c → Completes (.moviV f) s c (V (fun _ k => k))) ∧
    (Runs (.movhV f) s c → Completes (.movhV f) s c ({ V (fun _ k => k) with val := fun l => f.imm.toNat * 2 ^ 16 + rv c.g f.d.toNat l % 2 ^ 16 })) ∧
    (Runs (.addImmV f) s c → Completes (.addImmV f) s c (V (fun a k => (a + k) % 2 ^ 32))) ∧
    (Runs (.shlImmV f) s c → Completes (.shlImmV f) s c (V (fun a k => a * 2 ^ k % 2 ^ 32))) ∧
    (Runs (.shrImmV f) s c → Completes (.shrImmV f) s c (V (fun a k => a / 2 ^ k))) ∧
    (Runs (.sarImmV f) s c → Completes (.sarImmV f) s c (V (fun a k => wrapI 32 (sext 32 a / (2 ^ k : Nat))))) ∧
    (Runs (.andImmV f) s c → Completes (.andImmV f) s c (V (fun a k => a &&& k))) ∧
    (Runs (.orImmV f) s c → Completes (.orImmV f) s c (V (fun a k => a ||| k))) ∧
    (Runs (.moviS f) s c → Completes (.moviS f) s c (S (fun _ k => k))) ∧
    (Runs (.movhS f) s c → Completes (.movhS f) s c ({ S (fun _ k => k) with val := fun _ => f.imm.toNat * 2 ^ 16 + rs c.g f.d.toNat % 2 ^ 16 })) ∧
    (Runs (.addImmS f) s c → Completes (.addImmS f) s c (S (fun a k => (a + k) % 2 ^ 32))) ∧
    (Runs (.shlImmS f) s c → Completes (.shlImmS f) s c (S (fun a k => a * 2 ^ k % 2 ^ 32))) ∧
    (Runs (.shrImmS f) s c → Completes (.shrImmS f) s c (S (fun a k => a / 2 ^ k))) ∧
    (Runs (.sarImmS f) s c → Completes (.sarImmS f) s c (S (fun a k => wrapI 32 (sext 32 a / (2 ^ k : Nat))))) ∧
    (Runs (.andImmS f) s c → Completes (.andImmS f) s c (S (fun a k => a &&& k))) ∧
    (Runs (.orImmS f) s c → Completes (.orImmS f) s c (S (fun a k => a ||| k))) ∧
    (32 ≤ f.imm.toNat → ctxOf s f.g = some c → ¬ badPlace (shapeOf (.shlImmV f)) c →
      exec (.shlImmV f) s = .next (trapAll s c .illegalOp (faultable c) [])) ∧
    (32 ≤ f.imm.toNat → ctxOf s f.g = some c → ¬ badPlace (shapeOf (.shrImmV f)) c →
      exec (.shrImmV f) s = .next (trapAll s c .illegalOp (faultable c) [])) ∧
    (32 ≤ f.imm.toNat → ctxOf s f.g = some c → ¬ badPlace (shapeOf (.sarImmV f)) c →
      exec (.sarImmV f) s = .next (trapAll s c .illegalOp (faultable c) [])) ∧
    (65536 ≤ f.imm.toNat → ctxOf s f.g = some c → ¬ badPlace (shapeOf (.movhV f)) c →
      exec (.movhV f) s = .next (trapAll s c .illegalOp (faultable c) [])) ∧
    (32 ≤ f.imm.toNat → ctxOf s f.g = some c → ¬ badPlace (shapeOf (.shlImmS f)) c →
      exec (.shlImmS f) s = .next (trapAll s c .illegalOp (faultable c) [])) ∧
    (32 ≤ f.imm.toNat → ctxOf s f.g = some c → ¬ badPlace (shapeOf (.shrImmS f)) c →
      exec (.shrImmS f) s = .next (trapAll s c .illegalOp (faultable c) [])) ∧
    (32 ≤ f.imm.toNat → ctxOf s f.g = some c → ¬ badPlace (shapeOf (.sarImmS f)) c →
      exec (.sarImmS f) s = .next (trapAll s c .illegalOp (faultable c) [])) ∧
    (65536 ≤ f.imm.toNat → ctxOf s f.g = some c → ¬ badPlace (shapeOf (.movhS f)) c →
      exec (.movhS f) s = .next (trapAll s c .illegalOp (faultable c) []))

/-- R220, R221: what elemV, wrapI, clampI and perElem say of a type. -/
def Obligations.ElementValues : Prop :=
  ∀ (code : BitVec 4),
    let t := ityOf code
    let lo : Int := if t.sg then -(2 ^ (t.w - 1) : Nat) else 0
    let hi : Int := if t.sg then (2 ^ (t.w - 1) : Nat) - 1 else (2 ^ t.w : Nat) - 1
    (∀ x i, elemU t x i < 2 ^ t.w ∧ lo ≤ elemV t x i ∧ elemV t x i ≤ hi ∧
      elemV t x i % (2 ^ t.w : Nat) = (elemU t x i : Int)) ∧
    (∀ r : Int, (wrapI t.w r : Int) = r % (2 ^ t.w : Nat)) ∧
    (∀ r : Int, (lo ≤ r → r ≤ hi → clampI t.sg t.w r = r) ∧ (r < lo → clampI t.sg t.w r = lo) ∧
      (hi < r → clampI t.sg t.w r = hi)) ∧
    (∀ (f : Nat → Nat) (i : Nat), (∀ j, f j < 2 ^ t.w) → i < t.n → elemU t (perElem t f) i = f i) ∧
    t.w * t.n = 32 * iw code

/-- R290, R291. -/
def Obligations.ComputedRegisters : Prop :=
  (∀ (f : RRR) (s : State) (c : Ctx),
    let i := fun l => opA f c 1 l
    let out := (lanes c.act).filter (fun l => decide (c.g.nv ≤ i l))
    let fs := out.map (fun l => ({ lane := l, code := .bounds, addr := i l } : LaneFault))
    let good := maskOf c.act (fun l => decide (i l < c.g.nv))
    let busy := c.g.ops.any (fun o => (o.mask &&& c.p.mask) != 0 && !o.dv.isEmpty)
    (Runs (.vrdi f) s c → busy = true → exec (.vrdi f) s = .next (waitFor (counted s c) c .flush)) ∧
    (Runs (.vwri f) s c → busy = true → exec (.vwri f) s = .next (waitFor (counted s c) c .flush)) ∧
    (Runs (.vrdi f) s c → busy = false →
      ∃ u, exec (.vrdi f) s = .next (settle u c fs 0 []) ∧
        Writes (counted s c) u c { m := good, d := f.d.toNat, w := 1, val := fun l => rv c.g (i l) l }) ∧
    (Runs (.vrdi f) s c → busy = false → out = [] →
      Completes (.vrdi f) s c { m := c.act, d := f.d.toNat, w := 1, val := fun l => rv c.g (i l) l }) ∧
    (Runs (.vwri f) s c → busy = false →
      ∃ u v, exec (.vwri f) s = .next (settle u c fs 0 []) ∧ (out = [] → settle u c fs 0 [] = advance u c.pk) ∧
        OnlyGang (counted s c) u c.gk ∧ Map.find? u.gangs c.gk = some { c.g with v := v } ∧
        ∀ n l, l < 32 → rv { c.g with v := v } n l =
          if good.getLsbD l = true ∧ i l = n then opB f c 1 l % 2 ^ 32 else rv c.g n l)) ∧
  (∀ (f : RRI) (s : State) (c : Ctx),
    let n := f.imm.toNat
    Runs (.vgrow f) s c →
    (c.lr.vmax * 8 < n → exec (.vgrow f) s = .next (trapAll (counted s c) c .illegalOp (faultable c) [])) ∧
    (n ≤ c.lr.vmax * 8 → (c.act = 0 ∨ n ≤ c.g.nv) → Completes (.vgrow f) s c { m := c.act }) ∧
    (n ≤ c.lr.vmax * 8 → c.act ≠ 0 → c.g.nv < n → growthFits (counted s c) c.gk n = true → growthBehind (counted s c) c.pk c.p = false →
      exec (.vgrow f) s = .next (advance { counted s c with
        gangs := Map.put s.gangs c.gk { c.g with nv := n } } c.pk)) ∧
    (n ≤ c.lr.vmax * 8 → c.act ≠ 0 → c.g.nv < n →
      growthFits (counted s c) c.gk n = false ∨ growthBehind (counted s c) c.pk c.p = true →
      ∃ u, OnlyCtrs s u ∧ exec (.vgrow f) s = .next (waitFor u c (.growth n))))

/-- R292, R294. -/
def Obligations.PredicateInstructions : Prop :=
  ∀ (f : RRR) (s : State) (c : Ctx),
    let P := fun (v : Nat → Bool) => ({ m := c.act, pn := some f.d.toNat, pval := v } : Effect)
    let x := fun l => opA f c (iw f.type) l
    let y := fun l => opB f c (iw f.type) l
    let a := fun l => elemV (ityOf f.type) (x l) 0
    let b := fun l => elemV (ityOf f.type) (y l) 0
    let p := fun l => rp c.g f.a.toNat l != f.func.getLsbD 0
    let q := fun l => rp c.g f.b.toNat l != f.func.getLsbD 1
    (Runs (.cmp f) s c → Completes (.cmp f) s c (P (fun l => match f.func.toNat with
      | 0 => decide (a l = b l)
      | 1 => decide (a l ≠ b l)
      | 2 => decide (a l < b l)
      | 3 => decide (a l ≤ b l)
      | 4 => decide (a l > b l)
      | 5 => decide (a l ≥ b l)
      | _ => decide (x l &&& y l ≠ 0)))) ∧
    (Runs (.pand f) s c → Completes (.pand f) s c (P (fun l => p l && q l))) ∧
    (Runs (.por f) s c → Completes (.por f) s c (P (fun l => p l || q l))) ∧
    (Runs (.pxor f) s c → Completes (.pxor f) s c (P (fun l => p l != q l))) ∧
    (Runs (.pnot f) s c → Completes (.pnot f) s c (P (fun l => !rp c.g f.a.toNat l))) ∧
    (Runs (.pmov f) s c → Completes (.pmov f) s c (P (fun l =>
      if f.func = 0 then rp c.g f.a.toNat l else decide (f.func = 1))))

/-- R295: byte 0 of a register is the first byte of the string. -/
def Obligations.StringInstructions : Prop :=
  ∀ (f : RRR) (s : State) (c : Ctx),
    let a := fun l => opA f c 1 l
    let b := fun l => opB f c 1 l
    let t := ityOf f.type
    let first := fun x => byteN x 0 * 2 ^ 24 + byteN x 1 * 2 ^ 16 + byteN x 2 * 2 ^ 8 + byteN x 3
    (Runs (.scmp f) s c → Completes (.scmp f) s c (toD f c 1 (fun l => if opC f c 1 l ≠ 0 then opC f c 1 l
      else if first (a l) < first (b l) then 2 ^ 32 - 1 else if first (b l) < first (a l) then 1 else 0))) ∧
    (Runs (.seqb f) s c → Completes (.seqb f) s c (toD f c 1 (fun l =>
      let e := fun i => if byteN (a l) i = byteN (b l) i then 2 ^ i else 0
      e 0 + e 1 + e 2 + e 3))) ∧
    (Runs (.sfind f) s c → Completes (.sfind f) s c (toD f c 1 (fun l =>
      let k := b l % 256
      if byteN (a l) 0 = k then 0 else if byteN (a l) 1 = k then 1 else if byteN (a l) 2 = k then 2
      else if byteN (a l) 3 = k then 3 else 4))) ∧
    (Runs (.bswap f) s c → Completes (.bswap f) s c (toD f c (iw f.type) (fun l => perElem t (fun i =>
      leNat ((leBytes (t.w / 8) (elemU t (opA f c (iw f.type) l) i)).reverse)))))

/-- R296: the step, its TYPEs, and its check value. -/
def Obligations.CrcOfBytes : Prop :=
  (∀ (f : RRR) (s : State) (c : Ctx),
    let bit := fun (x : Nat) => if x % 2 = 1 then (x / 2) ^^^ 0x82F63B78 else x / 2
    let byte := fun (x : Nat) (y : Byte) => (List.range 8).foldl (fun z _ => bit z) (x ^^^ y.toNat)
    (Runs (.crc f) s c → Completes (.crc f) s c (toD f c 1 (fun l =>
      (leBytes (if f.type = 1 then 4 else if f.type = 5 then 2 else 1) (opB f c 1 l)).foldl byte (opA f c 1 l)))) ∧
    (ctxOf s f.g = some c → ¬ badPlace (shapeOf (.crc f)) c → f.type ≠ 1 → f.type ≠ 5 → f.type ≠ 7 →
      exec (.crc f) s = .next (trapAll s c .illegalOp (faultable c) [])) ∧
    ∀ bs : List Byte, crc32c bs = 0xFFFFFFFF - bs.foldl byte 0xFFFFFFFF) ∧
  0xFFFFFFFF - crcBytes (crcBytes (crcBytes 0xFFFFFFFF (leBytes 4 0x34333231)) (leBytes 4 0x38373635)) [0x39] = 0xE3069283

/-- R297. -/
def Obligations.Hmix : Prop :=
  (∀ (f : RRR) (s : State) (c : Ctx),
    (Runs (.hmix f) s c → Completes (.hmix f) s c (toD f c 2 (fun l =>
      let x := opA f c 2 l ^^^ opB f c 2 l
      let x := x ^^^ (x >>> 31)
      let x := x * 0xA3B195C54E6F1D27 % 2 ^ 64
      let x := x ^^^ (x >>> 29)
      let x := x * 0x8F2D7C43B169E0A5 % 2 ^ 64
      x ^^^ (x >>> 32)))) ∧
    (ctxOf s f.g = some c → ¬ badPlace (shapeOf (.hmix f)) c → f.type ≠ 3 →
      exec (.hmix f) s = .next (trapAll s c .illegalOp (faultable c) []))) ∧
  hmixVal 0 0 = 0

/-- R282, with the counts of R76. -/
def Obligations.NopOnlyAdvances : Prop :=
  ∀ (f : RRR) (s : State) (c : Ctx),
    (Runs (.nop f) s c → exec (.nop f) s = .next (advance (counted s c) c.pk) ∧ OnlyCtrs s (counted s c)) ∧
    (∀ w, encode (.nop f) = some w → c.cl.words[c.cl.slot]? = some (.word w) → c.p.wait = .none →
      let q := quadOf s c.gk
      counted s c = bumpCore (bumpCore (bumpCore s c.core q 0x003 1) c.core q 0x004 1) c.core q 0x005 (popc c.act)) ∧
    (ctxOf s f.g = some c → guardOk f.g = false → exec (.nop f) s = .next (trapAll s c .illegalOp c.p.mask []))

/-- R307, R313, R316, with the values they give. -/
def Obligations.DotProducts : Prop :=
  (∀ (f : RRR) (s : State) (c : Ctx),
    let t := ityOf f.type
    let dot := fun l => (List.range t.n).foldl (fun (x : Int) i => x + elemV t (opA f c 1 l) i * elemV t (opB f c 1 l) i) 0
    let r := fun l => valOf t.sg 32 (opC f c 1 l) + dot l
    let fit := fun (x : Int) => wrapI 32 (if f.sat then clampI t.sg 32 x else x)
    let fm := fmtOfCode f.type.toNat
    (Runs (.dot4 f) s c → Completes (.dot4 f) s c (toD f c 1 (fun l => fit (r l)))) ∧
    (Runs (.dot8 f) s c → Completes (.dot8 f) s c (toD f c 1 (fun l => fit (r l)))) ∧
    (Runs (.scaleq f) s c → Completes (.scaleq f) s c (toD f c 1 (fun l => scaleCode f.type.toNat (opA f c 1 l)))) ∧
    (Runs (.fclass f) s c → Completes (.fclass f) s c (toD f c 1 (fun l => joinE 16 ((List.range (if fm.width = 16 then 2 else 1)).map
      (fun i => fclassF fm (opA f c (fw f.type) l / 2 ^ (fm.width * i) % 2 ^ fm.width))))))) ∧
  (∀ fm ∈ [fF64, fF32, fF16, fBf16], ∀ x < 2 ^ fm.width,
    let neg := x.testBit (fm.eb + fm.pb)
    let ex : Nat := x / 2 ^ fm.pb % 2 ^ fm.eb
    let fr : Nat := x % 2 ^ fm.pb
    fclassF fm x = 2 ^ (if ex = 2 ^ fm.eb - 1 then (if fr = 0 then (if neg then 2 else 9) else if fr.testBit (fm.pb - 1) then 1 else 0)
      else if ex = 0 then (if fr = 0 then (if neg then 5 else 6) else if neg then 4 else 7) else if neg then 3 else 8)) ∧
  (∀ x < 2 ^ 32, ∀ t ∈ [(4, 8), (5, 15), (6, 2), (14, 6), (7, 2)],
    ((∀ n m e, decodeF fF32 x ≠ .fin n m e) → scaleCode t.1 x = 0xFF) ∧
    (∀ n m e, decodeF fF32 x = .fin n m e → (m = 0 → scaleCode t.1 x = 0x7F) ∧
      ∀ k : Nat, 2 ^ k ≤ m → m < 2 ^ (k + 1) → (scaleCode t.1 x : Int) = max (-127) (min 127 (k + e - t.2)) + 127))

/-- R302, R303, R305, R233: one Round of the exact value of each element, and the exact values. That a zero of FMULZ draws no random
number is the model's reading (log 13). -/
def Obligations.FloatArithmetic : Prop :=
  (∀ (f : RRR) (s : State) (c : Ctx),
    let fm := fmtOfCode f.type.toNat
    let w := fw f.type
    let n := if fm.width = 16 then 2 else 1
    let mode := if f.func.getLsbD 4 then Mode.rsr else modeOf f.rnd
    let part := fun (x k : Nat) => x / 2 ^ (fm.width * k) % 2 ^ fm.width
    let F := fun (i : Instr) (op : Nat → Nat → Nat → Word → Nat × Nat × Word) =>
      let res := fun l => runE fm.width (fun k r =>
        op (part (opA f c w l) k) (part (opB f c w l) k) (part (opC f c w l) k) r) n 0 (rrng c.g l)
      Runs i s c → FloatDone i s c (fun l => (res l).fl) (floatEffect f.sd f.d.toNat w res)
    let X := fun (op : FVal → FVal → FVal → FVal × Nat) (a b d : Nat) (r : Word) =>
      let x := op (readF fm c.g.ftz a) (readF fm c.g.ftz b) (readF fm c.g.ftz d)
      let y := roundL fm mode f.sat c.g.ftz x.1 r
      (y.1, x.2 ||| y.2.1, y.2.2)
    (F (.fadd f) (X (fun a b _ => addV mode a b))) ∧
    (F (.fsub f) (X (fun a b _ => addV mode a b.negate))) ∧
    (F (.fmul f) (X (fun a b _ => mulV a b))) ∧
    (F (.ffma f) (X (fun a b d => fmaV mode a b d))) ∧
    (F (.fdiv f) (X (fun a b _ => divV a b))) ∧
    (F (.fsqrt f) (X (fun a _ _ => sqrtV a))) ∧
    (F (.frcp f) (X (fun a _ _ => divV one a))) ∧
    (F (.frsq f) (X (fun a _ _ => rsqV a))) ∧
    (F (.fmulz f) (fun a b d r => match mulzF fm c.g.ftz a b with
      | some z => (z, 0, r)
      | none => X (fun a b _ => mulV a b) a b d r))) ∧
  (∀ (mode : Mode) (sa sb sd : Bool) (ma mb md : Nat) (ea eb ed : Int),
    let a := FVal.fin sa ma ea
    let b := FVal.fin sb mb eb
    let d := FVal.fin sd md ed
    (∃ n m e, addV mode a b = (.fin n m e, 0) ∧ (m = 0 → n = if sa = sb then sa else decide (mode = .rdn)) ∧
      ∀ k, k ≤ ea → k ≤ eb → k ≤ e → (FVal.fin n m e).units k = a.units k + b.units k) ∧
    mulV a b = (.fin (sa != sb) (ma * mb) (ea + eb), 0) ∧
    (∃ n m e, fmaV mode a b d = (.fin n m e, 0) ∧ ∀ k, k ≤ ea + eb → k ≤ ed → k ≤ e →
      (FVal.fin n m e).units k = (FVal.fin (sa != sb) (ma * mb) (ea + eb)).units k + d.units k) ∧
    (ma ≠ 0 → mb ≠ 0 → ∃ m e, divV a b = (.fin (sa != sb) m e, 0) ∧ 2 ^ 128 ≤ m ∧ e ≤ ea - eb ∧
      StandsFor m (fun j => compare (j * mb) (ma * 2 ^ (ea - eb - e).toNat))) ∧
    (ma ≠ 0 → sa = false → ∃ m e, sqrtV a = (.fin false m e, 0) ∧ 2 ^ 80 ≤ m ∧ 2 * e ≤ ea ∧
      StandsFor m (fun j => compare (j * j) (ma * 2 ^ (ea - 2 * e).toNat))) ∧
    (ma ≠ 0 → sa = false → ∃ m e, rsqV a = (.fin false m e, 0) ∧ 2 ^ 80 ≤ m ∧ 2 * e + ea ≤ 0 ∧
      StandsFor m (fun j => compare (j * j * ma) (2 ^ (-(2 * e + ea)).toNat)))) ∧
  (∀ (mode : Mode) (x y : FVal),
    let q := ((.nan false : FVal), if x.isSig = true ∨ y.isSig = true then 1 else 0)
    (x.isNan = true ∨ y.isNan = true → addV mode x y = q ∧ mulV x y = q ∧ divV x y = q) ∧
    (∀ s, sqrtV (.nan s) = (.nan false, if s then 1 else 0) ∧ rsqV (.nan s) = (.nan false, if s then 1 else 0))) ∧
  (∀ (mode : Mode) (s n : Bool) (m : Nat) (e : Int),
    let z := FVal.fin n m e
    addV mode (.inf s) (.inf n) = (if s = n then (.inf s, 0) else (.nan false, 1)) ∧
    addV mode (.inf s) z = (.inf s, 0) ∧ addV mode z (.inf s) = (.inf s, 0) ∧
    mulV (.inf s) (.inf n) = (.inf (s != n), 0) ∧
    mulV (.inf s) z = (if m = 0 then (.nan false, 1) else (.inf (s != n), 0)) ∧
    mulV z (.inf s) = (if m = 0 then (.nan false, 1) else (.inf (s != n), 0)) ∧
    divV (.inf s) (.inf n) = (.nan false, 1) ∧ divV (.inf s) z = (.inf (s != n), 0) ∧ divV z (.inf s) = (.fin (n != s) 0 0, 0) ∧
    (∀ e', divV z (.fin s 0 e') = (if m = 0 then (.nan false, 1) else (.inf (n != s), 2))) ∧
    (∀ e', m ≠ 0 → divV (.fin s 0 e') z = (.fin (s != n) 0 0, 0)) ∧
    sqrtV (.inf s) = (if s then (.nan false, 1) else (.inf false, 0)) ∧
    rsqV (.inf s) = (if s then (.nan false, 1) else (.fin false 0 0, 0)) ∧
    sqrtV (.fin s 0 e) = (.fin s 0 0, 0) ∧ rsqV (.fin s 0 e) = (.inf s, 2) ∧
    (m ≠ 0 → n = true → sqrtV z = (.nan false, 1) ∧ rsqV z = (.nan false, 1)))

/-- R293, R302 to R304, R306, with the values they give; how FEXP2 and FLOG2 reach their rounding is the model's own (log 14). -/
def Obligations.FloatOther : Prop :=
  (∀ (f : RRR) (s : State) (c : Ctx),
    let fm := fmtOfCode f.type.toNat
    let w := fw f.type
    let n := if fm.width = 16 then 2 else 1
    let mode := if f.func.getLsbD 4 then Mode.rsr else modeOf f.rnd
    let part := fun (x k : Nat) => x / 2 ^ (fm.width * k) % 2 ^ fm.width
    let F := fun (i : Instr) (op : Nat → Nat → Nat → Word → Nat × Nat × Word) =>
      let res := fun l => runE fm.width (fun k r =>
        op (part (opA f c w l) k) (part (opB f c w l) k) (part (opC f c w l) k) r) n 0 (rrng c.g l)
      Runs i s c → FloatDone i s c (fun l => (res l).fl) (floatEffect f.sd f.d.toNat w res)
    let Q := fun (op : Nat → Nat → Nat × Nat) (a b _ : Nat) (r : Word) => ((op a b).1, (op a b).2, r)
    let cmp := fun l => fcmpF fm c.g.ftz f.func.toNat (opA f c w l % 2 ^ fm.width) (opB f c w l % 2 ^ fm.width)
    (F (.fmin f) (Q (fun a b => minmaxF fm true c.g.ftz a b))) ∧
    (F (.fmax f) (Q (fun a b => minmaxF fm false c.g.ftz a b))) ∧
    (F (.frnd f) (Q (fun a _ => frndF fm mode c.g.ftz a))) ∧
    (F (.fexp2 f) (Q (fun a _ =>
      let v := readF fm c.g.ftz a
      let x := exp2V v
      let y := roundEnds fm mode f.sat c.g.ftz x.1 x.2.1 (exp2Lt v)
      (y.1, x.2.2 ||| y.2)))) ∧
    (F (.flog2 f) (Q (fun a _ =>
      let v := readF fm c.g.ftz a
      let x := log2V v
      let y := roundEnds fm mode f.sat c.g.ftz x.1 x.2.1 (fun t => log2Lt v t != t.neg)
      (y.1, x.2.2 ||| y.2)))) ∧
    (Runs (.fcmp f) s c → FloatDone (.fcmp f) s c (fun l => (cmp l).2) (fun m =>
      { m := m, pn := some f.d.toNat, pval := fun l => (cmp l).1, fl := fun l => BitVec.ofNat 6 (cmp l).2 }))) ∧
  (∀ (p q : Bool) (ma mb : Nat) (ea eb : Int),
    let a := FVal.fin p ma ea
    let b := FVal.fin q mb eb
    let far := fun (s : Bool) => if s then Ordering.lt else .gt
    (∀ k, k ≤ ea → k ≤ eb → cmpV a b = compare (a.units k) (b.units k)) ∧
    cmpV (.inf p) b = far p ∧ cmpV a (.inf q) = far (!q) ∧ cmpV (.inf p) (.inf q) = if p = q then .eq else far p) ∧
  (∀ (mode : Mode) (u : Nat) (n : Bool) (m : Nat) (e : Int), u < 2 ^ 32 →
    let x := (FVal.fin n m e).units (min e 0)
    let w := (-e).toNat
    ∃ y, Selects mode u x w y ∧ toInt mode u n m e = (y, decide (y * (2 ^ w : Nat) ≠ x))) ∧
  (∀ fm ∈ [fF64, fF32, fF16, fBf16], ∀ (ftz : Bool) (mode : Mode) (xa xb : Nat), xa < 2 ^ fm.width → xb < 2 ^ fm.width →
    let a := readF fm ftz xa
    let b := readF fm ftz xb
    let zero := fun (n : Bool) => if n then 2 ^ (fm.eb + fm.pb) else 0
    let ca := if a.isZero then zero a.neg else xa
    let cb := if b.isZero then zero b.neg else xb
    let sig := if a.isSig = true ∨ b.isSig = true then 1 else 0
    let un := a.isNan || b.isNan
    (∀ less, (minmaxF fm less ftz xa xb).2 = sig ∧
      let r := (minmaxF fm less ftz xa xb).1
      (a.isNan = true → b.isNan = true → r = fm.nan.getD 0) ∧ (a.isNan = true → b.isNan = false → r = cb) ∧
      (a.isNan = false → b.isNan = true → r = ca) ∧
      (un = false → (r = ca ∨ r = cb) ∧
        (∀ v ∈ [a, b], cmpV (readF fm ftz r) v ≠ if less then .gt else .lt) ∧
        (a.isZero = true → b.isZero = true → r = zero (if less then a.neg || b.neg else a.neg && b.neg)))) ∧
    (∀ func < 8, fcmpF fm ftz func xa xb =
      (if un then func == 1 || func == 6 else
        let o := cmpV a b
        [o == .eq, o != .eq, o == .lt, o != .gt, o == .gt, o != .lt, false, true].getD func false,
       if sig = 1 ∨ (un = true ∧ 2 ≤ func ∧ func ≤ 5) then 1 else 0)) ∧
    (∀ s, a = .nan s → frndF fm mode ftz xa = (fm.nan.getD 0, if s then 1 else 0)) ∧
    (∀ s, a = .inf s → frndF fm mode ftz xa = (xa, 0)) ∧
    (∀ n m e, a = .fin n m e → ∃ y, Selects mode 0 (a.units (min e 0)) (-e).toNat y ∧
      roundF fm mode false false 0 (.fin n y.natAbs 0) = ((frndF fm mode ftz xa).1, 0) ∧ (frndF fm mode ftz xa).2 = 0))

/-- R231, R232, R308 to R310. -/
def Obligations.ExactPairs : Prop :=
  (∀ (f : RRR) (s : State) (c : Ctx),
    let mode := if f.func.getLsbD 4 then Mode.rsr else modeOf f.rnd
    let pair := fun (i : Instr) (wa : Nat) (op : Nat → Nat → Nat × Nat) =>
      let r := fun l => op (opA f c wa l) (opB f c wa l)
      Runs i s c → FloatDone i s c (fun l => (r l).2) (fun m =>
        { m := m, sd := f.sd, d := f.d.toNat, w := 2, val := fun l => (r l).1, fl := fun l => BitVec.ofNat 6 (r l).2 })
    let exact := fun (op : FVal → FVal → FVal × Nat) (a b : Nat) =>
      let x := op (decodeF fF32 a) (decodeF fF32 b)
      ((pairOf x.1).1, x.2 ||| (pairOf x.1).2)
    let rnd := fun l =>
      let x := pairVal mode (opA f c 2 l)
      let y := roundL (fmtOfCode f.type.toNat) mode f.sat false x.1 (rrng c.g l)
      ({ d := y.1, fl := x.2 ||| y.2.1, rng := y.2.2 } : LOut)
    (pair (.faddx f) 1 (exact (fun a b => addV .rne a b))) ∧
    (pair (.fsubx f) 1 (exact (fun a b => addV .rne a b.negate))) ∧
    (pair (.fmulx f) 1 (exact mulV)) ∧
    (pair (.dwadd f) 2 dwadd) ∧
    (pair (.dwmul f) 2 dwmul) ∧
    (Runs (.dwrnd f) s c → FloatDone (.dwrnd f) s c (fun l => (rnd l).fl) (floatEffect f.sd f.d.toNat (fw f.type) rnd))) ∧
  (∀ (x : FVal),
    let r := pairOf x
    let hi := decodeF fF32 (r.1 % 2 ^ 32)
    let lo := decodeF fF32 (r.1 / 2 ^ 32)
    let rx := roundF fF32 .rne false false 0 x
    r.1 % 2 ^ 32 = rx.1 ∧ r.2 % 32 = rx.2 ∧ r.2 < 64 ∧
    ((∀ n m e, hi ≠ .fin n m e) → r.1 / 2 ^ 32 = 0 ∧ r.2.testBit 5 = true) ∧
    (∀ n m e n1 m1 e1, x = .fin n m e → hi = .fin n1 m1 e1 → ∃ n2 m2 e2, lo = .fin n2 m2 e2 ∧ (m2 = 0 → r.1 / 2 ^ 32 = 0) ∧
      (r.2.testBit 5 = false ↔ ∀ k, k ≤ e → k ≤ e1 → k ≤ e2 → x.units k = hi.units k + lo.units k)))

/-- R312, R314, R315, R317, with the values they give. Which of them draw a random number where no result is rounded, and INVALID of a
signalling NaN under PACK, are the model's reading (log 13). -/
def Obligations.Conversions : Prop :=
  (∀ (f : RRR) (s : State) (c : Ctx),
    let mode := if f.func.getLsbD 4 then Mode.rsr else modeOf f.rnd
    let st := f.func.toNat % 16
    let t := f.type.toNat
    let k := f.func.toNat % 8
    let e := convWidth t
    let kept := fun (called : Bool) (r : Word) => if called = true ∧ f.func.getLsbD 4 = true then nextRand r else r
    let G := fun (i : Instr) (w : Nat) (res : Nat → LOut) =>
      Runs i s c → FloatDone i s c (fun l => (res l).fl) (floatEffect f.sd f.d.toNat w res)
    (G (.cvt f) (cw t) (fun l =>
      let x := cvtVal st t mode f.sat c.g.ftz (nextRand (rrng c.g l)).toNat (opA f c (cw st) l)
      { d := x.1, fl := x.2.1, rng := kept x.2.2 (rrng c.g l) })) ∧
    (G (.pack f) 1 (fun l =>
      let x := packElem t mode (nextRand (rrng c.g l)).toNat (opA f c 1 l) (opB f c 1 l % 256)
      let old := src c.g f.sd f.d 1 l
      { d := old % 2 ^ (e * k) + x.1 * 2 ^ (e * k) + old / 2 ^ (e * (k + 1)) * 2 ^ (e * (k + 1)), fl := x.2.1,
        rng := kept x.2.2 (rrng c.g l) })) ∧
    (G (.unpack f) 1 (fun l =>
      let x := unpackElem t mode f.sat c.g.ftz (opA f c 1 l / 2 ^ (e * k) % 2 ^ e) (opB f c 1 l % 256)
      { d := x.1, fl := x.2, rng := rrng c.g l })) ∧
    (G (.dotf8 f) 1 (fun l =>
      let x := dotF mode (fmtOfCode t) (readF fF32 c.g.ftz (opC f c 1 l)) (opA f c 1 l) (opB f c 1 l)
      let y := roundL fF32 mode f.sat c.g.ftz x.1 (rrng c.g l)
      { d := y.1, fl := x.2 ||| y.2.1, rng := y.2.2 }))) ∧
  (∀ (sT dT : Nat) (mode : Mode) (sat ftz : Bool) (u x : Nat), sT < 16 → dT < 16 → u < 2 ^ 32 →
    let v := readF (fmtOfCode sT) (ftz && decide (sT < 4)) (x % 2 ^ convWidth sT)
    let i := valOf (convInt sT).2 (convWidth sT) (x % 2 ^ convWidth sT)
    let w := (convInt dT).1
    let sg := (convInt dT).2
    let hi : Int := if sg then (2 ^ (w - 1) : Nat) - 1 else (2 ^ w : Nat) - 1
    let lo : Int := if sg then -(2 ^ (w - 1) : Nat) else 0
    let put := fun (r : Int) => wrapI (if sg = true ∧ w < 32 then 32 else w) r
    let rnd := fun (v : FVal) => roundF (fmtOfCode dT) mode sat (ftz && decide (dT < 4)) u v
    let r := cvtVal sT dT mode sat ftz u x
    (sT ≤ 6 → dT ≤ 6 → r = ((rnd v).1, (rnd v).2 ||| (if v.isSig = true ∨ (v = .inf true ∨ v = .inf false) ∧ (fmtOfCode dT).inf = false then 1 else 0), true)) ∧
    (sT ≤ 6 → 6 < dT → (v.isNan = true → r = (0, 1, true)) ∧ (∀ n, v = .inf n → r = (put (if n then lo else hi), 1, true)) ∧
      (∀ n m e, v = .fin n m e → ∃ y, Selects mode u (v.units (min e 0)) (-e).toNat y ∧
        let z := max lo (min hi y)
        r = (put z, if z ≠ y then 1 else if y * (2 ^ (-e).toNat : Nat) ≠ v.units (min e 0) then 16 else 0, true))) ∧
    (6 < sT → dT ≤ 6 → r = ((rnd (.fin (decide (i < 0)) i.natAbs 0)).1, (rnd (.fin (decide (i < 0)) i.natAbs 0)).2, true)) ∧
    (6 < sT → 6 < dT → r = (put (if sat then max lo (min hi i) else valOf sg w (wrapI w i)), 0, false))) ∧
  (∀ (t : Nat) (mode : Mode) (u x k : Nat), t < 16 → u < 2 ^ 32 → x < 2 ^ 32 → k < 256 →
    let v := decodeF fF32 x
    let fm := fmtOfCode t
    let w := (convInt t).1
    let sg := (convInt t).2
    let hi : Int := if sg then (2 ^ (w - 1) : Nat) - 1 else (2 ^ w : Nat) - 1
    let lo : Int := if sg then -hi else 0
    let r := packElem t mode u x k
    (k = 255 → r = (0, 0, false)) ∧
    (k ≠ 255 → (∀ s, v = .nan s → r = if t < 6 then (fm.nan.getD 0, if s then 1 else 0, false) else (0, 1, false)) ∧
      (∀ n, v = .inf n → r = (if t ≤ 6 then fm.maxCode + (if n then 2 ^ (fm.eb + fm.pb) else 0) else wrapI w (if n then lo else hi), 1, false)) ∧
      (∀ n m e, v = .fin n m e →
        let e' := e - ((k : Int) - 127)
        let y := FVal.fin n m e'
        (t ≤ 6 → let q := roundF fm mode true false u y
          r = (q.1, if q.2.testBit 2 then 16 else q.2, true)) ∧
        (6 < t → ∃ z, Selects mode u (y.units (min e' 0)) (-e').toNat z ∧
          let z := max lo (min hi z)
          r = (wrapI w z, if z * (2 ^ (-e').toNat : Nat) = y.units (min e' 0) then 0 else 16, true))))) ∧
  (∀ (t : Nat) (mode : Mode) (sat ftz : Bool) (y k : Nat), t < 16 → k < 256 →
    let v := if t ≤ 6 then readF (fmtOfCode t) (ftz && decide (t < 4)) y
      else let i := valOf (convInt t).2 (convInt t).1 y; .fin (decide (i < 0)) i.natAbs 0
    let r := unpackElem t mode sat ftz y k
    (k = 255 ∨ v.isNan = true → r = (0x7FC00000, if v.isSig then 1 else 0)) ∧
    (k ≠ 255 → (∀ n, v = .inf n → r = roundF fF32 mode sat ftz 0 v) ∧
      (∀ n m e, v = .fin n m e → r = roundF fF32 mode sat ftz 0 (.fin n m (e + ((k : Int) - 127)))))) ∧
  (∀ (mode : Mode) (fm : Fmt) (cv : FVal) (a b : Nat),
    let p := fun i => mulV (decodeF fm (byteN a i)) (decodeF fm (byteN b i))
    let has := fun (q : FVal → Bool) => q cv || (List.range 4).any (fun i => q (p i).1)
    let both := has (· == .inf true) && has (· == .inf false)
    let r := dotF mode fm cv a b
    r.2 = (if cv.isSig = true ∨ (List.range 4).any (fun i => (p i).2 == 1) = true ∨ both = true then 1 else 0) ∧
    (has (·.isNan) = true ∨ both = true → r.1 = .nan false) ∧
    (has (·.isNan) = false → both = false → ∀ n, has (· == .inf n) = true → r.1 = .inf n) ∧
    (∀ (n' : Bool) (m' : Nat) (e' : Int) (s : Nat → Bool) (m : Nat → Nat) (e : Nat → Int), cv = .fin n' m' e' →
      (∀ i < 4, (p i).1 = .fin (s i) (m i) (e i)) → ∃ n0 m0 e0, r.1 = .fin n0 m0 e0 ∧
        ∀ k, k ≤ e' → k ≤ e0 → (∀ i < 4, k ≤ e i) →
          r.1.units k = cv.units k + (p 0).1.units k + (p 1).1.units k + (p 2).1.units k + (p 3).1.units k))

/-- R222 and R223 over every code; R225 with its flags over every value. -/
def Obligations.Rounding : Prop :=
  (∀ fm ∈ [fF64, fF32, fF16, fBf16, fF8a, fF8b, fF4], ∀ x < 2 ^ fm.width,
    let neg := x.testBit (fm.eb + fm.pb)
    let ex : Nat := x / 2 ^ fm.pb % 2 ^ fm.eb
    let fr : Nat := x % 2 ^ fm.pb
    decodeF fm x =
      if ex = 2 ^ fm.eb - 1 ∧ fm.inf = true then (if fr = 0 then .inf neg else .nan (fm.sig && !fr.testBit (fm.pb - 1)))
      else if fm = fF8a ∧ ex = 15 ∧ fr = 7 then .nan false
      else if ex = 0 then .fin neg fr (1 - (fm.bias : Int) - fm.pb)
      else .fin neg (2 ^ fm.pb + fr) ((ex : Int) - fm.bias - fm.pb)) ∧
  (∀ fm ∈ [fF64, fF32, fF16, fBf16, fF8a, fF8b, fF4], ∀ (mode : Mode) (sat ftz : Bool) (u : Nat), u < 2 ^ 32 →
    let r := roundF fm mode sat ftz u
    let signed := fun (neg : Bool) (x : Nat) => if neg then x + 2 ^ (fm.eb + fm.pb) else x
    let past := fun (mode : Mode) (neg : Bool) =>
      if ¬ (mode = .rne ∨ mode = .rsr ∨ (mode = .rup ∧ neg = false) ∨ (mode = .rdn ∧ neg = true)) ∨ sat = true then signed neg fm.maxCode
      else if fm.inf then signed neg ((2 ^ fm.eb - 1) * 2 ^ fm.pb)
      else if fm = fF8a then 0x7F else signed neg 7
    (∀ x, (r x).1 < 2 ^ fm.width ∧ (r x).2 < 32) ∧
    (∀ q, r (.nan q) = if fm = fF4 then (0, 1) else (fm.nan.getD 0, 0)) ∧
    (∀ neg, r (.inf neg) = if fm.inf then (signed neg ((2 ^ fm.eb - 1) * 2 ^ fm.pb), 0) else (past .rne neg, 20)) ∧
    (∀ neg e, r (.fin neg 0 e) = (signed neg 0, 0)) ∧
    (∀ neg m (e : Int), m ≠ 0 →
      let k := max ((Nat.log2 m : Int) + e) fm.emin - fm.pb
      let x := (FVal.fin neg m e).units (min e k)
      let w := (k - e).toNat
      ∃ y, Selects mode u x w y ∧
        let v := FVal.fin neg y.natAbs k
        let top := decodeF fm fm.maxCode
        let beyond := ∀ j, j ≤ k → (∀ n m e, top = .fin n m e → j ≤ e) → top.units j < (FVal.fin false y.natAbs k).units j
        (beyond → r (.fin neg m e) = (past mode neg, 20)) ∧
        (¬ beyond → ftz = true → y ≠ 0 → (Nat.log2 y.natAbs : Int) + k < fm.emin → r (.fin neg m e) = (signed neg 0, 24)) ∧
        (¬ beyond → ¬ (ftz = true ∧ y ≠ 0 ∧ (Nat.log2 y.natAbs : Int) + k < fm.emin) →
          (∃ m' e', decodeF fm (r (.fin neg m e)).1 = .fin neg m' e' ∧
            ∀ j, j ≤ k → j ≤ e' → (FVal.fin neg m' e').units j = v.units j) ∧
          (r (.fin neg m e)).2 = if y * (2 ^ w : Nat) = x then 0 else if (Nat.log2 m : Int) + e < fm.emin then 24 else 16))) ∧
  (∀ fm ∈ [fF8a, fF8b, fF4], ∀ x < 256, x < 2 ^ fm.width → (decodeF fm x).isNan = false →
    ∀ mode ∈ [Mode.rne, .rtz, .rup, .rdn, .rsr], roundF fm mode false false 0 (decodeF fm x) = (x, 0))

/-- R318: every V register of every lane after XSECT. -/
def Obligations.Xsect : Prop :=
  (∀ (f : RRR) (s : State) (c : Ctx), ctxOf s f.g = some c → ¬ badPlace (shapeOf (.xsect f)) c →
    (feature s 3 = false ∨ (f.type ≠ 6 ∧ f.type ≠ 7) ∨ f.sa = true ∨ f.sb = true ∨ f.sc = true ∨ f.sd = true ∨ f.rnd ≠ 0 ∨
      f.sat = true ∨ f.func ≠ 0 ∨ c.g.nv ≤ f.c.toNat + 15 → exec (.xsect f) s = .next (trapAll s c .illegalOp (faultable c) [])) ∧
    (¬ badFields s (shapeOf (.xsect f)) c → f.a.toNat % 2 = 1 ∨ f.b.toNat % 2 = 1 →
      exec (.xsect f) s = .next (trapAll s c .pairAlign (faultable c) []))) ∧
  ∀ (f : RRR) (s : State) (c : Ctx), Runs (.xsect f) s c →
    let a := f.a.toNat
    let b := f.b.toNat
    let k := f.c.toNat
    let ones := fun (x i : Nat) => ((List.range i).filter (fun j => x.testBit j)).length
    let wa := fun l => rv c.g a l
    let wb := fun l => rv c.g (a + 1) l
    let hits := fun l => (List.range 32).filter (fun i => (wa l).testBit i && (wb l).testBit i)
    let byte := fun (n l r : Nat) => rv c.g (n + r / 4) l / 256 ^ (r % 4) % 256
    let gather := fun (n l : Nat) (x : Nat → Nat) (r : Nat) =>
      if r < (hits l).length then byte n l (ones (x l) ((hits l).getD r 0)) else 0
    let word := fun (n l : Nat) (x : Nat → Nat) (j : Nat) =>
      gather n l x (4 * j) + 2 ^ 8 * gather n l x (4 * j + 1) + 2 ^ 16 * gather n l x (4 * j + 2) +
        2 ^ 24 * gather n l x (4 * j + 3)
    ∃ u v, exec (.xsect f) s = .next (advance u c.pk) ∧ OnlyGang (counted s c) u c.gk ∧
      Map.find? u.gangs c.gk = some { c.g with v := v } ∧
      ∀ n l, l < 32 → rv { c.g with v := v } n l =
        if c.act.getLsbD l = false then rv c.g n l
        else if n = f.d.toNat then (hits l).length
        else if n = b + 1 then (rv c.g (b + 1) l + ones (wb l) 32) % 2 ^ 32
        else if n = b then (rv c.g b l + ones (wa l) 32) % 2 ^ 32
        else if k + 8 ≤ n ∧ n < k + 8 + ((hits l).length + 3) / 4 then word (k + 8) l wb (n - (k + 8))
        else if k ≤ n ∧ n < k + ((hits l).length + 3) / 4 then word k l wa (n - k)
        else rv c.g n l

/-- R322 to R325. MATCH's destination is one register whatever TYPE or a pair as log 15 declares. -/
def Obligations.CrossLane : Prop :=
  ∀ (f : XL) (s : State) (c : Ctx),
    let fn := f.fn.toNat
    let t := ityOf f.type
    let a := fun w l => src c.g f.sa f.a w l
    let D := fun (w : Nat) (v : Nat → Nat) =>
      ({ m := c.act, sd := f.sd, d := f.d.toNat, w := w, val := v } : Effect)
    let P := fun (e : Effect) (v : Nat → Bool) =>
      if f.px.toNat < 12 then { e with pn := some f.px.toNat, pval := v } else e
    let b := maskOf c.act (fun l => decide (a 1 l ≠ 0))
    let W := if fn / 4 % 4 = 0 then 32 else if fn / 4 % 4 = 1 then 16 else 8
    let k := fun l => src c.g f.sb f.b 1 l
    let seg := fun l => (lanes c.act).filter (fun j => decide (j / W = l / W))
    let p : Nat → Int := fun l =>
      if fn % 4 = 0 then (k l : Int)
      else if fn % 4 = 1 then (l % W : Nat) - sext 32 (k l)
      else if fn % 4 = 2 then ((l % W ^^^ k l : Nat) : Int)
      else (((seg l).getD ((((seg l).filter (fun j => decide (j < l))).length + k l) % (seg l).length) l % W : Nat) : Int)
    let from' := fun l => l / W * W + (p l).toNat
    let here := fun l => decide (0 ≤ p l ∧ p l < (W : Nat)) && c.act.getLsbD (from' l)
    let mw := if fn / 2 % 2 = 1 then fw f.type else iw f.type
    let same := fun l => maskOf c.act (fun j => decide (matchKeyOf f (a mw j) = matchKeyOf f (a mw l)))
    let comb := fun (ls : List Nat) => foldI t (fn % 8) (ls.map (a (iw f.type)))
    (Runs (.vote f) s c → Completes (.vote f) s c (P (D 1 (fun l =>
        if fn % 4 = 0 then b.toNat else if fn % 4 = 1 then popc b
        else if fn % 4 = 2 then popc (b &&& BitVec.ofNat 32 (2 ^ l - 1)) else lowLane b))
      (fun _ => if fn / 4 % 4 = 1 then decide (b = c.act) else if fn / 4 % 4 = 2 then decide (b ≠ 0)
        else decide (b = c.act ∨ b = 0)))) ∧
    (Runs (.shfl f) s c → Completes (.shfl f) s c (P (D (iw f.type) (fun l =>
        if here l = true then a (iw f.type) (from' l) else rvw c.g f.d.toNat l (iw f.type)))
      (fun l => !here l))) ∧
    (Runs (.matchKey f) s c → Completes (.matchKey f) s c
      (P (D mw (fun l => (same l).toNat)) (fun l => decide (lowLane (same l) = l)))) ∧
    (Runs (.scan f) s c → Completes (.scan f) s c (D (iw f.type) (fun l =>
      comb ((lanes c.act).filter (fun j => decide (j < l ∨ (j = l ∧ fn / 8 % 2 = 0))))))) ∧
    (Runs (.redi f) s c → Completes (.redi f) s c (D (iw f.type) (fun _ => comb (lanes c.act))))

/-- R325: the operations and their identities. -/
def Obligations.LaneFolds : Prop :=
  ∀ (code : BitVec 4) (vs : List Nat),
    let t := ityOf code
    (∀ v ∈ vs, v < 2 ^ t.w) →
    foldI t 0 vs = vs.sum % 2 ^ t.w ∧
    ((foldI t 1 vs ∈ vs ∨ vs = [] ∧ valOf t.sg t.w (foldI t 1 vs) = clampI t.sg t.w (2 ^ 70 : Nat)) ∧
      ∀ v ∈ vs, valOf t.sg t.w (foldI t 1 vs) ≤ valOf t.sg t.w v) ∧
    ((foldI t 2 vs ∈ vs ∨ vs = [] ∧ valOf t.sg t.w (foldI t 2 vs) = clampI t.sg t.w (-(2 ^ 70 : Nat))) ∧
      ∀ v ∈ vs, valOf t.sg t.w v ≤ valOf t.sg t.w (foldI t 2 vs)) ∧
    (∀ j < t.w, (foldI t 3 vs).testBit j = vs.all (fun v => v.testBit j) ∧
      (foldI t 4 vs).testBit j = vs.any (fun v => v.testBit j) ∧
      (foldI t 5 vs).testBit j = decide ((vs.filter (fun v => v.testBit j)).length % 2 = 1))

/-- R326, R327. -/
def Obligations.Reductions : Prop :=
  ∀ (f : XL) (s : State) (c : Ctx),
    let fn := f.fn.toNat
    let a := fun w l => src c.g f.sa f.a w l
    let fadd := fun (vs : List Nat) => tree (faddF (fmtOfCode f.type.toNat) (modeOf f.rnd) c.g.ftz) 6 vs
    let starts := fun l => (lanes c.act).filter (fun j => decide (j ≤ l) && rp c.g f.px.toNat j)
    let seg := fun l => (lanes c.act).filter (fun j => decide (starts j = starts l))
    let R := fun (i : Instr) (w : Nat) (r : Nat → Nat × Nat) =>
      Runs i s c → FloatDone i s c (fun l => (r l).2) (fun m =>
        { m := m, sd := f.sd, d := f.d.toNat, w := w, val := fun l => (r l).1, fl := fun l => BitVec.ofNat 6 (r l).2 })
    R (.redf f) (fw f.type) (fun _ => fadd ((lanes c.act).map (a (fw f.type)))) ∧
    R (.redx f) 2 (fun _ => tree dwadd 6 ((lanes c.act).map (a 2))) ∧
    (fn / 16 % 4 = 0 → Runs (.segred f) s c → Completes (.segred f) s c
      { m := c.act, sd := f.sd, d := f.d.toNat, w := iw f.type,
        val := fun l => foldI (ityOf f.type) (fn % 8) ((seg l).map (a (iw f.type))) }) ∧
    (fn / 16 % 4 = 1 → R (.segred f) (fw f.type) (fun l => fadd ((seg l).map (a (fw f.type))))) ∧
    (fn / 16 % 4 = 2 → R (.segred f) 2 (fun l => tree dwadd 6 ((seg l).map (a 2))))

/-- R278 to R281. -/
def Obligations.WaitsAndMarkers : Prop :=
  (∀ (f : XL) (s : State) (c : Ctx), Runs (.waitg f) s c → exec (.waitg f) s = .next (advance (counted s c) c.pk)) ∧
  (∀ (f : SYS) (s : State) (c : Ctx),
    let hint := fun (k : Nat) => { counted s c with
      paths := Map.put s.paths c.pk { c.p with clause := some { c.cl with yld := if c.cl.yld = 3 then 3 else k } } }
    let rec' := f.imm.toNat * 2 ^ 40 + c.pk / 512 * 2 ^ 33 + c.gk % 64 * 2 ^ 27 + c.pk % 512 * 2 ^ 18
    (Runs (.yieldp f) s c → exec (.yieldp f) s = .next (advance (if c.act = 0 then counted s c else hint 1) c.pk)) ∧
    (Runs (.sleep f) s c → exec (.sleep f) s = .next (advance (if c.act = 0 then counted s c else hint 3) c.pk)) ∧
    (Runs (.mark f) s c → exec (.mark f) s =
      .next (advance (if c.act = 0 then counted s c else markRecord (counted s c) rec') c.pk))) ∧
  (∀ (s : State) (r : Nat),
    let oid := s.mg.traceCtl.toNat / 2 ^ 24 % 2 ^ 24
    let cap := ringCap s oid 8
    let due := marksDue s .markNext
    let full := cap ≤ (s.mg.markNext - s.mg.markRead).toNat + due
    (s.mg.traceCtl.getLsbD 62 = false ∨ oid = 0 ∨ cap = 0 → markRecord s r = s) ∧
    (s.mg.traceCtl.getLsbD 62 = true → oid ≠ 0 → cap ≠ 0 → s.mg.traceCtl.getLsbD 61 = false → full →
      markRecord s r = { s with mg := { s.mg with markDrop := min 0xFFFF (s.mg.markDrop + 1) } }) ∧
    (s.mg.traceCtl.getLsbD 62 = true → oid ≠ 0 → cap ≠ 0 → (s.mg.traceCtl.getLsbD 61 = true ∨ ¬ full) →
      markRecord s r = devMark (devStore s (addrOf oid (8 * ((s.mg.markNext.toNat + due) % 2 ^ 32 % cap))) (leBytes 8 r)) .markNext) ∧
    (s.devQ = [] → s.peerOps = [] → devMark s .markNext = { s with mg := { s.mg with markNext := s.mg.markNext + 1 } })) ∧
  (∀ (f : RRR) (s : State) (c : Ctx),
    let x := fun l => src c.g f.sd f.d 1 l
    Runs (.loopd f) s c → Completes (.loopd f) s c {
      m := c.act, sd := f.sd, d := f.d.toNat, w := 1
      val := fun l => if x l = 0 then 0 else x l - 1
      pn := some f.func.toNat
      pval := fun l => decide (x l ≠ 0 ∧ x l - 1 ≠ 0) })

/-- R111, R112, R115, R118 for a transfer with one target: `ff` says that the falling-through lanes are taken first. -/
def Obligations.Transfers : Prop :=
  ∀ (s : State) (c : Ctx) (ff : Bool) (g : Target) (m : Mask), Map.find? s.paths c.pk = some c.p →
    c.p.clause = some c.cl → c.p.rett = none →
    let q := clauseEnd c.p c.cl
    let fall := c.p.mask &&& ~~~ m
    let there : Path := { q with
      pc := BitVec.ofNat 64 g.pc, mask := m, depth := g.depth, stray := g.stray, vectored := true, rett := none }
    let stays : Path := { q with mask := fall, stray := false, vectored := true, rett := none }
    let numbered := fun (x : Path) (n : Nat) => { x with prog := q.prog.fork n }
    let u := s.nextUid
    let first := numbered (if ff then stays else there) u
    let second := numbered (if ff then there else stays) (u + 1)
    let t := transferOr s c ff ((lanes m).map (fun l => (l, g)))
    (m = 0 → c.p.mask ≠ 0 → c.p.parked = none →
      t = { s with paths := t.paths } ∧ Map.find? t.paths c.pk = some q ∧
      ∀ k, k ≠ c.pk → Map.find? t.paths k = Map.find? s.paths k) ∧
    (m ≠ 0 → fall = 0 → t = { s with paths := t.paths, nextUid := u + 1 } ∧ Map.find? t.paths c.pk = some there ∧
      ∀ k, k ≠ c.pk → Map.find? t.paths k = Map.find? s.paths k) ∧
    (∀ n, m ≠ 0 → fall ≠ 0 → splitFits s c.pk 2 = true → freePath s (c.pk / 512) = some n →
      t = { s with paths := t.paths, ctrs := t.ctrs, nextUid := u + 2 } ∧ Map.find? t.paths c.pk = some first ∧
      Map.find? t.paths n = some { second with
        defer := [], parked := none, slot := none, urgent := none, swapHint := false, claimed := none } ∧
      ∀ k, k ≠ c.pk → k ≠ n → Map.find? t.paths k = Map.find? s.paths k) ∧
    (m ≠ 0 → fall ≠ 0 → splitFits s c.pk 2 = true → freePath s (c.pk / 512) = none →
      t = { s with paths := t.paths, ctrs := t.ctrs, nextUid := u + 2 } ∧
      (∃ d, Map.find? t.paths c.pk = some { second with defer := d :: c.p.defer } ∧ d.pc = first.pc ∧ d.mask = first.mask ∧
        d.depth = first.depth ∧ d.clause = none ∧ d.wait = .none ∧ d.kind = c.p.kind ∧ d.parked = none ∧ d.trap = c.p.trap ∧
        d.stray = first.stray ∧ d.arrived = none ∧ d.prog = first.prog) ∧
      ∀ k, k ≠ c.pk → Map.find? t.paths k = Map.find? s.paths k) ∧
    (m ≠ 0 → fall ≠ 0 → splitFits s c.pk 2 = false →
      t = (takeTrap s (c.site 0 [] true) (allLanes c.p.mask .pathLimit)).1)

/-- R272 to R274, R276: the target, the depth and the link of each transfer. -/
def Obligations.Branches : Prop :=
  ∀ (f : BR) (s : State) (c : Ctx),
    let h := c.cl.hdr.toNat
    let o : Int := (h % 2 ^ 40 : Nat) + 8 * sext 32 f.off.toNat
    let target := h / 2 ^ 40 % 2 ^ 24 * 2 ^ 40 + (o % (2 ^ 40 : Nat)).toNat
    let out := decide (o < 0 ∨ (2 ^ 40 : Nat) ≤ o)
    let after := c.cl.hdr + BitVec.ofNat 64 (8 * (c.cl.n + 2))
    let u := counted s c
    let left := noteExit u c (leave u c.gk c.act)
    let all := fun (d : Nat) => (lanes c.act).map (fun l => (l, ({ pc := target, depth := d, stray := out } : Target)))
    (Runs (.bra f) s c → exec (.bra f) s = .next (transferOr u c true (all c.p.depth))) ∧
    (Runs (.call f) s c → c.act ≠ 0 → 65535 ≤ c.p.depth →
      exec (.call f) s = .next (takeTrap u (c.site 0 [] true) (allLanes c.p.mask .pathLimit)).1) ∧
    (Runs (.call f) s c → (c.act = 0 ∨ c.p.depth < 65535) →
      (c.p.rett.isSome = true ∨ splitFits u c.pk (sideCount c.p (all (c.p.depth + 1))) = true) →
      ∃ v, exec (.call f) s = .next (transfer v c true (all (c.p.depth + 1))) ∧
        Writes u v c { m := c.act, d := f.d.toNat, w := 2, val := fun _ => after.toNat }) ∧
    (Runs (.call f) s c → (c.act = 0 ∨ c.p.depth < 65535) → c.p.rett = none →
      splitFits u c.pk (sideCount c.p (all (c.p.depth + 1))) = false →
      exec (.call f) s = .next (takeTrap u (c.site 0 [] true) (allLanes c.p.mask .pathLimit)).1) ∧
    (Runs (.ret f) s c → c.p.depth = 0 → exec (.ret f) s = .next (trapShape s (shapeOf (.ret f)) c .illegalOp (faultable c))) ∧
    (Runs (.ret f) s c → c.p.depth ≠ 0 → exec (.ret f) s = .next (transferOr u c false
      ((lanes c.act).map (fun l => (l, { pc := rvw c.g f.a.toNat l 2, depth := c.p.depth - 1, stray := false }))))) ∧
    (Runs (.exit f) s c → c.p.mask &&& ~~~ c.act = 0 → exec (.exit f) s = .next left) ∧
    (Runs (.exit f) s c → c.p.mask &&& ~~~ c.act ≠ 0 →
      exec (.exit f) s = .next (onPath (endClause left c.pk) c.pk rejoin)) ∧
    (∃ x, left = { leave u c.gk c.act with exits := x }) ∧
    (Runs (.exit f) s c → ∃ g, Map.find? (leave u c.gk c.act).gangs c.gk = some g ∧
      g.live = c.g.live &&& ~~~ c.act ∧ g.killed = c.g.killed)

/-- R275: the checks, the target word, and the transfer. `first` is what R151 gives up to its alignment test, which an address with its
low bit set never passes. That an entry is read when the instruction issues is the model's (log 16). -/
def Obligations.IndexedBranches : Prop :=
  ∀ (f : RRR) (s : State) (c : Ctx),
    let u := counted s c
    let w := fun (l : Nat) => { c.whoAt l with use := .targets }
    let base := rsw c.g f.b.toNat 2
    let ea := fun l => base + 16 * opA f c 1 l
    let op := peerOpOf u c
    let bad : Nat → Option TrapCode := fun l => match op l with
      | some o => if o.fail.isSome then some .remoteLost else none
      | none =>
        let near := oidOf (ea l) = oidOf base
        let first := check u (w l) ((if near then ea l else base) / 8 * 8 + 1) 8 .read
        if base % 16 ≠ 0 then first
        else if near then check u (w l) (ea l) 8 .read
        else if first = some .align then some .bounds
        else first
    let there : Nat → Prop := fun l => match op l with
      | some o => o.answer.isSome = true ∨ o.fail.isSome = true
      | none => bad l ≠ none ∨ peerHome u (c.whoAt l) (ea l % 2 ^ 64) = none
    let value := fun (l : Nat) => match op l with
      | some o => leNat ((o.answer.getD []).take 8)
      | none => loadLoc u (locate u (c.whoAt l) (ea l % 2 ^ 64)) 8
    let good := (lanes c.act).filter (fun l => decide (bad l = none))
    let fs := (lanes c.act).filterMap (fun l => (bad l).map (fun b => ({ lane := l, code := b, addr := ea l % 2 ^ 64 } : LaneFault)))
    let ts := fun (d : Nat) => good.map (fun l => (l, ({ pc := value l, depth := d, stray := false } : Target)))
    let read := fun (t : State) =>
      t = { u with paths := t.paths, ctrs := t.ctrs, xlats := t.xlats, peerOps := t.peerOps } ∧
      (∃ g, Map.find? t.paths c.pk = some { c.p with prog := g }) ∧ ∀ k, k ≠ c.pk → Map.find? t.paths k = Map.find? u.paths k
    let after := (c.cl.hdr + BitVec.ofNat 64 (8 * (c.cl.n + 2))).toNat
    let deep := c.act ≠ 0 ∧ 65535 ≤ c.p.depth
    let two := [(Instr.brx f, c.p.depth), (.callx f, c.p.depth + 1)]
    (Runs (.brx f) s c → (∀ l ∈ lanes c.act, there l ∧ bad l = none) →
      ∃ t, exec (.brx f) s = .next (transferOr t c false (ts c.p.depth)) ∧ read t) ∧
    (Runs (.callx f) s c → (∀ l ∈ lanes c.act, there l ∧ bad l = none) → ¬ deep →
      (c.p.rett.isSome = true ∨ splitFits u c.pk (sideCount c.p (ts (c.p.depth + 1))) = true) →
      ∃ t v, exec (.callx f) s = .next (transfer v c false (ts (c.p.depth + 1))) ∧ read t ∧
        Writes t v c { m := c.act, d := f.d.toNat, w := 2, val := fun _ => after }) ∧
    (Runs (.callx f) s c → (∀ l ∈ lanes c.act, there l ∧ bad l = none) → ¬ deep → c.p.rett = none →
      splitFits u c.pk (sideCount c.p (ts (c.p.depth + 1))) = false →
      ∃ t, exec (.callx f) s = .next (takeTrap t (c.site 0 [] true) (allLanes c.p.mask .pathLimit)).1 ∧ read t) ∧
    (Runs (.callx f) s c → deep →
      exec (.callx f) s = .next (takeTrap u (c.site 0 [] true) (allLanes c.p.mask .pathLimit)).1) ∧
    (∀ i ∈ two, Runs i.1 s c → (i.1 = .callx f → ¬ deep) → (∀ l ∈ lanes c.act, there l) → fs ≠ [] →
      ∃ t extra, read t ∧
        let r := takeTrap t (c.site 0 extra true) fs
        let p := pathAt r.1 c.pk
        let fits := p.rett.isSome = true ∨ splitFits r.1 c.pk (sideCount p (ts i.2)) = true
        (r.2 = false → exec i.1 s = .next r.1) ∧
        (r.2 = true → (i.1 = .brx f ∨ ¬ fits) → exec i.1 s = .next (transferOr r.1 c false (ts i.2))) ∧
        (r.2 = true → i.1 = .callx f → fits → exec i.1 s = .next (transfer
          (onGang r.1 c.gk (fun g => putD g false f.d 2 (maskOf c.act (fun l => decide (bad l = none))) (fun _ => after)))
          c false (ts i.2)))) ∧
    (∀ i ∈ two, Runs i.1 s c → (i.1 = .callx f → ¬ deep) → (∃ l ∈ lanes c.act, ¬ there l) →
      ∃ t x, exec i.1 s = .next t ∧ (x = .peer ∨ ∃ n, x = .zport n) ∧ t.mem = s.mem ∧ t.gangs = s.gangs ∧
        Map.find? t.paths c.pk = some { c.p with wait := x })

/-- R383, R384, and the vectoring of R142. -/
def Obligations.TrapInstructions : Prop :=
  (∀ (f : SYS) (s : State) (c : Ctx),
    let u := counted s c
    let noted := fun (sel : Nat) (km : Mask) =>
      advance { u with paths := Map.put s.paths c.pk { c.p with rett := some (sel, km) } } c.pk
    let out := trapAll u c .illegalOp c.p.mask []
    (Runs (.trap f) s c → exec (.trap f) s = .next
      (if c.act = 0 then advance u c.pk else trapAll u c .user c.act [BitVec.ofNat 32 f.imm.toNat])) ∧
    (Runs (.brk f) s c → exec (.brk f) s = .next
      (if c.act = 0 then advance u c.pk else trapAll u c .brk c.act [BitVec.ofNat 32 f.imm.toNat])) ∧
    (Runs (.rett f) s c → exec (.rett f) s = .next (if c.p.trap.isSome then noted 0 0 else out)) ∧
    (Runs (.rettSkip f) s c → exec (.rettSkip f) s = .next
      (if c.p.trap.any (fun t => t.clause.isSome) then noted 1 0 else out)) ∧
    (Runs (.rettKill f) s c → exec (.rettKill f) s = .next (if c.p.trap.isSome then noted 2 0 else out)) ∧
    (Runs (.rettKillg f) s c → exec (.rettKillg f) s = .next (if c.p.trap.isSome then noted 3 0 else out)) ∧
    (Runs (.rettSel f) s c → exec (.rettSel f) s = .next
      (if c.p.trap.isSome then noted 4 (maskOf c.act (fun l => decide (rv c.g f.a.toNat l ≠ 0))) else out))) ∧
  (∀ (s : State) (k : Nat) (p : Path), s.mg.tripped = false → Map.find? s.paths k = some p → p.vectored = false →
    p.wait = .none →
    exec (.handlerVector k) s = .next { s with
      paths := Map.put s.paths k { p with pc := handlerPc s p, vectored := true, stray := false } }) ∧
  (∀ (s : State) (p : Path),
    let r := runAt s (crewAt s (gangAt s p.gang).crew).run
    (p.kind ≠ .sup → handlerPc s p = BitVec.ofNat 64 (r.lr.code * 2 ^ 40 + r.lr.handler)) ∧
    (∀ t, p.kind = .sup → p.trap = some t →
      let h := if t.code = .pageHost then s.mg.phHndl else s.mg.ftHndl
      handlerPc s p = BitVec.ofNat 64 (h.toNat % 2 ^ 24 * 2 ^ 40 + h.toNat / 2 ^ 32)))

/-- R384 and the rejoining of R142. What `again` says is the model's reading (log 11). -/
def Obligations.ReturnFromTrap : Prop :=
  ∀ (s : State) (k : Nat) (p : Path) (t : TrapRec), Map.find? s.paths k = some p → p.trap = some t →
    let back : Path := { p with
      kind := .ordinary, trap := none, rett := none, issued := 0, pc := if t.clause.isSome then t.pc else t.hdr
      clause := t.clause, stray := if t.clause.isSome then p.stray else t.stray }
    let again : Path := { back with noWatch := true, again := if t.clause.isSome then t.met || p.parked.isSome else p.again }
    let past : Path := { back with noWatch := false, again := if t.clause.isSome then false else p.again }
    let skip : Path := { past with pc := (nextPos back).1, clause := (nextPos back).2 }
    let u := { s with nextUid := s.nextUid + 1 }
    (∀ km, returnFrom s k 3 km = kill s p.gang (gangAt s p.gang).live t.code) ∧
    (∀ km, returnFrom s k 2 km = kill s p.gang p.mask t.code) ∧
    (∀ km, p.mask ≠ 0 → p.parked = none → returnFrom s k 0 km = setPath s k again) ∧
    (∀ km, p.mask ≠ 0 → p.parked = none → returnFrom s k 1 km = setPath s k skip) ∧
    (∀ km, p.parked = none → returnFrom s k 4 km =
      if p.mask &&& ~~~ km = 0 then kill s p.gang (km &&& p.mask) t.code
      else setPath (kill s p.gang (km &&& p.mask) t.code) k { again with mask := p.mask &&& ~~~ km }) ∧
    (∀ km d, p.mask ≠ 0 → p.parked = some d →
      let joined := fun (x : Path) => { x with
        mask := p.mask ||| d.mask, parked := none, prog := p.prog.join d.prog s.nextUid }
      returnFrom s k 0 km = setPath u k (if d.xfer then { joined again with again := false, limit := none } else again) ∧
      returnFrom s k 1 km = setPath u k
        (if d.xfer then { joined past with again := false, limit := some d.mask } else joined skip)) ∧
    (∀ q c, p.clause = some c → c.n ≤ c.slot → p.rett = some q →
      endClause s k = returnFrom (setPath s k (clauseEnd p c)) k q.1 q.2)

/-- R121, R382, R388. -/
def Obligations.SpecialRegisters : Prop :=
  ∀ (f : SYS) (s : State) (c : Ctx),
    let u := counted s c
    let sel := f.sel.toNat
    let x := fun l => src c.g f.sa f.a 1 l
    let cell := if f.imm.getLsbD 6 then 0x10000 + 64 * dieOf s (c.pk / 512) + f.imm.toNat % 64
      else 16 * (c.pk / 512) + f.imm.toNat % 64
    (Runs (.sysr f) s c → Completes (.sysr f) s c {
      m := c.act, sd := f.sd, d := f.d.toNat, w := if sel = 9 then 2 else 1
      val := itemOf u c sel }) ∧
    (∀ l, itemOf u c 0 l = l ∧ itemOf u c 1 l = c.p.mask.toNat ∧ itemOf u c 2 l = c.g.live.toNat ∧
      itemOf u c 3 l = popc c.p.mask ∧ itemOf u c 4 l = c.g.no ∧ itemOf u c 5 l = (crewAt s c.ck).no ∧
      itemOf u c 6 l = c.ck % 16 ∧ itemOf u c 7 l = c.pk / 512 ∧
      (∀ j < 6, (itemOf u c 8 l).testBit j = (lanes c.act).any (fun i => (rfl' c.g i).getLsbD j)) ∧
      (itemOf u c 8 l).testBit 8 = c.g.scopeMiss ∧ (∀ n, itemOf u c (0x30 + n) l = rvh c.g n l) ∧
      (c.p.trap = none → ∀ n < 0x27, itemOf u c (9 + n) l = 0)) ∧
    (∀ t l, c.p.trap = some t → itemOf u c 9 l = faddrOf t l ∧
      ∀ n < 32, itemOf u c (0x10 + n) l = leNat (((trapBytes t).drop (4 * n)).take 4)) ∧
    (Runs (.sysw f) s c → sel = 8 → ∃ v fl, exec (.sysw f) s = .next (advance v c.pk) ∧ OnlyGang u v c.gk ∧
      Map.find? v.gangs c.gk = some { c.g with
        flags := fl, scopeMiss := if c.act = 0 then c.g.scopeMiss else (x (lowLane c.act)).testBit 8 } ∧
      ∀ l, l < 32 → rfl' { c.g with flags := fl } l =
        if c.act.getLsbD l then BitVec.ofNat 6 (x l) else rfl' c.g l) ∧
    (Runs (.sysw f) s c → sel ≠ 8 → ∃ v vh, exec (.sysw f) s = .next (advance v c.pk) ∧ OnlyGang u v c.gk ∧
      Map.find? v.gangs c.gk = some { c.g with vh := vh } ∧
      ∀ n l, l < 32 → rvh { c.g with vh := vh } n l =
        if c.act.getLsbD l = true ∧ n = sel - 0x30 then x l % 2 ^ 32 else rvh c.g n l) ∧
    (Runs (.ctrrd f) s c → Completes (.ctrrd f) s c {
      m := c.act, sd := f.sd, d := f.d.toNat, w := 2
      val := fun _ => (ctrAt u cell).count.toNat })

/-- R385 to R387. That MAPPG maps at issue and OBJSET's size is judged modulo 2^41 are the model's (log 28). -/
def Obligations.ObjectTableInstructions : Prop :=
  ∀ (f : SYS) (s : State) (c : Ctx),
    let u := counted s c
    let a := fun l => src c.g f.sa f.a 2 l
    let low := a (lowLane c.act)
    let mapped := (lanes c.act).foldl (fun (t : List RegWrite × State) l =>
      (t.1 ++ vWrites f.d.toNat l 1 (mapTouch t.2 (dieOf u (c.pk / 512)) (a l)).1,
        (mapTouch t.2 (dieOf u (c.pk / 512)) (a l)).2)) ([], u)
    let idle := ∀ o ∈ c.g.ops, o.id ∉ c.p.prog.ops
    let made := fun (v : State) (id : Nat) => advance (addOp v c c.act
      (.writes ((lanes c.act).flatMap (fun l => vWrites f.d.toNat l 1 id))) [f.d.toNat] [] [] false) c.pk
    let w := c.whoAt (lowLane c.act)
    let bs := loadBytes u w low 64
    let here := peerOpOf u c (lowLane c.act) = none ∧ peerHome u w low = none ∧
      ∀ i < 8, check u { w with noWatch := true } (low + 8 * i) 8 .read = none
    let read := fun (t : State) => t = { u with paths := t.paths, ctrs := t.ctrs, xlats := t.xlats, peerOps := t.peerOps } ∧
      (∃ g, Map.find? t.paths c.pk = some { c.p with prog := g }) ∧ ∀ k, k ≠ c.pk → Map.find? t.paths k = Map.find? u.paths k
    let id := oidOf low
    let named := 1 < id ∧ id ≠ aliasId ∧ id ≠ plainId ∧ id < s.mg.objtCnt ∧ memNat s (entryAddr s id + 8) 1 ≠ 0
    let set := fun (off : Nat) (x : List Byte) =>
      let v := putEntry u id off x
      advance { v with shoots := v.shoots ++ [{ oid := id, who := .lanes c.gk c.p.mask }] } c.pk
    (Runs (.mappg f) s c → c.act = 0 → exec (.mappg f) s = .next (advance u c.pk)) ∧
    (Runs (.mappg f) s c → c.act ≠ 0 → (∀ l ∈ lanes c.act, migrating u (a l) = false) → ¬ idle →
      exec (.mappg f) s = .next (waitFor u c .flush)) ∧
    (Runs (.mappg f) s c → c.act ≠ 0 → (∀ l ∈ lanes c.act, migrating u (a l) = false) → idle →
      exec (.mappg f) s =
        .next (advance (addOp mapped.2 c c.act (.writes mapped.1) [f.d.toNat] [] [] false) c.pk)) ∧
    (Runs (.objnew f) s c → c.act = 0 → exec (.objnew f) s = .next (advance u c.pk)) ∧
    (Runs (.objnew f) s c → c.act ≠ 0 → idle → here → ∃ t, read t ∧
      (∀ o, templateBad u bs = some o → exec (.objnew f) s = .next (trapAll t c .illegalOp c.act [BitVec.ofNat 32 o])) ∧
      (templateBad u bs = none → freeId u = none → exec (.objnew f) s = .next (made t 0)) ∧
      ∀ n, templateBad u bs = none → freeId u = some n →
        let v := putEntry (shootDown t n) n 0
          (bs.take 11 ++ leBytes 1 (leNat ((bs.drop 11).take 1) % 2) ++ (bs.drop 12).take 36 ++ leBytes 16 0)
        exec (.objnew f) s = .next (made
          (if (bs.getD 8 0).toNat = 2 then initGraph v n (leNat ((bs.drop 52).take 4)) else v) n)) ∧
    (Runs (.objsetSize f) s c → c.act ≠ 0 → named → idle →
      let x := src c.g f.sd f.d 2 (lowLane c.act) % 2 ^ 41
      exec (.objsetSize f) s = .next (if x ≤ 2 ^ 40 then set 0 (leBytes 8 x) else trapAll u c .illegalOp c.act [])) ∧
    (Runs (.objsetPerm f) s c → c.act ≠ 0 → named → idle → exec (.objsetPerm f) s = .next
      (set 9 (leBytes 1 (src c.g f.sd f.d 1 (lowLane c.act) % 16)))) ∧
    (Runs (.objsetCtab f) s c → c.act ≠ 0 → named → idle →
      let x := src c.g f.sd f.d 1 (lowLane c.act) % 2 ^ 24
      let e := entryOf u x
      exec (.objsetCtab f) s = .next (if x = 0 ∨ (e.ok = true ∧ e.kind = 1 ∧ 128 ≤ e.size) then set 12 (leBytes 4 x)
        else trapAll u c .illegalOp c.act [])) ∧
    (Runs (.objsetUnpois f) s c → c.act ≠ 0 → named → idle → exec (.objsetUnpois f) s = .next
      (set 11 (leBytes 1 ((entryOf u id).flags - if (entryOf u id).flags.testBit 1 then 2 else 0)))) ∧
    (Runs (.objsetDirty f) s c → c.act ≠ 0 → named → idle →
      let x := src c.g f.sd f.d 2 (lowLane c.act)
      exec (.objsetDirty f) s = .next (if x % 8 = 0 ∧ ((entryOf u id).home = 2 → x = 0) then set 40 (leBytes 8 x)
        else trapAll u c .illegalOp c.act [])) ∧
    (Runs (.objsetPerm f) s c → c.act ≠ 0 → ¬ named →
      exec (.objsetPerm f) s = .next (uniFault u c .objectInvalid low 1 [])) ∧
    (∀ i ∈ [Instr.objsetSize f, .objsetPerm f, .objsetCtab f, .objsetUnpois f, .objsetDirty f],
      Runs i s c → c.act = 0 → exec i s = .next (advance u c.pk))

/-- R342 to R345. That the bytes are those at the home point when the instruction issues is the model's (log 16). -/
def Obligations.Loads : Prop :=
  ∀ (f : MEM) (s : State) (c : Ctx),
    let k := 2 ^ f.size.toNat
    let u := counted s c
    let base := fun (sb : Bool) (l : Nat) => if sb then rsw c.g f.a.toNat 2 else rvw c.g f.a.toNat l 2
    let o : Bool → Bool → Nat → Int := fun sb st l =>
      (base sb l % 2 ^ 40 : Nat) + sext 16 f.off.toNat * (k : Nat) + (if st then (k * l : Nat) else 0)
    let ea := fun (sb st : Bool) (l : Nat) => base sb l / 2 ^ 40 % 2 ^ 24 * 2 ^ 40 + (o sb st l % (2 ^ 40 : Nat)).toNat
    let span := fun (sb st : Bool) (l : Nat) => decide (0 ≤ o sb st l ∧ o sb st l < (2 ^ 40 : Nat))
    let op := peerOpOf u c
    let bad : Bool → Bool → Nat → Option TrapCode := fun sb st l => match op l with
      | some p => if p.fail.isSome then some .remoteLost else none
      | none => if span sb st l then check u (c.whoAt l) (ea sb st l) k .read else some .bounds
    let there : Bool → Bool → Nat → Prop := fun sb st l => match op l with
      | some p => p.answer.isSome = true ∨ p.fail.isSome = true
      | none => bad sb st l ≠ none ∨ peerHome u (c.whoAt l) (ea sb st l) = none
    let value := fun (sb st : Bool) (l : Nat) => match op l with
      | some p => leNat ((p.answer.getD []).take k)
      | none => loadLoc u (locate u (c.whoAt l) (ea sb st l)) k
    let held := fun (v : State) (ops : List LaneOp) =>
      v.mem = s.mem ∧ v.plain = s.plain ∧ v.hostMem = s.hostMem ∧ v.acc = s.acc ∧
      (∀ j, j ≠ c.gk → Map.find? v.gangs j = Map.find? s.gangs j) ∧
      ∃ miss, Map.find? v.gangs c.gk = some { c.g with
        ops := c.g.ops ++ ops, nextOp := c.g.nextOp + ops.length, scopeMiss := miss }
    let after := c.p.prog.ops.filter (fun n => c.g.ops.any (fun o => o.id == n))
    let one := fun (m : Mask) (ws : List RegWrite) (dv ds : List Nat) =>
      ({ id := c.g.nextOp, path := c.pk, mask := m, uid := c.cl.uid, sets := c.cl.sets, body := .writes ws,
         dv := dv, ds := ds, dp := [], store := false, after := after, cur := none } : LaneOp)
    let regs := (List.range (regsOf k)).map (f.d.toNat + ·)
    (∀ p ∈ [(Instr.ldV f, false), (.ldS f, true)], Runs p.1 s c → (∀ l ∈ lanes c.act, there p.2 p.2 l) →
      let good := (lanes c.act).filter (fun l => decide (bad p.2 p.2 l = none))
      let fs := (lanes c.act).filterMap (fun l =>
        (bad p.2 p.2 l).map (fun b => ({ lane := l, code := b, addr := ea p.2 p.2 l } : LaneFault)))
      let ws := good.flatMap (fun l => vWrites f.d.toNat l (regsOf k) (value p.2 p.2 l))
      ∃ v extra, exec p.1 s = .next (settle v c fs 0 extra) ∧
        held v (if good = [] then [] else
          [one (maskOf c.act (fun l => decide (bad p.2 p.2 l = none))) ws regs []]) ∧
        ((∀ l ∈ lanes c.act, bad p.2 p.2 l = none) → settle v c fs 0 extra = advance v c.pk)) ∧
    (∀ p ∈ [(Instr.ldV f, false), (.ldS f, true)], Runs p.1 s c → (∃ l ∈ lanes c.act, ¬ there p.2 p.2 l) →
      ∃ t w, exec p.1 s = .next t ∧ (w = .peer ∨ ∃ n, w = .zport n) ∧ t.mem = s.mem ∧ t.gangs = s.gangs ∧
        Map.find? t.paths c.pk = some { c.p with wait := w }) ∧
    (Runs (.ldc f) s c → c.act = 0 → exec (.ldc f) s = .next (advance u c.pk)) ∧
    (Runs (.ldc f) s c → c.act ≠ 0 → there true false (lowLane c.act) →
      let l := lowLane c.act
      (bad true false l = none → ∃ v, exec (.ldc f) s = .next (advance v c.pk) ∧
        held v [one c.act (sWrites f.d.toNat (regsOf k) (value true false l)) [] regs]) ∧
      (∀ b, bad true false l = some b → ∃ v extra, exec (.ldc f) s = .next (settle v c
        ((lanes c.act).map (fun j => { lane := j, code := b, addr := ea true false l })) 0 extra) ∧ held v [])) ∧
    (Runs (.prefV f) s c → exec (.prefV f) s = .next (advance u c.pk)) ∧
    (Runs (.prefS f) s c → exec (.prefS f) s = .next (advance u c.pk))

/-- R343. That a store is performed when it issues is the model's (log 16), which lane's value stands is free (log 5). -/
def Obligations.Stores : Prop :=
  ∀ (f : MEM) (s : State) (c : Ctx),
    let k := 2 ^ f.size.toNat
    let u := counted s c
    let base := fun (sb : Bool) (l : Nat) => if sb then rsw c.g f.a.toNat 2 else rvw c.g f.a.toNat l 2
    let o : Bool → Bool → Nat → Int := fun sb st l =>
      (base sb l % 2 ^ 40 : Nat) + sext 16 f.off.toNat * (k : Nat) + (if st then (k * l : Nat) else 0)
    let ea := fun (sb st : Bool) (l : Nat) => base sb l / 2 ^ 40 % 2 ^ 24 * 2 ^ 40 + (o sb st l % (2 ^ 40 : Nat)).toNat
    let span := fun (sb st : Bool) (l : Nat) => decide (0 ≤ o sb st l ∧ o sb st l < (2 ^ 40 : Nat))
    ∀ p ∈ [(Instr.stV f, false), (.stS f, true)], Runs p.1 s c → (∀ l ∈ lanes c.act, peerOpOf u c l = none) →
      (f.ord = 2 → releaseWait u c = none) →
      let a := ea p.2 p.2
      let bad := fun l => if span p.2 p.2 l then check u (c.whoAt l) (a l) k .write else some .bounds
      let good := (lanes c.act).filter (fun l => decide (bad l = none))
      let fs := (lanes c.act).filterMap (fun l => (bad l).map (fun b =>
        ({ lane := l, code := b, addr := a l } : LaneFault)))
      let loc := fun l => locate u (c.whoAt l) (a l)
      let val := fun l => rvn c.g f.b.toNat l (regsOf k)
      (∀ l ∈ good, migrating u (a l) = true →
        ∃ oid, exec p.1 s = .next (waitFor u c (.migration oid))) ∧
      ((∀ l ∈ good, migrating u (a l) = false ∧ peerHome u (c.whoAt l) (a l) = none ∧ loc l ≠ .none) →
        ∃ v extra, exec p.1 s = .next (settle v c fs 1 extra) ∧ v.acc = s.acc ∧
          (∃ g, Map.find? v.paths c.pk = some { c.p with prog := { c.p.prog with ops := g } }) ∧
          (∀ j, j ≠ c.pk → Map.find? v.paths j = Map.find? s.paths j) ∧
          ((∀ l ∈ lanes c.act, bad l = none) → settle v c fs 1 extra = advance v c.pk) ∧
          (∀ j, j ≠ c.gk → Map.find? v.gangs j = Map.find? s.gangs j) ∧
          (∃ ops n, Map.find? v.gangs c.gk = some { c.g with ops := ops, nextOp := n }) ∧
          (∀ x, (∀ l ∈ good, ∀ i < k, x ≠ (loc l).plus i) → readByte v x = readByte u x) ∧
          ∀ l ∈ good,
            (∀ j ∈ good, (canon u c.who (a j) = canon u c.who (a l) ∧ loc j = loc l) ∨
              (canon u c.who (a j) ≠ canon u c.who (a l) ∧
                ∀ i i', i < k → i' < k → (loc j).plus i ≠ (loc l).plus i')) →
            ∀ half, 8 * half < k → ∃ j ∈ good, loc j = loc l ∧ ∀ i < min k 8,
              readByte v ((loc l).plus (8 * half + i)) = BitVec.ofNat 8 (val j / 256 ^ (8 * half + i)))

/-- R347 to R350. That an atomic is performed when it issues is the model's (log 16). -/
def Obligations.Atomics : Prop :=
  (∀ (f : MEM) (s : State) (c : Ctx),
    let k := 2 ^ f.size.toNat
    let u := counted s c
    let base := fun (sb : Bool) (l : Nat) => if sb then rsw c.g f.a.toNat 2 else rvw c.g f.a.toNat l 2
    let o : Bool → Bool → Nat → Int := fun sb st l =>
      (base sb l % 2 ^ 40 : Nat) + sext 16 f.off.toNat * (k : Nat) + (if st then (k * l : Nat) else 0)
    let ea := fun (sb st : Bool) (l : Nat) => base sb l / 2 ^ 40 % 2 ^ 24 * 2 ^ 40 + (o sb st l % (2 ^ 40 : Nat)).toNat
    let span := fun (sb st : Bool) (l : Nat) => decide (0 ≤ o sb st l ∧ o sb st l < (2 ^ 40 : Nat))
    let n := regsOf k
    let b := fun l => rvn c.g f.b.toNat l n % 2 ^ (8 * k)
    let cmp := fun l => rvn c.g f.d.toNat l n % 2 ^ (8 * k)
    ∀ p ∈ [(Instr.aadd f, AtomOp.add), (.amin f, .min), (.amax f, .max), (.aand f, .and), (.aor f, .or), (.axor f, .xor),
      (.axchg f, .xchg), (.acas f, .cas), (.acas2 f, .cas), (.afadd f, .fadd), (.amaxe f, .maxe)], Runs p.1 s c →
      (f.ord.getLsbD 1 = true → releaseWait u c = none) →
      let a := ea false false
      let loc := fun l => locate u (c.whoAt l) (a l)
      let onHost := fun l => match loc l with
        | .host _ => true
        | _ => false
      let bad : Nat → Option TrapCode := fun l =>
        if span false false l then
          match check u (c.whoAt l) (a l) k .atomic with
          | some e => some e
          | none =>
            if onHost l && (!(p.2 == .add || p.2 == .xchg || p.2 == .cas) || Config.hostRefuses s.tick (a l)) then
              some .objectInvalid
            else none
        else some .bounds
      let good := (lanes c.act).filter (fun l => decide (bad l = none))
      let fs := (lanes c.act).filterMap (fun l => (bad l).map (fun e =>
        ({ lane := l, code := e, addr := a l } : LaneFault)))
      let turn := fun (m : Loc → Byte) (l : Nat) (x : Loc) =>
        match (List.range k).find? (fun i => decide (x = (loc l).plus i)),
            atomNew p.2 k (leNat ((List.range k).map (fun i => m ((loc l).plus i)))) (b l) (cmp l) with
        | some i, some new => BitVec.ofNat 8 (new / 256 ^ i)
        | _, _ => m x
      let after := fun (l : Nat) => (good.filter (fun j => decide (j < l))).foldl turn (readByte u)
      let old := fun l => leNat ((List.range k).map (fun i => after l ((loc l).plus i)))
      (c.act = 0 → exec p.1 s = .next (advance (dropAnswers u c) c.pk)) ∧
      ((∀ l ∈ lanes c.act, peerOpOf u c l = none) →
        (∀ l ∈ good, migrating u (a l) = false ∧ peerHome u (c.whoAt l) (a l) = none ∧ loc l ≠ .none) → c.act ≠ 0 →
        ∃ v extra, exec p.1 s = .next (settle v c fs 2 extra) ∧ v.acc = s.acc ∧
          ((∀ l ∈ lanes c.act, bad l = none) → settle v c fs 2 extra = advance v c.pk) ∧
          (∀ j, j ≠ c.gk → Map.find? v.gangs j = Map.find? s.gangs j) ∧
          (∃ miss, Map.find? v.gangs c.gk = some { c.g with
            ops := c.g.ops ++ if good = [] then [] else [{
              id := c.g.nextOp, path := c.pk, mask := maskOf c.act (fun l => decide (bad l = none))
              uid := c.cl.uid, sets := c.cl.sets
              body := .writes (good.flatMap (fun l => vWrites f.d.toNat l n (old l)))
              dv := (List.range n).map (f.d.toNat + ·), ds := [], dp := [], store := false
              after := c.p.prog.ops.filter (fun m => c.g.ops.any (fun o => o.id == m)), cur := none }]
            nextOp := c.g.nextOp + if good = [] then 0 else 1
            scopeMiss := miss }) ∧
          (∀ x, (∀ l ∈ good, ∀ i < k, x ≠ (loc l).plus i) → readByte v x = readByte u x) ∧
          ∀ x, readByte v x = good.foldl turn (readByte u) x)) ∧
  (∀ k old b cmp : Nat, k ∈ [4, 8, 16] → old < 2 ^ (8 * k) → b < 2 ^ (8 * k) →
    let r := fun op => atomNew op k old b cmp
    r .add = some ((old + b) % 2 ^ (8 * k)) ∧ r .and = some (old &&& b) ∧ r .or = some (old ||| b) ∧
    r .xor = some (old ^^^ b) ∧ r .xchg = some b ∧ r .cas = (if old = cmp then some b else none) ∧
    (∃ x, r .min = some x ∧ sext (8 * k) x = min (sext (8 * k) old) (sext (8 * k) b)) ∧
    (∃ x, r .max = some x ∧ sext (8 * k) x = max (sext (8 * k) old) (sext (8 * k) b)) ∧
    (∃ x, r .maxe = some x ∧ ∀ i < k, x / 256 ^ i % 256 = max (old / 256 ^ i % 256) (b / 256 ^ i % 256)))

/-- R351, R354, R355, R357, R359. The model's are: that a fence finds the path's accesses performed (log 16), that PIN is performed
at its issue (log 18), the zero EXTRA of its fault (log 21), and that HARVEST flushes at its issue (log 28). -/
def Obligations.PinsAndFence : Prop :=
  (∀ (f : MEM) (s : State) (c : Ctx),
    let u := counted s c
    Runs (.fence f) s c →
      (c.act ≠ 0 → (∀ o ∈ c.g.ops, o.id ∉ c.p.prog.ops) ∧ ∀ x ∈ c.g.lost, c.p.mask.getLsbD x.lane = false) →
      ∃ v miss, exec (.fence f) s = .next (advance v c.pk) ∧ v = { u with gangs := v.gangs, paths := v.paths } ∧
        Map.find? v.gangs c.gk = some { c.g with scopeMiss := miss } ∧
        (c.g.scopeMiss = true → miss = true) ∧ ((c.act = 0 ∨ f.ord.getLsbD 0 = false) → miss = c.g.scopeMiss) ∧
        Map.find? v.paths c.pk = some { c.p with
          prog := { c.p.prog with
            rel := if c.act ≠ 0 ∧ f.ord.getLsbD 1 = true then some (max f.scope.toNat (c.p.prog.rel.getD 0))
              else c.p.prog.rel } } ∧
        (∀ j, j ≠ c.gk → Map.find? v.gangs j = Map.find? u.gangs j) ∧
        ∀ j, j ≠ c.pk → Map.find? v.paths j = Map.find? u.paths j) ∧
  (∀ (f : RRR) (s : State) (c : Ctx),
    let u := counted s c
    let a := src c.g f.sa f.a 2 (lowLane c.act)
    let id := oidOf a
    let n := f.b.toNat
    let named := 1 < id ∧ id ≠ aliasId ∧ id ≠ plainId ∧ id < s.mg.objtCnt
    let idle := ∀ o ∈ c.g.ops, o.id ∉ c.p.prog.ops
    let free := ∀ p, Map.find? c.g.pins n = some p → ∀ x ∈ c.g.cur, x.2.oid = p.oid → x.2.st ≠ 1 ∧ x.2.st ≠ 2
    let k := memNat u (entryAddr u id + 8) 1
    let ok := (memNat u (entryAddr u id + 11) 1).testBit 2 = false ∧ 1 ≤ k ∧ k ≤ 6
    (Runs (.pin f) s c → c.act = 0 → exec (.pin f) s = .next (advance u c.pk)) ∧
    (Runs (.pin f) s c → c.act ≠ 0 → ¬ named → exec (.pin f) s = .next (uniFault u c .objectInvalid a 0 [])) ∧
    (Runs (.pin f) s c → c.act ≠ 0 → named → idle → ¬ free → exec (.pin f) s = .next (uniFault u c .cursorState a 0 [])) ∧
    (Runs (.pin f) s c → c.act ≠ 0 → named → idle → free →
      ∃ v pins, exec (.pin f) s = .next (advance v c.pk) ∧ v = { u with gangs := v.gangs, ctrs := v.ctrs, paths := v.paths } ∧
        (∃ g, Map.find? v.paths c.pk = some { c.p with prog := { c.p.prog with ops := g } }) ∧
        (∀ j, j ≠ c.pk → Map.find? v.paths j = Map.find? u.paths j) ∧ (∀ j, j ≠ c.gk → Map.find? v.gangs j = Map.find? u.gangs j) ∧
        Map.find? v.gangs c.gk = some { c.g with
          pins := pins
          ops := c.g.ops ++ [{
            id := c.g.nextOp, path := c.pk, mask := c.act, uid := c.cl.uid, sets := c.cl.sets
            body := .writes ((lanes c.act).map (fun l => .p f.d.toNat l (decide ok)))
            dv := [], ds := [], dp := [f.d.toNat], store := false
            after := c.p.prog.ops.filter (fun m => c.g.ops.any (fun o => o.id == m)), cur := none }]
          nextOp := c.g.nextOp + 1 } ∧
        (ok → ∃ m, Map.find? pins n = some { oid := id, min := m } ∧
          ((∀ x ∈ c.g.cur, x.2.oid ≠ id ∨ (x.2.st ≠ 1 ∧ x.2.st ≠ 2)) → m = 0xFFFFFFFF)) ∧
        (¬ ok → Map.find? pins n = none) ∧
        ∀ j, j ≠ n → (Map.find? pins j).map (·.oid) = (Map.find? c.g.pins j).map (·.oid)) ∧
    (Runs (.unpin f) s c → c.act = 0 → exec (.unpin f) s = .next (advance u c.pk)) ∧
    (Runs (.unpin f) s c → c.act ≠ 0 → idle → ¬ free → exec (.unpin f) s = .next (trapAll u c .cursorState c.act [])) ∧
    (Runs (.unpin f) s c → c.act ≠ 0 → idle → free →
      ∃ v pins, exec (.unpin f) s = .next (advance v c.pk) ∧ OnlyGang u v c.gk ∧
        Map.find? v.gangs c.gk = some { c.g with pins := pins } ∧ Map.find? pins n = none ∧
        ∀ j, j ≠ n → Map.find? pins j = Map.find? c.g.pins j)) ∧
  (∀ (f : ENG) (s : State) (c : Ctx),
    let u := counted s c
    let id := fun l => oidOf (src c.g f.sa f.a 2 l)
    let off := rs c.g f.b.toNat
    let e := fun l => entryOf u (id l)
    let passes := fun l => 1 < id l ∧ id l ≠ aliasId ∧ id l ≠ plainId ∧ id l < s.mg.objtCnt ∧ (e l).ok = true ∧
      permits (e l).perm .write (c.p.kind == .sup) = true ∧ (e l).home ≠ 2 ∧ (f.tile = 1 → barFault u c off = none)
    Runs (.reclaim f) s c → (c.act ≠ 0 → ∀ o ∈ c.g.ops, o.id ∉ c.p.prog.ops) →
      (∀ l ∈ lanes c.act, passes l) →
      ∃ v, exec (.reclaim f) s = .next (advance v c.pk) ∧
        v = { u with
          gangs := v.gangs, plain := v.plain, crews := v.crews, mem := v.mem, eng := v.eng, nextEng := v.nextEng
          reclaims := v.reclaims, rels := v.rels } ∧
        (f.tile ≠ 1 → v.plain = u.plain ∧ v.crews = u.crews) ∧
        (∀ l ∈ lanes c.act, ∃ op eo, u.nextEng ≤ op ∧ op < v.nextEng ∧ Map.find? v.eng op = some eo ∧
          eo.kind = .reclaim (id l) ∧ eo.gang = c.gk ∧ eo.batch = some c.g.openB.num ∧
          eo.bar = (if f.tile = 1 then some off else none) ∧ ∃ r ∈ v.reclaims, r.oid = id l ∧ op ∈ r.ops) ∧
        (∀ op, op < u.nextEng → Map.find? v.eng op = Map.find? u.eng op) ∧
        (∃ b, Map.find? v.gangs c.gk = some { c.g with openB := b } ∧ b.num = c.g.openB.num ∧
          b.status = c.g.openB.status ∧ b.pending = c.g.openB.pending + (v.nextEng - u.nextEng)) ∧
        ∀ x, (∀ l ∈ lanes c.act, x ≠ entryAddr u (id l) + 11) → readByte v (.dev x) = readByte u (.dev x)) ∧
  (∀ (f : SYS) (s : State) (c : Ctx),
    let u := counted s c
    let id := rs c.g f.a.toNat % 2 ^ 24
    let idle := ∀ o ∈ c.g.ops, o.id ∉ c.p.prog.ops
    let special := id = 0 ∨ id = aliasId ∨ id = plainId
    (Runs (.harvest f) s c → (c.act = 0 ∨ (f.sa = true ∧ special)) → exec (.harvest f) s = .next (advance u c.pk)) ∧
    (Runs (.harvest f) s c → c.act ≠ 0 → (f.sa = true → ¬ special) → idle → exec (.harvest f) s = .next (advance {
      flushDirty u (fun d => !f.sa || id == d.oid) with
      harvs := u.harvs ++ [{ gang := c.gk, mask := c.p.mask, oid := if f.sa then some id else none }] } c.pk)) ∧
    (Runs (.tlbinv f) s c → (c.act = 0 ∨ special) → exec (.tlbinv f) s = .next (advance u c.pk)) ∧
    (Runs (.tlbinv f) s c → c.act ≠ 0 → ¬ special → idle → exec (.tlbinv f) s = .next (advance { u with
      shoots := u.shoots ++ [{ oid := id, who := .lanes c.gk c.p.mask }] } c.pk)))

/-- R330 to R334, R337, R338 with the tests of R136 and R137. The zero lane addresses in the record of a BARRIER_MEMBER trap are the
model's (log 41). -/
def Obligations.Barriers : Prop :=
  ∀ (f : ENG) (s : State) (c : Ctx),
    let u := counted s c
    let off := rs c.g f.a.toNat
    let b := barAt u c.ck off
    let p := aliasToPlain u c.ck off
    let whole := off % 32 = 0 ∧ off + 32 ≤ (crewAt u c.ck).gran.length * 65536 ∧ Map.getD u.plainPoison (p / 64) false = false
    let idle := ∀ o ∈ c.g.ops, o.id ∉ c.p.prog.ops
    let member := b.members.testBit c.g.no = true
    let tested := fun (x : Bar) =>
      if x.init = true ∧ x.arrived = x.members ∧ x.eng = 0 then { x with phase := (x.phase + 1) % 2 ^ 32, arrived := 0 } else x
    let only := fun (v : State) => v = { u with plain := v.plain, crews := v.crews, gangs := v.gangs, rels := v.rels } ∧
      (∀ x, (x < p ∨ p + 32 ≤ x) → readByte v (.plain x) = readByte u (.plain x)) ∧
      ∀ k g, k ≠ c.gk → Map.find? u.gangs k = some g → ∃ arr, Map.find? v.gangs k = some { g with arr := arr }
    let same := fun (v : State) => ∃ arr, Map.find? v.gangs c.gk = some { c.g with arr := arr }
    let old := ((c.g.arr.find? (fun r => r.off == off && r.phase == BitVec.ofNat 32 b.phase)).map (·.mask)).getD 0
    let covers := c.g.live &&& ~~~ (old ||| c.act) = 0
    let arrives := b.init = true ∧ member ∧ idle ∧
      (∀ o ∈ c.g.ops, (o.mask &&& ~~~ c.g.live) ≠ 0 → ∃ ws, o.body = .writes ws) ∧ (c.g.arr.filter (fun r => r.off == off)).length ≤ 1 ∧
      ((∃ r ∈ c.g.arr, r.off = off) ∨ c.g.arr.length < 8)
    let six := [Instr.binit f, .bjoin f, .bleave f, .barv f, .barw f, .baraw f]
    c.g.no < 32 → Memory.wf s.plain = true →
    (∀ i ∈ six, Runs i s c → c.p.arrived = none → c.act = 0 → exec i s = .next (advance u c.pk)) ∧
    (∀ i ∈ six, Runs i s c → c.p.arrived = none → c.act ≠ 0 → off % 32 ≠ 0 →
      exec i s = .next (uniFault u c .align (addrOf aliasId off) 0 [])) ∧
    (Runs (.binit f) s c → c.act ≠ 0 → whole → ∃ v, exec (.binit f) s = .next (advance v c.pk) ∧ only v ∧ same v ∧
      barAt v c.ck off = {
        members := rs c.g f.b.toNat % 2 ^ 32 &&& crewMembers u c.ck, arrived := 0
        phase := if b.init then (b.phase + 1) % 2 ^ 32 else 0, eng := 0, init := true } ∧
      ∀ k g, Map.find? v.gangs k = some g → g.crew = c.ck → ∀ r ∈ g.arr, r.off ≠ off) ∧
    (Runs (.bjoin f) s c → c.act ≠ 0 → whole → ∃ v, exec (.bjoin f) s = .next (advance v c.pk) ∧ only v ∧ same v ∧
      barAt v c.ck off = if member then b else tested { b with members := b.members ||| 2 ^ c.g.no }) ∧
    (Runs (.bleave f) s c → c.act ≠ 0 → whole → idle → ∃ v, exec (.bleave f) s = .next (advance v c.pk) ∧ only v ∧ same v ∧
      barAt v c.ck off = if member then tested { b with
          members := b.members - 2 ^ c.g.no, arrived := b.arrived - if b.arrived.testBit c.g.no then 2 ^ c.g.no else 0 } else b) ∧
    (Runs (.barv f) s c → c.act ≠ 0 → whole → ¬ (b.init = true ∧ member) →
      exec (.barv f) s = .next (trapAll u c .barrierMember c.act [])) ∧
    (Runs (.barv f) s c → c.act ≠ 0 → whole → arrives → ∃ v g, exec (.barv f) s = .next (advance v c.pk) ∧ only v ∧
      barAt v c.ck off = (if covers then tested { b with arrived := b.arrived ||| 2 ^ c.g.no } else b) ∧
      Map.find? v.gangs c.gk = some g ∧
      g = putD { c.g with arr := g.arr } f.sd f.d 1 c.act (fun _ => b.phase) ∧
      (¬ covers → g.arr.find? (fun r => r.off == off) =
        some { off := off, phase := BitVec.ofNat 32 b.phase, mask := old ||| c.act })) ∧
    (Runs (.barw f) s c → c.act ≠ 0 → whole → (∀ l ∈ lanes c.act, src c.g f.sb f.b 1 l ≠ b.phase) →
      exec (.barw f) s = .next (advance u c.pk)) ∧
    (Runs (.barw f) s c → c.act ≠ 0 → whole → c.p.defer = [] → (∃ l ∈ lanes c.act, src c.g f.sb f.b 1 l = b.phase) →
      exec (.barw f) s = .next (onPath u c.pk (fun q => { q with wait := .barrier off (BitVec.ofNat 32 b.phase) }))) ∧
    (Runs (.baraw f) s c → c.act ≠ 0 → c.p.arrived = none → whole → arrives → covers → b.eng = 0 →
      b.arrived ||| 2 ^ c.g.no = b.members → ∃ v, exec (.baraw f) s = .next (advance v c.pk) ∧ only v ∧ same v ∧
      barAt v c.ck off = { b with phase := (b.phase + 1) % 2 ^ 32, arrived := 0 }) ∧
    (∀ ph, Runs (.baraw f) s c → c.p.arrived = some ph → b.phase ≠ ph.toNat →
      exec (.baraw f) s = .next (advance u c.pk)) ∧
    (∀ i ∈ [Instr.batch f, .bwait f], Runs i s c → c.act = 0 → exec i s = .next (advance u c.pk)) ∧
    (Runs (.batch f) s c → c.act ≠ 0 → (c.g.closed.length < 16 ∨ c.g.openB.pending = 0) → ∃ v g, exec (.batch f) s = .next (advance v c.pk) ∧
      OnlyGang u v c.gk ∧ Map.find? v.gangs c.gk = some (putD g f.sd f.d 1 c.act (fun _ => c.g.openB.num.toNat)) ∧
      g = { c.g with
        openB := { num := c.g.openB.num + 1, pending := 0, status := 0 }
        closed := if c.g.openB.pending = 0 then c.g.closed else c.g.closed ++ [c.g.openB]
        undeliv := if c.g.openB.pending = 0 then c.g.undeliv ||| c.g.openB.status else c.g.undeliv }) ∧
    (let due := fun (l : Nat) => ∃ x ∈ c.g.closed, (src c.g f.sa f.a 1 l + 2 ^ 32 - x.num.toNat) % 2 ^ 32 < 2 ^ 31
     Runs (.bwait f) s c → c.act ≠ 0 →
      (idle → (∀ x ∈ c.g.lost, c.p.mask.getLsbD x.lane = false) → (∀ l ∈ lanes c.act, ¬ due l) → ∃ v, exec (.bwait f) s = .next (advance v c.pk) ∧ OnlyGang u v c.gk ∧
        Map.find? v.gangs c.gk = some (if f.tile = 1 then
          putD { c.g with undeliv := 0 } f.sd f.d 1 c.act (fun _ => c.g.undeliv.toNat) else c.g)) ∧
      ((∃ l ∈ lanes c.act, due l) →
        ∃ n l, exec (.bwait f) s = .next (onPath u c.pk (fun q => { q with wait := .batch n })) ∧ l ∈ lanes c.act ∧ due l ∧
          n = BitVec.ofNat 32 (src c.g f.sa f.a 1 l)))

/-- R364 to R368 with R176, R181, R185, R189. When reads are performed, and what a lane does that meets
poison only then, is the model's (log 18). -/
def Obligations.GraphInstructions : Prop :=
  (∀ (f : GR) (s : State) (c : Ctx),
    let u := counted s c
    let a := rsw c.g f.a.toNat 2
    let id := oidOf a
    let sup := c.p.kind == .sup
    let vtx := fun l => src c.g f.sb f.b 1 l
    let edge := fun l => (src c.g f.sb f.b 2 l % 2 ^ 32, src c.g f.sb f.b 2 l / 2 ^ 32)
    let z := fun l => rv c.g f.c.toNat l
    let opOf' := fun (body : OpBody) (dv dp : List Nat) (cur : Option Nat) => ({
      id := c.g.nextOp, path := c.pk, mask := c.act, uid := c.cl.uid, sets := c.cl.sets, body := body
      dv := dv, ds := [], dp := dp, store := false
      after := c.p.prog.ops.filter (fun m => c.g.ops.any (fun o => o.id == m)), cur := cur } : LaneOp)
    let issued := fun (v : State) =>
      v = { u with gangs := v.gangs, paths := v.paths } ∧ (∀ j, j ≠ c.gk → Map.find? v.gangs j = Map.find? u.gangs j) ∧
      (∃ g, Map.find? v.paths c.pk = some { c.p with prog := g }) ∧ ∀ j, j ≠ c.pk → Map.find? v.paths j = Map.find? u.paths j
    let px := if f.px.toNat < 12 then [f.px.toNat] else []
    let gains := fun (v : State) (g : Gang) (o : LaneOp) =>
      Map.find? v.gangs c.gk = some { g with ops := c.g.ops ++ [o], nextOp := c.g.nextOp + 1 }
    let req := fun (k : GraphKind) (oids : List Nat) (todo : List GraphLane) => OpBody.graph {
      kind := k, oids := oids, dir := f.dir.toNat, strict := f.strict, cur := f.cur.toNat, d := f.d.toNat, px := f.px.toNat
      head := mutHead u c, todo := todo }
    let d := f.d.toNat
    let n := f.cur.toNat
    let idle := ∀ o ∈ c.g.ops, o.id ∈ c.p.prog.ops → ∀ r, o.body = .graph r → id ∉ r.oids
    let settled := ∀ o ∈ c.g.ops, o.cur = some n → (o.mask &&& c.act) = 0
    let sound := fun l => (cursorAt c.g n l).st ≠ 3 ∧
      ∃ p, Map.find? c.g.pins (cursorAt c.g n l).slot = some p ∧ p.oid = (cursorAt c.g n l).oid
    c.act ≠ 0 →
    (∀ k ∈ [(Instr.gadde f, GraphKind.gadde), (.gdele f, .gdele), (.gsete f, .gsete)], Runs k.1 s c →
      let x := fun l => ({ lane := l, u := (edge l).1, v := (edge l).2, p := z l } : GraphLane)
      let met := fun l => ((lanes c.act).filter (fun j => decide (j < l))).foldl (fun t j => (mutate t k.2 id (x j)).2) u
      (∀ l ∈ lanes c.act, gCheck (met l) a true sup [(edge l).1, (edge l).2] = none ∧ edgePoison (met l) k.2 id (x l) = false) →
      ∃ v, exec k.1 s = .next (advance v c.pk) ∧ issued v ∧
        gains v c.g (opOf' (req k.2 [id] ((lanes c.act).map x)) [d] px none)) ∧
    (∀ k ∈ [(Instr.gdeg f, GraphKind.gdeg), (.gver f, .gver)], Runs k.1 s c →
      (∀ l ∈ lanes c.act, gCheck u a false sup [vtx l] = none ∧ gRecPoison u id (vtx l) = false) →
      ∃ v, exec k.1 s = .next (advance v c.pk) ∧ issued v ∧
        gains v c.g (opOf' (req k.2 [id] ((lanes c.act).map (fun l => { lane := l, u := vtx l, v := z l, p := 0 }))) [d] px none)) ∧
    (∀ k ∈ [(Instr.glde f, GraphKind.glde, true, [d, d + 1]), (.gfind f, .gfind, false, [d])], Runs k.1 s c → f.strict = false →
      (∀ l ∈ lanes c.act, gCheck u a false sup [vtx l] = none ∧ gRecPoison u id (vtx l) = false ∧
        pathPoison u id (rootOf u id (vtx l) f.dir) k.2.2.1 (z l) = false) →
      ∃ v, exec k.1 s = .next (advance v c.pk) ∧ issued v ∧
        gains v c.g (opOf' (req k.2.1 [id] ((lanes c.act).map (fun l => { lane := l, u := vtx l, v := z l, p := 0 })))
          k.2.2.2 px none)) ∧
    (Runs (.glde f) s c → f.strict = true → idle →
      (∀ l ∈ lanes c.act, gCheck u a false sup [vtx l] = none ∧ gRecPoison u id (vtx l) = false ∧
        pathPoison u id (rootOf u id (vtx l) f.dir) true (z l) = false ∧ z l < degOf u id (vtx l) f.dir) →
      ∃ v ws, exec (.glde f) s = .next (advance v c.pk) ∧ issued v ∧ gains v c.g (opOf' (.writes ws) [d, d + 1] px none) ∧
        ∀ l ∈ lanes c.act, ∀ e, treeNth u id 40 (rootOf u id (vtx l) f.dir) (z l) = some e → e.1 < 2 ^ 32 →
          RegWrite.v d l (BitVec.ofNat 32 e.1) ∈ ws ∧ RegWrite.v (d + 1) l (BitVec.ofNat 32 e.2) ∈ ws ∧
          (f.px.toNat < 12 → RegWrite.p f.px.toNat l false ∈ ws)) ∧
    (Runs (.gldv f) s c → idle →
      (∀ l ∈ lanes c.act, gCheck u a false sup [vtx l] = none ∧ gRecPoison u id (vtx l) = false) →
      ∃ v ws g, exec (.gldv f) s = .next (advance v c.pk) ∧ issued v ∧
        g = { c.g with scopeMiss := g.scopeMiss } ∧ gains v g (opOf' (.writes ws) [d] [] none) ∧
        ws = (lanes c.act).map (fun l => .v d l (BitVec.ofNat 32 (gNat u id (256 + 32 * vtx l) 4)))) ∧
    (∀ l, Runs (.gstv f) s c → idle → (f.ord.getLsbD 1 = true → releaseWait u c = none) → lanes c.act = [l] →
      gCheck u a true sup [vtx l] = none → gRecPoison u id (vtx l) = false →
      let at' := gPhys u id (256 + 32 * vtx l)
      ∃ v, exec (.gstv f) s = .next (advance v c.pk) ∧ gains v c.g (opOf' (.writes []) [] [] none) ∧
        (∀ i < 4, readByte v (.dev (at' + i)) = BitVec.ofNat 8 (z l / 256 ^ i)) ∧
        (∀ x, (x < at' ∨ at' + 4 ≤ x) → readByte v (.dev x) = readByte u (.dev x)) ∧ v.plain = u.plain ∧ v.hostMem = u.hostMem) ∧
    (Runs (.gopen f) s c → idle → settled →
      (∀ l ∈ lanes c.act, (cursorAt c.g n l).st = 0 ∧ gCheck u a false sup [vtx l] = none ∧ gRecPoison u id (vtx l) = false) →
      (∀ slot b, openSlot c.g id = some (slot, b) → rpend u id = false →
        ∃ v g, exec (.gopen f) s = .next (advance v c.pk) ∧ issued v ∧
          gains v g (opOf' (.writes ((lanes c.act).map (fun l => .p f.px.toNat l true))) [] px (some n)) ∧
          g = { c.g with cur := g.cur, pins := g.pins, scopeMiss := g.scopeMiss } ∧ (Map.find? g.pins slot).map (·.oid) = some id ∧
          (∀ l ∈ lanes c.act, cursorAt g n l = {
            oid := id, st := 1, dir := f.dir.toNat, slot := slot, vtx := vtx l, snap := gSeq u id
            ver := verOf u id (vtx l) f.dir, rank := 0, deg := degOf u id (vtx l) f.dir, root := rootOf u id (vtx l) f.dir }) ∧
          ∀ k l, l < 32 → (k ≠ n ∨ c.act.getLsbD l = false) → cursorAt g k l = cursorAt c.g k l) ∧
      ((openSlot c.g id = none ∨ rpend u id = true) →
        ∃ v, exec (.gopen f) s = .next (advance v c.pk) ∧ v = { u with gangs := v.gangs, ctrs := v.ctrs, paths := v.paths } ∧
          gains v c.g (opOf' (.writes ((lanes c.act).map (fun l => .p f.px.toNat l false))) [] px (some n)))) ∧
    (∀ k ∈ [(Instr.gnext f, GraphKind.gnext, [d, d + 1]), (.gskip f, .gskip, [])], Runs k.1 s c → settled →
      (∀ l ∈ lanes c.act, (cursorAt c.g n l).st ≠ 0 ∧ sound l ∧ gPoison u (cursorAt c.g n l).oid 0 = false ∧
        gCheck u (addrOf (cursorAt c.g n l).oid 0) false sup [(cursorAt c.g n l).vtx] = none ∧
        (k.2.1 = .gnext → (cursorAt c.g n l).rank < (cursorAt c.g n l).deg →
          pathPoison u (cursorAt c.g n l).oid (cursorAt c.g n l).root true (cursorAt c.g n l).rank = false)) →
      ∃ v, exec k.1 s = .next (advance v c.pk) ∧ issued v ∧
        gains v c.g (opOf' (req k.2.1 (nubN ((lanes c.act).map (fun l => (cursorAt c.g n l).oid)))
          ((lanes c.act).map (fun l => { lane := l, u := 0, v := 0, p := vtx l }))) k.2.2 px (some n))) ∧
    (Runs (.gpos f) s c → settled → (∀ l ∈ lanes c.act, (cursorAt c.g n l).st ≠ 0 ∧ sound l) →
      ∃ v g, exec (.gpos f) s = .next (advance v c.pk) ∧ OnlyGang u v c.gk ∧ Map.find? v.gangs c.gk = some g ∧
        g = { c.g with v := g.v, p := g.p } ∧
        (∀ r l, l < 32 → rv g r l = if c.act.getLsbD l = true ∧ d ≤ r ∧ r < d + 3 then
            [(cursorAt c.g n l).rank, (cursorAt c.g n l).deg, (cursorAt c.g n l).ver].getD (r - d) 0 % 2 ^ 32
          else rv c.g r l) ∧
        ∀ r l, l < 32 → rp g r l = if c.act.getLsbD l = true ∧ f.px.toNat < 12 ∧ r = f.px.toNat then
          decide ((cursorAt c.g n l).st = 2) else rp c.g r l) ∧
    (Runs (.gclose f) s c → settled → (∀ l ∈ lanes c.act, (cursorAt c.g n l).st = 0 ∨ sound l) →
      ∃ v g, exec (.gclose f) s = .next (advance v c.pk) ∧ OnlyGang u v c.gk ∧ Map.find? v.gangs c.gk = some g ∧
        g = { c.g with cur := g.cur, pins := g.pins } ∧ (∀ l ∈ lanes c.act, (cursorAt g n l).st = 0) ∧
        ∀ k l, l < 32 → (k ≠ n ∨ c.act.getLsbD l = false) → cursorAt g k l = cursorAt c.g k l)) ∧
  (∀ (s : State) (gk op : Nat) (g : Gang) (o : LaneOp) (r : GraphReq) (x : GraphLane) (rest : List GraphLane),
    let left := fun (h : Gang) => if rest = [] then { h with ops := h.ops.filter (fun q => q.id ≠ op) }
      else { h with ops := h.ops.map (fun q => if q.id = op then { q with body := .graph { r with todo := rest } } else q) }
    let inn := r.dir == 1
    let ended := fun (v : State) => if rest = [] then retest v gk else v
    s.mg.tripped = false → Map.find? s.gangs gk = some g → g.ops.find? (fun q => q.id == op) = some o → o.body = .graph r → r.todo = x :: rest →
    (r.kind.isMut = true → mutBefore s g o r = false → seqBlocked s r.oid (nextSeq (gSeq s r.oid)) = false →
      edgePoison s r.kind r.oid x = true → exec (.graphMutationCommit gk op) s = .next (ended (onGang s gk left))) ∧
    (r.kind.isMut = true → mutBefore s g o r = false → seqBlocked s r.oid (nextSeq (gSeq s r.oid)) = false →
      edgePoison s r.kind r.oid x = false →
      let root := rootOf s r.oid x.u false
      let there := root ≠ 0 ∧ (treeFind s r.oid x.v 40 root).2 ≠ none
      let q := mutate s r.kind r.oid x
      (∃ rels, exec (.graphMutationCommit gk op) s = .next (ended (onGang { q.2 with rels := rels } gk (fun h =>
        let h := regWrite h (.v r.d x.lane (BitVec.ofNat 32 q.1))
        left (if r.px < 12 then regWrite h (.p r.px x.lane (decide (q.1 = 0))) else h)))) ∧ (q.1 ≠ 0 → rels = s.rels)) ∧
      (r.kind = .gadde → there → q = (1, s)) ∧ (r.kind ≠ .gadde → ¬ there → q = (2, s)) ∧ (q.1 ≠ 0 → q.2 = s) ∧
      (r.kind = .gadde → ¬ there → q.1 = 0 ∨ q.1 = 3) ∧ (r.kind ≠ .gadde → there → q.1 = 0 ∨ q.1 = 3)) ∧
    (r.kind.isMut = false → graphBefore g o r false = false → readPoison s r g x = true →
      exec (.graphOpComplete gk op) s = .next (ended (onGang s gk left))) ∧
    (r.kind.isMut = false → graphBefore g o r false = false → readPoison s r g x = false →
      ∃ v h, exec (.graphOpComplete gk op) s = .next (ended v) ∧
        v = { s with gangs := v.gangs, ctrs := v.ctrs, paths := v.paths } ∧
        (∀ k, (Map.find? v.paths k).map (·.mask) = (Map.find? s.paths k).map (·.mask)) ∧
        (∀ k, k ≠ gk → Map.find? v.gangs k = Map.find? s.gangs k) ∧ Map.find? v.gangs gk = some (left h) ∧
        (r.kind = .gdeg → h = regWrite g (.v r.d x.lane (BitVec.ofNat 32 (degOf s r.oid x.u inn)))) ∧
        (r.kind = .gver → h = regWrite g (.v r.d x.lane (BitVec.ofNat 32 (verOf s r.oid x.u inn)))) ∧
        (r.kind = .gfind → r.px < 12 → rootOf s r.oid x.u inn ≠ 0 →
          let e := treeFind s r.oid x.v 40 (rootOf s r.oid x.u inn)
          h = regWrite (regWrite g (.v r.d x.lane (BitVec.ofNat 32 e.1))) (.p r.px x.lane e.2.isSome)) ∧
        (r.kind = .glde → r.px < 12 → degOf s r.oid x.u inn ≤ x.v →
          h = regWrite (regWrite (regWrite g (.v r.d x.lane 0xFFFFFFFF)) (.v (r.d + 1) x.lane 0)) (.p r.px x.lane true)) ∧
        (∀ y, r.kind = .gnext → y = cursorAt g r.cur x.lane → y.st ≠ 0 → g.live.getLsbD x.lane = true → r.px < 12 → x.lane < 32 →
          (y.deg ≤ y.rank → cursorAt h r.cur x.lane = { y with st := 2 } ∧ rv h r.d x.lane = 0xFFFFFFFF ∧
            rv h (r.d + 1) x.lane = 0 ∧ rp h r.px x.lane = true) ∧
          (y.rank < y.deg → cursorAt h r.cur x.lane = { y with rank := y.rank + 1 } ∧ rp h r.px x.lane = false)) ∧
        (∀ y, r.kind = .gskip → y = cursorAt g r.cur x.lane → y.st ≠ 0 → g.live.getLsbD x.lane = true →
          cursorAt h r.cur x.lane = { y with
            rank := min (y.rank + x.p) y.deg
            st := if y.st = 2 ∧ min (y.rank + x.p) y.deg = y.deg then 2 else 1 }))) ∧
  (∀ (s : State) (oid : Nat),
    (∃ t, exec (.graphSweep oid) s = .next t ∧ t = { s with mem := t.mem, free := t.free, rels := t.rels }) ∧
    ((entryOf s oid).kind ≠ 2 → exec (.graphSweep oid) s = .next s) ∧
    (gNat s oid 28 4 = 0 → (entryOf s oid).ok = true → (entryOf s oid).kind = 2 → graphOk s oid (entryOf s oid) = true →
      s.mg.tripped = false →
      ∃ t, exec (.graphSweep oid) s = .next t ∧ t.free = s.free + 2 ^ 28 ∧
        t.mem = (gPut (gPut (gPut s oid 20 4 0) oid 24 4 0) oid 28 4 0).mem))

/-- R370 to R373 with R162, R195 to R203. That a copy, fill or scatter is performed whole at its event, and that a copy which has read
its bytes may release its locks first (`opensNow`), is the model's (log 27). -/
def Obligations.CopiesAndWindows : Prop :=
  (∀ (f : ENG) (s : State) (c : Ctx),
    let u := counted s c
    let idle := ∀ o ∈ c.g.ops, o.id ∉ c.p.prog.ops
    let used := (u.locks.filter (fun x => x.cluster == clusterOf u c.core && decide (x.oid < 2 ^ 24))).length
    let eng := fun (k : EngKind) => ({
      gang := c.gk, stamp := c.g.stamp, crew := c.ck, batch := some c.g.openB.num, bar := none, kind := k
      cancelled := false, refused := [], st := 0, held := [], late := [] } : EngOp)
    let joined := fun (v : State) (k : Nat) => Map.find? v.gangs c.gk = some { c.g with
      openB := { c.g.openB with pending := c.g.openB.pending + k } }
    let uni := f.sd && f.sa && f.sb
    let ls := (if uni then (lanes c.act).take 1 else lanes c.act).filter (fun l => c.p.issued.getLsbD l = false)
    let x := fun l => src c.g f.sa f.a 2 l
    let y := fun l => src c.g f.sd f.d 2 l
    let n := fun l => src c.g f.sb f.b 1 l
    let through := fun a => if oidOf a = aliasId ∨ oidOf a = plainId then none else bindOf u (oidOf a)
    (∀ i ∈ [(Instr.cpasync f, false), (.cpasyncDec f, true)], Runs i.1 s c → ls ≠ [] → idle →
      (∀ l ∈ ls, copyFault u c i.2 (x l) (y l) (n l) = none ∧ n l ≠ 0) →
      used + (ls.map (fun l => (copyRanges u c i.2 (x l) (y l) (n l)).length)).sum ≤ 64 →
      ∃ v, exec i.1 s = .next (advance v c.pk) ∧
        v = { u with gangs := v.gangs, paths := v.paths, eng := v.eng, nextEng := v.nextEng, locks := v.locks } ∧
        joined v ls.length ∧ v.nextEng = u.nextEng + ls.length ∧
        (∀ k, k < ls.length → Map.find? v.eng (u.nextEng + k) = some (eng (
          let l := ls.getD k 0
          if i.2 then .decode (BitVec.ofNat 64 (x l)) (BitVec.ofNat 64 (y l)) (n l)
          else .copy (BitVec.ofNat 64 (x l)) (BitVec.ofNat 64 (y l)) (n l) (through (x l)) (through (y l))))) ∧
        (∀ op, (op < u.nextEng ∨ v.nextEng ≤ op) → Map.find? v.eng op = Map.find? u.eng op) ∧
        v.locks = u.locks ++ (List.range ls.length).flatMap (fun k =>
          let l := ls.getD k 0
          (copyRanges u c i.2 (x l) (y l) (n l)).flatMap (fun r =>
            lockOf u c.who (clusterOf u c.core) (u.nextEng + k) r.1 r.2)) ∧
        Map.find? v.paths c.pk = some { c.p with issued := ls.foldl (fun m l => m ||| laneBit l) c.p.issued }) ∧
    (∀ i ∈ [Instr.cpasync f, .cpasyncDec f], Runs i s c → ls = [] → exec i s = .next (advance u c.pk)) ∧
    (∀ i ∈ [(Instr.cpasync f, false), (.cpasyncDec f, true)], ∀ l, Runs i.1 s c → ls = [l] → idle →
      copyFault u c i.2 (x l) (y l) 0 = none → n l = 0 → used ≤ 64 → Map.find? u.eng u.nextEng = none →
      (∀ k ∈ u.locks, k.op ≠ u.nextEng) →
      ∃ v, exec i.1 s = .next (advance v c.pk) ∧ (∀ op, Map.find? v.eng op = Map.find? u.eng op) ∧ v.locks = u.locks ∧
        joined v 0 ∧ v.nextEng = u.nextEng + 1) ∧
    (let a := rsw c.g f.a.toNat 2
     let r := rsw c.g f.b.toNat 2
     let win := oidOf a
     let old := bindOf u win
     let die := (old.map (·.die)).getD (windowDie u c win)
     let room := fun k => used + k ≤ 64
     (∀ i ∈ [Instr.wbind f, .wunbind f], Runs i s c → c.act = 0 → exec i s = .next (advance u c.pk)) ∧
     (∀ b, Runs (.wbind f) s c → c.act ≠ 0 → windowFault u a .write c.who.sup = none → recordFault u c r 32 = none →
      parseBinding u u.nextEng die win (loadBytes u c.who r 32) = some b → bindingFault u c b = none → old.bind (scatterFault u c) = none →
      let full := 1024 ≤ (u.binds.filter (fun q => q.2.die == die)).length
      let ranges := [(addrOf win 0, (entryOf u win).size), (b.index.toNat, b.count * b.isize)] ++
        (match old with
         | some o => localRanges u c [dataRange u c.who o]
         | none => [])
      (full → ∃ v g, exec (.wbind f) s = .next (advance v c.pk) ∧ OnlyGang u v c.gk ∧
        Map.find? v.gangs c.gk = some g ∧ g = { c.g with p := g.p } ∧
        ∀ k l, l < 32 → rp g k l = if c.act.getLsbD l = true ∧ k = f.d.toNat then false else rp c.g k l) ∧
      (¬ full → idle → room ranges.length → ∃ v g, exec (.wbind f) s = .next (advance v c.pk) ∧
        v = { u with gangs := v.gangs, eng := v.eng, nextEng := u.nextEng + 1, locks := v.locks, binds := v.binds } ∧
        Map.find? v.binds win = some b ∧ (∀ k, k ≠ win → Map.find? v.binds k = Map.find? u.binds k) ∧
        Map.find? v.eng u.nextEng = some (eng (.fill win b old)) ∧
        v.locks = u.locks ++ ranges.flatMap (fun q => lockOf u c.who (clusterOf u c.core) u.nextEng q.1 q.2) ∧
        Map.find? v.gangs c.gk = some g ∧
        g = { c.g with p := g.p, openB := { c.g.openB with pending := c.g.openB.pending + 1 } } ∧
        ∀ k l, l < 32 → rp g k l = if c.act.getLsbD l = true ∧ k = f.d.toNat then true else rp c.g k l)) ∧
     (Runs (.wunbind f) s c → c.act ≠ 0 → windowFault u a .read c.who.sup = none → old.bind (scatterFault u c) = none → idle →
      (old = none → Map.find? u.eng u.nextEng = none → (∀ k ∈ u.locks, k.op ≠ u.nextEng) →
        ∃ v, exec (.wunbind f) s = .next (advance v c.pk) ∧ (∀ op, Map.find? v.eng op = Map.find? u.eng op) ∧
          v.locks = u.locks ∧ v.binds = u.binds ∧ joined v 0 ∧ v.nextEng = u.nextEng + 1) ∧
      (∀ b, old = some b → room (1 + (localRanges u c [dataRange u c.who b]).length) →
        ∃ v, exec (.wunbind f) s = .next (advance v c.pk) ∧ joined v 1 ∧
          Map.find? v.eng u.nextEng = some (eng (.scatter win b)) ∧
          Map.find? v.binds win = some { b with written := [] } ∧
          (∀ k, k ≠ win → Map.find? v.binds k = Map.find? u.binds k) ∧ v.mem = u.mem ∧ v.plain = u.plain)))) ∧
  (∀ (s : State) (p n : Nat) (q : Path), s.mg.tripped = false → Map.find? s.paths p = some q → q.wait = .locks n →
    let used := (s.locks.filter (fun x => x.cluster == clusterOf s (p / 512) && decide (x.oid < 2 ^ 24))).length
    exec (.rangeLockAcquire p) s = .next { s with
      paths := Map.put s.paths p { q with wait := if used + n ≤ 64 then .none else .locks n } }) ∧
  (∀ (s : State) (op : Nat) (e : EngOp), s.mg.tripped = false → Map.find? s.eng op = some e → s.mg.objtCnt < plainId →
    let done := fun (t : State) => Map.find? t.eng op = none ∧
      (∀ x ∈ t.locks, x.op ≠ op) ∧
      ∀ g, e.bar = none → e.batch = some g.openB.num → Map.find? s.gangs e.gang = some g → g.stamp = e.stamp →
        ∃ st, Map.find? t.gangs e.gang = some { g with openB := { g.openB with pending := g.openB.pending - 1, status := st } }
    let inPlain := fun (a n : Nat) => oidOf a = plainId ∧ offOf a + n ≤ 2 ^ 29
    let clean := fun (a n : Nat) => ∀ i < n, Map.getD s.plainPoison ((offOf a + i) / 64) false = false
    (∀ src dst n sb db, e.kind = .copy src dst n sb db → ∃ t, exec (.copyComplete op) s = .next t ∧
      (∀ b, sb = some b → bindOf s (oidOf src.toNat) = sb → b.idx = [] →
        (∃ k, Map.find? t.eng op = some { e with kind := k }) ∧ t.locks = s.locks ∧ t.mem = s.mem ∧ t.plain = s.plain ∧ t.hostMem = s.hostMem)) ∧
    (∀ src dst n, e.kind = .copy src dst n none none → e.held = [] → inPlain src.toNat n → inPlain dst.toNat n → clean src.toNat n →
      ∃ t, exec (.copyComplete op) s = .next t ∧ (∀ k, k ≠ op → Map.find? t.eng k = Map.find? s.eng k) ∧ t.mem = s.mem ∧
        t.hostMem = s.hostMem ∧ t.acc = s.acc ∧
        (opensNow s op e = true → t.plain = s.plain ∧ t.gangs = s.gangs ∧ t.locks = s.locks.filter (fun x => x.op != op) ∧
          Map.find? t.eng op = some { e with
            held := [(0, [(List.range n).map (fun i =>
              { b := readByte s (.plain (offOf src.toNat + i)), bad := false, ok := true })])]
            late := s.locks.filter (fun x => x.op == op) }) ∧
        (opensNow s op e = false → done t ∧
          (e.bar = none → ∀ x, readByte t (.plain x) =
            if offOf dst.toNat ≤ x ∧ x < offOf dst.toNat + n then readByte s (.plain (offOf src.toNat + (x - offOf dst.toNat)))
            else readByte s (.plain x)))) ∧
    (∀ src dst n cs, e.kind = .copy src dst n none none → e.held = [(0, [cs])] → cs.length = n →
      (∀ x ∈ cs, x.bad = false ∧ x.ok = true) → inPlain dst.toNat n →
      ∃ t, exec (.copyComplete op) s = .next t ∧ done t ∧ (∀ k, k ≠ op → Map.find? t.eng k = Map.find? s.eng k) ∧ t.mem = s.mem ∧
        t.hostMem = s.hostMem ∧ t.acc = s.acc ∧
        (e.bar = none → ∀ x, readByte t (.plain x) =
          if offOf dst.toNat ≤ x ∧ x < offOf dst.toNat + n then (cs.map (·.b)).getD (x - offOf dst.toNat) 0
          else readByte s (.plain x))) ∧
    (∀ win b, e.kind = .fill win b none → windowTurn s op e = true → e.held = [] → b.idx = [] → s.migr = none →
      inPlain b.index.toNat (b.count * b.isize) → inPlain b.data.toNat 0 →
      peerHome s (opWho s e) (addrOf win 0) = none →
      engPages s (opWho s e) (addrOf win 0) (entryOf s win).size ≠ none →
      ∃ t, exec (.windowFillComplete op) s = .next t ∧ done t ∧ ∀ k x, Map.find? t.binds k = some x → x.op = op → x.idx =
        (List.range b.count).map (fun i =>
          let v := leNat ((List.range b.isize).map (fun j => readByte s (.plain (offOf b.index.toNat + i * b.isize + j))))
          if v = 2 ^ (8 * b.isize) - 1 then none else some v)) ∧
    (∀ win b, e.kind = .scatter win b → windowTurn s op e = true → e.held = [] → b.written = [] →
      ∃ t, exec (.windowScatterComplete op) s = .next t ∧ done t ∧ (∀ k, k ≠ op → Map.find? t.eng k = Map.find? s.eng k) ∧ t.mem = s.mem ∧ t.hostMem = s.hostMem ∧
        (∀ x, bindOf s win = some x → x.op = b.op → Map.find? t.binds win = none) ∧
        ∀ k, k ≠ win → Map.find? t.binds k = Map.find? s.binds k))

/-- R374 to R378 with R88 to R90, R212, R217, R218. That a transform, pass or tile operation is performed whole at its completion, and
that a transform which has read its inputs may release its locks first (`opensNow`), is the model's (log 27). -/
def Obligations.MatrixAndTransforms : Prop :=
  (∀ (f : ENG) (s : State) (c : Ctx),
    let u := counted s c
    let idle := ∀ o ∈ c.g.ops, o.id ∉ c.p.prog.ops
    let used := (u.locks.filter (fun x => x.cluster == clusterOf u c.core && decide (x.oid < 2 ^ 24))).length
    let cl := clusterOf u c.core
    let eng := fun (k : EngKind) (b : Option Word) (bar : Option Nat) => ({
      gang := c.gk, stamp := c.g.stamp, crew := c.ck, batch := b, bar := bar, kind := k
      cancelled := false, refused := [], st := 0, held := [], late := [] } : EngOp)
    let makes := fun (v : State) (e : EngOp) => v.nextEng = u.nextEng + 1 ∧ v.mem = u.mem ∧ v.acc = u.acc ∧
      Map.find? v.eng u.nextEng = some e ∧ ∀ k, k ≠ u.nextEng → Map.find? v.eng k = Map.find? u.eng k
    let joined := { c.g with openB := { c.g.openB with pending := c.g.openB.pending + 1 } }
    let locked := fun (v : State) (rs : List (Nat × Nat)) =>
      v.locks = u.locks ++ rs.flatMap (fun q => lockOf u c.who cl u.nextEng q.1 q.2)
    let tile := c.core * 64 + (crewAt u c.ck).tiles.getD f.tile.toNat 0
    let queued := fun (v : State) => Map.find? v.tileQ tile = some (Map.getD u.tileQ tile [] ++ [u.nextEng]) ∧
      ∀ k, k ≠ tile → Map.find? v.tileQ k = Map.find? u.tileQ k
    let a := rsw c.g f.a.toNat 2
    let b := rsw c.g f.b.toNat 2
    let row := rs c.g f.a.toNat
    let col := rs c.g f.b.toNat
    let t := f.d.toNat
    let steps := rs c.g f.d.toNat
    let spans := 1 ≤ col ∧ col ≤ 128 ∧ row + col ≤ 128
    let block := row % 32 = 0 ∧ row < 128 ∧ col % 8 = 0 ∧ col < 128
    (∀ i ∈ [Instr.azero f, .txv f, .vxt f, .xformCopy2d f, .xformTranspose f, .xformConvert f, .xformExpand f, .xformCsr2spr f,
        .xformCrc f], Runs i s c → c.act = 0 → exec i s = .next (advance u c.pk)) ∧
    (Runs (.mpass f) s c → ((1 ≤ steps ∧ steps ≤ 64) → c.act = 0 → exec (.mpass f) s = .next (advance u c.pk)) ∧
      (¬ (1 ≤ steps ∧ steps ≤ 64) → (c.act = 0 ∨ c.p.issued = 0) →
        exec (.mpass f) s = .next (trapAll u c .illegalOp c.trapMask [BitVec.ofNat 32 f.d.toNat]))) ∧
    (∀ i ∈ [Instr.adrainT f, .afillT f], Runs i s c → (block → c.act = 0 → exec i s = .next (advance u c.pk)) ∧
      (¬ block → exec i s = .next (trapAll u c .illegalOp c.trapMask
        [BitVec.ofNat 32 (if row % 32 = 0 ∧ row < 128 then f.b.toNat else f.a.toNat)]))) ∧
    (∀ i ∈ [Instr.adrainPlain f, .afillPlain f], Runs i s c → (spans → c.act = 0 → exec i s = .next (advance u c.pk)) ∧
      (¬ spans → exec i s = .next (trapAll u c .illegalOp c.trapMask
        [BitVec.ofNat 32 (if 1 ≤ col ∧ col ≤ 128 then f.a.toNat else f.b.toNat)]))) ∧
    (∀ i ∈ [(Instr.xformCopy2d f, 0), (.xformTranspose f, 1), (.xformConvert f, 2), (.xformExpand f, 3), (.xformCsr2spr f, 4),
        (.xformCrc f, 5)], Runs i.1 s c → c.act ≠ 0 → Memory.wf s.plain = true → recordFault u c a 64 = none →
      let bs := loadBytes u c.who a 64
      let r := layOf bs
      let rs := (layRanges u c.who r i.2).map (fun x => (x.1, x.2.1))
      ((isScaled r.sf = true ∨ (i.2 ≠ 5 ∧ isScaled r.df = true)) → feature u 2 = true) → badField r i.2 = none →
      barFault u c col = none → layFault u c r i.2 = none → idle → used + rs.length ≤ 64 →
      ∃ v, exec i.1 s = .next (advance v c.pk) ∧ makes v (eng (.xform i.2 bs) none (some col)) ∧ locked v rs ∧
        v.gangs = u.gangs ∧ Map.find? v.prism cl = some (Map.getD u.prism cl [] ++ [u.nextEng]) ∧
        barAt v c.ck col = { barAt u c.ck col with eng := ((barAt u c.ck col).eng + 1) % 2 ^ 32 }) ∧
    (∀ oa ob, Runs (.mpass f) s c → c.act ≠ 0 →
      let n := rs c.g f.d.toNat
      let x := rsw c.g f.c.toNat 2
      let fmt := loadBytes u c.who x 32
      let ranges := oprRanges oa n ++ oprRanges ob n
      1 ≤ n → n ≤ 64 → recordFault u c x 32 = none → chainOf u a b fmt = some (oa, ob) →
      inCluster u c a = true → inCluster u c b = true →
      (∀ r ∈ ranges, rangeCheck u (engWho c .engine) r.1 r.2 .read [] = none) → idle → used + ranges.length ≤ 64 →
      heldPass u c tile n a b = none →
      (32 ≤ (Map.getD u.resv cl []).length → ∃ v, exec (.mpass f) s = .next v ∧ locked v ranges ∧ v.resv = u.resv ∧
        v.tileQ = u.tileQ ∧ (pathAt v c.pk).wait = .table) ∧
      ((Map.getD u.resv cl []).length < 32 → ∃ v, exec (.mpass f) s = .next (advance v c.pk) ∧ locked v ranges ∧ queued v ∧
        makes v (eng (.pass tile n (BitVec.ofNat 64 a) (BitVec.ofNat 64 b) fmt) (some c.g.openB.num) none) ∧
        Map.find? v.gangs c.gk = some joined ∧ Map.find? v.resv cl = some (Map.getD u.resv cl [] ++
          [{ op := u.nextEng, cls := (runAt u c.run).cls, age := u.tick, core := c.core, byp := 0 }]))) ∧
    (∀ op, Runs (.mpass f) s c → c.act ≠ 0 → heldPass u c tile (rs c.g f.d.toNat) a b = some op →
      (Map.getD u.resv cl []).length < 32 → ∃ v, exec (.mpass f) s = .next (advance v c.pk) ∧
        v = { u with tileQ := v.tileQ, resv := v.resv } ∧
        Map.find? v.tileQ tile = some (Map.getD u.tileQ tile [] ++ [op]) ∧ Map.find? v.resv cl = some (Map.getD u.resv cl [] ++
          [{ op := op, cls := (runAt u c.run).cls, age := u.tick, core := c.core, byp := 0 }])) ∧
    (let tab := Map.getD u.resv cl []
     let mine := tab.filter (fun r => (Map.find? u.eng r.op).any (fun e => e.gang == c.gk && e.stamp == c.g.stamp))
     Runs (.mquery f) s c → ∃ x, Completes (.mquery f) s c {
        m := c.act, sd := f.sd, d := f.d.toNat, w := 1, val := fun _ => x } ∧
      (tab.length ≤ 32 → (∀ r ∈ tab, r.cls < 4) → x / 2 ^ 24 = tab.length ∧ x / 2 ^ 18 % 64 = mine.length ∧
        (mine = [] → x / 2 ^ 12 % 64 = 63 ∧ x / 2 ^ 3 % 128 = 127))) ∧
    (Runs (.azero f) s c → c.act ≠ 0 → ∃ v, exec (.azero f) s = .next (advance v c.pk) ∧
      makes v (eng (.azero tile) none none) ∧ queued v ∧ v.gangs = u.gangs) ∧
    ((Runs (.adrainT f) s c → c.act ≠ 0 → block → c.g.tpend.getLsbD t = false →
      ∃ v, exec (.adrainT f) s = .next (advance v c.pk) ∧ makes v (eng (.drainT tile t row col) none none) ∧ queued v ∧
        Map.find? v.gangs c.gk = some { c.g with
          tpend := c.g.tpend ||| (1#8 <<< t), tabort := c.g.tabort &&& ~~~ (1#8 <<< t) }) ∧
     (Runs (.afillT f) s c → c.act ≠ 0 → block → c.g.tpend.getLsbD t = false → c.g.tabort.getLsbD t = false →
      ∃ v ws, exec (.afillT f) s = .next (advance v c.pk) ∧ makes v (eng (.fillT tile row col ws) none none) ∧ queued v ∧
        v.gangs = u.gangs ∧ ∀ i j, i < 32 → j < 8 → (ws.getD (8 * i + j) 0).toNat = rt c.g t i j)) ∧
    (∀ i ∈ [(Instr.adrainPlain f, true), (.afillPlain f, false)], Runs i.1 s c → c.act ≠ 0 →
      let d := rsw c.g f.d.toNat 2
      spans → (oidOf d = aliasId ∨ oidOf d = plainId) → d % 4 = 0 →
      inScratch u c.who d (512 * col) = true → idle → used + 1 ≤ 64 →
      ∃ v, exec i.1 s = .next (advance v c.pk) ∧ locked v [(d, 512 * col)] ∧ queued v ∧ makes v (eng
          (if i.2 then .drainPlain tile (BitVec.ofNat 64 d) row col else .fillPlain tile (BitVec.ofNat 64 d) row col)
          (some c.g.openB.num) none) ∧ Map.find? v.gangs c.gk = some joined) ∧
    (let T := f.tile.toNat
     (Runs (.txv f) s c → c.act ≠ 0 → c.g.tpend.getLsbD T = false → c.g.tabort.getLsbD T = false →
      ∃ v m, exec (.txv f) s = .next (advance v c.pk) ∧ OnlyGang u v c.gk ∧
        Map.find? v.gangs c.gk = some { c.g with v := m } ∧
        ∀ n l, l < 32 → rv { c.g with v := m } n l =
          if c.act.getLsbD l = true ∧ t ≤ n ∧ n < t + 8 then rt c.g T l (n - t) else rv c.g n l) ∧
     (Runs (.txv f) s c → c.act ≠ 0 → c.g.tpend.getLsbD T = false → c.g.tabort.getLsbD T = true →
      exec (.txv f) s = .next (trapAll u c .engineAbort c.act [])) ∧
     (Runs (.vxt f) s c → c.act ≠ 0 → c.g.tpend.getLsbD T = false →
      ∃ v m, exec (.vxt f) s = .next (advance v c.pk) ∧ OnlyGang u v c.gk ∧
        Map.find? v.gangs c.gk = some { c.g with
          t := m, tabort := if c.act = -1 then c.g.tabort &&& ~~~ (1#8 <<< T) else c.g.tabort } ∧
        ∀ n i j, i < 32 → j < 8 → rt { c.g with t := m } n i j =
          if n = T ∧ c.act.getLsbD i = true then rv c.g (f.a.toNat + j) i else rt c.g n i j))) ∧
  (∀ (s : State) (op k off : Nat) (e : EngOp) (bs : List Byte) (rest : List Nat),
    let r := layOf bs
    let at' := fun (a n : Nat) => oidOf a = plainId ∧ offOf a + n ≤ 2 ^ 29
    let bits := elemBits r.sf
    let data := (List.range r.rows).flatMap (fun i => (List.range (r.cols * bits / 8)).map (fun j =>
      readByte s (.plain (offOf r.src + i * r.sp + j))))
    let p := aliasToPlain s e.crew off
    s.mg.tripped = false → e.held = [] →
      Map.getD s.prism k [] = op :: rest → Map.find? s.eng op = some e → e.kind = .xform 5 bs → e.bar = some off →
      bits % 8 = 0 → r.fl = 4 → at' r.src ((r.rows - 1) * r.sp + r.cols * bits / 8) → r.crcdst % 64 = 0 →
      at' r.crcdst 16 → (∀ i, Map.getD s.plainPoison i false = false) →
      ∃ t, exec (.prismTransformComplete k) s = .next t ∧ t.mem = s.mem ∧
        (opensNow s op e = true → t.plain = s.plain ∧ t.prism = s.prism ∧ t.locks = s.locks.filter (fun x => x.op != op) ∧
          ∃ h, Map.find? t.eng op = some { e with held := h, late := s.locks.filter (fun x => x.op == op) } ∧
            (((h.find? (fun x => x.1 == 0)).map (·.2)).getD []).flatten.map (·.b) = data) ∧
        (opensNow s op e = false → Map.find? t.eng op = none ∧ Map.getD t.prism k [] = rest ∧
          ∀ x, (x < p ∨ p + 32 ≤ x) → readByte t (.plain x) =
            if offOf r.crcdst ≤ x ∧ x < offOf r.crcdst + 16 then
              (leBytes 4 0 ++ leBytes 4 (crc32c data) ++ leBytes 8 0).getD (x - offOf r.crcdst) 0
            else readByte s (.plain x))) ∧
  (∀ (s : State) (k : Nat),
    let tab := Map.getD s.resv k []
    s.mg.tripped = false → Map.find? s.granted k = none → (∃ x ∈ tab, grantable s x = true) →
      ∃ t r, exec (.matrixGrant k) s = .next t ∧ t = { s with resv := t.resv, granted := t.granted, ctrs := t.ctrs } ∧
        r ∈ tab ∧ grantable s r = true ∧ Map.find? t.granted k = some r.op ∧
        ((∀ x ∈ tab, x.byp < 64) → ∀ x ∈ tab, grantable s x = true → r.cls ≤ x.cls) ∧
        (∀ x ∈ Map.getD t.resv k [], x.op ≠ r.op) ∧
        ∀ j, j ≠ k → Map.find? t.granted j = Map.find? s.granted j ∧ Map.getD t.resv j [] = Map.getD s.resv j []) ∧
  (∀ (s : State) (op : Nat) (e : EngOp), s.mg.tripped = false → Map.find? s.eng op = some e →
    let cl := clusterOf s (e.gang / 64)
    (∀ tile steps a b fmt x y, e.kind = .pass tile steps a b fmt → Map.find? s.granted cl = some op →
      oprOf a.toNat (fmt.take 16) = some x → oprOf b.toNat ((fmt.drop 16).take 16) = some y →
      let r := passChain (opWho s e) tile steps x y steps s
      ∃ t, exec (.passComplete op) s = .next t ∧ t.acc = r.1.acc ∧ Map.find? t.granted cl = none ∧
        Map.find? t.eng op = none ∧ Map.getD t.tileQ tile [] = (Map.getD s.tileQ tile []).drop 1 ∧
        ∀ g, e.batch = some g.openB.num → e.bar = none → Map.find? s.gangs e.gang = some g → g.stamp = e.stamp →
          Map.find? t.gangs e.gang = some { g with openB := {
            num := g.openB.num, pending := g.openB.pending - 1, status := g.openB.status ||| if r.2 then 8 else 0 } }) ∧
    (∀ core n rest, Map.getD s.tileQ (core * 64 + n) [] = op :: rest →
      let T := core * 64 + n
      let word := fun (t : State) (k i j : Nat) => (Map.getD t.acc (k * 16384 + 128 * i + j) 0).toNat
      let done := fun (t : State) => exec (.tileOpPerform core n) s = .next t ∧ Map.find? t.eng op = none ∧
        Map.getD t.tileQ T [] = rest ∧ t.mem = s.mem
      (e.kind = .azero T → ∃ t, done t ∧ (∀ k i j, i < 128 → j < 128 → word t k i j = if k = T then 0 else word s k i j) ∧
        ∀ i < 1024, Map.getD t.accPoison (T * 1024 + i) false = false) ∧
      (∀ d row col g, e.kind = .drainT T d row col → e.cancelled = false → Map.find? s.gangs e.gang = some g →
        g.stamp = e.stamp → e.batch = none → e.bar = none → row + 32 ≤ 128 → col + 8 ≤ 128 → d < 8 →
        (∀ i < 1024, Map.getD s.accPoison (T * 1024 + i) false = false) →
        ∃ t m, done t ∧ t.acc = s.acc ∧
          Map.find? t.gangs e.gang = some { g with t := m, tpend := g.tpend &&& ~~~ (1#8 <<< d) } ∧
          ∀ i j, i < 32 → j < 8 → rt { g with t := m } d i j = word s T (row + i) (col + j)) ∧
      (∀ row col ws, e.kind = .fillT T row col ws → row + 32 ≤ 128 → col + 8 ≤ 128 →
        ∃ t, done t ∧ ∀ k i j, i < 128 → j < 128 → word t k i j =
          if k = T ∧ row ≤ i ∧ i < row + 32 ∧ col ≤ j ∧ j < col + 8 then (ws.getD (8 * (i - row) + (j - col)) 0).toNat
          else word s k i j)))

/-- R83 to R86, R100, R104, R105, R113, R252 to R255, R276, R279. The model's are: when each happens (log 1), that a release
reaches the held paths of pre-empted crews (log 26), what an outcome lost at a completion does (log 20), and the corners of slots and
claims (log 31). -/
def Obligations.PathEvents : Prop :=
  (∀ (s : State) (k n : Nat) (x : Path) (word : DWord) (h : Header), Map.find? s.paths k = some x → x.clause = none →
    x.slot = some n → ready s k x = true → mustYield s (4 * (k / 512) + quadOf s x.gang) x = false →
    (∀ m, breakHit s k x = some m → ∃ t, exec (.clauseFetch k) s = .next t ∧ t.gangs = s.gangs ∧
      Map.find? t.paths k = some { x with wait := .held m, urgent := none } ∧
      ∀ j, j ≠ k → Map.find? t.paths j = Map.find? s.paths j) ∧
    (breakHit s k x = none → meets s k x = [] → x.defer = [] → x.stray = false →
      let w := pathWho s k x
      let words := (List.range (h.n + 1)).map (fun i =>
        if 2 ^ 40 < offOf x.pc.toNat + 8 * (i + 2) then Fetched.bad .bounds else fetchAt s w (x.pc.toNat + 8 * (i + 1)))
      let fetched := s.peerOps.filter (fun o => match o.owner with
        | .fetch _ j _ => j != k
        | _ => true)
      let fault := fun (code : TrapCode) (extra : List Word) => (takeTrap
        { s with paths := Map.put s.paths k { x with urgent := none }, peerOps := fetched }
        { pk := k, pc := x.pc, cslot := 0, clause := none, hdr := x.pc, akind := 0, extra := extra, xfer := false }
        ((lanes x.mask).map (fun l => { lane := l, code := code, addr := if code = .illegalClause then 0 else x.pc.toNat }))).1
      (∀ code, fetchAt s w x.pc.toNat = .lost code → exec (.clauseFetch k) s = .next (fault .remoteLost [0, 0, BitVec.ofNat 32 code])) ∧
      (∀ code, fetchAt s w x.pc.toNat = .bad code → code ≠ .pageHost → exec (.clauseFetch k) s = .next (fault code [])) ∧
      (fetchAt s w x.pc.toNat = .wait → fetchOp s { w with use := .fetch } x.pc.toNat ≠ none → ∃ t y, exec (.clauseFetch k) s = .next t ∧
        Map.find? t.paths k = some y ∧ y = { x with urgent := none, wait := .peer } ∧ t.peerOps = s.peerOps ∧ t.gangs = s.gangs) ∧
      (fetchAt s w x.pc.toNat = .word word →
      (parseHeader word = some h → (∀ y ∈ words, y ≠ .bad .pageHost ∧ y ≠ .wait) →
        ∃ t, exec (.clauseFetch k) s = .next t ∧
          t = { s with paths := t.paths, ctrs := t.ctrs, xlats := t.xlats, nextUid := s.nextUid + 1, peerOps := fetched } ∧
          Map.find? t.paths k = some { x with
            pc := x.pc + 8, wait := .none, swapHint := false, issued := 0, limit := none, urgent := none
            clause := some {
              hdr := x.pc, n := h.n, cls := h.cls, yld := h.yld, sets := h.sets, words := words, slot := 0, uid := s.nextUid } } ∧
          ∀ j, j ≠ k → Map.find? t.paths j = Map.find? s.paths j) ∧
      (parseHeader word = none → exec (.clauseFetch k) s = .next (fault .illegalClause []))))) ∧
  (∀ (s : State) (i j : Nat) (p q : Path), Map.find? s.paths i = some p → Map.find? s.paths j = some q → i < j →
    (∀ e ∈ s.paths, e.2.defer = []) → p.defer = [] → q.defer = [] →
    let t := (mergeTwo s (i, p) (j, q)).2
    (mergeTwo s (i, p) (j, q)).1 = i ∧ Map.find? t.paths j = none ∧
      ∃ m, Map.find? t.paths i = some m ∧ m.mask = p.mask ||| q.mask ∧ m.stamp = min p.stamp q.stamp ∧
        m.prog = p.prog.join q.prog s.nextUid) ∧
  (∀ (s : State) (q : Nat),
    let held := fun (e : Nat × Path) => e.2.slot ≠ none ∧ e.2.clause = none ∧ claimHolds s e.2 = true
    (s.mg.tripped = false → (∃ e ∈ quadPaths s q, held e) → ∃ t v k n, exec (.activeSetSwap q) s = .next t ∧
      t = { s with paths := t.paths, ctrs := t.ctrs } ∧ v ∈ quadPaths s q ∧ held v ∧ v.2.slot = some n ∧ v.2.claimed = some k ∧
      t.paths = Map.adjust (Map.adjust s.paths v.1 (fun p => { p with slot := none, swapHint := false, claimed := none })) k
        (fun p => { p with slot := some n })) ∧
    ((∀ e ∈ quadPaths s q, ¬ held e) →
      (readyPending s q = [] → exec (.activeSetSwap q) s = .next s) ∧
      (readyPending s q ≠ [] → (∃ n < 8, ∀ e ∈ quadPaths s q, e.2.slot ≠ some n) →
        ∃ t e n, exec (.activeSetSwap q) s = .next t ∧ t = { s with paths := t.paths, ctrs := t.ctrs } ∧ e ∈ readyPending s q ∧
          n < 8 ∧ (∀ y ∈ quadPaths s q, y.2.slot ≠ some n) ∧
          t.paths = Map.adjust s.paths e.1 (fun p => { p with slot := some n })))) ∧
  (∀ (s : State) (k : Nat) (x : Path), Map.find? s.paths k = some x →
    (x.slot ≠ none → ready s k x = true → x.urgent = none →
      exec (.pathUrgent k) s = .next { s with paths := Map.put s.paths k { x with urgent := some s.tick } }) ∧
    (let claims := hasClaim s (4 * (k / 512) + quadOf s x.gang) k
     (x.slot = none → ready s k x = true → (x.urgent = none ∨ claims = false) → ∃ t y, exec (.pathUrgent k) s = .next t ∧
       t = { s with paths := t.paths, ctrs := t.ctrs } ∧ Map.find? t.paths k = some y ∧ y.urgent = some (x.urgent.getD s.tick)) ∧
     ((ready s k x = false ∨ (x.urgent ≠ none ∧ (x.slot ≠ none ∨ claims = true))) → exec (.pathUrgent k) s = .next s)) ∧
    (s.mg.tripped = false → x.wait = .sleep → exec (.sleepExpire k) s = .next { s with paths := Map.put s.paths k { x with wait := .none } })) ∧
  (∀ (s : State) (q slot reload : Nat),
    ((8 ≤ slot ∨ reload < 61440 ∨ 69632 < reload) → exec (.lensSample q slot reload) s = .next s) ∧
    (s.mg.tripped = false → slot < 8 → 61440 ≤ reload → reload ≤ 69632 → ∃ t, exec (.lensSample q slot reload) s = .next t ∧
      Map.find? t.lens q = some reload ∧ t.paths = s.paths ∧ t.gangs = s.gangs ∧
      (s.mg.traceCtl.getLsbD 63 = false → t = { s with lens := t.lens, free := t.free }))) ∧
  (∀ (s : State) (gk op : Nat) (g : Gang) (o : LaneOp), s.mg.tripped = false → Map.find? s.gangs gk = some g →
    g.ops.find? (fun x => x.id == op) = some o →
    (∀ ws, o.body = .writes ws → ∃ t h, exec (.longLatencyComplete gk op) s = .next t ∧ OnlyGang s t gk ∧
      Map.find? t.gangs gk = some h ∧ h = { g with v := h.v, s := h.s, p := h.p, ops := g.ops.filter (fun x => x.id ≠ op) } ∧
      (∀ n l, (∀ y, RegWrite.v n l y ∉ ws) → l < 32 → (∀ n' l' y, RegWrite.v n' l' y ∈ ws → l' < 32) → rv h n l = rv g n l) ∧
      (∀ n l y, ws = [.v n l y] → rv h n l = if g.live.getLsbD l then y.toNat else rv g n l) ∧
      (∀ n y, ws = [.s n y] → rs h n = if g.live = 0 then rs g n else y.toNat) ∧
      (∀ n l b, ws = [.p n l b] → l < 32 → rp h n l = if g.live.getLsbD l then b else rp g n l)) ∧
    (∀ tags, o.body = .peer tags [] → g.arr = [] → (∀ r ∈ s.peerOps, r.tag ∈ tags → r.answer ≠ none ∨ r.fail ≠ none) →
      ∃ t h, exec (.longLatencyComplete gk op) s = .next t ∧ Map.find? t.gangs gk = some h ∧
        h = { g with ops := g.ops.filter (fun x => x.id ≠ op), lost := h.lost } ∧ (∀ x ∈ g.lost, x ∈ h.lost) ∧
        (∀ r ∈ s.peerOps, r.tag ∈ tags → ∀ code a p n l, r.fail = some code → r.owner = .lane a p n l →
          ({ op := n, lane := l, addr := r.addr, code := code } : Lost) ∈ h.lost) ∧
        ∀ r ∈ t.peerOps, r.tag ∉ tags)) ∧
  (∀ (s : State) (n : Nat) (v : BitVec 32), n < 4 →
    (arrives s = false → exec (.bkptRelease n v) s = .next s) ∧
    (arrives s = true → (v.getLsbD 31 = false ∨ v.getLsbD 29 = true) → ∃ t, exec (.bkptRelease n v) s = .next t ∧
      (Map.getD t.mg.bkptCtl n 0).getLsbD 31 = false ∧ t.gangs = s.gangs ∧
      t.pre = s.pre.map (fun p => if heldSaved s n p then { p with released := p.released ++ [n] } else p) ∧
      ∀ k x, Map.find? s.paths k = some x → Map.find? t.paths k = some (if x.wait = .held n then { x with wait := .none } else x)))

/-- R57 to R63, R81, R91, R92, R119, R120, R379. The model's are: the queue of stalled writes and the place a crew takes (log 29), a write
after a trip counted in LPERR (log 32), and when growth counts as stuck (log 30). -/
def Obligations.LaunchEvents : Prop :=
  (∀ (s : State) (off : Nat) (data : List Byte),
    let p := off / 4096
    let good := data.length = 64 ∧ off % 64 = 0 ∧ p < 4 ∧ s.mg.launchEn = true ∧ s.mg.tripped = false
    let rec' := data.take 23 ++ [BitVec.ofNat 8 ((data.getD 23 0).toNat / 4 * 4 + p)] ++ data.drop 24
    (s.mg.hostReady = false → exec (.launchPortWrite off data) s = .next s) ∧
    (s.mg.hostReady = true → ¬ good → exec (.launchPortWrite off data) s =
      .next { s with mg := { s.mg with lpErr := s.mg.lpErr + 1 } }) ∧
    (s.mg.hostReady = true → good → s.stalled = [] → (Map.getD s.lq p []).length < 1024 → Map.getD s.spill p [] = [] →
      exec (.launchPortWrite off data) s = .next { s with
        lq := Map.put s.lq p (Map.getD s.lq p [] ++ [rec']), arrivals := s.arrivals ++ [p] }) ∧
    (s.mg.hostReady = true → good → (s.stalled ≠ [] ∨ portRoom s p = false) →
      exec (.launchPortWrite off data) s = .next { s with stalled := s.stalled ++ [(p, rec')] })) ∧
  (∀ (s : State) (p : Nat) (bs : List Byte) (rest : List (List Byte)), s.mg.svcRed = true → s.mg.tripped = false →
    s.mg.ckptBusy = false → s.stalled = [] → Map.getD s.lq p [] = bs :: rest → Map.getD s.spill p [] = [] →
    let r := parseLaunch bs
    let turn := (∀ q ∈ s.arrivals.takeWhile (fun q => q != p), p ≤ q) ∧ s.devQ = [] ∧ partOp s = none
    (¬ turn → exec (.launchAccept p) s = .next s) ∧
    (∀ st, turn → launchBad s r = some st → r.compl = 0 → exec (.launchAccept p) s = .next { s with
      lq := Map.put s.lq p rest, arrivals := s.arrivals.erase p, mg := { s.mg with rejTag := r.tag, rejPort := p, rejStatus := st } }) ∧
    (turn → launchBad s r = none → ∃ t x, exec (.launchAccept p) s = .next t ∧ Map.getD t.lq p [] = rest ∧ t.nextRun = s.nextRun + 1 ∧
      Map.find? t.runs s.nextRun = some x ∧ x.lr = r ∧ x.cls = r.ctl % 4 ∧ x.next = 0 ∧ x.retired = 0)) ∧
  (∀ (s : State), (s.mg.svcRed = false ∨ s.mg.tripped = true ∨ s.mg.ckptBusy = true) →
    ∀ p, exec (.launchAccept p) s = .next s) ∧
  (∀ (s : State), s.mg.tripped = false → (s.runs.map (·.1)).Nodup →
    (∀ e ∈ s.runs, ∀ w ∈ e.2.left, peerHome s (deviceWho 0) (addrOf w 0) = none) →
    ∃ t, exec .waitCountPoll s = .next t ∧ t = { s with runs := t.runs } ∧
      ∀ k x, Map.find? s.runs k = some x → Map.find? t.runs k = some (
        let left := x.left.filter (fun w => objNat s (deviceWho 0) (addrOf w 0) 4 != 0)
        if x.eligible ∨ left.length = x.left.length then x else { x with left := left, eligible := left.isEmpty })) ∧
  (∀ (s : State), s.mg.tripped = false → ∃ t, exec .svcfullTimeout s = .next t ∧ t = { s with mg := { s.mg with svcFull := t.mg.svcFull } } ∧
    (t.mg.svcFull = true ↔ s.mg.svcFull = true ∨ (s.mg.dieTrained ≠ 0 ∧
      ∀ d < 8, s.mg.dieTrained.getLsbD d = true ∨ s.mg.dieFail.getLsbD d = true))) ∧
  (∀ (f : ENG) (s : State) (c : Ctx),
    let u := counted s c
    let a := rsw c.g f.a.toNat 2
    let e := entryOf u (oidOf a)
    let w := c.whoAt (lowLane c.act)
    let bs := leBytes 64 (loadLoc u (locate u w a) 64)
    let p := (bs.getD 23 0).toNat % 4
    (Runs (.launch f) s c → c.act = 0 → exec (.launch f) s = .next (advance u c.pk)) ∧
    (Runs (.launch f) s c → c.act ≠ 0 → (∀ o ∈ c.g.ops, o.id ∉ c.p.prog.ops) →
      peerOpOf u c (lowLane c.act) = none → peerHome u w a = none → check u { w with noWatch := true } a 64 .read = none →
      (oidOf a = aliasId ∨ oidOf a = plainId ∨ (e.ok = true ∧ e.kind = 1)) →
      (((∃ x ∈ u.stalled, x.1 = p) ∨ portRoom u p = false) → exec (.launch f) s = .next (waitFor u c (.port p))) ∧
      ((∀ x ∈ u.stalled, x.1 ≠ p) → (Map.getD u.lq p []).length < 1024 → Map.getD u.spill p [] = [] →
        ∃ v, exec (.launch f) s = .next (advance v c.pk) ∧ Map.find? v.lq p = some (Map.getD u.lq p [] ++ [bs]) ∧
          (∀ k, k ≠ p → Map.find? v.lq k = Map.find? u.lq k) ∧ v.arrivals = u.arrivals ++ [p] ∧ v.mem = u.mem ∧
          v.plain = u.plain ∧ v.gangs = u.gangs))) ∧
  (∀ (s : State) (rk : Nat), placing s = some (rk, none) → (∀ e ∈ s.runs, e.1 = rk → e.2 = runAt s rk) →
    (runAt s rk).lr.cor = false → (Map.find? s.runs rk).isSome →
    let r := runAt s rk
    ∃ t ck c x, exec .crewPlace s = .next t ∧ Map.find? s.crews ck = none ∧ Map.find? t.crews ck = some c ∧
      c.run = rk ∧ c.no = r.next ∧ c.ng = r.lr.gangs ∧ c.draining = false ∧ c.gran.length = r.lr.scratch ∧
      Map.find? t.runs rk = some x ∧ x.next = r.next + 1 ∧
      ∀ no < r.lr.gangs, ∃ gk g pk q, Map.find? s.gangs gk = none ∧ Map.find? t.gangs gk = some g ∧ g.crew = ck ∧ g.no = no ∧
        g.live = -1 ∧ g.nv = 8 * r.lr.vinit ∧ g.ns = 16 * r.lr.sregs ∧ g.nt = r.lr.tiles ∧
        (r.lr.sregs ≠ 0 → rsw g 0 2 = r.lr.arg.toNat) ∧ (∀ n l, rv g n l = 0) ∧
        Map.find? s.paths pk = none ∧ Map.find? t.paths pk = some q ∧ q.gang = gk ∧ q.mask = -1 ∧ q.depth = 0 ∧
        q.kind = .ordinary ∧ q.pc = BitVec.ofNat 64 (r.lr.code * 2 ^ 40 + r.lr.entry)) ∧
  (∀ (s : State) (k : Nat) (g : Gang), Map.find? s.gangs k = some g →
    (g.live ≠ 0 ∨ g.ops ≠ [] → exec (.gangRetire k) s = .next s) ∧
    (s.mg.tripped = false → g.live = 0 → g.ops = [] → ∃ t, exec (.gangRetire k) s = .next t ∧ Map.find? t.gangs k = none ∧ t.paths = s.paths ∧
      (∀ h ∈ t.harvs, h.gang ≠ k) ∧ (g.lost ≠ [] → ∀ x, Map.find? s.runs (crewAt s g.crew).run = some x →
        Map.find? t.runs (crewAt s g.crew).run = some { x with remoteLost := true }))) ∧
  (∀ (s : State) (k : Nat) (c : Crew) (r : Run), Map.find? s.crews k = some c → Map.find? s.runs c.run = some r →
    let idle := (∀ e ∈ s.gangs, e.2.crew ≠ k) ∧ ∀ e ∈ s.eng, e.2.crew ≠ k
    (¬ idle → exec (.crewSlotRelease k) s = .next s) ∧
    (s.mg.tripped = false → idle → r.retired + 1 < r.lr.crews → ∃ t x, exec (.crewSlotRelease k) s = .next t ∧ Map.find? t.crews k = none ∧
      Map.find? t.runs c.run = some x ∧ x.retired = r.retired + 1 ∧ x.tLast = some (Config.nsAt s.tick)) ∧
    (s.mg.tripped = false → idle → r.lr.crews ≤ r.retired + 1 → ∃ t, exec (.crewSlotRelease k) s = .next t ∧ Map.find? t.crews k = none ∧
      (Map.find? t.runs c.run = none ∨ ∃ d ∈ t.devQ, d.mark = some (.endRun c.run)) ∧
      (r.lr.compl = 0 → r.lr.signal = 0 → Map.find? t.runs c.run = none))) ∧
  (∀ (s : State) (k n : Nat) (g : Gang), s.mg.tripped = false → Map.find? s.gangs k = some g →
    let nv := max g.nv n
    let granted := fun (t : State) => t = { s with gangs := t.gangs, paths := t.paths } ∧
      Map.find? t.gangs k = some { g with nv := nv } ∧
      ∀ j x, Map.find? s.paths j = some x → Map.find? t.paths j = some (match x.wait with
        | .growth m => if x.gang = k ∧ m ≤ nv then { x with wait := .none } else x
        | _ => x)
    oldestWant s (k / 64) = some (k, g, n) →
    (growthFits s k n = true → ∃ t, exec (.vgrowGrant k) s = .next t ∧ granted t) ∧
    (growthStuck s (k / 64) = true → (∀ e ∈ crewsOn s (k / 64), e.2.draining = false) →
      128 * (n - g.nv) ≤ freeV s (k / 64) → ∃ t, exec (.growthDeadlockBreak (k / 64)) s = .next t ∧ granted t)) ∧
  (∀ (s : State) (core : Nat), growthStuck s core = false → exec (.growthDeadlockBreak core) s = .next s)

/-- R70 to R72, R93 to R96, R133. The model's are: the latched target and direction of a GO, the refilled pools and the restored hold
(log 33), and the choice of the fewest crews (log 30). -/
def Obligations.PreemptAndCheckpoint : Prop :=
  (∀ (s : State), (∀ e ∈ eligibleRuns s, e.2.cls ≠ 0) → exec .priorityPreempt s = .next s) ∧
  (∀ (s u : State) (rk : Nat) (r : Run) (cks : List Nat) (before after : List (Nat × Run)),
    let needs := needsOf s rk r
    let without := fun (core : Nat) (xs : List Nat) =>
      (roomsNow s).map (fun x => if x.1 = core then (core, roomWithout s core xs) else x)
    (eligibleRuns s).filter (fun e => e.2.cls == 0) = before ++ (rk, r) :: after →
    (∀ e ∈ before, priorityFor s e.1 e.2 = none) → priorityFor s rk r = some cks →
    s.mg.tripped = false → s.mg.ckptBusy = false → s.mg.restored = false → (∀ e ∈ s.crews, e.2.draining = false) →
    beginDrains s cks = some u →
    exec .priorityPreempt s = .next u ∧ u.paths = s.paths ∧
      ∃ core k, core < s.deal.length ∧ allFit (roomsNow s) (needs.take k) = true ∧ allFit (roomsNow s) (needs.take (k + 1)) = false ∧
        allFit (without core cks) (needs.take (k + 1)) = true ∧
        (∀ xs, List.Sublist xs (yielders s core) → xs.length < cks.length → allFit (without core xs) (needs.take (k + 1)) = false) ∧
        ∀ ck ∈ cks, (crewAt u ck).draining = true ∧
          ∃ e ∈ s.crews, e.1 = ck ∧ ck / 16 = core ∧ 2 ≤ (runAt s e.2.run).cls ∧ (runAt s e.2.run).lr.cor = false) ∧
  (∀ (s : State) (c : Nat),
    (drainReady s c = false → exec (.drainComplete c) s = .next s) ∧
    (s.mg.tripped = false → drainReady s c = true → (crewPins s c).length ≤ (freePinRecs s).length →
      (saveCrew s c).devQ ≠ [] → exec (.drainComplete c) s = .next s) ∧
    (s.mg.tripped = false → drainReady s c = true → (crewPins s c).length ≤ (freePinRecs s).length → (saveCrew s c).devQ = [] → ∃ t p, exec (.drainComplete c) s = .next t ∧
      Map.find? t.crews c = none ∧ (∀ e ∈ t.gangs, e.2.crew ≠ c) ∧ t.pre = s.pre ++ [p] ∧ p.run = (crewAt s c).run ∧
      p.no = (crewAt s c).no ∧ p.ng = (crewAt s c).ng ∧ p.gran = (crewAt s c).area.1 ∧ p.core = c / 16)) ∧
  (∀ (s : State) (k rk core : Nat) (p q : PreCrew), placing s = some (rk, some p) → s.pre[k]? = some q → p.run = q.run →
    p.no = q.no → (runAt s p.run).lr.cor = false → resumeCore s p = some core →
    (∀ as, imagesAt s p.ng (addrOf s.mg.savePool (65536 * p.gran)) = some as → ∃ t ck x, exec (.crewResume k) s = .next t ∧
      Map.find? s.crews ck = none ∧ ck / 16 = core ∧ Map.find? t.crews ck = some x ∧ x.run = p.run ∧ x.no = p.no ∧ x.ng = p.ng ∧
      x.draining = false ∧ ∀ y ∈ t.pre, ¬ (y.run = p.run ∧ y.no = p.no)) ∧
    (imagesAt s p.ng (addrOf s.mg.savePool (65536 * p.gran)) = none → ∀ x, Map.find? s.runs p.run = some x →
      x.retired + 1 < x.lr.crews → ∃ t y, exec (.crewResume k) s = .next t ∧ Map.find? t.runs p.run = some y ∧
        y.killed = x.killed + (p.nvs.length - (p.hidG.filter (fun g => g.killed != 0)).length) ∧ y.retired = x.retired + 1 ∧ t.crews = s.crews ∧
        ∀ z ∈ t.pre, ¬ (z.run = p.run ∧ z.no = p.no))) ∧
  (∀ (s : State) (v : BitVec 32), arrives s = true → v.getLsbD 1 = false →
    let wrote := fun (t : State) => t = { s with mg := t.mg } ∧ t.mg.ckptDir = false ∧ t.mg.ckptTarget = v.getLsbD 2 ∧
      t.mg.ckptDone = (s.mg.ckptDone && !v.getLsbD 30)
    ((s.mg.ckptBusy = true ∨ v.getLsbD 0 = false) → ∃ t, exec (.checkpointSaveGo v) s = .next t ∧ wrote t ∧
      t.mg.ckptBusy = s.mg.ckptBusy ∧ t.mg.ckptGo = s.mg.ckptGo ∧ t.mg.ckptFail = (s.mg.ckptFail && !v.getLsbD 29)) ∧
    (v.getLsbD 0 = true → s.mg.ckptBusy = false → ((s.mg.tripped = true ∧ s.mg.tripSaved = false) ∨ (s.mg.tripped = false ∧ s.crews = [])) →
      ∃ t, exec (.checkpointSaveGo v) s = .next t ∧ wrote t ∧ t.mg.ckptBusy = true ∧ t.mg.ckptProg = 0 ∧
        t.mg.ckptGo = (v.getLsbD 2, false, s.mg.ckptAddr) ∧ t.mg.ckptTime = Config.nsAt s.tick ∧ t.mg.ckptFail = (s.mg.ckptFail && !v.getLsbD 29)) ∧
    (v.getLsbD 0 = true → s.mg.ckptBusy = false → s.mg.tripped = true → s.mg.tripSaved = true →
      ∃ t, exec (.checkpointSaveGo v) s = .next t ∧ wrote t ∧ t.mg.ckptBusy = false)) ∧
  (∀ (s : State), s.mg.ckptBusy = true → s.mg.ckptGo.2.1 = false → Memory.wf s.hostMem = true → Memory.wf s.ckpt = true →
    (s.mg.tripped = true ∨ (s.crews = [] ∧ s.bounce = [] ∧ s.devQ = []) → ∃ t, exec .checkpointSaveDone s = .next t ∧
      t.mg.ckptBusy = false ∧ t.mg.ckptDone = true) ∧
    (s.mg.tripped = true → ∃ t, exec .checkpointSaveDone s = .next t ∧ t.mem = s.mem ∧ t.paths = s.paths ∧
      ckptNat t 0 4 = 0x5A434B50 ∧ ckptNat t 4 4 = 1 ∧ ckptNat t 16 1 = s.mg.dieTrained.toNat ∧
      ckptNat t 52 4 = 0 ∧ ckptNat t 56 4 = 0 ∧ ckptNat t 64 8 = s.mg.ckptTime.toNat) ∧
    (s.mg.tripped = false → (s.crews ≠ [] ∨ s.bounce ≠ [] ∨ s.devQ ≠ []) → exec .checkpointSaveDone s = .next s) ∧
    (∃ t, exec .checkpointTargetStopped s = .next t ∧ t.mg.ckptBusy = false ∧ t.mg.ckptFail = true ∧
      ∀ e ∈ t.crews, e.2.draining = false)) ∧
  (∀ (s : State), s.mg.ckptBusy = false → exec .checkpointSaveDone s = .next s ∧ exec .checkpointTargetStopped s = .next s ∧
    exec .checkpointRestoreDone s = .next s) ∧
  (∀ (s : State) (v : BitVec 32), arrives s = true → v.getLsbD 1 = true → v.getLsbD 0 = true → s.mg.ckptBusy = false →
    s.mg.launchEn = false → s.runs = [] → s.mg.tripped = false →
    let u : State := { s with mg := { s.mg with ckptGo := (v.getLsbD 2, true, s.mg.ckptAddr) } }
    let good := ckptNat u 0 4 = 0x5A434B50 ∧ ckptNat u 4092 4 = crc32c (ckptBytes u 0 4092) ∧ ckptNat u 20 4 = Config.framesPerDie ∧
      (∀ d < 8, (ckptNat u 16 1).testBit d = true → s.mg.dieTrained.getLsbD d = true) ∧
      ckptNat u 40 4 &&& Config.features0 = ckptNat u 40 4 ∧ ckptNat u 44 4 = 0 ∧
      ¬ ((ckptNat u 4 4).testBit 0 = true ∧ (ckptNat u 52 4 ≠ 0 ∨ ckptNat u 56 4 ≠ 0))
    (good → ∃ t, exec (.checkpointRestoreGo v) s = .next t ∧ t = { s with mg := t.mg } ∧ t.mg.ckptBusy = true ∧
      t.mg.ckptDir = true ∧ t.mg.ckptTarget = v.getLsbD 2 ∧ t.mg.ckptProg = 0 ∧ t.mg.ckptPois = 0) ∧
    (¬ good → ∃ t, exec (.checkpointRestoreGo v) s = .next t ∧ t = { s with mg := t.mg } ∧ t.mg.ckptBusy = false ∧
      t.mg.ckptFail = true)) ∧
  (∀ (s : State), s.mg.tripped = false → s.mg.ckptBusy = true → s.mg.ckptGo.2.1 = true → ∃ t, exec .checkpointRestoreDone s = .next t ∧
    t.mg.ckptBusy = false ∧ t.mg.ckptDone = true ∧ t.mg.restored = true ∧ t.mg.objtBase = ckptNat s 24 4 % 2 ^ 23 ∧
    t.mg.objtCnt = ckptNat s 28 4 % 2 ^ 24 ∧ t.mg.pinOvf = ckptNat s 32 4 % 2 ^ 24 ∧ t.mg.savePool = ckptNat s 36 4 % 2 ^ 24 ∧
    t.mg.featAcc0.toNat = ckptNat s 40 4 ∧ t.mg.featAcc1.toNat = ckptNat s 44 4 ∧ t.nextRun = s.nextRun + ckptNat s 52 4 ∧
    t.pre.length = ckptNat s 56 4 ∧ t.crews = s.crews ∧ t.paths = s.paths ∧ t.plain = s.plain ∧ t.xlats = [] ∧ t.dirty = [] ∧
    ∀ d < 8, (ckptNat s 16 1).testBit d = true → Map.find? t.pool (d * 2 ^ 20) = some Config.framesPerDie)

/-- R152 to R154, R157, R159 to R161, R166, R168, R359. The model's are: that a shoot-down waits for graph operations (log 18), the queue
of MIGREQ writes and the request dropped when one of KIND 5 is refused (log 21), and the flush at a HARVEST's completion (log 28). -/
def Obligations.ObjectEvents : Prop :=
  (∀ (s : State) (oid : Nat), s.reclaims.find? (fun r => r.oid == oid && !r.freeing) = none →
    exec (.reclaimSearch oid) s = .next s) ∧
  (∀ (s : State) (oid : Nat) (r : Reclaim), s.mg.tripped = false →
    s.reclaims.find? (fun r => r.oid == oid && !r.freeing) = some r →
    let free := pinsOf s oid = [] ∧ implicitPin s oid = false
    let locked := (∃ x ∈ s.locks, x.oid % 2 ^ 24 = oid) ∨ ∃ e ∈ s.eng, ∃ x ∈ e.2.late, x.oid % 2 ^ 24 = oid
    ∃ t, exec (.reclaimSearch oid) s = .next t ∧ t.paths = s.paths ∧
      (∀ x ∈ t.reclaims, x.oid = oid → x.searched = true ∧ (x.freeing = true ↔ free ∧ ¬ locked) ∧ (¬ free → x.listed = true)) ∧
      (free → ¬ locked → t.shoots = s.shoots ++ [{ oid := oid, who := .internal }]) ∧ (¬ free ∨ locked → t.shoots = s.shoots)) ∧
  (∀ (s : State) (oid page : Nat), s.mg.tripped = false → Memory.wf s.mem = true → ∃ t, exec (.dirtyFlushTimeout oid page) s = .next t ∧
    t = { s with dirty := t.dirty, mem := t.mem, rels := t.rels } ∧ t.dirty = s.dirty.filter (fun d => !(d.oid == oid && d.page == page)) ∧
    ∀ d, s.dirty.filter (fun d => d.oid == oid && d.page == page) = [d] → ∀ a,
      let p := (entryOf s oid).dirtyptr
      memNat t a 1 = if p ≠ 0 ∧ a = p + page / 8 then memNat s a 1 ||| 2 ^ (page % 8) else memNat s a 1) ∧
  (∀ (s : State) (oid : Nat),
    ((∀ x ∈ s.shoots, x.oid ≠ oid) ∨ graphBusy s oid = true ∨ peerBusy s oid = true ∨ freeHeld s oid = true → exec (.shootdownComplete oid) s = .next s) ∧
    (s.mg.tripped = false → (∃ x ∈ s.shoots, x.oid = oid) → graphBusy s oid = false → peerBusy s oid = false → freeHeld s oid = false → ∃ t, exec (.shootdownComplete oid) s = .next t ∧
      (∀ x ∈ t.xlats, x.oid ≠ oid) ∧ (∀ d ∈ t.dirty, d.oid ≠ oid) ∧ (∀ x ∈ t.shoots, x.oid ≠ oid) ∧ t.paths = s.paths ∧
      ((∃ r ∈ s.reclaims, r.oid = oid ∧ r.freeing = true) → (∀ r ∈ t.reclaims, r.oid ≠ oid) ∧
        (Memory.wf s.mem = true → memNat t (entryAddr s oid + 8) 1 = 0) ∧ Map.find? t.binds oid = none))) ∧
  (∀ (s : State) (p : Nat), Map.find? s.paths p = none → exec (.harvestComplete p) s = .next s) ∧
  (∀ (s : State) (p : Nat) (q : Path), s.mg.tripped = false → Map.find? s.paths p = some q →
    let mine := fun (h : Harv) => h.gang = q.gang ∧ h.mask &&& q.mask ≠ 0
    ∃ t, exec (.harvestComplete p) s = .next t ∧ t = { s with harvs := t.harvs, dirty := t.dirty, mem := t.mem, rels := t.rels } ∧
      (∀ h, h ∈ t.harvs ↔ h ∈ s.harvs ∧ ¬ mine h) ∧
      ∀ d, d ∈ t.dirty ↔ d ∈ s.dirty ∧ ∀ h ∈ s.harvs, mine h → ∃ id, h.oid = some id ∧ id ≠ d.oid) ∧
  (∀ (s : State) (oid page : Nat), bounceOf s oid page = none → exec (.pagerMap oid page) s = .next s) ∧
  (∀ (s : State) (oid page f : Nat), s.mg.tripped = false → bounceOf s oid page = some f →
    let asked := fun (v : Svc) => v.kind = 5 ∧ v.oid = oid ∧ v.page = page
    ((entryOf s oid).home = 1 → (∃ v ∈ s.svcs, asked v) → exec (.pagerMap oid page) s = .next s) ∧
    ((entryOf s oid).home = 1 → (∀ v ∈ s.svcs, ¬ asked v) → exec (.pagerMap oid page) s = .next { s with
      nextTag := s.nextTag + 1
      svcs := s.svcs ++ [{ tag := s.nextTag, kind := 5, oid := oid, page := page, eng := none, posted := false }] }) ∧
    ((entryOf s oid).home ≠ 1 → takeFrameNear s ((f - 2 ^ 23) / 4096) = none → exec (.pagerMap oid page) s = .next s) ∧
    ((entryOf s oid).home ≠ 1 → ∀ g u, takeFrameNear s ((f - 2 ^ 23) / 4096) = some (g, u) →
      (mapObjPage u oid page (2 ^ 63 + g)).isSome → s.devQ = [] → ∃ t, exec (.pagerMap oid page) s = .next t ∧ bounceOf t oid page = none ∧
        t.pool = u.pool ∧ t.paths = s.paths ∧ t.gangs = s.gangs ∧ ∀ d ∈ t.dirty, ¬ (d.oid = oid ∧ d.page = page))) ∧
  (∀ (s : State) (n : Nat) (bad : List Nat), s.migr = none → exec (.migrationEnd n bad) s = .next s) ∧
  (∀ (s : State) (n : Nat) (bad : List Nat) (m : Migr), s.mg.tripped = false → s.migr = some m →
    let sectors := bad ≠ [] ∧ ∀ x ∈ bad, 1024 * m.first ≤ x ∧ x < 1024 * (m.first + m.count)
    (n ≤ 1 ∨ (n = 2 ∧ sectors) → ∃ u, exec (.migrationEnd n bad) s = .next (nextMigr u) ∧ u.migr = none ∧
      u.migrQ = s.migrQ ∧ u.paths = s.paths) ∧
    (2 < n ∨ (n = 2 ∧ ¬ sectors) → exec (.migrationEnd n bad) s = .next s)) ∧
  (∀ (s : State) (data : List Byte), s.mg.tripped = false → arrives s = true →
    let x := fun o k => leNat ((data.drop o).take k)
    let e := entryOf s (x 0 4)
    (data.length ≠ 32 → exec (.migreqWrite data) s = .next { s with mg := { s.mg with apErr := s.mg.apErr + 1 } }) ∧
    (data.length = 32 → s.migr ≠ none → exec (.migreqWrite data) s = .next { s with migrQ := s.migrQ ++ [data] }) ∧
    (data.length = 32 → s.migr = none → x 0 4 < 2 ^ 24 → 1 < x 0 4 → e.ok = true → e.home = 0 → e.kind ∈ [1, 3, 5, 6] → x 12 1 < 8 →
      x 13 3 = 0 → x 20 12 = 0 → x 16 4 < 2 ^ 24 → allResident s (x 0 4) e (x 4 4) (x 8 4) = true →
      ∀ fs u, takeFrames s (x 12 1) (x 8 4) = some (fs, u) → ∃ t, exec (.migreqWrite data) s = .next t ∧
        t = { s with mem := t.mem, rels := t.rels, pool := u.pool, migr := t.migr } ∧
        t.migr = some { oid := x 0 4, first := x 4 4, count := x 8 4, status := x 16 4, frames := fs } ∧
        (Memory.wf s.mem = true → (memNat t (entryAddr s (x 0 4) + 11) 1).testBit 3 = true))) ∧
  (∀ (s : State) (v : BitVec 64), s.mg.tripped = false → arrives s = true →
    let hit := fun (x : Svc) => x.posted && x.tag % 2 ^ 32 == v.toNat / 2 ^ 32
    (s.svcs.find? hit = none → exec (.hsanswerWrite v) s = .next s) ∧
    (∀ x, s.svcs.find? hit = some x → (v.getLsbD 0 = false ∨ ∀ e ∈ s.paths, e.2.wait ≠ .fetchHost x.tag) →
      ∃ t, exec (.hsanswerWrite v) s = .next t ∧ t.svcs = s.svcs.filter (fun y => y.tag != x.tag) ∧
        ∀ k p r, Map.find? s.paths k = some p → p.wait = .parked x.tag → p.trap = some r → r.extra.length = 3 →
          Map.find? t.paths k = some { p with
            wait := .none
            trap := some { r with extra := r.extra ++ [if v.getLsbD 0 then 1 else 0] } })) ∧
  (∀ (s : State) (v : BitVec 32), s.mg.tripped = false → arrives s = true →
    ((∃ x ∈ s.shoots, x.who = .reg) → exec (.shootWrite v) s = .next s) ∧
    ((∀ x ∈ s.shoots, x.who ≠ .reg) → exec (.shootWrite v) s = .next { s with
      shoots := s.shoots ++ [{ oid := v.toNat % 2 ^ 24, who := .reg }] })) ∧
  (∀ (s : State), (∀ v ∈ s.svcs, v.posted = true) ∨ hsSize s ≤ (s.mg.hsNext - s.mg.hsRead).toNat →
    exec .hostServiceRequest s = .next s) ∧
  (∀ (s : State) (v : Svc), s.mg.tripped = false →
    s.svcs.find? (fun v => !v.posted) = some v → (s.mg.hsNext - s.mg.hsRead).toNat < hsSize s →
    let a := s.mg.hsRing.toNat / 4096 * 4096 + 32 * (s.mg.hsNext.toNat % hsSize s)
    let rec' := leBytes 4 v.tag ++ leBytes 1 v.kind ++ leBytes 3 0 ++ leBytes 4 v.oid ++ leBytes 4 v.page ++ leBytes 16 0
    ∃ t, exec .hostServiceRequest s = .next t ∧ t = { s with hostMem := t.hostMem, svcs := t.svcs, mg := t.mg } ∧
      t.mg = { s.mg with hsNext := s.mg.hsNext + 1 } ∧
      t.svcs = s.svcs.map (fun x => if x.tag = v.tag then { x with posted := true } else x) ∧
      ∀ b, Map.getD t.hostMem b Config.emptyByte =
        if a ≤ b ∧ b < a + 32 then rec'.getD (b - a) 0 else Map.getD s.hostMem b Config.emptyByte)

/-- R4, R37, R52, R54, R68, R69, R75, R95, R103, R106, R168, R412. The model's are: what host writes do before the function is ready (log
32) or while one stalls (log 29), OBJTCNT 0xFFFFFF read as 0xFFFFFE (log 32), and the widths of window accesses (log 25). -/
def Obligations.RegisterWrites : Prop :=
  (∀ (s : State) (off n : Nat) (hi : Bool) (w : BitVec 32) (v : BitVec 64), arrives s = false →
    ∀ i ∈ [Instr.registerWrite off v, .objtbaseWrite w, .objtcntWrite w, .pinovfWrite w, .savepoolWrite w, .feataccWrite n w,
      .launchenWrite w, .handlerInstallWrite n v, .clkceilWrite w, .pwrcapWrite w, .tracectlWrite v, .watchpointWrite n hi v,
      .bkptRelease n w, .attreqWrite w, .shootWrite w, .hsanswerWrite v], exec i s = .next s) ∧
  (∀ (s : State), arrives s = true →
    let goes := fun (i : Instr) (m : Mgmt) => exec i s = .next { s with mg := m }
    let m := s.mg
    let free := m.launchEn = false ∧ s.runs = []
    let noPre := s.pre = [] ∧ ∀ e ∈ s.crews, e.2.draining = false
    (∀ (w : BitVec 32),
      (free → goes (.objtbaseWrite w) { m with objtBase := w.toNat % 2 ^ 23 } ∧
        goes (.objtcntWrite w) { m with objtCnt := if w.toNat % 2 ^ 24 = 0xFFFFFF then 0xFFFFFE else w.toNat % 2 ^ 24 }) ∧
      (¬ free → exec (.objtbaseWrite w) s = .next s ∧ exec (.objtcntWrite w) s = .next s) ∧
      (noPre → goes (.pinovfWrite w) { m with pinOvf := w.toNat % 2 ^ 24 } ∧
        goes (.savepoolWrite w) { m with savePool := w.toNat % 2 ^ 24 }) ∧
      (¬ noPre → exec (.pinovfWrite w) s = .next s ∧ exec (.savepoolWrite w) s = .next s) ∧
      (free → (∃ x, goes (.feataccWrite 0 w) { m with featAcc0 := x } ∧ ∀ b, x.getLsbD b = (w.getLsbD b && decide (b ≤ 10))) ∧
        ∀ n, n ≠ 0 → goes (.feataccWrite n w) { m with featAcc1 := 0 }) ∧
      (¬ free → ∀ n, goes (.feataccWrite n w) { m with featLock := true }) ∧
      (w.getLsbD 0 = false → goes (.launchenWrite w) { m with launchEn := false }) ∧
      (w.getLsbD 0 = true → m.ftInst = true → m.phInst = true →
        goes (.launchenWrite w) { m with launchEn := true, restored := false }) ∧
      (w.getLsbD 0 = true → (m.ftInst = false ∨ m.phInst = false) → goes (.launchenWrite w) { m with hndMiss := true }) ∧
      goes (.clkceilWrite w) { m with clkCeil := if w.toNat % 16 ≤ 6 then w.toNat % 16 else m.clkCeil } ∧
      goes (.pwrcapWrite w) { m with pwrCap := min 2400 (max 1200 (w.toNat % 4096)) } ∧
      goes (.attreqWrite w) { m with attReq := if w.getLsbD 0 then 1 else m.attReq }) ∧
    (∀ (v : BitVec 64),
      let oid := v.toNat % 2 ^ 24
      let entry := v.toNat / 2 ^ 32
      let e := entryOf s oid
      let good := e.ok = true ∧ e.kind = 4 ∧ e.home = 0 ∧ e.perm.testBit 2 = true ∧ e.perm.testBit 3 = true ∧ entry % 8 = 0 ∧
        entry + 8 ≤ e.size
      let keep : DWord := BitVec.ofNat 64 (entry * 2 ^ 32 + oid)
      let dig := fun (old : BitVec 512) =>
        sha512 (leBytes 64 old.toNat ++ leBytes 64 (sha512 (loadBytes s (deviceWho 0) (addrOf oid 0) e.size)).toNat)
      (s.mg.tripped = false → ¬ free → ∀ n, goes (.handlerInstallWrite n v) { m with hndLock := true }) ∧
      (s.mg.tripped = false → free → good → goes (.handlerInstallWrite 0 v) { m with ftHndl := keep, ftInst := true, m2 := dig m.m2 } ∧
        goes (.handlerInstallWrite 1 v) { m with phHndl := keep, phInst := true, m3 := dig m.m3 }) ∧
      (s.mg.tripped = false → free → ¬ good → goes (.handlerInstallWrite 0 v) { m with ftHndl := keep, ftInst := false } ∧
        goes (.handlerInstallWrite 1 v) { m with phHndl := keep, phInst := false }) ∧
      (let lens := v.toNat % 2 ^ 24 == m.traceCtl.toNat % 2 ^ 24
       let marks := v.toNat / 2 ^ 24 % 2 ^ 24 == m.traceCtl.toNat / 2 ^ 24 % 2 ^ 24
       ∃ x, (∀ b, x.getLsbD b = (v.getLsbD b && !decide (48 ≤ b ∧ b < 61))) ∧ exec (.tracectlWrite v) s = .next { s with
        devQ := s.devQ.filter (fun d => (lens || d.mark != some .lensNext) && (marks || d.mark != some .markNext))
        mg := { m with
          traceCtl := x
          lensNext := if lens then m.lensNext else 0
          lensRead := if lens then m.lensRead else 0
          markNext := if marks then m.markNext else 0
          markRead := if marks then m.markRead else 0 } }) ∧
      (∀ n < 4, goes (.watchpointWrite n false v) { m with watchAddr := Map.setD m.watchAddr n v 0 } ∧
        ∃ x, goes (.watchpointWrite n true v) { m with watchCtl := Map.setD m.watchCtl n x 0 } ∧
          x.toNat / 2 ^ 6 % 2 ^ 5 = min 16 (v.toNat / 2 ^ 6 % 2 ^ 5) ∧ x.toNat / 2 ^ 28 = v.toNat / 2 ^ 28 % 2 ^ 4 ∧
          x.toNat % 2 ^ 6 = v.toNat % 2 ^ 6 ∧ x.toNat / 2 ^ 11 % 2 ^ 5 = 0 ∧ x.toNat / 2 ^ 24 % 2 ^ 4 = 0 ∧
          x.toNat / 2 ^ 16 % 2 ^ 8 = (if v.getLsbD 23 then (Map.getD m.watchCtl n 0).toNat else v.toNat) / 2 ^ 16 % 2 ^ 8))) ∧
  (∀ (s : State) (v : BitVec 64),
    let w : BitVec 32 := v.truncate 32
    (∀ x ∈ [(0x18, Instr.feataccWrite 0 w), (0x1C, .feataccWrite 1 w), (0x44, .launchenWrite w), (0x60, .handlerInstallWrite 0 v),
      (0x68, .handlerInstallWrite 1 v), (0x104, .clkceilWrite w), (0x108, .pwrcapWrite w), (0x700, .savepoolWrite w),
      (0x740, .tracectlWrite v), (0x800, .objtbaseWrite w), (0x804, .objtcntWrite w), (0x808, .pinovfWrite w), (0x810, .shootWrite w),
      (0x830, .hsanswerWrite v), (0x1040, .attreqWrite w),
      (0x400, if w.getLsbD 1 then .checkpointRestoreGo w else .checkpointSaveGo w)], exec (.registerWrite x.1 v) s = exec x.2 s) ∧
    (v.toNat % 4 = 1 → exec (.registerWrite 0x304 v) s = exec .fwloadCheckStart s) ∧
    (v.toNat % 4 = 3 → exec (.registerWrite 0x304 v) s = exec .fwloadCheckWriteStart s) ∧
    (∀ n < 4, exec (.registerWrite (0x788 + 16 * n) v) s = exec (.bkptRelease n w) s ∧
      exec (.registerWrite (0x7C0 + 16 * n) v) s = exec (.watchpointWrite n false v) s ∧
      exec (.registerWrite (0x7C8 + 16 * n) v) s = exec (.watchpointWrite n true v) s) ∧
    (∀ off ∈ [0x10, 0x100, 0x10C, 0x210, 0x220, 0x300, 0x308, 0x410, 0x414, 0x540, 0x610, 0x748, 0x828, 0x880, 0x900, 0xA00, 0x1200],
      exec (.registerWrite off v) s = .next s)) ∧
  (∀ (s : State) (v : BitVec 64), arrives s = true →
    (∀ k < 2048, ∃ t, exec (.registerWrite (0x20000 + 16 * k + 8) v) s = .next t ∧ t = { s with ctrs := t.ctrs } ∧
      ctrAt t k = { ctrAt s k with count := v } ∧ ∀ j, j ≠ k → ctrAt t j = ctrAt s j) ∧
    (∀ k < 2048, ∃ t x, exec (.registerWrite (0x20000 + 16 * k) v) s = .next t ∧ t = { s with ctrs := t.ctrs } ∧
      ctrAt t k = { ctrAt s k with evsel := x } ∧ (∀ j, j ≠ k → ctrAt t j = ctrAt s j) ∧
      x.getLsbD 30 = ((ctrAt s k).evsel.getLsbD 30 && !v.getLsbD 30) ∧ x.getLsbD 31 = v.getLsbD 31 ∧
      (∀ b < 10, x.getLsbD b = v.getLsbD b) ∧ ∀ b < 4, x.getLsbD (26 + b) = v.getLsbD (26 + b)) ∧
    (∀ k < 8192, ∃ t, exec (.registerWrite (0x40000 + 8 * k) v) s = .next t ∧
      t = { s with mg := { s.mg with apertab := t.mg.apertab } } ∧
      ∀ j, Map.getD t.mg.apertab j 0 = if j = k then v else Map.getD s.mg.apertab j 0) ∧
    (∀ p < 4, ∃ t, exec (.registerWrite (0x200 + 4 * p) v) s = .next t ∧
      t = { s with mg := { s.mg with ovf := t.mg.ovf } } ∧
      ∀ j, (Map.getD t.mg.ovf j 0).toNat = if j = p then v.toNat % 2 ^ 24 else (Map.getD s.mg.ovf j 0).toNat) ∧
    (∀ t off, off ∈ [0x800, 0x804, 0x808] → exec (.registerWrite off v) s = .next t → t ≠ s →
      readReg t off = min 0xFFFFFE (v.toNat % 2 ^ 24) % (if off = 0x800 then 2 ^ 23 else 2 ^ 24) ∨
        (off ≠ 0x804 ∧ readReg t off = v.toNat % (if off = 0x800 then 2 ^ 23 else 2 ^ 24))))

/-- R5, R32, R34 to R37, R54 to R56, R65 to R67. What a reset keeps is the model's (log 32), and so is
what M0 and M1 take (log 8). -/
def Obligations.PowerAndBringup : Prop :=
  (∀ (s : State) (degc die watts : Nat),
    let goes := fun (i : Instr) (m : Mgmt) => exec i s = .next { s with mg := m }
    let m := s.mg
    let top := max (max m.demThermal m.demPower) (max m.clkCeil (if m.svcFull then 0 else 6))
    let r := { m with tempDegc := min degc 255, tempDie := die % 10 }
    (m.tripped = false →
    (m.clkStep < top → goes .clockStepChange { m with clkStep := m.clkStep + 1 }) ∧
    (top < m.clkStep → goes .clockStepChange { m with clkStep := m.clkStep - 1 }) ∧
    (m.clkStep = top → exec .clockStepChange s = .next s) ∧
    (95 ≤ degc → goes (.thermalDemandRise degc die) { r with demThermal := min 6 (m.demThermal + 1) }) ∧
    (degc < 95 → goes (.thermalDemandRise degc die) r) ∧
    (degc < 90 → goes (.thermalDemandFall degc die) { r with demThermal := m.demThermal - 1 }) ∧
    (90 ≤ degc → goes (.thermalDemandFall degc die) r) ∧
    (m.pwrCap < watts → goes (.powerDemandRise watts) { m with demPower := min 6 (m.demPower + 1) }) ∧
    (watts ≤ m.pwrCap → exec (.powerDemandRise watts) s = .next s) ∧
    (100 * watts < 95 * m.pwrCap → goes (.powerDemandFall watts) { m with demPower := m.demPower - 1 }) ∧
    (95 * m.pwrCap ≤ 100 * watts → exec (.powerDemandFall watts) s = .next s)) ∧
    (let hot := 110 ≤ degc ∨ (105 ≤ degc ∧ m.clkStep = 6)
     (m.tripped = true ∨ ¬ hot → exec (.thermalTrip degc die) s = .next s) ∧
     (m.tripped = false → hot → ∃ t, exec (.thermalTrip degc die) s = .next t ∧ t.mg.tripped = true ∧
       t.mg.tempTrips = min 255 (m.tempTrips + 1) ∧ t.mg.tempDegc = min degc 255 ∧ t.mg.tempDie = die % 10 ∧
       t.paths = [] ∧ t.gangs = [] ∧ t.crews = [] ∧ t.runs = [] ∧ t.pre = [] ∧ t.eng = [] ∧ t.lq = [] ∧ t.spill = [] ∧ t.stalled = [] ∧
       (∀ p z, Map.find? t.zports p = some z → z.up = false) ∧
       Map.getD t.mg.msix 0 0 = Map.getD m.msix 0 0 + 1)) ∧
    goes .railsGood { m with railMain := true, railAux := true, pgood := true } ∧
    (let r := { State.reset.mg with
        railMain := m.railMain
        railAux := m.railAux
        pgood := m.pgood
        msix := m.msix
        fabricNo := m.fabricNo
        routes := m.routes
        removed := m.removed
        apertureSize := m.apertureSize
        streamCap := m.streamCap
        flash := m.flash }
     let cold := fun (x : Mgmt) => ({ State.reset with
        tape := s.tape
        tick := s.tick
        free := s.free
        hostMem := s.hostMem
        ckpt := s.ckpt
        mg := x } : State)
     exec .coldReset s = .next (cold r) ∧
     exec (.railRemoved 0) s = .next (cold { r with railMain := false, pgood := false }) ∧
     exec (.railRemoved 1) s = .next (cold { r with railAux := false, pgood := false }) ∧
     ∃ t, exec .hostReset s = .next t ∧ t.paths = [] ∧ t.gangs = [] ∧ t.crews = [] ∧ t.runs = [] ∧ t.plain = [] ∧
       t.mg = { r with
         tempTrips := m.tempTrips
         apErr := m.apErr
         lpErr := m.lpErr
         errRing := m.errRing
         errCnt := m.errCnt } ∧
       (m.tripped = true → t.mem = []) ∧ (m.tripped = false → s.runs = [] → (∀ p < 4, lqAt s p = [] ∧ spillAt s p = []) → s.stalled = [] → s.devQ = [] →
         t.mem = s.mem ∧ t.poison = s.poison))) ∧
  (∀ (s : State) (reason : Nat) (svn : BitVec 32),
    let why := fun (img : Map Byte) => if mapNat img 0 4 ≠ 0x5A465744 then 1 else if 16777216 - 512 < mapNat img 8 4 then 2
      else if mapBytes img 12 64 ≠ leBytes 64 (sha512 (mapBytes img 512 (mapNat img 8 4))).toNat then 3
      else if reason = 4 ∨ reason = 5 then reason else 0
    let version := fun (img : Map Byte) => BitVec.ofNat 32 (mapNat img 4 4)
    let runs := fun (t : State) (img : Map Byte) (rec' : Bool) => t.mg.fwState = 1 ∧ t.mg.fwSvn = version img ∧ t.mg.fwRec = rec' ∧
      t.mg.m1 = measure s.mg.m1 (sha512 (mapBytes img 0 (512 + mapNat img 8 4)))
    let tells := fun (t : State) => t = { s with mg := t.mg } ∧ Map.getD t.mg.msix 0 0 = Map.getD s.mg.msix 0 0 + 1
    (s.mg.pgood = false ∨ s.mg.fwState ≠ 0 → exec (.bootImageCheck reason svn) s = .next s) ∧
    (s.mg.tripped = false → s.mg.pgood = true → s.mg.fwState = 0 → (why s.mg.flash = 0 → svn = version s.mg.flash) →
      ∃ t, exec (.bootImageCheck reason svn) s = .next t ∧ tells t ∧ t.mg.m0 = measure s.mg.m0 Config.romDigest ∧
      (why s.mg.flash = 0 → runs t s.mg.flash false ∧ t.mg.fwReason = 0) ∧
      (why s.mg.flash ≠ 0 → t.mg.fwState = 2 ∧ t.mg.fwReason = why s.mg.flash ∧ t.mg.m1 = s.mg.m1)) ∧
    (let img := s.mg.staging
     let i := Instr.fwCheckDone reason svn
     (s.mg.fwState ≠ 3 → s.mg.fwState ≠ 5 → exec i s = .next s) ∧
     (s.mg.tripped = false → s.mg.fwState = 3 → (why img = 0 → svn = version img) → ∃ t, exec i s = .next t ∧ tells t ∧
       t.mg.flash = s.mg.flash ∧ (why img ≠ 0 → t.mg.fwState = 4 ∧ t.mg.fwReason = why img) ∧
       (why img = 0 → t.mg.fwReason = 0 ∧
         if s.mg.fwToFlash then t.mg.fwState = 5 ∧ t.mg.fwCopy = img else runs t img true)) ∧
     (s.mg.tripped = false → s.mg.fwState = 5 → ∃ t, exec i s = .next t ∧ tells t ∧ runs t s.mg.fwCopy true ∧
       t.mg.fwReason = (if reason = 6 then 6 else 0) ∧ (reason ≠ 6 → t.mg.flash = s.mg.fwCopy))) ∧
    (∀ x ∈ [(Instr.fwloadCheckStart, false), (.fwloadCheckWriteStart, true)],
      (s.mg.tripped = false → arrives s = true → (s.mg.fwState = 2 ∨ s.mg.fwState = 4) → ∃ t, exec x.1 s = .next t ∧ t = { s with mg := t.mg } ∧
        t.mg.fwState = 3 ∧ t.mg.fwToFlash = x.2 ∧ t.mg.fwReason = s.mg.fwReason ∧ t.mg.staging = s.mg.staging) ∧
      (arrives s = false ∨ (s.mg.fwState ≠ 2 ∧ s.mg.fwState ≠ 4) → exec x.1 s = .next s)) ∧
    (s.mg.tripped = false → s.mg.pgood = true → s.mg.fwState ≠ 0 → exec .perstDeassert s = .next { s with mg := { s.mg with hostReady := true } }) ∧
    (s.mg.pgood = false ∨ s.mg.fwState = 0 → exec .perstDeassert s = .next s)) ∧
  (∀ (s : State) (d : Nat), (s.mg.fwState ≠ 1 ∨ nextDie s ≠ some d) →
    exec (.dieTrained d) s = .next s ∧ exec (.dieTrainFail d) s = .next s) ∧
  (∀ (s : State) (d : Nat), s.mg.tripped = false → s.mg.fwState = 1 → d < 8 → s.mg.dieTrained.getLsbD d = false → s.mg.dieFail.getLsbD d = false →
    (∀ j < d, s.mg.dieTrained.getLsbD j = true ∨ s.mg.dieFail.getLsbD j = true) →
    (∃ t, exec (.dieTrained d) s = .next t ∧ t.mg.svcRed = true ∧ (∀ j < 8, t.mg.dieTrained.getLsbD j = (s.mg.dieTrained.getLsbD j || j == d)) ∧
      t.mg.dieFail = s.mg.dieFail ∧ Map.find? t.pool (d * 2 ^ 20) = some Config.framesPerDie ∧
      (s.deal ≠ [] → t.deal = s.deal) ∧ (s.deal = [] → ∀ c, c ∈ t.deal ↔ c < 128 ∧ c ∉ s.mg.removed ∧
        s.mg.dieFail.getLsbD (c / 16) = false)) ∧
    (∃ t, exec (.dieTrainFail d) s = .next t ∧ Map.getD t.mg.trainTries d 0 = Map.getD s.mg.trainTries d 0 + 1 ∧
      t.mg.dieTrained = s.mg.dieTrained ∧
      ∀ j < 8, t.mg.dieFail.getLsbD j = (s.mg.dieFail.getLsbD j || (j == d && decide (2 ≤ Map.getD s.mg.trainTries d 0)))))

/-- R50, R69, R73 to R75, R412. The model's are: the byte offsets of the report (log 8), the limits of an aperture access and how one of a
peer-homed object is carried (log 25), one scan test at a time (log 36), and what the host is answered after a trip or for poison (log
32). -/
def Obligations.AttestScanErrorsAperture : Prop :=
  (∀ (s : State), (s.mg.attReq ≠ 1 → exec .attestReportDone s = .next s) ∧
    (s.mg.tripped = false → s.mg.attReq = 1 → ∃ t, exec .attestReportDone s = .next t ∧
      t = { s with mg := { s.mg with attReq := 3, attReport := t.mg.attReport } } ∧
      let byte := fun i => Map.getD t.mg.attReport i 0
      ∀ i < 64, byte i = Map.getD s.mg.attNonce i 0 ∧ byte (64 + i) = (leBytes 64 s.mg.m0.toNat).getD i 0 ∧
        byte (128 + i) = (leBytes 64 s.mg.m1.toNat).getD i 0 ∧ byte (192 + i) = (leBytes 64 s.mg.m2.toNat).getD i 0 ∧
        byte (256 + i) = (leBytes 64 s.mg.m3.toNat).getD i 0 ∧
        (i < 4 → byte (320 + i) = (leBytes 4 s.mg.featAcc0.toNat).getD i 0 ∧ byte (328 + i) = (leBytes 4 (devStat s)).getD i 0))) ∧
  (∀ (s : State) (core : Nat),
    let may := s.mg.scanCtl.getLsbD 31 = true ∧ coreUp s core = true ∧ crewsOn s core = [] ∧ s.scanning = none
    (may → exec (.scanTestStart core) s = .next { s with scanning := some core }) ∧
    (¬ may → exec (.scanTestStart core) s = .next s)) ∧
  (∀ (s : State) (core sig : Nat) (ok : Bool),
    (s.scanning ≠ some core → exec (.scanTestDone core sig ok) s = .next s) ∧
    (s.mg.tripped = false → s.scanning = some core → exec (.scanTestDone core sig true) s = .next { s with scanning := none }) ∧
    (s.mg.tripped = false → s.scanning = some core → ∃ t, exec (.scanTestDone core sig false) s = .next t ∧ t.scanning = none ∧
      t.mg.removed = s.mg.removed ++ [physOf s core] ∧ t.mg.scanLog = (physOf s core, sig) ∧
      Map.getD t.mg.msix 0 0 = Map.getD s.mg.msix 0 0 + 1 ∧
      (s.runs ≠ [] → t.deal = s.deal ∧ t.outOfService = s.outOfService ++ [core]) ∧
      (s.runs = [] → s.deal.Nodup → core < s.deal.length → physOf s core ∉ t.deal))) ∧
  (∀ (s : State) (src loc sect : Nat),
    let dram := src = 1 ∨ src = 4
    let good := (dram ∧ frameOk loc = true ∧ sect < 1024) ∨ (src = 2 ∧ loc < s.deal.length ∧ sect < 65536) ∨
      (src = 3 ∧ loc < s.deal.length ∧ sect < 49152)
    let i := Instr.uncorrectableError src loc sect
    (¬ good → exec i s = .next s) ∧
    (s.mg.tripped = false → good → ∃ t, exec i s = .next t ∧ t.mg.errCnt = s.mg.errCnt + 1 ∧ t.paths = s.paths ∧ t.gangs = s.gangs ∧
      (∀ k, Map.getD t.poison k false = (Map.getD s.poison k false || (decide dram && k == loc * 1024 + sect))) ∧
      (∀ k, Map.getD t.accPoison k false = (Map.getD s.accPoison k false || (src == 2 && k == loc * 65536 + sect))) ∧
      (∀ k, Map.getD t.plainPoison k false = (Map.getD s.plainPoison k false || (src == 3 && k == loc * 65536 + sect))) ∧
      let base := 16 * (s.mg.errCnt.toNat % 16)
      let die := if dram then loc / 2 ^ 20 else dieOf s loc
      let entry := leBytes 8 (Config.nsAt s.tick).toNat ++ leBytes 4 loc ++ leBytes 2 sect ++ leBytes 1 die ++ leBytes 1 src
      (∀ k, Map.getD t.mg.errRing k 0 =
        if base ≤ k ∧ k < base + 16 then entry.getD (k - base) 0 else Map.getD s.mg.errRing k 0) ∧
      (¬ dram → t.mem = s.mem))) ∧
  (∀ (s : State) (die src : Nat), ∃ t, exec (.correctableError die src) s = .next t ∧ OnlyCtrs s t ∧ (8 ≤ die → t = s)) ∧
  (∀ (s : State) (off len : Nat) (data : List Byte), arrives s = false →
    exec (.apertureRead off len) s = .next s ∧ exec (.apertureWrite off data) s = .next s) ∧
  (∀ (s : State) (off : Nat), arrives s = true →
    let e := (Map.getD s.mg.apertab (off / 2 ^ 26) 0).toNat
    let counted := { s.mg with apErr := s.mg.apErr + 1 }
    (∀ len, (s.mg.apertureSize ≤ off ∨ e = 0 ∨ s.mg.tripped = true ∨ hostMay s off ((e + off % 2 ^ 26) % 2 ^ 64) len .read = false) →
      exec (.apertureRead off len) s = .next { s with
        hostRead := List.replicate (min len 4096) 255
        hostEp := false
        mg := counted }) ∧
    (∀ data : List Byte, (s.mg.apertureSize ≤ off ∨ e = 0 ∨ s.mg.tripped = true ∨
        hostMay s off ((e + off % 2 ^ 26) % 2 ^ 64) data.length .write = false) →
      exec (.apertureWrite off data) s = .next { s with mg := counted }) ∧
    (off < s.mg.apertureSize → e ≠ 0 → s.mg.tripped = false →
      let a := (e + off % 2 ^ 26) % 2 ^ 64
      (∀ en, peerHome s hostWho a = some en →
        let sent := fun (t : State) (op n : Nat) => t.hostRead = s.hostRead ∧ ∃ o : PeerOp, t.peerOps = s.peerOps ++ [o] ∧ o.owner = .host ∧
          o.op = op ∧ o.addr = BitVec.ofNat 64 a ∧ o.n = n ∧ o.answer = none ∧ o.fail = none
        let oneLine := fun (n : Nat) => 0 < n ∧ a % 64 + n ≤ 64
        let asked := fun (n : Nat) => (linePieces a n).map (fun x => x.addr.bind (fun b => hostAsk s b x.len))
        (∀ p, portOf s en.peer a = some p → askRoom s p = true →
          (∀ len, oneLine len → hostMay s off a len .read = true → hostAsk s a len = none →
            ∃ t, exec (.apertureRead off len) s = .next t ∧ sent t 1 len) ∧
          ∀ data : List Byte, oneLine data.length → hostMay s off a data.length .write = true →
            ∃ t, exec (.apertureWrite off data) s = .next t ∧ sent t 3 data.length) ∧
        (livePorts s en.peer = [] →
          (∀ len, 0 < len → hostMay s off a len .read = true → (∀ x ∈ asked len, x = none) →
            exec (.apertureRead off len) s = .next { s with hostRead := List.replicate (min len 4096) 255, hostEp := false, mg := counted }) ∧
          ∀ data : List Byte, hostMay s off a data.length .write = true →
            exec (.apertureWrite off data) s = .next { s with mg := counted }) ∧
        ∀ len (os : List PeerOp), hostMay s off a len .read = true → asked len = os.map some → (∀ o ∈ os, o.answer ≠ none) →
          exec (.apertureRead off len) s = .next { s with
            peerOps := s.peerOps.filter (fun o => !os.contains o)
            hostRead := ((linePieces a len).zip os).flatMap (fun x =>
              (List.range x.1.len).map (fun i => (x.2.answer.getD []).getD i 0))
            hostEp := os.any (fun o => o.fail.isSome) }) ∧
      (peerHome s hostWho a = none →
      (∀ len, hostMay s off a len .read = true → ∃ t, exec (.apertureRead off len) s = .next t ∧
        t.hostRead = loadBytes s hostWho a len ∧ t.hostEp = (len != 0 && rangePoisoned s hostWho a len) ∧
        t.mem = s.mem ∧ t.plain = s.plain ∧ t.mg = s.mg ∧ t.paths = s.paths ∧ t.gangs = s.gangs) ∧
      (∀ data : List Byte, hostMay s off a data.length .write = true → engPages s hostWho a data.length = none →
        exec (.apertureWrite off data) s = .next s) ∧
      (∀ (data : List Byte) (u : State), hostMay s off a data.length .write = true →
        engPages s hostWho a data.length = some u → ∃ t, exec (.apertureWrite off data) s = .next t ∧ t.mg = s.mg ∧
          t.poison = u.poison ∧ t.paths = s.paths ∧ t.gangs = s.gangs ∧ t.hostRead = s.hostRead ∧
          (oidOf a = plainId → t.mem = s.mem ∧ ∀ o, Map.getD t.plain o Config.emptyByte =
            if offOf a ≤ o ∧ o < offOf a + data.length then data.getD (o - offOf a) 0
            else Map.getD s.plain o Config.emptyByte) ∧
          ∀ b, data = [b] → ∀ x, readByte t x = if x = locate u hostWho a ∧ x ≠ .none then b else readByte u x))))

/-- R38 to R41, R44, R46, R47, R155, R205. The model's are: the layout of a message's data where it is open, and naming a missing number
again when a flit comes damaged (log 22); waiting for room of 64 flits, code 8 for poisoned reads, the malformed atomic, the loss after
sixteen replays and the routing of replies (log 24); and what a lost answer does (log 20). -/
def Obligations.Zalak : Prop :=
  let open_ := fun (o : PeerOp) => o.answer = none ∧ o.fail = none
  let joined := fun (m : Msg) (g : Seg) (o : PeerOp) =>
    let o := if o.stream then { o with segs := o.segs ++ [g] } else { o with sofar := o.sofar ++ m.data }
    if m.flags.testBit 1 then { o with answer := some o.sofar, sofar := [] } else o
  let kept := fun (o : PeerOp) => !(o.owner == .part || (o.owner == .host && o.op == 3)) || (o.answer.isNone && o.fail.isNone)
  (∀ (s : State) (p : Nat) (flit : List Byte),
    let z := zportAt s p
    let whole := crc32c (flit.take 252) = leNat (flit.drop 252)
    let good := whole ∧ leNat (flit.take 2) % 4096 = z.rxSeq
    let ack := leNat (flit.take 4) / 2 ^ 16 % 4096
    let kind := leNat (flit.take 4) / 2 ^ 12 % 16
    let m := parseMsg ((flit.drop 4).take 248)
    let i := Instr.zalakFlitReceive p flit
    (z.up = false ∨ flit.length ≠ 256 → exec i s = .next s) ∧
    (z.up = true → flit.length = 256 → s.mg.tripped = false → good → s.devQ = [] → ∃ t, exec i s = .next t ∧
      (zportAt t p).rxSeq = (z.rxSeq + 1) % 4096 ∧ (zportAt t p).discard = false ∧ (zportAt t p).up = true ∧
      (zportAt t p).credit = z.credit + 8 * (leNat (flit.take 4) / 2 ^ 28 % 16) ∧ t.paths = s.paths ∧ t.mem = s.mem ∧
      (kind = 3 → (zportAt t p).resend = some (leNat ((flit.drop 4).take 2) % 4096) ∧ (zportAt t p).rx = z.rx) ∧
      (kind = 1 → m.data.length = m.len → (zportAt t p).part = none ∧
        (msgOk s m = false → (zportAt t p).protoErr = z.protoErr + 1 ∧ (zportAt t p).rx = z.rx) ∧
        (msgOk s m = true → z.errs = [] → (zportAt t p).rx = z.rx ++ [m] ∧
          let held := z.tx.filter (fun x => !decide ((ack + 4096 - x.1) % 4096 < 2048))
          let credit := min 15 ((z.freed + 1) / 8)
          (zportAt t p).tx = held ++ (if held.length + 1 ≤ 2048
            then [(z.txSeq, flitOf z.txSeq 0 (z.rxSeq + 4096) credit (List.replicate 248 0))] else [])))) ∧
    (z.up = true → flit.length = 256 → s.mg.tripped = false → ¬ good → (z.discard = true ∧ whole) ∨ zRoom s p 1 = false →
      ∃ t, exec i s = .next t ∧ OnlyCtrs s t) ∧
    (z.up = true → flit.length = 256 → s.mg.tripped = false → ¬ good → z.discard = false ∨ ¬ whole → zRoom s p 1 = true →
      ∃ t, exec i s = .next t ∧ (zportAt t p).discard = true ∧ (zportAt t p).rx = z.rx ∧ (zportAt t p).rxSeq = z.rxSeq ∧
      ∃ x : List Byte, (zportAt t p).tx = z.tx ++ [(z.txSeq, x)] ∧ leNat (x.take 4) / 2 ^ 12 % 16 = 3 ∧
        leNat ((x.drop 4).take 2) = z.rxSeq % 2 ^ 16)) ∧
  (∀ (s : State) (p seq : Nat),
    let z := zportAt s p
    (z.up = false ∨ z.resend ≠ some seq ∨ (∀ x ∈ z.tx, x.1 ≠ seq) ∨ 16 ≤ z.replays → exec (.zalakReplay p seq) s = .next s) ∧
    (z.up = true → z.resend = some seq → (∃ x ∈ z.tx, x.1 = seq) → z.replays < 16 → s.mg.tripped = false →
      ∃ t, exec (.zalakReplay p seq) s = .next t ∧
      zportAt t p = { z with
        resend := none
        retries := z.retries + 1
        replayAt := seq
        replays := if z.replayAt = seq then z.replays + 1 else 1 } ∧
      ∀ j, j ≠ p → zportAt t j = zportAt s j) ∧
    (∀ x ∈ [(Instr.linkLost p, decide (16 ≤ z.replays)), (.ackTimeout p, !z.tx.isEmpty)],
      (z.up = false ∨ x.2 = false → exec x.1 s = .next s) ∧
      (z.up = true → x.2 = true → s.mg.tripped = false → s.devQ = [] → ∃ t, exec x.1 s = .next t ∧
        zportAt t p = { ZPort.blank with
          peerCap := z.peerCap
          retries := z.retries
          lostCnt := z.lostCnt + 1
          protoErr := z.protoErr } ∧
        (∀ j, j ≠ p → zportAt t j = zportAt s j) ∧ Map.getD t.mg.msix 0 0 = Map.getD s.mg.msix 0 0 + 1 ∧
        ((∀ m ∈ z.rx, isAnswer s p m = false) → t.peerOps = ((s.peerOps.filter (fun o => match o.owner with
            | .eng k _ => !decide (2 ^ 32 + 65536 * p ≤ k ∧ k < 2 ^ 32 + 65536 * p + 65536)
            | _ => true)).map (fun o =>
          if o.port = p ∧ o.answer = none ∧ o.fail = none then { o with fail := some 0 } else o)).filter kept) ∧
        ∀ m, z.rx = [m] → m.op = 4 → ∀ o ∈ s.peerOps, o.tag = m.tag → o.port = p → o.op = 3 → open_ o → o.owner ≠ .part →
          o.owner ≠ .host → (∀ k i, o.owner = .eng k i → k < 2 ^ 32) → { o with answer := some [] } ∈ t.peerOps)) ∧
    exec (.portTrainRetry p) s = .next s ∧
    ∀ cap, (48 ≤ p ∨ z.up = true ∨ s.mg.fwState ≠ 1 ∨ s.mg.tripped = true → exec (.portTrained p cap) s = .next s) ∧
      (p < 48 → z.up = false → s.mg.fwState = 1 → s.mg.tripped = false → ∃ t, exec (.portTrained p cap) s = .next t ∧
        t = { s with zports := t.zports } ∧ zportAt t p = { ZPort.blank with
          up := true
          peerCap := cap
          retries := z.retries
          lostCnt := z.lostCnt
          protoErr := z.protoErr } ∧ ∀ j, j ≠ p → zportAt t j = zportAt s j)) ∧
  (∀ (s : State) (p op : Nat) (m : Msg) (data : List Byte),
    let t := answerMsg s p m op data
    let z := zportAt s p
    (zportAt t p).rx = z.rx.erase m ∧ t.mem = s.mem ∧ t.paths = s.paths ∧ ∃ (x : List Byte) (xs : List (Nat × List Byte)), (zportAt t p).tx = z.tx ++ (z.txSeq, x) :: xs ∧
      xs.length = min (cdiv data.length 248) ((data.length - 224 + 247) / 248) ∧ leNat (x.take 4) / 2 ^ 12 % 16 = 1 ∧
      leNat ((x.drop 4).take 8) = m.addr.toNat ∧ leNat ((x.drop 12).take 2) = m.src % 2 ^ 16 ∧
      leNat ((x.drop 14).take 2) = s.mg.fabricNo % 2 ^ 16 ∧ leNat ((x.drop 16).take 1) = op % 256 ∧
      leNat ((x.drop 18).take 2) = m.tag % 2 ^ 16 ∧ leNat ((x.drop 20).take 2) = data.length % 2 ^ 16 ∧
      (x.drop 28).take (min data.length 224) = data.take 224) ∧
  (∀ (s : State) (p : Nat),
    let stuck := (zportAt s p).up = false ∨ zRoom s p 64 = false
    (∀ x ∈ [(Instr.zalakReadRequest p, 1), (.zalakWriteRequest p, 3), (.zalakAtomicRequest p, 5), (.zalakGatherRequest p, 8)],
      nextMsg x.2 (zportAt s p).rx [] = none ∨ stuck → exec x.1 s = .next s) ∧
    (nextMsg 7 (zportAt s p).rx [] = none ∨ (stuck ∧ ∀ m, nextMsg 7 (zportAt s p).rx [] = some m → ownRead s p m = false) →
      exec (.zalakStreamBlock p) s = .next s)) ∧
  (∀ (s : State) (p op : Nat) (m : Msg), nextMsg op (zportAt s p).rx [] = some m → (zportAt s p).up = true → zRoom s p 64 = true →
    s.mg.tripped = false →
    let a := m.addr.toNat
    let x := fun o k => leNat ((m.data.drop o).take k)
    let e := reqEng s p m
    let ranges := if op = 1 then [(a, min 4096 (leNat (m.data.take 4)))]
      else (List.range (x 1 1)).map (fun i => (addrOf (oidOf a) (x (8 + 8 * i) 8), x 0 1))
    let done := fun (v : State) => if m.flags.testBit 1 then answerMsg v p m 4 [] else dropMsg v p m
    (∀ i, (op = 1 ∧ i = .zalakReadRequest p ∧ m.flags.testBit 0 = false) ∨ (op = 8 ∧ i = .zalakGatherRequest p) →
      (∀ c, ranges.findSome? (fun r => rangeCheck s peerWho r.1 r.2 .read []) = some c →
        exec i s = .next (answerMsg s p m 9 [BitVec.ofNat 8 c.num])) ∧
      ((∀ r ∈ ranges, rangeCheck s peerWho r.1 r.2 .read [] = none ∧ peerHome s peerWho r.1 = none) → e.held = [] →
        hostMiss s peerWho e (ranges.map (fun r => { addr := some r.1, len := r.2 })) = none →
        let cs := ranges.flatMap (fun r => (List.range r.2).map (fun j => readCell s peerWho e (r.1 + j)))
        ((∀ c ∈ cs, c.bad = false) → exec i s = .next (answerMsg s p m 2 (cs.map (·.b)))) ∧
        ((∃ c ∈ cs, c.bad = true) → exec i s = .next (answerMsg s p m 9 [8])))) ∧
    (∀ o n, op = 1 → m.flags.testBit 0 = false → n = min 4096 (leNat (m.data.take 4)) → 0 < n → a % 64 + n ≤ 64 → e.held = [] →
      rangeCheck s peerWho a n .read [] = none → (peerHome s peerWho a).isSome → engReq s (reqKey p m) 0 = some o →
      (∀ bs, o.answer = some bs → exec (.zalakReadRequest p) s =
        .next (answerMsg s p m 2 ((List.range n).map (fun i => bs.getD i 0)))) ∧
      (o.answer = none → o.fail ≠ none → exec (.zalakReadRequest p) s =
        .next (answerMsg s p m 9 [BitVec.ofNat 8 TrapCode.remoteLost.num]))) ∧
    (op = 1 → m.flags.testBit 0 = true →
      let w := { peerWho with use := .stream }
      let size := (entryOf s (oidOf a)).size
      let left := leNat (m.data.take 4)
      let n := min 4240 (size - offOf a)
      let cs := (List.range n).map (fun j => readCell s w e (a + j))
      let i := Instr.zalakReadRequest p
      (∀ c, rangeCheck s w a (size - offOf a) .read [] = some c → exec i s = .next (answerMsg s p m 9 [BitVec.ofNat 8 c.num])) ∧
      (rangeCheck s w a (size - offOf a) .read [] = none → (left = 0 ∨ size < offOf a + 144) →
        exec i s = .next (answerMsg s p m 2 [])) ∧
      ∀ tab, rangeCheck s w a (size - offOf a) .read [] = none → left ≠ 0 → offOf a + 144 ≤ size → e.held = [] →
        peerHome s w a = none → ctabIn s w e (reqKey p m) a = (s, some tab) → hostMiss s w e [{ addr := some a, len := n }] = none →
        let b := expandBlock (cs.map (·.b)) tab
        let k := min left b.syms.length
        let next := cdiv (offOf a + b.size) 16 * 16
        let last := decide (left ≤ k ∨ size < next + 144) || b.last
        let bad := b.bad || (cs.take b.size).any (·.bad)
        let raw := (zportAt s p).peerCap && !bad
        let data := if raw then (cs.map (·.b)).take b.size else if bad then leBytes 1 8 ++ leBytes 2 k else b.syms.take k
        ∃ t, exec i s = .next t ∧ t.mem = s.mem ∧ t.paths = s.paths ∧
          (zportAt t p).rx = (if last then (zportAt s p).rx.erase m else (zportAt s p).rx.map (fun x => if x = m then { m with
            addr := BitVec.ofNat 64 (addrOf (oidOf a) next)
            data := leBytes 4 (left - k) } else x)) ∧
          ∃ (y : List Byte) (ys : List (Nat × List Byte)), (zportAt t p).tx = (zportAt s p).tx ++ ((zportAt s p).txSeq, y) :: ys ∧
            leNat ((y.drop 16).take 1) = (if raw then 7 else if bad then 9 else 2) ∧
            leNat ((y.drop 17).take 1) = raw.toNat + 2 * last.toNat ∧ leNat ((y.drop 18).take 2) = m.tag % 2 ^ 16 ∧
            leNat ((y.drop 20).take 2) = data.length % 2 ^ 16 ∧ (y.drop 28).take (min data.length 224) = data.take 224) ∧
    (op = 3 → (∀ c, rangeCheck s peerWho a m.data.length .write [] = some c →
        exec (.zalakWriteRequest p) s = .next (answerMsg s p m 9 [BitVec.ofNat 8 c.num])) ∧
      (rangeCheck s peerWho a m.data.length .write [] = none → peerHome s peerWho a = none → dstMigrates s [{ addr := some a, len := m.data.length }] = false →
        ∀ u, engPages s peerWho a m.data.length = some u → ∃ v, exec (.zalakWriteRequest p) s = .next (done v) ∧
          v.zports = s.zports ∧ v.paths = s.paths ∧ v.gangs = s.gangs ∧ v.eng = s.eng ∧
          (oidOf a = plainId → v.mem = s.mem ∧ ∀ o, Map.getD v.plain o Config.emptyByte =
            if offOf a ≤ o ∧ o < offOf a + m.data.length then m.data.getD (o - offOf a) 0
            else Map.getD s.plain o Config.emptyByte))) ∧
    (op = 5 → ∀ o, AtomOp.ofNum (x 0 1) = some o →
      let k := x 1 1
      k = 4 ∨ k = 8 ∨ k = 16 ∨ (k = 1 ∧ o = .maxe) →
      (∀ c, rangeCheck s peerWho a k .atomic [] = some c →
        exec (.zalakAtomicRequest p) s = .next (answerMsg s p m 9 [BitVec.ofNat 8 c.num])) ∧
      (rangeCheck s peerWho a k .atomic [] = none → a % k ≠ 0 →
        exec (.zalakAtomicRequest p) s = .next (answerMsg s p m 9 [7])) ∧
      (∀ r, rangeCheck s peerWho a k .atomic [] = none → a % k = 0 → (peerHome s peerWho a).isSome → engReq s (reqKey p m) 0 = some r →
        (∀ bs, r.answer = some bs → exec (.zalakAtomicRequest p) s = .next (answerMsg s p m 6 bs)) ∧
        (r.answer = none → r.fail ≠ none →
          exec (.zalakAtomicRequest p) s = .next (answerMsg s p m 9 [BitVec.ofNat 8 TrapCode.remoteLost.num]))) ∧
      (rangeCheck s peerWho a k .atomic [] = none → a % k = 0 → peerHome s peerWho a = none → rangePoisoned s peerWho a k = true →
        exec (.zalakAtomicRequest p) s = .next (answerMsg s p m 9 [8])) ∧
      (rangeCheck s peerWho a k .atomic [] = none → a % k = 0 → peerHome s peerWho a = none → rangePoisoned s peerWho a k = false →
        hostMiss s peerWho e [{ addr := some a, len := k }] = none → dstMigrates s [{ addr := some a, len := k }] = false →
        (oidOf a * 2 ^ 24 + offOf a / 65536) ∉ e.refused → ∀ u, engPages s peerWho a k = some u →
        let l := locate u peerWho a
        let may := (o = .add ∨ o = .xchg ∨ o = .cas) ∧ Config.hostRefuses s.tick a = false
        (∀ h, l = .host h → ¬ may →
          exec (.zalakAtomicRequest p) s = .next (answerMsg s p m 9 [BitVec.ofNat 8 TrapCode.objectInvalid.num])) ∧
        ((∀ h, l = .host h → may) →
          let old := loadLoc u l k
          ∃ v, exec (.zalakAtomicRequest p) s = .next (answerMsg v p m 6 (leBytes k old)) ∧ v.zports = s.zports ∧
            (∀ y, (∀ i < k, y ≠ l.plus i) → readByte v y = readByte u y) ∧
            (l ≠ .none → ∀ i < k, readByte v (l.plus i) = match atomNew o k old (x 8 k) (x (8 + k) k) with
              | some new => BitVec.ofNat 8 (new / 256 ^ i)
              | none => readByte u (l.plus i))))) ∧
    (op = 7 →
      let b := msgBlock m
      let mine := fun (o : PeerOp) => o.tag = m.tag ∧ o.port = p ∧ open_ o ∧ o.op = 1
      ((∃ o ∈ s.peerOps, mine o) → s.devQ = [] → ∃ t, exec (.zalakStreamBlock p) s = .next t ∧
        (zportAt t p).rx = (zportAt s p).rx.erase m ∧ t.mem = s.mem ∧ t.peerOps = (s.peerOps.map (fun o =>
          if o.tag = m.tag ∧ o.port = p ∧ o.answer = none ∧ o.fail = none ∧ o.op = 1 then
            joined m (if m.flags.testBit 0 then .block m.data else .syms m.data) o
          else o)).filter kept) ∧
      ((∀ o ∈ s.peerOps, ¬ mine o) → rangeCheck s peerWho a b.syms.length .write [] = none → peerHome s peerWho a = none →
        dstMigrates s [{ addr := some a, len := b.syms.length }] = false → (engPages s peerWho a b.syms.length).isSome →
        ∃ v t, exec (.zalakStreamBlock p) s = .next t ∧ OnlyCtrs (done v) t ∧ v.zports = s.zports ∧ v.paths = s.paths ∧
          (oidOf a = plainId → b.bad = false → ∀ o, Map.getD v.plain o Config.emptyByte =
            if offOf a ≤ o ∧ o < offOf a + b.syms.length then b.syms.getD (o - offOf a) 0
            else Map.getD s.plain o Config.emptyByte)))) ∧
  (∀ (s : State) (p : Nat), ∀ x ∈ [(Instr.zalakReadData p, 2, [1, 8], fun (m : Msg) (o : PeerOp) => joined m (.syms m.data) o),
      (.zalakWriteAck p, 4, [3], fun _ o => { o with answer := some [] }),
      (.zalakAtomicResult p, 6, [5], fun m o => { o with answer := some m.data }),
      (.zalakErrorResponse p, 9, [1, 3, 5, 8], fun m o =>
        if o.stream = true ∧ m.data.length = 3 ∧ m.data.headD 0 = 8 then joined m (.bad (leNat (m.data.drop 1))) o
        else { o with fail := some (m.data.headD 0).toNat })],
    (nextMsg x.2.1 (zportAt s p).rx [] = none → exec x.1 s = .next s) ∧
    ∀ m, nextMsg x.2.1 (zportAt s p).rx [] = some m → s.mg.tripped = false → s.devQ = [] → ∃ t, exec x.1 s = .next t ∧
      t = { s with
        zports := t.zports
        peerOps := t.peerOps } ∧
      zportAt t p = { zportAt s p with rx := (zportAt s p).rx.erase m } ∧ (∀ j, j ≠ p → zportAt t j = zportAt s j) ∧
      t.peerOps = (s.peerOps.map (fun o =>
        if o.tag = m.tag ∧ o.port = p ∧ o.answer = none ∧ o.fail = none ∧ o.op ∈ x.2.2.1 then x.2.2.2 m o else o)).filter kept)
end

