-- ==== Sys2Proof/Laws/Map.lean ====
section
/-! SUPPORT. Sparse maps: reads after writes, and the canonical form that writes keep. -/

namespace Sys2Proof.Map

variable {α : Type}

@[simp] theorem find?_nil (k : Nat) : find? ([] : Map α) k = none := rfl

@[simp] theorem find?_put (m : Map α) (k : Nat) (a : α) : find? (put m k a) k = some a := by
  induction m with
  | nil => simp [put, find?]
  | cons e m ih =>
    obtain ⟨j, b⟩ := e
    by_cases h : j = k
    · simp [put, find?, h]
    · by_cases h2 : k < j
      · simp [put, find?, h, h2]
      · simp [put, find?, h, h2, ih]

theorem find?_put_ne (m : Map α) {k k' : Nat} (a : α) (h : k' ≠ k) : find? (put m k a) k' = find? m k' := by
  have h' : k ≠ k' := fun e => h e.symm
  induction m with
  | nil => simp [put, find?, h']
  | cons e m ih =>
    obtain ⟨j, b⟩ := e
    by_cases hj : j = k
    · subst hj; simp [put, find?, h']
    · by_cases h2 : k < j
      · simp [put, find?, hj, h2, h']
      · simp [put, find?, hj, h2, ih]

theorem find?_put_if (m : Map α) (k k' : Nat) (a : α) :
    find? (put m k a) k' = if k' = k then some a else find? m k' := by
  by_cases h : k' = k
  · subst h; simp
  · simp [h, find?_put_ne m a h]

@[simp] theorem find?_del (m : Map α) (k : Nat) : find? (del m k) k = none := by
  induction m with
  | nil => rfl
  | cons e m ih =>
    obtain ⟨j, b⟩ := e
    by_cases h : j = k
    · simpa [del, h] using ih
    · simpa [del, h, find?] using ih

theorem find?_del_ne (m : Map α) {k k' : Nat} (h : k' ≠ k) : find? (del m k) k' = find? m k' := by
  induction m with
  | nil => rfl
  | cons e m ih =>
    obtain ⟨j, b⟩ := e
    by_cases hj : j = k
    · subst hj
      have h' : j ≠ k' := fun e => h e.symm
      simpa [del, find?, h'] using ih
    · by_cases h2 : j = k'
      · simp [del, find?, h2, h]
      · simpa [del, hj, find?, h2] using ih

theorem find?_del_if (m : Map α) (k k' : Nat) : find? (del m k) k' = if k' = k then none else find? m k' := by
  by_cases h : k' = k
  · subst h; simp
  · simp [h, find?_del_ne m h]

/-- What an adjusted map holds: the value at the key through `f`, every other key as before. -/
theorem find?_adjust (m : Map α) (k k' : Nat) (f : α → α) :
    find? (adjust m k f) k' = if k' = k then (find? m k).map f else find? m k' := by
  unfold adjust
  cases h : find? m k with
  | none =>
    by_cases hk : k' = k
    · subst hk; simp [h]
    · simp [hk]
  | some a => simp [find?_put_if]

@[simp] theorem find?_adjust_self (m : Map α) (k : Nat) (f : α → α) : find? (adjust m k f) k = (find? m k).map f := by
  simp [find?_adjust]

theorem find?_adjust_ne (m : Map α) {k k' : Nat} (f : α → α) (h : k' ≠ k) :
    find? (adjust m k f) k' = find? m k' := by
  simp [find?_adjust, h]

/-! ### The canonical form -/

theorem risingFrom_mono {m : Map α} {lo lo' : Nat} (h : lo' ≤ lo) (w : risingFrom lo m = true) :
    risingFrom lo' m = true := by
  cases m with
  | nil => rfl
  | cons e m =>
    obtain ⟨j, b⟩ := e
    simp only [risingFrom, Bool.and_eq_true, decide_eq_true_eq] at w ⊢
    exact ⟨Nat.le_trans h w.1, w.2⟩

theorem risingFrom_put {m : Map α} {lo : Nat} (k : Nat) (a : α) (hk : lo ≤ k) (w : risingFrom lo m = true) :
    risingFrom lo (put m k a) = true := by
  induction m generalizing lo with
  | nil => simp [put, risingFrom, hk]
  | cons e m ih =>
    obtain ⟨j, b⟩ := e
    simp only [risingFrom, Bool.and_eq_true, decide_eq_true_eq] at w
    by_cases h : j = k
    · subst h; simp [put, risingFrom, w]
    · by_cases h2 : k < j
      · have : risingFrom (j + 1) m = true := w.2
        simp [put, h, h2, risingFrom, hk, this]
        all_goals omega
      · have h3 : j + 1 ≤ k := by omega
        simp [put, h, h2, risingFrom, w.1, ih h3 w.2]

theorem risingFrom_filter {m : Map α} {lo : Nat} (p : Nat × α → Bool) (w : risingFrom lo m = true) :
    risingFrom lo (m.filter p) = true := by
  induction m generalizing lo with
  | nil => rfl
  | cons e m ih =>
    obtain ⟨j, b⟩ := e
    simp only [risingFrom, Bool.and_eq_true, decide_eq_true_eq] at w
    by_cases h : p (j, b) = true
    · simp [List.filter, h, risingFrom, w.1, ih w.2]
    · simp only [Bool.not_eq_true] at h
      simp only [List.filter, h]
      exact ih (risingFrom_mono (by omega) w.2)

variable [DecidableEq α]

/-- A read after a write to the same key gives the value written. -/
@[simp] theorem getD_setD (m : Map α) (k : Nat) (a d : α) : getD (setD m k a d) k d = a := by
  unfold getD setD
  by_cases h : a = d <;> simp [h]

/-- A write leaves every other key alone. -/
theorem getD_setD_ne (m : Map α) {k k' : Nat} (a d : α) (h : k' ≠ k) : getD (setD m k a d) k' d = getD m k' d := by
  unfold getD setD
  by_cases h2 : a = d
  · simp [h2, find?_del_ne m h]
  · simp [h2, find?_put_ne m a h]

theorem getD_setD_if (m : Map α) (k k' : Nat) (a d : α) :
    getD (setD m k a d) k' d = if k' = k then a else getD m k' d := by
  by_cases h : k' = k
  · subst h; simp
  · simp [h, getD_setD_ne m a d h]

theorem all_put {m : Map α} (k : Nat) (a d : α) (ha : a ≠ d) (w : m.all (fun e => decide (e.2 ≠ d)) = true) :
    (put m k a).all (fun e => decide (e.2 ≠ d)) = true := by
  induction m with
  | nil => simp [put, ha]
  | cons e m ih =>
    obtain ⟨j, b⟩ := e
    simp only [List.all_cons, Bool.and_eq_true, decide_eq_true_eq] at w
    by_cases h : j = k
    · simp only [put, h, if_true, List.all_cons, Bool.and_eq_true, decide_eq_true_eq]; exact ⟨ha, w.2⟩
    · by_cases h2 : k < j
      · simp only [put, h, h2, if_true, if_false, List.all_cons, Bool.and_eq_true, decide_eq_true_eq]
        exact ⟨ha, w⟩
      · simp only [put, h, h2, if_false, List.all_cons, Bool.and_eq_true, decide_eq_true_eq]
        exact ⟨w.1, ih w.2⟩

/-- A canonical map stays canonical when entries are left out. -/
theorem wfD_filter {m : Map α} {d : α} (p : Nat × α → Bool) (w : wfD d m = true) : wfD d (m.filter p) = true := by
  unfold wfD at w ⊢
  rw [Bool.and_eq_true] at w ⊢
  refine ⟨risingFrom_filter p w.1, ?_⟩
  rw [List.all_eq_true] at *
  intro x hx
  exact w.2 x ((List.mem_filter.mp hx).1)

/-- A write keeps the canonical form. -/
theorem wfD_setD {m : Map α} {d : α} (k : Nat) (a : α) (w : wfD d m = true) : wfD d (setD m k a d) = true := by
  unfold setD
  by_cases h : a = d
  · simpa [h, del] using wfD_filter (fun e => e.1 != k) w
  · simp only [h, if_false]
    unfold wfD at w ⊢
    rw [Bool.and_eq_true] at w ⊢
    exact ⟨risingFrom_put k a (Nat.zero_le k) w.1, all_put k a d h w.2⟩

@[simp] theorem wfD_nil (d : α) : wfD d ([] : Map α) = true := rfl

end Sys2Proof.Map
end

