-- ==== Sys2Proof/Laws/State.lean ====
section
/-! SUPPORT. What each update of the state leaves of each field: one lemma per field and update, true by definition. -/

namespace Sys2Proof.Machine

/-! ### onGang -/
@[simp] theorem onGang_tape (s : State) (k : Nat) (f : Gang → Gang) : (onGang s k f).tape = s.tape := rfl
@[simp] theorem onGang_cur (s : State) (k : Nat) (f : Gang → Gang) : (onGang s k f).cur = s.cur := rfl
@[simp] theorem onGang_tick (s : State) (k : Nat) (f : Gang → Gang) : (onGang s k f).tick = s.tick := rfl
@[simp] theorem onGang_free (s : State) (k : Nat) (f : Gang → Gang) : (onGang s k f).free = s.free := rfl
@[simp] theorem onGang_mem (s : State) (k : Nat) (f : Gang → Gang) : (onGang s k f).mem = s.mem := rfl
@[simp] theorem onGang_poison (s : State) (k : Nat) (f : Gang → Gang) : (onGang s k f).poison = s.poison := rfl
@[simp] theorem onGang_plain (s : State) (k : Nat) (f : Gang → Gang) : (onGang s k f).plain = s.plain := rfl
@[simp] theorem onGang_plainPoison (s : State) (k : Nat) (f : Gang → Gang) : (onGang s k f).plainPoison = s.plainPoison := rfl
@[simp] theorem onGang_rels (s : State) (k : Nat) (f : Gang → Gang) : (onGang s k f).rels = s.rels := rfl
@[simp] theorem onGang_acc (s : State) (k : Nat) (f : Gang → Gang) : (onGang s k f).acc = s.acc := rfl
@[simp] theorem onGang_accPoison (s : State) (k : Nat) (f : Gang → Gang) : (onGang s k f).accPoison = s.accPoison := rfl
@[simp] theorem onGang_hostMem (s : State) (k : Nat) (f : Gang → Gang) : (onGang s k f).hostMem = s.hostMem := rfl
@[simp] theorem onGang_paths (s : State) (k : Nat) (f : Gang → Gang) : (onGang s k f).paths = s.paths := rfl
@[simp] theorem onGang_gangs (s : State) (k : Nat) (f : Gang → Gang) : (onGang s k f).gangs = Map.adjust s.gangs k f := rfl
@[simp] theorem onGang_crews (s : State) (k : Nat) (f : Gang → Gang) : (onGang s k f).crews = s.crews := rfl
@[simp] theorem onGang_pre (s : State) (k : Nat) (f : Gang → Gang) : (onGang s k f).pre = s.pre := rfl
@[simp] theorem onGang_runs (s : State) (k : Nat) (f : Gang → Gang) : (onGang s k f).runs = s.runs := rfl
@[simp] theorem onGang_nextRun (s : State) (k : Nat) (f : Gang → Gang) : (onGang s k f).nextRun = s.nextRun := rfl
@[simp] theorem onGang_stampCnt (s : State) (k : Nat) (f : Gang → Gang) : (onGang s k f).stampCnt = s.stampCnt := rfl
@[simp] theorem onGang_nextUid (s : State) (k : Nat) (f : Gang → Gang) : (onGang s k f).nextUid = s.nextUid := rfl
@[simp] theorem onGang_lq (s : State) (k : Nat) (f : Gang → Gang) : (onGang s k f).lq = s.lq := rfl
@[simp] theorem onGang_spill (s : State) (k : Nat) (f : Gang → Gang) : (onGang s k f).spill = s.spill := rfl
@[simp] theorem onGang_spillCnt (s : State) (k : Nat) (f : Gang → Gang) : (onGang s k f).spillCnt = s.spillCnt := rfl
@[simp] theorem onGang_stalled (s : State) (k : Nat) (f : Gang → Gang) : (onGang s k f).stalled = s.stalled := rfl
@[simp] theorem onGang_arrivals (s : State) (k : Nat) (f : Gang → Gang) : (onGang s k f).arrivals = s.arrivals := rfl
@[simp] theorem onGang_deal (s : State) (k : Nat) (f : Gang → Gang) : (onGang s k f).deal = s.deal := rfl
@[simp] theorem onGang_outOfService (s : State) (k : Nat) (f : Gang → Gang) : (onGang s k f).outOfService = s.outOfService := rfl
@[simp] theorem onGang_scanning (s : State) (k : Nat) (f : Gang → Gang) : (onGang s k f).scanning = s.scanning := rfl
@[simp] theorem onGang_eng (s : State) (k : Nat) (f : Gang → Gang) : (onGang s k f).eng = s.eng := rfl
@[simp] theorem onGang_nextEng (s : State) (k : Nat) (f : Gang → Gang) : (onGang s k f).nextEng = s.nextEng := rfl
@[simp] theorem onGang_locks (s : State) (k : Nat) (f : Gang → Gang) : (onGang s k f).locks = s.locks := rfl
@[simp] theorem onGang_tileQ (s : State) (k : Nat) (f : Gang → Gang) : (onGang s k f).tileQ = s.tileQ := rfl
@[simp] theorem onGang_resv (s : State) (k : Nat) (f : Gang → Gang) : (onGang s k f).resv = s.resv := rfl
@[simp] theorem onGang_granted (s : State) (k : Nat) (f : Gang → Gang) : (onGang s k f).granted = s.granted := rfl
@[simp] theorem onGang_prism (s : State) (k : Nat) (f : Gang → Gang) : (onGang s k f).prism = s.prism := rfl
@[simp] theorem onGang_binds (s : State) (k : Nat) (f : Gang → Gang) : (onGang s k f).binds = s.binds := rfl
@[simp] theorem onGang_xlats (s : State) (k : Nat) (f : Gang → Gang) : (onGang s k f).xlats = s.xlats := rfl
@[simp] theorem onGang_dirty (s : State) (k : Nat) (f : Gang → Gang) : (onGang s k f).dirty = s.dirty := rfl
@[simp] theorem onGang_shoots (s : State) (k : Nat) (f : Gang → Gang) : (onGang s k f).shoots = s.shoots := rfl
@[simp] theorem onGang_harvs (s : State) (k : Nat) (f : Gang → Gang) : (onGang s k f).harvs = s.harvs := rfl
@[simp] theorem onGang_reclaims (s : State) (k : Nat) (f : Gang → Gang) : (onGang s k f).reclaims = s.reclaims := rfl
@[simp] theorem onGang_svcs (s : State) (k : Nat) (f : Gang → Gang) : (onGang s k f).svcs = s.svcs := rfl
@[simp] theorem onGang_nextTag (s : State) (k : Nat) (f : Gang → Gang) : (onGang s k f).nextTag = s.nextTag := rfl
@[simp] theorem onGang_bounce (s : State) (k : Nat) (f : Gang → Gang) : (onGang s k f).bounce = s.bounce := rfl
@[simp] theorem onGang_pool (s : State) (k : Nat) (f : Gang → Gang) : (onGang s k f).pool = s.pool := rfl
@[simp] theorem onGang_migr (s : State) (k : Nat) (f : Gang → Gang) : (onGang s k f).migr = s.migr := rfl
@[simp] theorem onGang_migrQ (s : State) (k : Nat) (f : Gang → Gang) : (onGang s k f).migrQ = s.migrQ := rfl
@[simp] theorem onGang_zports (s : State) (k : Nat) (f : Gang → Gang) : (onGang s k f).zports = s.zports := rfl
@[simp] theorem onGang_peerOps (s : State) (k : Nat) (f : Gang → Gang) : (onGang s k f).peerOps = s.peerOps := rfl
@[simp] theorem onGang_nextPeerTag (s : State) (k : Nat) (f : Gang → Gang) : (onGang s k f).nextPeerTag = s.nextPeerTag := rfl
@[simp] theorem onGang_ctrs (s : State) (k : Nat) (f : Gang → Gang) : (onGang s k f).ctrs = s.ctrs := rfl
@[simp] theorem onGang_lens (s : State) (k : Nat) (f : Gang → Gang) : (onGang s k f).lens = s.lens := rfl
@[simp] theorem onGang_lensTags (s : State) (k : Nat) (f : Gang → Gang) : (onGang s k f).lensTags = s.lensTags := rfl
@[simp] theorem onGang_exits (s : State) (k : Nat) (f : Gang → Gang) : (onGang s k f).exits = s.exits := rfl
@[simp] theorem onGang_devQ (s : State) (k : Nat) (f : Gang → Gang) : (onGang s k f).devQ = s.devQ := rfl
@[simp] theorem onGang_ckpt (s : State) (k : Nat) (f : Gang → Gang) : (onGang s k f).ckpt = s.ckpt := rfl
@[simp] theorem onGang_hostRead (s : State) (k : Nat) (f : Gang → Gang) : (onGang s k f).hostRead = s.hostRead := rfl
@[simp] theorem onGang_hostEp (s : State) (k : Nat) (f : Gang → Gang) : (onGang s k f).hostEp = s.hostEp := rfl
@[simp] theorem onGang_mg (s : State) (k : Nat) (f : Gang → Gang) : (onGang s k f).mg = s.mg := rfl

/-! ### onPath -/
@[simp] theorem onPath_tape (s : State) (k : Nat) (f : Path → Path) : (onPath s k f).tape = s.tape := rfl
@[simp] theorem onPath_cur (s : State) (k : Nat) (f : Path → Path) : (onPath s k f).cur = s.cur := rfl
@[simp] theorem onPath_tick (s : State) (k : Nat) (f : Path → Path) : (onPath s k f).tick = s.tick := rfl
@[simp] theorem onPath_free (s : State) (k : Nat) (f : Path → Path) : (onPath s k f).free = s.free := rfl
@[simp] theorem onPath_mem (s : State) (k : Nat) (f : Path → Path) : (onPath s k f).mem = s.mem := rfl
@[simp] theorem onPath_poison (s : State) (k : Nat) (f : Path → Path) : (onPath s k f).poison = s.poison := rfl
@[simp] theorem onPath_plain (s : State) (k : Nat) (f : Path → Path) : (onPath s k f).plain = s.plain := rfl
@[simp] theorem onPath_plainPoison (s : State) (k : Nat) (f : Path → Path) : (onPath s k f).plainPoison = s.plainPoison := rfl
@[simp] theorem onPath_rels (s : State) (k : Nat) (f : Path → Path) : (onPath s k f).rels = s.rels := rfl
@[simp] theorem onPath_acc (s : State) (k : Nat) (f : Path → Path) : (onPath s k f).acc = s.acc := rfl
@[simp] theorem onPath_accPoison (s : State) (k : Nat) (f : Path → Path) : (onPath s k f).accPoison = s.accPoison := rfl
@[simp] theorem onPath_hostMem (s : State) (k : Nat) (f : Path → Path) : (onPath s k f).hostMem = s.hostMem := rfl
@[simp] theorem onPath_paths (s : State) (k : Nat) (f : Path → Path) : (onPath s k f).paths = Map.adjust s.paths k f := rfl
@[simp] theorem onPath_gangs (s : State) (k : Nat) (f : Path → Path) : (onPath s k f).gangs = s.gangs := rfl
@[simp] theorem onPath_crews (s : State) (k : Nat) (f : Path → Path) : (onPath s k f).crews = s.crews := rfl
@[simp] theorem onPath_pre (s : State) (k : Nat) (f : Path → Path) : (onPath s k f).pre = s.pre := rfl
@[simp] theorem onPath_runs (s : State) (k : Nat) (f : Path → Path) : (onPath s k f).runs = s.runs := rfl
@[simp] theorem onPath_nextRun (s : State) (k : Nat) (f : Path → Path) : (onPath s k f).nextRun = s.nextRun := rfl
@[simp] theorem onPath_stampCnt (s : State) (k : Nat) (f : Path → Path) : (onPath s k f).stampCnt = s.stampCnt := rfl
@[simp] theorem onPath_nextUid (s : State) (k : Nat) (f : Path → Path) : (onPath s k f).nextUid = s.nextUid := rfl
@[simp] theorem onPath_lq (s : State) (k : Nat) (f : Path → Path) : (onPath s k f).lq = s.lq := rfl
@[simp] theorem onPath_spill (s : State) (k : Nat) (f : Path → Path) : (onPath s k f).spill = s.spill := rfl
@[simp] theorem onPath_spillCnt (s : State) (k : Nat) (f : Path → Path) : (onPath s k f).spillCnt = s.spillCnt := rfl
@[simp] theorem onPath_stalled (s : State) (k : Nat) (f : Path → Path) : (onPath s k f).stalled = s.stalled := rfl
@[simp] theorem onPath_arrivals (s : State) (k : Nat) (f : Path → Path) : (onPath s k f).arrivals = s.arrivals := rfl
@[simp] theorem onPath_deal (s : State) (k : Nat) (f : Path → Path) : (onPath s k f).deal = s.deal := rfl
@[simp] theorem onPath_outOfService (s : State) (k : Nat) (f : Path → Path) : (onPath s k f).outOfService = s.outOfService := rfl
@[simp] theorem onPath_scanning (s : State) (k : Nat) (f : Path → Path) : (onPath s k f).scanning = s.scanning := rfl
@[simp] theorem onPath_eng (s : State) (k : Nat) (f : Path → Path) : (onPath s k f).eng = s.eng := rfl
@[simp] theorem onPath_nextEng (s : State) (k : Nat) (f : Path → Path) : (onPath s k f).nextEng = s.nextEng := rfl
@[simp] theorem onPath_locks (s : State) (k : Nat) (f : Path → Path) : (onPath s k f).locks = s.locks := rfl
@[simp] theorem onPath_tileQ (s : State) (k : Nat) (f : Path → Path) : (onPath s k f).tileQ = s.tileQ := rfl
@[simp] theorem onPath_resv (s : State) (k : Nat) (f : Path → Path) : (onPath s k f).resv = s.resv := rfl
@[simp] theorem onPath_granted (s : State) (k : Nat) (f : Path → Path) : (onPath s k f).granted = s.granted := rfl
@[simp] theorem onPath_prism (s : State) (k : Nat) (f : Path → Path) : (onPath s k f).prism = s.prism := rfl
@[simp] theorem onPath_binds (s : State) (k : Nat) (f : Path → Path) : (onPath s k f).binds = s.binds := rfl
@[simp] theorem onPath_xlats (s : State) (k : Nat) (f : Path → Path) : (onPath s k f).xlats = s.xlats := rfl
@[simp] theorem onPath_dirty (s : State) (k : Nat) (f : Path → Path) : (onPath s k f).dirty = s.dirty := rfl
@[simp] theorem onPath_shoots (s : State) (k : Nat) (f : Path → Path) : (onPath s k f).shoots = s.shoots := rfl
@[simp] theorem onPath_harvs (s : State) (k : Nat) (f : Path → Path) : (onPath s k f).harvs = s.harvs := rfl
@[simp] theorem onPath_reclaims (s : State) (k : Nat) (f : Path → Path) : (onPath s k f).reclaims = s.reclaims := rfl
@[simp] theorem onPath_svcs (s : State) (k : Nat) (f : Path → Path) : (onPath s k f).svcs = s.svcs := rfl
@[simp] theorem onPath_nextTag (s : State) (k : Nat) (f : Path → Path) : (onPath s k f).nextTag = s.nextTag := rfl
@[simp] theorem onPath_bounce (s : State) (k : Nat) (f : Path → Path) : (onPath s k f).bounce = s.bounce := rfl
@[simp] theorem onPath_pool (s : State) (k : Nat) (f : Path → Path) : (onPath s k f).pool = s.pool := rfl
@[simp] theorem onPath_migr (s : State) (k : Nat) (f : Path → Path) : (onPath s k f).migr = s.migr := rfl
@[simp] theorem onPath_migrQ (s : State) (k : Nat) (f : Path → Path) : (onPath s k f).migrQ = s.migrQ := rfl
@[simp] theorem onPath_zports (s : State) (k : Nat) (f : Path → Path) : (onPath s k f).zports = s.zports := rfl
@[simp] theorem onPath_peerOps (s : State) (k : Nat) (f : Path → Path) : (onPath s k f).peerOps = s.peerOps := rfl
@[simp] theorem onPath_nextPeerTag (s : State) (k : Nat) (f : Path → Path) : (onPath s k f).nextPeerTag = s.nextPeerTag := rfl
@[simp] theorem onPath_ctrs (s : State) (k : Nat) (f : Path → Path) : (onPath s k f).ctrs = s.ctrs := rfl
@[simp] theorem onPath_lens (s : State) (k : Nat) (f : Path → Path) : (onPath s k f).lens = s.lens := rfl
@[simp] theorem onPath_lensTags (s : State) (k : Nat) (f : Path → Path) : (onPath s k f).lensTags = s.lensTags := rfl
@[simp] theorem onPath_exits (s : State) (k : Nat) (f : Path → Path) : (onPath s k f).exits = s.exits := rfl
@[simp] theorem onPath_devQ (s : State) (k : Nat) (f : Path → Path) : (onPath s k f).devQ = s.devQ := rfl
@[simp] theorem onPath_ckpt (s : State) (k : Nat) (f : Path → Path) : (onPath s k f).ckpt = s.ckpt := rfl
@[simp] theorem onPath_hostRead (s : State) (k : Nat) (f : Path → Path) : (onPath s k f).hostRead = s.hostRead := rfl
@[simp] theorem onPath_hostEp (s : State) (k : Nat) (f : Path → Path) : (onPath s k f).hostEp = s.hostEp := rfl
@[simp] theorem onPath_mg (s : State) (k : Nat) (f : Path → Path) : (onPath s k f).mg = s.mg := rfl

/-! ### onCrew -/
@[simp] theorem onCrew_tape (s : State) (k : Nat) (f : Crew → Crew) : (onCrew s k f).tape = s.tape := rfl
@[simp] theorem onCrew_cur (s : State) (k : Nat) (f : Crew → Crew) : (onCrew s k f).cur = s.cur := rfl
@[simp] theorem onCrew_tick (s : State) (k : Nat) (f : Crew → Crew) : (onCrew s k f).tick = s.tick := rfl
@[simp] theorem onCrew_free (s : State) (k : Nat) (f : Crew → Crew) : (onCrew s k f).free = s.free := rfl
@[simp] theorem onCrew_mem (s : State) (k : Nat) (f : Crew → Crew) : (onCrew s k f).mem = s.mem := rfl
@[simp] theorem onCrew_poison (s : State) (k : Nat) (f : Crew → Crew) : (onCrew s k f).poison = s.poison := rfl
@[simp] theorem onCrew_plain (s : State) (k : Nat) (f : Crew → Crew) : (onCrew s k f).plain = s.plain := rfl
@[simp] theorem onCrew_plainPoison (s : State) (k : Nat) (f : Crew → Crew) : (onCrew s k f).plainPoison = s.plainPoison := rfl
@[simp] theorem onCrew_rels (s : State) (k : Nat) (f : Crew → Crew) : (onCrew s k f).rels = s.rels := rfl
@[simp] theorem onCrew_acc (s : State) (k : Nat) (f : Crew → Crew) : (onCrew s k f).acc = s.acc := rfl
@[simp] theorem onCrew_accPoison (s : State) (k : Nat) (f : Crew → Crew) : (onCrew s k f).accPoison = s.accPoison := rfl
@[simp] theorem onCrew_hostMem (s : State) (k : Nat) (f : Crew → Crew) : (onCrew s k f).hostMem = s.hostMem := rfl
@[simp] theorem onCrew_paths (s : State) (k : Nat) (f : Crew → Crew) : (onCrew s k f).paths = s.paths := rfl
@[simp] theorem onCrew_gangs (s : State) (k : Nat) (f : Crew → Crew) : (onCrew s k f).gangs = s.gangs := rfl
@[simp] theorem onCrew_crews (s : State) (k : Nat) (f : Crew → Crew) : (onCrew s k f).crews = Map.adjust s.crews k f := rfl
@[simp] theorem onCrew_pre (s : State) (k : Nat) (f : Crew → Crew) : (onCrew s k f).pre = s.pre := rfl
@[simp] theorem onCrew_runs (s : State) (k : Nat) (f : Crew → Crew) : (onCrew s k f).runs = s.runs := rfl
@[simp] theorem onCrew_nextRun (s : State) (k : Nat) (f : Crew → Crew) : (onCrew s k f).nextRun = s.nextRun := rfl
@[simp] theorem onCrew_stampCnt (s : State) (k : Nat) (f : Crew → Crew) : (onCrew s k f).stampCnt = s.stampCnt := rfl
@[simp] theorem onCrew_nextUid (s : State) (k : Nat) (f : Crew → Crew) : (onCrew s k f).nextUid = s.nextUid := rfl
@[simp] theorem onCrew_lq (s : State) (k : Nat) (f : Crew → Crew) : (onCrew s k f).lq = s.lq := rfl
@[simp] theorem onCrew_spill (s : State) (k : Nat) (f : Crew → Crew) : (onCrew s k f).spill = s.spill := rfl
@[simp] theorem onCrew_spillCnt (s : State) (k : Nat) (f : Crew → Crew) : (onCrew s k f).spillCnt = s.spillCnt := rfl
@[simp] theorem onCrew_stalled (s : State) (k : Nat) (f : Crew → Crew) : (onCrew s k f).stalled = s.stalled := rfl
@[simp] theorem onCrew_arrivals (s : State) (k : Nat) (f : Crew → Crew) : (onCrew s k f).arrivals = s.arrivals := rfl
@[simp] theorem onCrew_deal (s : State) (k : Nat) (f : Crew → Crew) : (onCrew s k f).deal = s.deal := rfl
@[simp] theorem onCrew_outOfService (s : State) (k : Nat) (f : Crew → Crew) : (onCrew s k f).outOfService = s.outOfService := rfl
@[simp] theorem onCrew_scanning (s : State) (k : Nat) (f : Crew → Crew) : (onCrew s k f).scanning = s.scanning := rfl
@[simp] theorem onCrew_eng (s : State) (k : Nat) (f : Crew → Crew) : (onCrew s k f).eng = s.eng := rfl
@[simp] theorem onCrew_nextEng (s : State) (k : Nat) (f : Crew → Crew) : (onCrew s k f).nextEng = s.nextEng := rfl
@[simp] theorem onCrew_locks (s : State) (k : Nat) (f : Crew → Crew) : (onCrew s k f).locks = s.locks := rfl
@[simp] theorem onCrew_tileQ (s : State) (k : Nat) (f : Crew → Crew) : (onCrew s k f).tileQ = s.tileQ := rfl
@[simp] theorem onCrew_resv (s : State) (k : Nat) (f : Crew → Crew) : (onCrew s k f).resv = s.resv := rfl
@[simp] theorem onCrew_granted (s : State) (k : Nat) (f : Crew → Crew) : (onCrew s k f).granted = s.granted := rfl
@[simp] theorem onCrew_prism (s : State) (k : Nat) (f : Crew → Crew) : (onCrew s k f).prism = s.prism := rfl
@[simp] theorem onCrew_binds (s : State) (k : Nat) (f : Crew → Crew) : (onCrew s k f).binds = s.binds := rfl
@[simp] theorem onCrew_xlats (s : State) (k : Nat) (f : Crew → Crew) : (onCrew s k f).xlats = s.xlats := rfl
@[simp] theorem onCrew_dirty (s : State) (k : Nat) (f : Crew → Crew) : (onCrew s k f).dirty = s.dirty := rfl
@[simp] theorem onCrew_shoots (s : State) (k : Nat) (f : Crew → Crew) : (onCrew s k f).shoots = s.shoots := rfl
@[simp] theorem onCrew_harvs (s : State) (k : Nat) (f : Crew → Crew) : (onCrew s k f).harvs = s.harvs := rfl
@[simp] theorem onCrew_reclaims (s : State) (k : Nat) (f : Crew → Crew) : (onCrew s k f).reclaims = s.reclaims := rfl
@[simp] theorem onCrew_svcs (s : State) (k : Nat) (f : Crew → Crew) : (onCrew s k f).svcs = s.svcs := rfl
@[simp] theorem onCrew_nextTag (s : State) (k : Nat) (f : Crew → Crew) : (onCrew s k f).nextTag = s.nextTag := rfl
@[simp] theorem onCrew_bounce (s : State) (k : Nat) (f : Crew → Crew) : (onCrew s k f).bounce = s.bounce := rfl
@[simp] theorem onCrew_pool (s : State) (k : Nat) (f : Crew → Crew) : (onCrew s k f).pool = s.pool := rfl
@[simp] theorem onCrew_migr (s : State) (k : Nat) (f : Crew → Crew) : (onCrew s k f).migr = s.migr := rfl
@[simp] theorem onCrew_migrQ (s : State) (k : Nat) (f : Crew → Crew) : (onCrew s k f).migrQ = s.migrQ := rfl
@[simp] theorem onCrew_zports (s : State) (k : Nat) (f : Crew → Crew) : (onCrew s k f).zports = s.zports := rfl
@[simp] theorem onCrew_peerOps (s : State) (k : Nat) (f : Crew → Crew) : (onCrew s k f).peerOps = s.peerOps := rfl
@[simp] theorem onCrew_nextPeerTag (s : State) (k : Nat) (f : Crew → Crew) : (onCrew s k f).nextPeerTag = s.nextPeerTag := rfl
@[simp] theorem onCrew_ctrs (s : State) (k : Nat) (f : Crew → Crew) : (onCrew s k f).ctrs = s.ctrs := rfl
@[simp] theorem onCrew_lens (s : State) (k : Nat) (f : Crew → Crew) : (onCrew s k f).lens = s.lens := rfl
@[simp] theorem onCrew_lensTags (s : State) (k : Nat) (f : Crew → Crew) : (onCrew s k f).lensTags = s.lensTags := rfl
@[simp] theorem onCrew_exits (s : State) (k : Nat) (f : Crew → Crew) : (onCrew s k f).exits = s.exits := rfl
@[simp] theorem onCrew_devQ (s : State) (k : Nat) (f : Crew → Crew) : (onCrew s k f).devQ = s.devQ := rfl
@[simp] theorem onCrew_ckpt (s : State) (k : Nat) (f : Crew → Crew) : (onCrew s k f).ckpt = s.ckpt := rfl
@[simp] theorem onCrew_hostRead (s : State) (k : Nat) (f : Crew → Crew) : (onCrew s k f).hostRead = s.hostRead := rfl
@[simp] theorem onCrew_hostEp (s : State) (k : Nat) (f : Crew → Crew) : (onCrew s k f).hostEp = s.hostEp := rfl
@[simp] theorem onCrew_mg (s : State) (k : Nat) (f : Crew → Crew) : (onCrew s k f).mg = s.mg := rfl

/-! ### onRun -/
@[simp] theorem onRun_tape (s : State) (k : Nat) (f : Run → Run) : (onRun s k f).tape = s.tape := rfl
@[simp] theorem onRun_cur (s : State) (k : Nat) (f : Run → Run) : (onRun s k f).cur = s.cur := rfl
@[simp] theorem onRun_tick (s : State) (k : Nat) (f : Run → Run) : (onRun s k f).tick = s.tick := rfl
@[simp] theorem onRun_free (s : State) (k : Nat) (f : Run → Run) : (onRun s k f).free = s.free := rfl
@[simp] theorem onRun_mem (s : State) (k : Nat) (f : Run → Run) : (onRun s k f).mem = s.mem := rfl
@[simp] theorem onRun_poison (s : State) (k : Nat) (f : Run → Run) : (onRun s k f).poison = s.poison := rfl
@[simp] theorem onRun_plain (s : State) (k : Nat) (f : Run → Run) : (onRun s k f).plain = s.plain := rfl
@[simp] theorem onRun_plainPoison (s : State) (k : Nat) (f : Run → Run) : (onRun s k f).plainPoison = s.plainPoison := rfl
@[simp] theorem onRun_rels (s : State) (k : Nat) (f : Run → Run) : (onRun s k f).rels = s.rels := rfl
@[simp] theorem onRun_acc (s : State) (k : Nat) (f : Run → Run) : (onRun s k f).acc = s.acc := rfl
@[simp] theorem onRun_accPoison (s : State) (k : Nat) (f : Run → Run) : (onRun s k f).accPoison = s.accPoison := rfl
@[simp] theorem onRun_hostMem (s : State) (k : Nat) (f : Run → Run) : (onRun s k f).hostMem = s.hostMem := rfl
@[simp] theorem onRun_paths (s : State) (k : Nat) (f : Run → Run) : (onRun s k f).paths = s.paths := rfl
@[simp] theorem onRun_gangs (s : State) (k : Nat) (f : Run → Run) : (onRun s k f).gangs = s.gangs := rfl
@[simp] theorem onRun_crews (s : State) (k : Nat) (f : Run → Run) : (onRun s k f).crews = s.crews := rfl
@[simp] theorem onRun_pre (s : State) (k : Nat) (f : Run → Run) : (onRun s k f).pre = s.pre := rfl
@[simp] theorem onRun_runs (s : State) (k : Nat) (f : Run → Run) : (onRun s k f).runs = Map.adjust s.runs k f := rfl
@[simp] theorem onRun_nextRun (s : State) (k : Nat) (f : Run → Run) : (onRun s k f).nextRun = s.nextRun := rfl
@[simp] theorem onRun_stampCnt (s : State) (k : Nat) (f : Run → Run) : (onRun s k f).stampCnt = s.stampCnt := rfl
@[simp] theorem onRun_nextUid (s : State) (k : Nat) (f : Run → Run) : (onRun s k f).nextUid = s.nextUid := rfl
@[simp] theorem onRun_lq (s : State) (k : Nat) (f : Run → Run) : (onRun s k f).lq = s.lq := rfl
@[simp] theorem onRun_spill (s : State) (k : Nat) (f : Run → Run) : (onRun s k f).spill = s.spill := rfl
@[simp] theorem onRun_spillCnt (s : State) (k : Nat) (f : Run → Run) : (onRun s k f).spillCnt = s.spillCnt := rfl
@[simp] theorem onRun_stalled (s : State) (k : Nat) (f : Run → Run) : (onRun s k f).stalled = s.stalled := rfl
@[simp] theorem onRun_arrivals (s : State) (k : Nat) (f : Run → Run) : (onRun s k f).arrivals = s.arrivals := rfl
@[simp] theorem onRun_deal (s : State) (k : Nat) (f : Run → Run) : (onRun s k f).deal = s.deal := rfl
@[simp] theorem onRun_outOfService (s : State) (k : Nat) (f : Run → Run) : (onRun s k f).outOfService = s.outOfService := rfl
@[simp] theorem onRun_scanning (s : State) (k : Nat) (f : Run → Run) : (onRun s k f).scanning = s.scanning := rfl
@[simp] theorem onRun_eng (s : State) (k : Nat) (f : Run → Run) : (onRun s k f).eng = s.eng := rfl
@[simp] theorem onRun_nextEng (s : State) (k : Nat) (f : Run → Run) : (onRun s k f).nextEng = s.nextEng := rfl
@[simp] theorem onRun_locks (s : State) (k : Nat) (f : Run → Run) : (onRun s k f).locks = s.locks := rfl
@[simp] theorem onRun_tileQ (s : State) (k : Nat) (f : Run → Run) : (onRun s k f).tileQ = s.tileQ := rfl
@[simp] theorem onRun_resv (s : State) (k : Nat) (f : Run → Run) : (onRun s k f).resv = s.resv := rfl
@[simp] theorem onRun_granted (s : State) (k : Nat) (f : Run → Run) : (onRun s k f).granted = s.granted := rfl
@[simp] theorem onRun_prism (s : State) (k : Nat) (f : Run → Run) : (onRun s k f).prism = s.prism := rfl
@[simp] theorem onRun_binds (s : State) (k : Nat) (f : Run → Run) : (onRun s k f).binds = s.binds := rfl
@[simp] theorem onRun_xlats (s : State) (k : Nat) (f : Run → Run) : (onRun s k f).xlats = s.xlats := rfl
@[simp] theorem onRun_dirty (s : State) (k : Nat) (f : Run → Run) : (onRun s k f).dirty = s.dirty := rfl
@[simp] theorem onRun_shoots (s : State) (k : Nat) (f : Run → Run) : (onRun s k f).shoots = s.shoots := rfl
@[simp] theorem onRun_harvs (s : State) (k : Nat) (f : Run → Run) : (onRun s k f).harvs = s.harvs := rfl
@[simp] theorem onRun_reclaims (s : State) (k : Nat) (f : Run → Run) : (onRun s k f).reclaims = s.reclaims := rfl
@[simp] theorem onRun_svcs (s : State) (k : Nat) (f : Run → Run) : (onRun s k f).svcs = s.svcs := rfl
@[simp] theorem onRun_nextTag (s : State) (k : Nat) (f : Run → Run) : (onRun s k f).nextTag = s.nextTag := rfl
@[simp] theorem onRun_bounce (s : State) (k : Nat) (f : Run → Run) : (onRun s k f).bounce = s.bounce := rfl
@[simp] theorem onRun_pool (s : State) (k : Nat) (f : Run → Run) : (onRun s k f).pool = s.pool := rfl
@[simp] theorem onRun_migr (s : State) (k : Nat) (f : Run → Run) : (onRun s k f).migr = s.migr := rfl
@[simp] theorem onRun_migrQ (s : State) (k : Nat) (f : Run → Run) : (onRun s k f).migrQ = s.migrQ := rfl
@[simp] theorem onRun_zports (s : State) (k : Nat) (f : Run → Run) : (onRun s k f).zports = s.zports := rfl
@[simp] theorem onRun_peerOps (s : State) (k : Nat) (f : Run → Run) : (onRun s k f).peerOps = s.peerOps := rfl
@[simp] theorem onRun_nextPeerTag (s : State) (k : Nat) (f : Run → Run) : (onRun s k f).nextPeerTag = s.nextPeerTag := rfl
@[simp] theorem onRun_ctrs (s : State) (k : Nat) (f : Run → Run) : (onRun s k f).ctrs = s.ctrs := rfl
@[simp] theorem onRun_lens (s : State) (k : Nat) (f : Run → Run) : (onRun s k f).lens = s.lens := rfl
@[simp] theorem onRun_lensTags (s : State) (k : Nat) (f : Run → Run) : (onRun s k f).lensTags = s.lensTags := rfl
@[simp] theorem onRun_exits (s : State) (k : Nat) (f : Run → Run) : (onRun s k f).exits = s.exits := rfl
@[simp] theorem onRun_devQ (s : State) (k : Nat) (f : Run → Run) : (onRun s k f).devQ = s.devQ := rfl
@[simp] theorem onRun_ckpt (s : State) (k : Nat) (f : Run → Run) : (onRun s k f).ckpt = s.ckpt := rfl
@[simp] theorem onRun_hostRead (s : State) (k : Nat) (f : Run → Run) : (onRun s k f).hostRead = s.hostRead := rfl
@[simp] theorem onRun_hostEp (s : State) (k : Nat) (f : Run → Run) : (onRun s k f).hostEp = s.hostEp := rfl
@[simp] theorem onRun_mg (s : State) (k : Nat) (f : Run → Run) : (onRun s k f).mg = s.mg := rfl

/-! ### onMg -/
@[simp] theorem onMg_tape (s : State) (f : Mgmt → Mgmt) : (onMg s f).tape = s.tape := rfl
@[simp] theorem onMg_cur (s : State) (f : Mgmt → Mgmt) : (onMg s f).cur = s.cur := rfl
@[simp] theorem onMg_tick (s : State) (f : Mgmt → Mgmt) : (onMg s f).tick = s.tick := rfl
@[simp] theorem onMg_free (s : State) (f : Mgmt → Mgmt) : (onMg s f).free = s.free := rfl
@[simp] theorem onMg_mem (s : State) (f : Mgmt → Mgmt) : (onMg s f).mem = s.mem := rfl
@[simp] theorem onMg_poison (s : State) (f : Mgmt → Mgmt) : (onMg s f).poison = s.poison := rfl
@[simp] theorem onMg_plain (s : State) (f : Mgmt → Mgmt) : (onMg s f).plain = s.plain := rfl
@[simp] theorem onMg_plainPoison (s : State) (f : Mgmt → Mgmt) : (onMg s f).plainPoison = s.plainPoison := rfl
@[simp] theorem onMg_rels (s : State) (f : Mgmt → Mgmt) : (onMg s f).rels = s.rels := rfl
@[simp] theorem onMg_acc (s : State) (f : Mgmt → Mgmt) : (onMg s f).acc = s.acc := rfl
@[simp] theorem onMg_accPoison (s : State) (f : Mgmt → Mgmt) : (onMg s f).accPoison = s.accPoison := rfl
@[simp] theorem onMg_hostMem (s : State) (f : Mgmt → Mgmt) : (onMg s f).hostMem = s.hostMem := rfl
@[simp] theorem onMg_paths (s : State) (f : Mgmt → Mgmt) : (onMg s f).paths = s.paths := rfl
@[simp] theorem onMg_gangs (s : State) (f : Mgmt → Mgmt) : (onMg s f).gangs = s.gangs := rfl
@[simp] theorem onMg_crews (s : State) (f : Mgmt → Mgmt) : (onMg s f).crews = s.crews := rfl
@[simp] theorem onMg_pre (s : State) (f : Mgmt → Mgmt) : (onMg s f).pre = s.pre := rfl
@[simp] theorem onMg_runs (s : State) (f : Mgmt → Mgmt) : (onMg s f).runs = s.runs := rfl
@[simp] theorem onMg_nextRun (s : State) (f : Mgmt → Mgmt) : (onMg s f).nextRun = s.nextRun := rfl
@[simp] theorem onMg_stampCnt (s : State) (f : Mgmt → Mgmt) : (onMg s f).stampCnt = s.stampCnt := rfl
@[simp] theorem onMg_nextUid (s : State) (f : Mgmt → Mgmt) : (onMg s f).nextUid = s.nextUid := rfl
@[simp] theorem onMg_lq (s : State) (f : Mgmt → Mgmt) : (onMg s f).lq = s.lq := rfl
@[simp] theorem onMg_spill (s : State) (f : Mgmt → Mgmt) : (onMg s f).spill = s.spill := rfl
@[simp] theorem onMg_spillCnt (s : State) (f : Mgmt → Mgmt) : (onMg s f).spillCnt = s.spillCnt := rfl
@[simp] theorem onMg_stalled (s : State) (f : Mgmt → Mgmt) : (onMg s f).stalled = s.stalled := rfl
@[simp] theorem onMg_arrivals (s : State) (f : Mgmt → Mgmt) : (onMg s f).arrivals = s.arrivals := rfl
@[simp] theorem onMg_deal (s : State) (f : Mgmt → Mgmt) : (onMg s f).deal = s.deal := rfl
@[simp] theorem onMg_outOfService (s : State) (f : Mgmt → Mgmt) : (onMg s f).outOfService = s.outOfService := rfl
@[simp] theorem onMg_scanning (s : State) (f : Mgmt → Mgmt) : (onMg s f).scanning = s.scanning := rfl
@[simp] theorem onMg_eng (s : State) (f : Mgmt → Mgmt) : (onMg s f).eng = s.eng := rfl
@[simp] theorem onMg_nextEng (s : State) (f : Mgmt → Mgmt) : (onMg s f).nextEng = s.nextEng := rfl
@[simp] theorem onMg_locks (s : State) (f : Mgmt → Mgmt) : (onMg s f).locks = s.locks := rfl
@[simp] theorem onMg_tileQ (s : State) (f : Mgmt → Mgmt) : (onMg s f).tileQ = s.tileQ := rfl
@[simp] theorem onMg_resv (s : State) (f : Mgmt → Mgmt) : (onMg s f).resv = s.resv := rfl
@[simp] theorem onMg_granted (s : State) (f : Mgmt → Mgmt) : (onMg s f).granted = s.granted := rfl
@[simp] theorem onMg_prism (s : State) (f : Mgmt → Mgmt) : (onMg s f).prism = s.prism := rfl
@[simp] theorem onMg_binds (s : State) (f : Mgmt → Mgmt) : (onMg s f).binds = s.binds := rfl
@[simp] theorem onMg_xlats (s : State) (f : Mgmt → Mgmt) : (onMg s f).xlats = s.xlats := rfl
@[simp] theorem onMg_dirty (s : State) (f : Mgmt → Mgmt) : (onMg s f).dirty = s.dirty := rfl
@[simp] theorem onMg_shoots (s : State) (f : Mgmt → Mgmt) : (onMg s f).shoots = s.shoots := rfl
@[simp] theorem onMg_harvs (s : State) (f : Mgmt → Mgmt) : (onMg s f).harvs = s.harvs := rfl
@[simp] theorem onMg_reclaims (s : State) (f : Mgmt → Mgmt) : (onMg s f).reclaims = s.reclaims := rfl
@[simp] theorem onMg_svcs (s : State) (f : Mgmt → Mgmt) : (onMg s f).svcs = s.svcs := rfl
@[simp] theorem onMg_nextTag (s : State) (f : Mgmt → Mgmt) : (onMg s f).nextTag = s.nextTag := rfl
@[simp] theorem onMg_bounce (s : State) (f : Mgmt → Mgmt) : (onMg s f).bounce = s.bounce := rfl
@[simp] theorem onMg_pool (s : State) (f : Mgmt → Mgmt) : (onMg s f).pool = s.pool := rfl
@[simp] theorem onMg_migr (s : State) (f : Mgmt → Mgmt) : (onMg s f).migr = s.migr := rfl
@[simp] theorem onMg_migrQ (s : State) (f : Mgmt → Mgmt) : (onMg s f).migrQ = s.migrQ := rfl
@[simp] theorem onMg_zports (s : State) (f : Mgmt → Mgmt) : (onMg s f).zports = s.zports := rfl
@[simp] theorem onMg_peerOps (s : State) (f : Mgmt → Mgmt) : (onMg s f).peerOps = s.peerOps := rfl
@[simp] theorem onMg_nextPeerTag (s : State) (f : Mgmt → Mgmt) : (onMg s f).nextPeerTag = s.nextPeerTag := rfl
@[simp] theorem onMg_ctrs (s : State) (f : Mgmt → Mgmt) : (onMg s f).ctrs = s.ctrs := rfl
@[simp] theorem onMg_lens (s : State) (f : Mgmt → Mgmt) : (onMg s f).lens = s.lens := rfl
@[simp] theorem onMg_lensTags (s : State) (f : Mgmt → Mgmt) : (onMg s f).lensTags = s.lensTags := rfl
@[simp] theorem onMg_exits (s : State) (f : Mgmt → Mgmt) : (onMg s f).exits = s.exits := rfl
@[simp] theorem onMg_devQ (s : State) (f : Mgmt → Mgmt) : (onMg s f).devQ = s.devQ := rfl
@[simp] theorem onMg_ckpt (s : State) (f : Mgmt → Mgmt) : (onMg s f).ckpt = s.ckpt := rfl
@[simp] theorem onMg_hostRead (s : State) (f : Mgmt → Mgmt) : (onMg s f).hostRead = s.hostRead := rfl
@[simp] theorem onMg_hostEp (s : State) (f : Mgmt → Mgmt) : (onMg s f).hostEp = s.hostEp := rfl
@[simp] theorem onMg_mg (s : State) (f : Mgmt → Mgmt) : (onMg s f).mg = f s.mg := rfl

/-! ### setPath -/
@[simp] theorem setPath_tape (s : State) (k : Nat) (p : Path) : (setPath s k p).tape = s.tape := rfl
@[simp] theorem setPath_cur (s : State) (k : Nat) (p : Path) : (setPath s k p).cur = s.cur := rfl
@[simp] theorem setPath_tick (s : State) (k : Nat) (p : Path) : (setPath s k p).tick = s.tick := rfl
@[simp] theorem setPath_free (s : State) (k : Nat) (p : Path) : (setPath s k p).free = s.free := rfl
@[simp] theorem setPath_mem (s : State) (k : Nat) (p : Path) : (setPath s k p).mem = s.mem := rfl
@[simp] theorem setPath_poison (s : State) (k : Nat) (p : Path) : (setPath s k p).poison = s.poison := rfl
@[simp] theorem setPath_plain (s : State) (k : Nat) (p : Path) : (setPath s k p).plain = s.plain := rfl
@[simp] theorem setPath_plainPoison (s : State) (k : Nat) (p : Path) : (setPath s k p).plainPoison = s.plainPoison := rfl
@[simp] theorem setPath_rels (s : State) (k : Nat) (p : Path) : (setPath s k p).rels = s.rels := rfl
@[simp] theorem setPath_acc (s : State) (k : Nat) (p : Path) : (setPath s k p).acc = s.acc := rfl
@[simp] theorem setPath_accPoison (s : State) (k : Nat) (p : Path) : (setPath s k p).accPoison = s.accPoison := rfl
@[simp] theorem setPath_hostMem (s : State) (k : Nat) (p : Path) : (setPath s k p).hostMem = s.hostMem := rfl
@[simp] theorem setPath_paths (s : State) (k : Nat) (p : Path) : (setPath s k p).paths = Map.put s.paths k p := rfl
@[simp] theorem setPath_gangs (s : State) (k : Nat) (p : Path) : (setPath s k p).gangs = s.gangs := rfl
@[simp] theorem setPath_crews (s : State) (k : Nat) (p : Path) : (setPath s k p).crews = s.crews := rfl
@[simp] theorem setPath_pre (s : State) (k : Nat) (p : Path) : (setPath s k p).pre = s.pre := rfl
@[simp] theorem setPath_runs (s : State) (k : Nat) (p : Path) : (setPath s k p).runs = s.runs := rfl
@[simp] theorem setPath_nextRun (s : State) (k : Nat) (p : Path) : (setPath s k p).nextRun = s.nextRun := rfl
@[simp] theorem setPath_stampCnt (s : State) (k : Nat) (p : Path) : (setPath s k p).stampCnt = s.stampCnt := rfl
@[simp] theorem setPath_nextUid (s : State) (k : Nat) (p : Path) : (setPath s k p).nextUid = s.nextUid := rfl
@[simp] theorem setPath_lq (s : State) (k : Nat) (p : Path) : (setPath s k p).lq = s.lq := rfl
@[simp] theorem setPath_spill (s : State) (k : Nat) (p : Path) : (setPath s k p).spill = s.spill := rfl
@[simp] theorem setPath_spillCnt (s : State) (k : Nat) (p : Path) : (setPath s k p).spillCnt = s.spillCnt := rfl
@[simp] theorem setPath_stalled (s : State) (k : Nat) (p : Path) : (setPath s k p).stalled = s.stalled := rfl
@[simp] theorem setPath_arrivals (s : State) (k : Nat) (p : Path) : (setPath s k p).arrivals = s.arrivals := rfl
@[simp] theorem setPath_deal (s : State) (k : Nat) (p : Path) : (setPath s k p).deal = s.deal := rfl
@[simp] theorem setPath_outOfService (s : State) (k : Nat) (p : Path) : (setPath s k p).outOfService = s.outOfService := rfl
@[simp] theorem setPath_scanning (s : State) (k : Nat) (p : Path) : (setPath s k p).scanning = s.scanning := rfl
@[simp] theorem setPath_eng (s : State) (k : Nat) (p : Path) : (setPath s k p).eng = s.eng := rfl
@[simp] theorem setPath_nextEng (s : State) (k : Nat) (p : Path) : (setPath s k p).nextEng = s.nextEng := rfl
@[simp] theorem setPath_locks (s : State) (k : Nat) (p : Path) : (setPath s k p).locks = s.locks := rfl
@[simp] theorem setPath_tileQ (s : State) (k : Nat) (p : Path) : (setPath s k p).tileQ = s.tileQ := rfl
@[simp] theorem setPath_resv (s : State) (k : Nat) (p : Path) : (setPath s k p).resv = s.resv := rfl
@[simp] theorem setPath_granted (s : State) (k : Nat) (p : Path) : (setPath s k p).granted = s.granted := rfl
@[simp] theorem setPath_prism (s : State) (k : Nat) (p : Path) : (setPath s k p).prism = s.prism := rfl
@[simp] theorem setPath_binds (s : State) (k : Nat) (p : Path) : (setPath s k p).binds = s.binds := rfl
@[simp] theorem setPath_xlats (s : State) (k : Nat) (p : Path) : (setPath s k p).xlats = s.xlats := rfl
@[simp] theorem setPath_dirty (s : State) (k : Nat) (p : Path) : (setPath s k p).dirty = s.dirty := rfl
@[simp] theorem setPath_shoots (s : State) (k : Nat) (p : Path) : (setPath s k p).shoots = s.shoots := rfl
@[simp] theorem setPath_harvs (s : State) (k : Nat) (p : Path) : (setPath s k p).harvs = s.harvs := rfl
@[simp] theorem setPath_reclaims (s : State) (k : Nat) (p : Path) : (setPath s k p).reclaims = s.reclaims := rfl
@[simp] theorem setPath_svcs (s : State) (k : Nat) (p : Path) : (setPath s k p).svcs = s.svcs := rfl
@[simp] theorem setPath_nextTag (s : State) (k : Nat) (p : Path) : (setPath s k p).nextTag = s.nextTag := rfl
@[simp] theorem setPath_bounce (s : State) (k : Nat) (p : Path) : (setPath s k p).bounce = s.bounce := rfl
@[simp] theorem setPath_pool (s : State) (k : Nat) (p : Path) : (setPath s k p).pool = s.pool := rfl
@[simp] theorem setPath_migr (s : State) (k : Nat) (p : Path) : (setPath s k p).migr = s.migr := rfl
@[simp] theorem setPath_migrQ (s : State) (k : Nat) (p : Path) : (setPath s k p).migrQ = s.migrQ := rfl
@[simp] theorem setPath_zports (s : State) (k : Nat) (p : Path) : (setPath s k p).zports = s.zports := rfl
@[simp] theorem setPath_peerOps (s : State) (k : Nat) (p : Path) : (setPath s k p).peerOps = s.peerOps := rfl
@[simp] theorem setPath_nextPeerTag (s : State) (k : Nat) (p : Path) : (setPath s k p).nextPeerTag = s.nextPeerTag := rfl
@[simp] theorem setPath_ctrs (s : State) (k : Nat) (p : Path) : (setPath s k p).ctrs = s.ctrs := rfl
@[simp] theorem setPath_lens (s : State) (k : Nat) (p : Path) : (setPath s k p).lens = s.lens := rfl
@[simp] theorem setPath_lensTags (s : State) (k : Nat) (p : Path) : (setPath s k p).lensTags = s.lensTags := rfl
@[simp] theorem setPath_exits (s : State) (k : Nat) (p : Path) : (setPath s k p).exits = s.exits := rfl
@[simp] theorem setPath_devQ (s : State) (k : Nat) (p : Path) : (setPath s k p).devQ = s.devQ := rfl
@[simp] theorem setPath_ckpt (s : State) (k : Nat) (p : Path) : (setPath s k p).ckpt = s.ckpt := rfl
@[simp] theorem setPath_hostRead (s : State) (k : Nat) (p : Path) : (setPath s k p).hostRead = s.hostRead := rfl
@[simp] theorem setPath_hostEp (s : State) (k : Nat) (p : Path) : (setPath s k p).hostEp = s.hostEp := rfl
@[simp] theorem setPath_mg (s : State) (k : Nat) (p : Path) : (setPath s k p).mg = s.mg := rfl

/-! ### delPath -/
@[simp] theorem delPath_tape (s : State) (k : Nat) : (delPath s k).tape = s.tape := rfl
@[simp] theorem delPath_cur (s : State) (k : Nat) : (delPath s k).cur = s.cur := rfl
@[simp] theorem delPath_tick (s : State) (k : Nat) : (delPath s k).tick = s.tick := rfl
@[simp] theorem delPath_free (s : State) (k : Nat) : (delPath s k).free = s.free := rfl
@[simp] theorem delPath_mem (s : State) (k : Nat) : (delPath s k).mem = s.mem := rfl
@[simp] theorem delPath_poison (s : State) (k : Nat) : (delPath s k).poison = s.poison := rfl
@[simp] theorem delPath_plain (s : State) (k : Nat) : (delPath s k).plain = s.plain := rfl
@[simp] theorem delPath_plainPoison (s : State) (k : Nat) : (delPath s k).plainPoison = s.plainPoison := rfl
@[simp] theorem delPath_rels (s : State) (k : Nat) : (delPath s k).rels = s.rels := rfl
@[simp] theorem delPath_acc (s : State) (k : Nat) : (delPath s k).acc = s.acc := rfl
@[simp] theorem delPath_accPoison (s : State) (k : Nat) : (delPath s k).accPoison = s.accPoison := rfl
@[simp] theorem delPath_hostMem (s : State) (k : Nat) : (delPath s k).hostMem = s.hostMem := rfl
@[simp] theorem delPath_paths (s : State) (k : Nat) : (delPath s k).paths = Map.del s.paths k := rfl
@[simp] theorem delPath_gangs (s : State) (k : Nat) : (delPath s k).gangs = s.gangs := rfl
@[simp] theorem delPath_crews (s : State) (k : Nat) : (delPath s k).crews = s.crews := rfl
@[simp] theorem delPath_pre (s : State) (k : Nat) : (delPath s k).pre = s.pre := rfl
@[simp] theorem delPath_runs (s : State) (k : Nat) : (delPath s k).runs = s.runs := rfl
@[simp] theorem delPath_nextRun (s : State) (k : Nat) : (delPath s k).nextRun = s.nextRun := rfl
@[simp] theorem delPath_stampCnt (s : State) (k : Nat) : (delPath s k).stampCnt = s.stampCnt := rfl
@[simp] theorem delPath_nextUid (s : State) (k : Nat) : (delPath s k).nextUid = s.nextUid := rfl
@[simp] theorem delPath_lq (s : State) (k : Nat) : (delPath s k).lq = s.lq := rfl
@[simp] theorem delPath_spill (s : State) (k : Nat) : (delPath s k).spill = s.spill := rfl
@[simp] theorem delPath_spillCnt (s : State) (k : Nat) : (delPath s k).spillCnt = s.spillCnt := rfl
@[simp] theorem delPath_stalled (s : State) (k : Nat) : (delPath s k).stalled = s.stalled := rfl
@[simp] theorem delPath_arrivals (s : State) (k : Nat) : (delPath s k).arrivals = s.arrivals := rfl
@[simp] theorem delPath_deal (s : State) (k : Nat) : (delPath s k).deal = s.deal := rfl
@[simp] theorem delPath_outOfService (s : State) (k : Nat) : (delPath s k).outOfService = s.outOfService := rfl
@[simp] theorem delPath_scanning (s : State) (k : Nat) : (delPath s k).scanning = s.scanning := rfl
@[simp] theorem delPath_eng (s : State) (k : Nat) : (delPath s k).eng = s.eng := rfl
@[simp] theorem delPath_nextEng (s : State) (k : Nat) : (delPath s k).nextEng = s.nextEng := rfl
@[simp] theorem delPath_locks (s : State) (k : Nat) : (delPath s k).locks = s.locks := rfl
@[simp] theorem delPath_tileQ (s : State) (k : Nat) : (delPath s k).tileQ = s.tileQ := rfl
@[simp] theorem delPath_resv (s : State) (k : Nat) : (delPath s k).resv = s.resv := rfl
@[simp] theorem delPath_granted (s : State) (k : Nat) : (delPath s k).granted = s.granted := rfl
@[simp] theorem delPath_prism (s : State) (k : Nat) : (delPath s k).prism = s.prism := rfl
@[simp] theorem delPath_binds (s : State) (k : Nat) : (delPath s k).binds = s.binds := rfl
@[simp] theorem delPath_xlats (s : State) (k : Nat) : (delPath s k).xlats = s.xlats := rfl
@[simp] theorem delPath_dirty (s : State) (k : Nat) : (delPath s k).dirty = s.dirty := rfl
@[simp] theorem delPath_shoots (s : State) (k : Nat) : (delPath s k).shoots = s.shoots := rfl
@[simp] theorem delPath_harvs (s : State) (k : Nat) : (delPath s k).harvs = s.harvs := rfl
@[simp] theorem delPath_reclaims (s : State) (k : Nat) : (delPath s k).reclaims = s.reclaims := rfl
@[simp] theorem delPath_svcs (s : State) (k : Nat) : (delPath s k).svcs = s.svcs := rfl
@[simp] theorem delPath_nextTag (s : State) (k : Nat) : (delPath s k).nextTag = s.nextTag := rfl
@[simp] theorem delPath_bounce (s : State) (k : Nat) : (delPath s k).bounce = s.bounce := rfl
@[simp] theorem delPath_pool (s : State) (k : Nat) : (delPath s k).pool = s.pool := rfl
@[simp] theorem delPath_migr (s : State) (k : Nat) : (delPath s k).migr = s.migr := rfl
@[simp] theorem delPath_migrQ (s : State) (k : Nat) : (delPath s k).migrQ = s.migrQ := rfl
@[simp] theorem delPath_zports (s : State) (k : Nat) : (delPath s k).zports = s.zports := rfl
@[simp] theorem delPath_peerOps (s : State) (k : Nat) : (delPath s k).peerOps = s.peerOps := rfl
@[simp] theorem delPath_nextPeerTag (s : State) (k : Nat) : (delPath s k).nextPeerTag = s.nextPeerTag := rfl
@[simp] theorem delPath_ctrs (s : State) (k : Nat) : (delPath s k).ctrs = s.ctrs := rfl
@[simp] theorem delPath_lens (s : State) (k : Nat) : (delPath s k).lens = s.lens := rfl
@[simp] theorem delPath_lensTags (s : State) (k : Nat) : (delPath s k).lensTags = s.lensTags := rfl
@[simp] theorem delPath_exits (s : State) (k : Nat) : (delPath s k).exits = s.exits := rfl
@[simp] theorem delPath_devQ (s : State) (k : Nat) : (delPath s k).devQ = s.devQ := rfl
@[simp] theorem delPath_ckpt (s : State) (k : Nat) : (delPath s k).ckpt = s.ckpt := rfl
@[simp] theorem delPath_hostRead (s : State) (k : Nat) : (delPath s k).hostRead = s.hostRead := rfl
@[simp] theorem delPath_hostEp (s : State) (k : Nat) : (delPath s k).hostEp = s.hostEp := rfl
@[simp] theorem delPath_mg (s : State) (k : Nat) : (delPath s k).mg = s.mg := rfl

/-! ### putCtr -/
@[simp] theorem putCtr_tape (s : State) (k : Nat) (c : Ctr) : (putCtr s k c).tape = s.tape := rfl
@[simp] theorem putCtr_cur (s : State) (k : Nat) (c : Ctr) : (putCtr s k c).cur = s.cur := rfl
@[simp] theorem putCtr_tick (s : State) (k : Nat) (c : Ctr) : (putCtr s k c).tick = s.tick := rfl
@[simp] theorem putCtr_free (s : State) (k : Nat) (c : Ctr) : (putCtr s k c).free = s.free := rfl
@[simp] theorem putCtr_mem (s : State) (k : Nat) (c : Ctr) : (putCtr s k c).mem = s.mem := rfl
@[simp] theorem putCtr_poison (s : State) (k : Nat) (c : Ctr) : (putCtr s k c).poison = s.poison := rfl
@[simp] theorem putCtr_plain (s : State) (k : Nat) (c : Ctr) : (putCtr s k c).plain = s.plain := rfl
@[simp] theorem putCtr_plainPoison (s : State) (k : Nat) (c : Ctr) : (putCtr s k c).plainPoison = s.plainPoison := rfl
@[simp] theorem putCtr_rels (s : State) (k : Nat) (c : Ctr) : (putCtr s k c).rels = s.rels := rfl
@[simp] theorem putCtr_acc (s : State) (k : Nat) (c : Ctr) : (putCtr s k c).acc = s.acc := rfl
@[simp] theorem putCtr_accPoison (s : State) (k : Nat) (c : Ctr) : (putCtr s k c).accPoison = s.accPoison := rfl
@[simp] theorem putCtr_hostMem (s : State) (k : Nat) (c : Ctr) : (putCtr s k c).hostMem = s.hostMem := rfl
@[simp] theorem putCtr_paths (s : State) (k : Nat) (c : Ctr) : (putCtr s k c).paths = s.paths := rfl
@[simp] theorem putCtr_gangs (s : State) (k : Nat) (c : Ctr) : (putCtr s k c).gangs = s.gangs := rfl
@[simp] theorem putCtr_crews (s : State) (k : Nat) (c : Ctr) : (putCtr s k c).crews = s.crews := rfl
@[simp] theorem putCtr_pre (s : State) (k : Nat) (c : Ctr) : (putCtr s k c).pre = s.pre := rfl
@[simp] theorem putCtr_runs (s : State) (k : Nat) (c : Ctr) : (putCtr s k c).runs = s.runs := rfl
@[simp] theorem putCtr_nextRun (s : State) (k : Nat) (c : Ctr) : (putCtr s k c).nextRun = s.nextRun := rfl
@[simp] theorem putCtr_stampCnt (s : State) (k : Nat) (c : Ctr) : (putCtr s k c).stampCnt = s.stampCnt := rfl
@[simp] theorem putCtr_nextUid (s : State) (k : Nat) (c : Ctr) : (putCtr s k c).nextUid = s.nextUid := rfl
@[simp] theorem putCtr_lq (s : State) (k : Nat) (c : Ctr) : (putCtr s k c).lq = s.lq := rfl
@[simp] theorem putCtr_spill (s : State) (k : Nat) (c : Ctr) : (putCtr s k c).spill = s.spill := rfl
@[simp] theorem putCtr_spillCnt (s : State) (k : Nat) (c : Ctr) : (putCtr s k c).spillCnt = s.spillCnt := rfl
@[simp] theorem putCtr_stalled (s : State) (k : Nat) (c : Ctr) : (putCtr s k c).stalled = s.stalled := rfl
@[simp] theorem putCtr_arrivals (s : State) (k : Nat) (c : Ctr) : (putCtr s k c).arrivals = s.arrivals := rfl
@[simp] theorem putCtr_deal (s : State) (k : Nat) (c : Ctr) : (putCtr s k c).deal = s.deal := rfl
@[simp] theorem putCtr_outOfService (s : State) (k : Nat) (c : Ctr) : (putCtr s k c).outOfService = s.outOfService := rfl
@[simp] theorem putCtr_scanning (s : State) (k : Nat) (c : Ctr) : (putCtr s k c).scanning = s.scanning := rfl
@[simp] theorem putCtr_eng (s : State) (k : Nat) (c : Ctr) : (putCtr s k c).eng = s.eng := rfl
@[simp] theorem putCtr_nextEng (s : State) (k : Nat) (c : Ctr) : (putCtr s k c).nextEng = s.nextEng := rfl
@[simp] theorem putCtr_locks (s : State) (k : Nat) (c : Ctr) : (putCtr s k c).locks = s.locks := rfl
@[simp] theorem putCtr_tileQ (s : State) (k : Nat) (c : Ctr) : (putCtr s k c).tileQ = s.tileQ := rfl
@[simp] theorem putCtr_resv (s : State) (k : Nat) (c : Ctr) : (putCtr s k c).resv = s.resv := rfl
@[simp] theorem putCtr_granted (s : State) (k : Nat) (c : Ctr) : (putCtr s k c).granted = s.granted := rfl
@[simp] theorem putCtr_prism (s : State) (k : Nat) (c : Ctr) : (putCtr s k c).prism = s.prism := rfl
@[simp] theorem putCtr_binds (s : State) (k : Nat) (c : Ctr) : (putCtr s k c).binds = s.binds := rfl
@[simp] theorem putCtr_xlats (s : State) (k : Nat) (c : Ctr) : (putCtr s k c).xlats = s.xlats := rfl
@[simp] theorem putCtr_dirty (s : State) (k : Nat) (c : Ctr) : (putCtr s k c).dirty = s.dirty := rfl
@[simp] theorem putCtr_shoots (s : State) (k : Nat) (c : Ctr) : (putCtr s k c).shoots = s.shoots := rfl
@[simp] theorem putCtr_harvs (s : State) (k : Nat) (c : Ctr) : (putCtr s k c).harvs = s.harvs := rfl
@[simp] theorem putCtr_reclaims (s : State) (k : Nat) (c : Ctr) : (putCtr s k c).reclaims = s.reclaims := rfl
@[simp] theorem putCtr_svcs (s : State) (k : Nat) (c : Ctr) : (putCtr s k c).svcs = s.svcs := rfl
@[simp] theorem putCtr_nextTag (s : State) (k : Nat) (c : Ctr) : (putCtr s k c).nextTag = s.nextTag := rfl
@[simp] theorem putCtr_bounce (s : State) (k : Nat) (c : Ctr) : (putCtr s k c).bounce = s.bounce := rfl
@[simp] theorem putCtr_pool (s : State) (k : Nat) (c : Ctr) : (putCtr s k c).pool = s.pool := rfl
@[simp] theorem putCtr_migr (s : State) (k : Nat) (c : Ctr) : (putCtr s k c).migr = s.migr := rfl
@[simp] theorem putCtr_migrQ (s : State) (k : Nat) (c : Ctr) : (putCtr s k c).migrQ = s.migrQ := rfl
@[simp] theorem putCtr_zports (s : State) (k : Nat) (c : Ctr) : (putCtr s k c).zports = s.zports := rfl
@[simp] theorem putCtr_peerOps (s : State) (k : Nat) (c : Ctr) : (putCtr s k c).peerOps = s.peerOps := rfl
@[simp] theorem putCtr_nextPeerTag (s : State) (k : Nat) (c : Ctr) : (putCtr s k c).nextPeerTag = s.nextPeerTag := rfl
@[simp] theorem putCtr_ctrs (s : State) (k : Nat) (c : Ctr) : (putCtr s k c).ctrs = Map.setD s.ctrs k c { evsel := 0, count := 0 } := rfl
@[simp] theorem putCtr_lens (s : State) (k : Nat) (c : Ctr) : (putCtr s k c).lens = s.lens := rfl
@[simp] theorem putCtr_lensTags (s : State) (k : Nat) (c : Ctr) : (putCtr s k c).lensTags = s.lensTags := rfl
@[simp] theorem putCtr_exits (s : State) (k : Nat) (c : Ctr) : (putCtr s k c).exits = s.exits := rfl
@[simp] theorem putCtr_devQ (s : State) (k : Nat) (c : Ctr) : (putCtr s k c).devQ = s.devQ := rfl
@[simp] theorem putCtr_ckpt (s : State) (k : Nat) (c : Ctr) : (putCtr s k c).ckpt = s.ckpt := rfl
@[simp] theorem putCtr_hostRead (s : State) (k : Nat) (c : Ctr) : (putCtr s k c).hostRead = s.hostRead := rfl
@[simp] theorem putCtr_hostEp (s : State) (k : Nat) (c : Ctr) : (putCtr s k c).hostEp = s.hostEp := rfl
@[simp] theorem putCtr_mg (s : State) (k : Nat) (c : Ctr) : (putCtr s k c).mg = s.mg := rfl

/-! ### memPut -/
@[simp] theorem memPut_tape (s : State) (a : Nat) (bs : List Byte) : (memPut s a bs).tape = s.tape := by
  unfold memPut dropRels; split <;> rfl
@[simp] theorem memPut_cur (s : State) (a : Nat) (bs : List Byte) : (memPut s a bs).cur = s.cur := by
  unfold memPut dropRels; split <;> rfl
@[simp] theorem memPut_tick (s : State) (a : Nat) (bs : List Byte) : (memPut s a bs).tick = s.tick := by
  unfold memPut dropRels; split <;> rfl
@[simp] theorem memPut_free (s : State) (a : Nat) (bs : List Byte) : (memPut s a bs).free = s.free := by
  unfold memPut dropRels; split <;> rfl
@[simp] theorem memPut_mem (s : State) (a : Nat) (bs : List Byte) : (memPut s a bs).mem = mapPut s.mem a bs := by
  unfold memPut dropRels; split <;> rfl
@[simp] theorem memPut_poison (s : State) (a : Nat) (bs : List Byte) : (memPut s a bs).poison = s.poison := by
  unfold memPut dropRels; split <;> rfl
@[simp] theorem memPut_plain (s : State) (a : Nat) (bs : List Byte) : (memPut s a bs).plain = s.plain := by
  unfold memPut dropRels; split <;> rfl
@[simp] theorem memPut_plainPoison (s : State) (a : Nat) (bs : List Byte) : (memPut s a bs).plainPoison = s.plainPoison := by
  unfold memPut dropRels; split <;> rfl
@[simp] theorem memPut_rels (s : State) (a : Nat) (bs : List Byte) : (memPut s a bs).rels = (dropRels s (.dev a) bs.length).rels := by
  unfold memPut dropRels; split <;> rfl
@[simp] theorem memPut_acc (s : State) (a : Nat) (bs : List Byte) : (memPut s a bs).acc = s.acc := by
  unfold memPut dropRels; split <;> rfl
@[simp] theorem memPut_accPoison (s : State) (a : Nat) (bs : List Byte) : (memPut s a bs).accPoison = s.accPoison := by
  unfold memPut dropRels; split <;> rfl
@[simp] theorem memPut_hostMem (s : State) (a : Nat) (bs : List Byte) : (memPut s a bs).hostMem = s.hostMem := by
  unfold memPut dropRels; split <;> rfl
@[simp] theorem memPut_paths (s : State) (a : Nat) (bs : List Byte) : (memPut s a bs).paths = s.paths := by
  unfold memPut dropRels; split <;> rfl
@[simp] theorem memPut_gangs (s : State) (a : Nat) (bs : List Byte) : (memPut s a bs).gangs = s.gangs := by
  unfold memPut dropRels; split <;> rfl
@[simp] theorem memPut_crews (s : State) (a : Nat) (bs : List Byte) : (memPut s a bs).crews = s.crews := by
  unfold memPut dropRels; split <;> rfl
@[simp] theorem memPut_pre (s : State) (a : Nat) (bs : List Byte) : (memPut s a bs).pre = s.pre := by
  unfold memPut dropRels; split <;> rfl
@[simp] theorem memPut_runs (s : State) (a : Nat) (bs : List Byte) : (memPut s a bs).runs = s.runs := by
  unfold memPut dropRels; split <;> rfl
@[simp] theorem memPut_nextRun (s : State) (a : Nat) (bs : List Byte) : (memPut s a bs).nextRun = s.nextRun := by
  unfold memPut dropRels; split <;> rfl
@[simp] theorem memPut_stampCnt (s : State) (a : Nat) (bs : List Byte) : (memPut s a bs).stampCnt = s.stampCnt := by
  unfold memPut dropRels; split <;> rfl
@[simp] theorem memPut_nextUid (s : State) (a : Nat) (bs : List Byte) : (memPut s a bs).nextUid = s.nextUid := by
  unfold memPut dropRels; split <;> rfl
@[simp] theorem memPut_lq (s : State) (a : Nat) (bs : List Byte) : (memPut s a bs).lq = s.lq := by
  unfold memPut dropRels; split <;> rfl
@[simp] theorem memPut_spill (s : State) (a : Nat) (bs : List Byte) : (memPut s a bs).spill = s.spill := by
  unfold memPut dropRels; split <;> rfl
@[simp] theorem memPut_spillCnt (s : State) (a : Nat) (bs : List Byte) : (memPut s a bs).spillCnt = s.spillCnt := by
  unfold memPut dropRels; split <;> rfl
@[simp] theorem memPut_stalled (s : State) (a : Nat) (bs : List Byte) : (memPut s a bs).stalled = s.stalled := by
  unfold memPut dropRels; split <;> rfl
@[simp] theorem memPut_arrivals (s : State) (a : Nat) (bs : List Byte) : (memPut s a bs).arrivals = s.arrivals := by
  unfold memPut dropRels; split <;> rfl
@[simp] theorem memPut_deal (s : State) (a : Nat) (bs : List Byte) : (memPut s a bs).deal = s.deal := by
  unfold memPut dropRels; split <;> rfl
@[simp] theorem memPut_outOfService (s : State) (a : Nat) (bs : List Byte) : (memPut s a bs).outOfService = s.outOfService := by
  unfold memPut dropRels; split <;> rfl
@[simp] theorem memPut_scanning (s : State) (a : Nat) (bs : List Byte) : (memPut s a bs).scanning = s.scanning := by
  unfold memPut dropRels; split <;> rfl
@[simp] theorem memPut_eng (s : State) (a : Nat) (bs : List Byte) : (memPut s a bs).eng = s.eng := by
  unfold memPut dropRels; split <;> rfl
@[simp] theorem memPut_nextEng (s : State) (a : Nat) (bs : List Byte) : (memPut s a bs).nextEng = s.nextEng := by
  unfold memPut dropRels; split <;> rfl
@[simp] theorem memPut_locks (s : State) (a : Nat) (bs : List Byte) : (memPut s a bs).locks = s.locks := by
  unfold memPut dropRels; split <;> rfl
@[simp] theorem memPut_tileQ (s : State) (a : Nat) (bs : List Byte) : (memPut s a bs).tileQ = s.tileQ := by
  unfold memPut dropRels; split <;> rfl
@[simp] theorem memPut_resv (s : State) (a : Nat) (bs : List Byte) : (memPut s a bs).resv = s.resv := by
  unfold memPut dropRels; split <;> rfl
@[simp] theorem memPut_granted (s : State) (a : Nat) (bs : List Byte) : (memPut s a bs).granted = s.granted := by
  unfold memPut dropRels; split <;> rfl
@[simp] theorem memPut_prism (s : State) (a : Nat) (bs : List Byte) : (memPut s a bs).prism = s.prism := by
  unfold memPut dropRels; split <;> rfl
@[simp] theorem memPut_binds (s : State) (a : Nat) (bs : List Byte) : (memPut s a bs).binds = s.binds := by
  unfold memPut dropRels; split <;> rfl
@[simp] theorem memPut_xlats (s : State) (a : Nat) (bs : List Byte) : (memPut s a bs).xlats = s.xlats := by
  unfold memPut dropRels; split <;> rfl
@[simp] theorem memPut_dirty (s : State) (a : Nat) (bs : List Byte) : (memPut s a bs).dirty = s.dirty := by
  unfold memPut dropRels; split <;> rfl
@[simp] theorem memPut_shoots (s : State) (a : Nat) (bs : List Byte) : (memPut s a bs).shoots = s.shoots := by
  unfold memPut dropRels; split <;> rfl
@[simp] theorem memPut_harvs (s : State) (a : Nat) (bs : List Byte) : (memPut s a bs).harvs = s.harvs := by
  unfold memPut dropRels; split <;> rfl
@[simp] theorem memPut_reclaims (s : State) (a : Nat) (bs : List Byte) : (memPut s a bs).reclaims = s.reclaims := by
  unfold memPut dropRels; split <;> rfl
@[simp] theorem memPut_svcs (s : State) (a : Nat) (bs : List Byte) : (memPut s a bs).svcs = s.svcs := by
  unfold memPut dropRels; split <;> rfl
@[simp] theorem memPut_nextTag (s : State) (a : Nat) (bs : List Byte) : (memPut s a bs).nextTag = s.nextTag := by
  unfold memPut dropRels; split <;> rfl
@[simp] theorem memPut_bounce (s : State) (a : Nat) (bs : List Byte) : (memPut s a bs).bounce = s.bounce := by
  unfold memPut dropRels; split <;> rfl
@[simp] theorem memPut_pool (s : State) (a : Nat) (bs : List Byte) : (memPut s a bs).pool = s.pool := by
  unfold memPut dropRels; split <;> rfl
@[simp] theorem memPut_migr (s : State) (a : Nat) (bs : List Byte) : (memPut s a bs).migr = s.migr := by
  unfold memPut dropRels; split <;> rfl
@[simp] theorem memPut_migrQ (s : State) (a : Nat) (bs : List Byte) : (memPut s a bs).migrQ = s.migrQ := by
  unfold memPut dropRels; split <;> rfl
@[simp] theorem memPut_zports (s : State) (a : Nat) (bs : List Byte) : (memPut s a bs).zports = s.zports := by
  unfold memPut dropRels; split <;> rfl
@[simp] theorem memPut_peerOps (s : State) (a : Nat) (bs : List Byte) : (memPut s a bs).peerOps = s.peerOps := by
  unfold memPut dropRels; split <;> rfl
@[simp] theorem memPut_nextPeerTag (s : State) (a : Nat) (bs : List Byte) : (memPut s a bs).nextPeerTag = s.nextPeerTag := by
  unfold memPut dropRels; split <;> rfl
@[simp] theorem memPut_ctrs (s : State) (a : Nat) (bs : List Byte) : (memPut s a bs).ctrs = s.ctrs := by
  unfold memPut dropRels; split <;> rfl
@[simp] theorem memPut_lens (s : State) (a : Nat) (bs : List Byte) : (memPut s a bs).lens = s.lens := by
  unfold memPut dropRels; split <;> rfl
@[simp] theorem memPut_lensTags (s : State) (a : Nat) (bs : List Byte) : (memPut s a bs).lensTags = s.lensTags := by
  unfold memPut dropRels; split <;> rfl
@[simp] theorem memPut_exits (s : State) (a : Nat) (bs : List Byte) : (memPut s a bs).exits = s.exits := by
  unfold memPut dropRels; split <;> rfl
@[simp] theorem memPut_devQ (s : State) (a : Nat) (bs : List Byte) : (memPut s a bs).devQ = s.devQ := by
  unfold memPut dropRels; split <;> rfl
@[simp] theorem memPut_ckpt (s : State) (a : Nat) (bs : List Byte) : (memPut s a bs).ckpt = s.ckpt := by
  unfold memPut dropRels; split <;> rfl
@[simp] theorem memPut_hostRead (s : State) (a : Nat) (bs : List Byte) : (memPut s a bs).hostRead = s.hostRead := by
  unfold memPut dropRels; split <;> rfl
@[simp] theorem memPut_hostEp (s : State) (a : Nat) (bs : List Byte) : (memPut s a bs).hostEp = s.hostEp := by
  unfold memPut dropRels; split <;> rfl
@[simp] theorem memPut_mg (s : State) (a : Nat) (bs : List Byte) : (memPut s a bs).mg = s.mg := by
  unfold memPut dropRels; split <;> rfl

/-! ### plainPut -/
@[simp] theorem plainPut_tape (s : State) (a : Nat) (bs : List Byte) : (plainPut s a bs).tape = s.tape := by
  unfold plainPut dropRels; split <;> rfl
@[simp] theorem plainPut_cur (s : State) (a : Nat) (bs : List Byte) : (plainPut s a bs).cur = s.cur := by
  unfold plainPut dropRels; split <;> rfl
@[simp] theorem plainPut_tick (s : State) (a : Nat) (bs : List Byte) : (plainPut s a bs).tick = s.tick := by
  unfold plainPut dropRels; split <;> rfl
@[simp] theorem plainPut_free (s : State) (a : Nat) (bs : List Byte) : (plainPut s a bs).free = s.free := by
  unfold plainPut dropRels; split <;> rfl
@[simp] theorem plainPut_mem (s : State) (a : Nat) (bs : List Byte) : (plainPut s a bs).mem = s.mem := by
  unfold plainPut dropRels; split <;> rfl
@[simp] theorem plainPut_poison (s : State) (a : Nat) (bs : List Byte) : (plainPut s a bs).poison = s.poison := by
  unfold plainPut dropRels; split <;> rfl
@[simp] theorem plainPut_plain (s : State) (a : Nat) (bs : List Byte) : (plainPut s a bs).plain = mapPut s.plain a bs := by
  unfold plainPut dropRels; split <;> rfl
@[simp] theorem plainPut_plainPoison (s : State) (a : Nat) (bs : List Byte) : (plainPut s a bs).plainPoison = s.plainPoison := by
  unfold plainPut dropRels; split <;> rfl
@[simp] theorem plainPut_rels (s : State) (a : Nat) (bs : List Byte) : (plainPut s a bs).rels = (dropRels s (.plain a) bs.length).rels := by
  unfold plainPut dropRels; split <;> rfl
@[simp] theorem plainPut_acc (s : State) (a : Nat) (bs : List Byte) : (plainPut s a bs).acc = s.acc := by
  unfold plainPut dropRels; split <;> rfl
@[simp] theorem plainPut_accPoison (s : State) (a : Nat) (bs : List Byte) : (plainPut s a bs).accPoison = s.accPoison := by
  unfold plainPut dropRels; split <;> rfl
@[simp] theorem plainPut_hostMem (s : State) (a : Nat) (bs : List Byte) : (plainPut s a bs).hostMem = s.hostMem := by
  unfold plainPut dropRels; split <;> rfl
@[simp] theorem plainPut_paths (s : State) (a : Nat) (bs : List Byte) : (plainPut s a bs).paths = s.paths := by
  unfold plainPut dropRels; split <;> rfl
@[simp] theorem plainPut_gangs (s : State) (a : Nat) (bs : List Byte) : (plainPut s a bs).gangs = s.gangs := by
  unfold plainPut dropRels; split <;> rfl
@[simp] theorem plainPut_crews (s : State) (a : Nat) (bs : List Byte) : (plainPut s a bs).crews = s.crews := by
  unfold plainPut dropRels; split <;> rfl
@[simp] theorem plainPut_pre (s : State) (a : Nat) (bs : List Byte) : (plainPut s a bs).pre = s.pre := by
  unfold plainPut dropRels; split <;> rfl
@[simp] theorem plainPut_runs (s : State) (a : Nat) (bs : List Byte) : (plainPut s a bs).runs = s.runs := by
  unfold plainPut dropRels; split <;> rfl
@[simp] theorem plainPut_nextRun (s : State) (a : Nat) (bs : List Byte) : (plainPut s a bs).nextRun = s.nextRun := by
  unfold plainPut dropRels; split <;> rfl
@[simp] theorem plainPut_stampCnt (s : State) (a : Nat) (bs : List Byte) : (plainPut s a bs).stampCnt = s.stampCnt := by
  unfold plainPut dropRels; split <;> rfl
@[simp] theorem plainPut_nextUid (s : State) (a : Nat) (bs : List Byte) : (plainPut s a bs).nextUid = s.nextUid := by
  unfold plainPut dropRels; split <;> rfl
@[simp] theorem plainPut_lq (s : State) (a : Nat) (bs : List Byte) : (plainPut s a bs).lq = s.lq := by
  unfold plainPut dropRels; split <;> rfl
@[simp] theorem plainPut_spill (s : State) (a : Nat) (bs : List Byte) : (plainPut s a bs).spill = s.spill := by
  unfold plainPut dropRels; split <;> rfl
@[simp] theorem plainPut_spillCnt (s : State) (a : Nat) (bs : List Byte) : (plainPut s a bs).spillCnt = s.spillCnt := by
  unfold plainPut dropRels; split <;> rfl
@[simp] theorem plainPut_stalled (s : State) (a : Nat) (bs : List Byte) : (plainPut s a bs).stalled = s.stalled := by
  unfold plainPut dropRels; split <;> rfl
@[simp] theorem plainPut_arrivals (s : State) (a : Nat) (bs : List Byte) : (plainPut s a bs).arrivals = s.arrivals := by
  unfold plainPut dropRels; split <;> rfl
@[simp] theorem plainPut_deal (s : State) (a : Nat) (bs : List Byte) : (plainPut s a bs).deal = s.deal := by
  unfold plainPut dropRels; split <;> rfl
@[simp] theorem plainPut_outOfService (s : State) (a : Nat) (bs : List Byte) : (plainPut s a bs).outOfService = s.outOfService := by
  unfold plainPut dropRels; split <;> rfl
@[simp] theorem plainPut_scanning (s : State) (a : Nat) (bs : List Byte) : (plainPut s a bs).scanning = s.scanning := by
  unfold plainPut dropRels; split <;> rfl
@[simp] theorem plainPut_eng (s : State) (a : Nat) (bs : List Byte) : (plainPut s a bs).eng = s.eng := by
  unfold plainPut dropRels; split <;> rfl
@[simp] theorem plainPut_nextEng (s : State) (a : Nat) (bs : List Byte) : (plainPut s a bs).nextEng = s.nextEng := by
  unfold plainPut dropRels; split <;> rfl
@[simp] theorem plainPut_locks (s : State) (a : Nat) (bs : List Byte) : (plainPut s a bs).locks = s.locks := by
  unfold plainPut dropRels; split <;> rfl
@[simp] theorem plainPut_tileQ (s : State) (a : Nat) (bs : List Byte) : (plainPut s a bs).tileQ = s.tileQ := by
  unfold plainPut dropRels; split <;> rfl
@[simp] theorem plainPut_resv (s : State) (a : Nat) (bs : List Byte) : (plainPut s a bs).resv = s.resv := by
  unfold plainPut dropRels; split <;> rfl
@[simp] theorem plainPut_granted (s : State) (a : Nat) (bs : List Byte) : (plainPut s a bs).granted = s.granted := by
  unfold plainPut dropRels; split <;> rfl
@[simp] theorem plainPut_prism (s : State) (a : Nat) (bs : List Byte) : (plainPut s a bs).prism = s.prism := by
  unfold plainPut dropRels; split <;> rfl
@[simp] theorem plainPut_binds (s : State) (a : Nat) (bs : List Byte) : (plainPut s a bs).binds = s.binds := by
  unfold plainPut dropRels; split <;> rfl
@[simp] theorem plainPut_xlats (s : State) (a : Nat) (bs : List Byte) : (plainPut s a bs).xlats = s.xlats := by
  unfold plainPut dropRels; split <;> rfl
@[simp] theorem plainPut_dirty (s : State) (a : Nat) (bs : List Byte) : (plainPut s a bs).dirty = s.dirty := by
  unfold plainPut dropRels; split <;> rfl
@[simp] theorem plainPut_shoots (s : State) (a : Nat) (bs : List Byte) : (plainPut s a bs).shoots = s.shoots := by
  unfold plainPut dropRels; split <;> rfl
@[simp] theorem plainPut_harvs (s : State) (a : Nat) (bs : List Byte) : (plainPut s a bs).harvs = s.harvs := by
  unfold plainPut dropRels; split <;> rfl
@[simp] theorem plainPut_reclaims (s : State) (a : Nat) (bs : List Byte) : (plainPut s a bs).reclaims = s.reclaims := by
  unfold plainPut dropRels; split <;> rfl
@[simp] theorem plainPut_svcs (s : State) (a : Nat) (bs : List Byte) : (plainPut s a bs).svcs = s.svcs := by
  unfold plainPut dropRels; split <;> rfl
@[simp] theorem plainPut_nextTag (s : State) (a : Nat) (bs : List Byte) : (plainPut s a bs).nextTag = s.nextTag := by
  unfold plainPut dropRels; split <;> rfl
@[simp] theorem plainPut_bounce (s : State) (a : Nat) (bs : List Byte) : (plainPut s a bs).bounce = s.bounce := by
  unfold plainPut dropRels; split <;> rfl
@[simp] theorem plainPut_pool (s : State) (a : Nat) (bs : List Byte) : (plainPut s a bs).pool = s.pool := by
  unfold plainPut dropRels; split <;> rfl
@[simp] theorem plainPut_migr (s : State) (a : Nat) (bs : List Byte) : (plainPut s a bs).migr = s.migr := by
  unfold plainPut dropRels; split <;> rfl
@[simp] theorem plainPut_migrQ (s : State) (a : Nat) (bs : List Byte) : (plainPut s a bs).migrQ = s.migrQ := by
  unfold plainPut dropRels; split <;> rfl
@[simp] theorem plainPut_zports (s : State) (a : Nat) (bs : List Byte) : (plainPut s a bs).zports = s.zports := by
  unfold plainPut dropRels; split <;> rfl
@[simp] theorem plainPut_peerOps (s : State) (a : Nat) (bs : List Byte) : (plainPut s a bs).peerOps = s.peerOps := by
  unfold plainPut dropRels; split <;> rfl
@[simp] theorem plainPut_nextPeerTag (s : State) (a : Nat) (bs : List Byte) : (plainPut s a bs).nextPeerTag = s.nextPeerTag := by
  unfold plainPut dropRels; split <;> rfl
@[simp] theorem plainPut_ctrs (s : State) (a : Nat) (bs : List Byte) : (plainPut s a bs).ctrs = s.ctrs := by
  unfold plainPut dropRels; split <;> rfl
@[simp] theorem plainPut_lens (s : State) (a : Nat) (bs : List Byte) : (plainPut s a bs).lens = s.lens := by
  unfold plainPut dropRels; split <;> rfl
@[simp] theorem plainPut_lensTags (s : State) (a : Nat) (bs : List Byte) : (plainPut s a bs).lensTags = s.lensTags := by
  unfold plainPut dropRels; split <;> rfl
@[simp] theorem plainPut_exits (s : State) (a : Nat) (bs : List Byte) : (plainPut s a bs).exits = s.exits := by
  unfold plainPut dropRels; split <;> rfl
@[simp] theorem plainPut_devQ (s : State) (a : Nat) (bs : List Byte) : (plainPut s a bs).devQ = s.devQ := by
  unfold plainPut dropRels; split <;> rfl
@[simp] theorem plainPut_ckpt (s : State) (a : Nat) (bs : List Byte) : (plainPut s a bs).ckpt = s.ckpt := by
  unfold plainPut dropRels; split <;> rfl
@[simp] theorem plainPut_hostRead (s : State) (a : Nat) (bs : List Byte) : (plainPut s a bs).hostRead = s.hostRead := by
  unfold plainPut dropRels; split <;> rfl
@[simp] theorem plainPut_hostEp (s : State) (a : Nat) (bs : List Byte) : (plainPut s a bs).hostEp = s.hostEp := by
  unfold plainPut dropRels; split <;> rfl
@[simp] theorem plainPut_mg (s : State) (a : Nat) (bs : List Byte) : (plainPut s a bs).mg = s.mg := by
  unfold plainPut dropRels; split <;> rfl

/-! ### useFree -/
@[simp] theorem useFree_tape (s : State) : (useFree s).tape = s.tape := rfl
@[simp] theorem useFree_cur (s : State) : (useFree s).cur = s.cur := rfl
@[simp] theorem useFree_tick (s : State) : (useFree s).tick = s.tick := rfl
@[simp] theorem useFree_free (s : State) : (useFree s).free = s.free + 1 := rfl
@[simp] theorem useFree_mem (s : State) : (useFree s).mem = s.mem := rfl
@[simp] theorem useFree_poison (s : State) : (useFree s).poison = s.poison := rfl
@[simp] theorem useFree_plain (s : State) : (useFree s).plain = s.plain := rfl
@[simp] theorem useFree_plainPoison (s : State) : (useFree s).plainPoison = s.plainPoison := rfl
@[simp] theorem useFree_rels (s : State) : (useFree s).rels = s.rels := rfl
@[simp] theorem useFree_acc (s : State) : (useFree s).acc = s.acc := rfl
@[simp] theorem useFree_accPoison (s : State) : (useFree s).accPoison = s.accPoison := rfl
@[simp] theorem useFree_hostMem (s : State) : (useFree s).hostMem = s.hostMem := rfl
@[simp] theorem useFree_paths (s : State) : (useFree s).paths = s.paths := rfl
@[simp] theorem useFree_gangs (s : State) : (useFree s).gangs = s.gangs := rfl
@[simp] theorem useFree_crews (s : State) : (useFree s).crews = s.crews := rfl
@[simp] theorem useFree_pre (s : State) : (useFree s).pre = s.pre := rfl
@[simp] theorem useFree_runs (s : State) : (useFree s).runs = s.runs := rfl
@[simp] theorem useFree_nextRun (s : State) : (useFree s).nextRun = s.nextRun := rfl
@[simp] theorem useFree_stampCnt (s : State) : (useFree s).stampCnt = s.stampCnt := rfl
@[simp] theorem useFree_nextUid (s : State) : (useFree s).nextUid = s.nextUid := rfl
@[simp] theorem useFree_lq (s : State) : (useFree s).lq = s.lq := rfl
@[simp] theorem useFree_spill (s : State) : (useFree s).spill = s.spill := rfl
@[simp] theorem useFree_spillCnt (s : State) : (useFree s).spillCnt = s.spillCnt := rfl
@[simp] theorem useFree_stalled (s : State) : (useFree s).stalled = s.stalled := rfl
@[simp] theorem useFree_arrivals (s : State) : (useFree s).arrivals = s.arrivals := rfl
@[simp] theorem useFree_deal (s : State) : (useFree s).deal = s.deal := rfl
@[simp] theorem useFree_outOfService (s : State) : (useFree s).outOfService = s.outOfService := rfl
@[simp] theorem useFree_scanning (s : State) : (useFree s).scanning = s.scanning := rfl
@[simp] theorem useFree_eng (s : State) : (useFree s).eng = s.eng := rfl
@[simp] theorem useFree_nextEng (s : State) : (useFree s).nextEng = s.nextEng := rfl
@[simp] theorem useFree_locks (s : State) : (useFree s).locks = s.locks := rfl
@[simp] theorem useFree_tileQ (s : State) : (useFree s).tileQ = s.tileQ := rfl
@[simp] theorem useFree_resv (s : State) : (useFree s).resv = s.resv := rfl
@[simp] theorem useFree_granted (s : State) : (useFree s).granted = s.granted := rfl
@[simp] theorem useFree_prism (s : State) : (useFree s).prism = s.prism := rfl
@[simp] theorem useFree_binds (s : State) : (useFree s).binds = s.binds := rfl
@[simp] theorem useFree_xlats (s : State) : (useFree s).xlats = s.xlats := rfl
@[simp] theorem useFree_dirty (s : State) : (useFree s).dirty = s.dirty := rfl
@[simp] theorem useFree_shoots (s : State) : (useFree s).shoots = s.shoots := rfl
@[simp] theorem useFree_harvs (s : State) : (useFree s).harvs = s.harvs := rfl
@[simp] theorem useFree_reclaims (s : State) : (useFree s).reclaims = s.reclaims := rfl
@[simp] theorem useFree_svcs (s : State) : (useFree s).svcs = s.svcs := rfl
@[simp] theorem useFree_nextTag (s : State) : (useFree s).nextTag = s.nextTag := rfl
@[simp] theorem useFree_bounce (s : State) : (useFree s).bounce = s.bounce := rfl
@[simp] theorem useFree_pool (s : State) : (useFree s).pool = s.pool := rfl
@[simp] theorem useFree_migr (s : State) : (useFree s).migr = s.migr := rfl
@[simp] theorem useFree_migrQ (s : State) : (useFree s).migrQ = s.migrQ := rfl
@[simp] theorem useFree_zports (s : State) : (useFree s).zports = s.zports := rfl
@[simp] theorem useFree_peerOps (s : State) : (useFree s).peerOps = s.peerOps := rfl
@[simp] theorem useFree_nextPeerTag (s : State) : (useFree s).nextPeerTag = s.nextPeerTag := rfl
@[simp] theorem useFree_ctrs (s : State) : (useFree s).ctrs = s.ctrs := rfl
@[simp] theorem useFree_lens (s : State) : (useFree s).lens = s.lens := rfl
@[simp] theorem useFree_lensTags (s : State) : (useFree s).lensTags = s.lensTags := rfl
@[simp] theorem useFree_exits (s : State) : (useFree s).exits = s.exits := rfl
@[simp] theorem useFree_devQ (s : State) : (useFree s).devQ = s.devQ := rfl
@[simp] theorem useFree_ckpt (s : State) : (useFree s).ckpt = s.ckpt := rfl
@[simp] theorem useFree_hostRead (s : State) : (useFree s).hostRead = s.hostRead := rfl
@[simp] theorem useFree_hostEp (s : State) : (useFree s).hostEp = s.hostEp := rfl
@[simp] theorem useFree_mg (s : State) : (useFree s).mg = s.mg := rfl

end Sys2Proof.Machine
end

