-- ==== Sys2Proof/Laws/Issue.lean ====
section
/-! SUPPORT. What stands around a meaning: counting an instruction changes counters alone, and an instruction that passes
its checks runs its body on the counted state. -/

namespace Sys2Proof.Machine

theorem OnlyCtrs.refl (s : State) : OnlyCtrs s s := rfl
theorem OnlyCtrs.trans {s u v : State} (h : OnlyCtrs s u) (k : OnlyCtrs u v) : OnlyCtrs s v := by
  unfold OnlyCtrs at *
  rw [k, h]

theorem bumpCtr_ctrs (s : State) (k n : Nat) : OnlyCtrs s (bumpCtr s k n) := rfl

theorem bumpRange_ctrs (s : State) (lo hi code n : Nat) (q : Option Nat) : OnlyCtrs s (bumpRange s lo hi code n q) := by
  unfold bumpRange
  extract_lets hit
  split
  · exact OnlyCtrs.refl s
  · have : ∀ (es : Map Ctr) (t : State), OnlyCtrs t (es.foldl (fun t e => bumpCtr t e.1 n) t) := by
      intro es
      induction es with
      | nil => exact fun t => OnlyCtrs.refl t
      | cons e es ih => exact fun t => (bumpCtr_ctrs t e.1 n).trans (ih _)
    exact this hit s

theorem bumpCore_ctrs (s : State) (core q code n : Nat) : OnlyCtrs s (bumpCore s core q code n) :=
  bumpRange_ctrs s _ _ code n _
theorem bumpDie_ctrs (s : State) (die code n : Nat) : OnlyCtrs s (bumpDie s die code n) := by
  unfold bumpDie
  split
  · exact bumpRange_ctrs s _ _ code n _
  · exact OnlyCtrs.refl s

theorem countIssue_ctrs (s : State) (c : Ctx) : OnlyCtrs s (countIssue s c) :=
  ((bumpCore_ctrs s _ _ _ _).trans (bumpCore_ctrs _ _ _ _ _)).trans (bumpCore_ctrs _ _ _ _ _)

theorem counted_ctrs (s : State) (c : Ctx) : OnlyCtrs s (counted s c) := by
  unfold counted
  split
  · exact countIssue_ctrs s c
  · exact OnlyCtrs.refl s

theorem counted_gangs (s : State) (c : Ctx) : (counted s c).gangs = s.gangs := by rw [counted_ctrs s c]
theorem counted_paths (s : State) (c : Ctx) : (counted s c).paths = s.paths := by rw [counted_ctrs s c]
theorem counted_crews (s : State) (c : Ctx) : (counted s c).crews = s.crews := by rw [counted_ctrs s c]

/-- The gang that a path's context holds stands in the state. -/
theorem ctxOf_gang {s : State} {gd : Guard} {c : Ctx} (h : ctxOf s gd = some c) : Map.find? s.gangs c.gk = some c.g := by
  unfold ctxOf at h
  split at h
  · simp at h
  · rename_i p hp
    split at h
    · rename_i cl g hc hg
      simp only [Option.some.injEq] at h
      subst h
      exact hg
    · simp at h

/-- The path that the context holds stands in the state. -/
theorem ctxOf_path {s : State} {gd : Guard} {c : Ctx} (h : ctxOf s gd = some c) : Map.find? s.paths c.pk = some c.p := by
  unfold ctxOf at h
  split at h
  · simp at h
  · rename_i p hp
    split at h
    · simp only [Option.some.injEq] at h
      subst h
      exact hp
    · simp at h

theorem ctxOf_clause {s : State} {gd : Guard} {c : Ctx} (h : ctxOf s gd = some c) : c.p.clause = some c.cl := by
  unfold ctxOf at h
  split at h
  · simp at h
  · rename_i p hp
    split at h
    · rename_i cl g hc hg
      simp only [Option.some.injEq] at h
      subst h
      exact hc
    · simp at h

theorem runs_gang {i : Instr} {s : State} {c : Ctx} (h : Runs i s c) : Map.find? (counted s c).gangs c.gk = some c.g := by
  rw [counted_gangs]; exact ctxOf_gang h.stands

theorem runs_path {i : Instr} {s : State} {c : Ctx} (h : Runs i s c) : Map.find? (counted s c).paths c.pk = some c.p := by
  rw [counted_paths]; exact ctxOf_path h.stands

/-- An instruction that passes every check runs its meaning on the counted state. -/
theorem issue_runs {i : Instr} {s : State} {c : Ctx} (h : Runs i s c) (body : Ctx → State → State) :
    issue (shapeOf i) s body = .next (body c (counted s c)) := by
  unfold issue
  simp only [h.stands, h.checks, h.uniform, h.written]
  have hg : ((shapeOf i).gw && c.p.kind == .ordinary && !c.p.again && c.p.mask != c.g.live) = false := by
    cases h1 : (shapeOf i).gw <;> simp
    intro h2 h3
    exact h.together h1 h2 h3
  simp [hg, counted]

end Sys2Proof.Machine
end

