-- ==== Sys2Proof/Laws/Effect.lean ====
section
/-! SUPPORT. Reading registers after the shared operations that write them. -/

namespace Sys2Proof.Machine

/-! ### One register -/

theorem getD_setD_if {α : Type} [DecidableEq α] (m : Map α) (k k' : Nat) (a d : α) :
    Map.getD (Map.setD m k a d) k' d = if k' = k then a else Map.getD m k' d := Map.getD_setD_if m k k' a d

theorem rv_wv (g : Gang) (n l x n' l' : Nat) (h : l < 32) (h' : l' < 32) :
    rv (wv g n l x) n' l' = if n' = n ∧ l' = l then x % 2 ^ 32 else rv g n' l' := by
  unfold rv wv
  simp only [getD_setD_if]
  have : (32 * n' + l' = 32 * n + l) ↔ (n' = n ∧ l' = l) := by omega
  simp only [this]
  split <;> simp

theorem rs_ws (g : Gang) (n x n' : Nat) : rs (ws g n x) n' = if n' = n then x % 2 ^ 32 else rs g n' := by
  unfold rs ws
  simp only [getD_setD_if]
  split <;> simp

theorem setLane_get (m : Mask) (l l' : Nat) (b : Bool) (h : l < 32) (h' : l' < 32) :
    (setLane m l b).getLsbD l' = if l' = l then b else m.getLsbD l' := by
  unfold setLane laneBit
  cases b <;> by_cases e : l' = l
  · subst e; simp [h']
  · have : ¬ (l ≤ l' ∧ l' - l = 0) := by omega
    simp [e, h']
    intro _
    omega
  · subst e; simp [h']
  · simp [e, h']
    omega

theorem rp_wp (g : Gang) (n l : Nat) (b : Bool) (n' l' : Nat) (h : l < 32) (h' : l' < 32) :
    rp (wp g n l b) n' l' = if n' = n ∧ l' = l then b else rp g n' l' := by
  unfold rp wp
  simp only [getD_setD_if]
  by_cases e : n' = n
  · subst e; simp [setLane_get _ _ _ _ h h']
  · simp [e]

theorem rfl_wfl (g : Gang) (l : Nat) (x : BitVec 6) (l' : Nat) :
    rfl' (wfl g l x) l' = if l' = l then x else rfl' g l' := by
  unfold rfl' wfl
  simp only [getD_setD_if]

theorem rrng_wrng (g : Gang) (l : Nat) (x : Word) (l' : Nat) :
    rrng (wrng g l x) l' = if l' = l then x else rrng g l' := by
  unfold rrng wrng
  simp only [getD_setD_if]

/-! ### The lanes of a mask -/

theorem mem_lanes {m : Mask} {l : Nat} : l ∈ lanes m ↔ l < 32 ∧ m.getLsbD l = true := by
  simp [lanes]

theorem lanes_lt {m : Mask} {l : Nat} (h : l ∈ lanes m) : l < 32 := (mem_lanes.mp h).1

theorem mem_lanes' {m : Mask} {l : Nat} (h : l < 32) : l ∈ lanes m ↔ m.getLsbD l = true := by
  simp [mem_lanes, h]

theorem lanes_nil {m : Mask} : lanes m = [] ↔ m = 0 := by
  constructor
  · intro h
    apply BitVec.eq_of_getLsbD_eq
    intro l hl
    have : l ∉ lanes m := by simp [h]
    simp only [mem_lanes, hl, true_and, Bool.not_eq_true] at this
    simpa using this
  · rintro rfl
    simp [lanes]

/-! ### Reading after a fold over lanes -/

/-- A read `r` of a gang after a fold in which lane `l` alone sets it. -/
theorem fold_read {β : Type} (ls : List Nat) (f : Gang → Nat → Gang) (r : Gang → β) (l : Nat) (x : β)
    (hit : ∀ g, l ∈ ls → r (f g l) = x) (miss : ∀ g k, k ∈ ls → k ≠ l → r (f g k) = r g) (g : Gang) :
    r (ls.foldl f g) = if l ∈ ls then x else r g := by
  induction ls generalizing g with
  | nil => simp
  | cons k ks ih =>
    simp only [List.foldl_cons]
    by_cases hk : k = l
    · subst hk
      by_cases hm : k ∈ ks
      · rw [ih (fun g h => hit g (by simp)) (fun g j hj => miss g j (by simp [hj]))]
        simp [hm]
      · rw [ih (fun g h => absurd h hm) (fun g j hj => miss g j (by simp [hj]))]
        simp [hm, hit g (by simp)]
    · rw [ih (fun g h => hit g (by simp [h])) (fun g j hj => miss g j (by simp [hj]))]
      have : k ≠ l := hk
      by_cases hm : l ∈ ks
      · simp [hm]
      · have : l ≠ k := fun e => hk e.symm
        simp [hm, this, miss g k (by simp) hk]

/-- A read that no lane of the fold sets. -/
theorem fold_keep {β : Type} (ls : List Nat) (f : Gang → Nat → Gang) (r : Gang → β)
    (miss : ∀ g k, k ∈ ls → r (f g k) = r g) (g : Gang) : r (ls.foldl f g) = r g := by
  induction ls generalizing g with
  | nil => rfl
  | cons k ks ih =>
    simp only [List.foldl_cons]
    rw [ih (fun g j hj => miss g j (by simp [hj])), miss g k (by simp)]

/-- Two gangs that agree but for registers, predicates, flags and rounding state. -/
def SameRest (g h : Gang) : Prop := ∃ v x p fl r, h = { g with v := v, s := x, p := p, flags := fl, rng := r }

theorem SameRest.refl (g : Gang) : SameRest g g := ⟨g.v, g.s, g.p, g.flags, g.rng, rfl⟩
theorem SameRest.trans {g h k : Gang} : SameRest g h → SameRest h k → SameRest g k := by
  rintro ⟨v, x, p, f, r, rfl⟩ ⟨v', x', p', f', r', rfl⟩
  exact ⟨v', x', p', f', r', rfl⟩

theorem SameRest.fold (ls : List Nat) (f : Gang → Nat → Gang) (h : ∀ g k, k ∈ ls → SameRest g (f g k)) (g : Gang) :
    SameRest g (ls.foldl f g) := by
  induction ls generalizing g with
  | nil => exact SameRest.refl g
  | cons k ks ih =>
    exact (h g k (by simp)).trans (ih (fun g j hj => h g j (by simp [hj])) _)

theorem wv_rest (g : Gang) (n l x : Nat) : SameRest g (wv g n l x) := ⟨_, _, _, _, _, rfl⟩
theorem ws_rest (g : Gang) (n x : Nat) : SameRest g (ws g n x) := ⟨_, _, _, _, _, rfl⟩
theorem wp_rest (g : Gang) (n l : Nat) (b : Bool) : SameRest g (wp g n l b) := ⟨_, _, _, _, _, rfl⟩
theorem wfl_rest (g : Gang) (l : Nat) (x : BitVec 6) : SameRest g (wfl g l x) := ⟨_, _, _, _, _, rfl⟩
theorem wrng_rest (g : Gang) (l : Nat) (x : Word) : SameRest g (wrng g l x) := ⟨_, _, _, _, _, rfl⟩
theorem wvw_rest (g : Gang) (n l w x : Nat) : SameRest g (wvw g n l w x) := by
  unfold wvw
  split
  · exact (wv_rest _ _ _ _).trans (wv_rest _ _ _ _)
  · exact wv_rest _ _ _ _
theorem wsw_rest (g : Gang) (n w x : Nat) : SameRest g (wsw g n w x) := by
  unfold wsw
  split
  · exact (ws_rest _ _ _).trans (ws_rest _ _ _)
  · exact ws_rest _ _ _

/-! ### Operands of one or two registers -/

theorem rv_wvw (g : Gang) (n l w x n' l' : Nat) (hw : w = 1 ∨ w = 2) (h : l < 32) (h' : l' < 32) :
    rv (wvw g n l w x) n' l' =
      if l' = l ∧ n ≤ n' ∧ n' < n + w then x / 2 ^ (32 * (n' - n)) % 2 ^ 32 else rv g n' l' := by
  rcases hw with rfl | rfl
  · simp only [wvw, Nat.reduceEqDiff, if_false]
    rw [rv_wv g n l x n' l' h h']
    by_cases e : n' = n ∧ l' = l
    · obtain ⟨rfl, rfl⟩ := e; simp
    · rw [if_neg e, if_neg (by omega)]
  · simp only [wvw, if_true]
    rw [rv_wv _ _ _ _ _ _ h h', rv_wv _ _ _ _ _ _ h h']
    by_cases e : n' = n + 1 ∧ l' = l
    · obtain ⟨rfl, rfl⟩ := e
      have h1 : n + 1 - n = 1 := by omega
      simp [h1]
    · by_cases e2 : n' = n ∧ l' = l
      · obtain ⟨rfl, rfl⟩ := e2; simp
      · rw [if_neg e, if_neg e2, if_neg (by omega)]

theorem rs_wsw (g : Gang) (n w x n' : Nat) (hw : w = 1 ∨ w = 2) :
    rs (wsw g n w x) n' = if n ≤ n' ∧ n' < n + w then x / 2 ^ (32 * (n' - n)) % 2 ^ 32 else rs g n' := by
  rcases hw with rfl | rfl
  · simp only [wsw, Nat.reduceEqDiff, if_false]
    rw [rs_ws]
    by_cases e : n' = n
    · subst e; simp
    · rw [if_neg e, if_neg (by omega)]
  · simp only [wsw, if_true]
    rw [rs_ws, rs_ws]
    by_cases e : n' = n + 1
    · subst e
      have h1 : n + 1 - n = 1 := by omega
      simp [h1]
    · by_cases e2 : n' = n
      · subst e2; simp
      · rw [if_neg e, if_neg e2, if_neg (by omega)]

theorem rs_wvw (g : Gang) (n l w x n' : Nat) : rs (wvw g n l w x) n' = rs g n' := by unfold wvw; split <;> rfl
theorem rv_wsw (g : Gang) (n w x n' l' : Nat) : rv (wsw g n w x) n' l' = rv g n' l' := by unfold wsw; split <;> rfl
theorem rp_wvw (g : Gang) (n l w x n' l' : Nat) : rp (wvw g n l w x) n' l' = rp g n' l' := by unfold wvw; split <;> rfl
theorem rp_wsw (g : Gang) (n w x n' l' : Nat) : rp (wsw g n w x) n' l' = rp g n' l' := by unfold wsw; split <;> rfl
theorem flags_wvw (g : Gang) (n l w x : Nat) : (wvw g n l w x).flags = g.flags := by unfold wvw; split <;> rfl
theorem flags_wsw (g : Gang) (n w x : Nat) : (wsw g n w x).flags = g.flags := by unfold wsw; split <;> rfl
theorem rng_wvw (g : Gang) (n l w x : Nat) : (wvw g n l w x).rng = g.rng := by unfold wvw; split <;> rfl
theorem rng_wsw (g : Gang) (n w x : Nat) : (wsw g n w x).rng = g.rng := by unfold wsw; split <;> rfl

/-! ### `putD` and `putP` -/

theorem putD_rest (g : Gang) (sd : Bool) (d : BitVec 8) (w : Nat) (m : Mask) (val : Nat → Nat) :
    SameRest g (putD g sd d w m val) := by
  unfold putD
  split
  · split
    · exact SameRest.refl g
    · exact wsw_rest _ _ _ _
  · exact SameRest.fold _ _ (fun g k _ => wvw_rest g _ _ _ _) g

theorem putP_rest (g : Gang) (n : Nat) (m : Mask) (val : Nat → Bool) : SameRest g (putP g n m val) :=
  SameRest.fold _ _ (fun g k _ => wp_rest g _ _ _) g

theorem rv_putD (g : Gang) (sd : Bool) (d : BitVec 8) (w : Nat) (m : Mask) (val : Nat → Nat) (hw : w = 1 ∨ w = 2)
    (n l : Nat) (h : l < 32) :
    rv (putD g sd d w m val) n l =
      if sd = false ∧ m.getLsbD l = true ∧ d.toNat ≤ n ∧ n < d.toNat + w then val l / 2 ^ (32 * (n - d.toNat)) % 2 ^ 32
      else rv g n l := by
  unfold putD
  cases sd
  · by_cases hn : d.toNat ≤ n ∧ n < d.toNat + w
    · simp only [Bool.false_eq_true, if_false]
      rw [fold_read (lanes m) _ (fun h => rv h n l) l (val l / 2 ^ (32 * (n - d.toNat)) % 2 ^ 32)]
      · simp [mem_lanes' h, hn]
      · intro g hl
        simp only [rv_wvw _ _ _ _ _ _ _ hw h h, hn, and_self, if_true]
      · intro g k hk hne
        simp only [rv_wvw _ _ _ _ _ _ _ hw (lanes_lt hk) h]
        rw [if_neg (by omega)]
    · simp only [Bool.false_eq_true, if_false]
      rw [fold_keep (lanes m) _ (fun h => rv h n l)]
      · rw [if_neg (fun x => hn x.2.2)]
      · intro g k hk
        simp only [rv_wvw _ _ _ _ _ _ _ hw (lanes_lt hk) h]
        rw [if_neg (fun x => hn x.2)]
  · simp only [if_true]
    split <;> simp [rv_wsw]

theorem lowLane_head {m : Mask} {l : Nat} {ls : List Nat} (h : lanes m = l :: ls) : lowLane m = l := by simp [lowLane, h]

theorem rs_putD (g : Gang) (sd : Bool) (d : BitVec 8) (w : Nat) (m : Mask) (val : Nat → Nat) (hw : w = 1 ∨ w = 2) (n : Nat) :
    rs (putD g sd d w m val) n =
      if sd = true ∧ m ≠ 0 ∧ d.toNat ≤ n ∧ n < d.toNat + w then
        val (lowLane m) / 2 ^ (32 * (n - d.toNat)) % 2 ^ 32
      else rs g n := by
  unfold putD
  cases sd
  · simp only [Bool.false_eq_true, if_false]
    rw [fold_keep (lanes m) _ (fun h => rs h n) (fun g k _ => rs_wvw _ _ _ _ _ _)]
    simp
  · simp only [if_true]
    split
    · rename_i h
      have : m = 0 := lanes_nil.mp h
      simp [this]
    · rename_i l ls h
      have hm : m ≠ 0 := fun e => by rw [lanes_nil.mpr e] at h; simp at h
      rw [rs_wsw _ _ _ _ _ hw, lowLane_head h]
      simp only [hm, ne_eq, not_false_eq_true, true_and]

theorem rp_putD (g : Gang) (sd : Bool) (d : BitVec 8) (w : Nat) (m : Mask) (val : Nat → Nat) (n l : Nat) :
    rp (putD g sd d w m val) n l = rp g n l := by
  unfold putD
  split
  · split <;> simp [rp_wsw]
  · exact fold_keep (lanes m) _ (fun h => rp h n l) (fun g k _ => rp_wvw _ _ _ _ _ _ _) g

theorem flags_putD (g : Gang) (sd : Bool) (d : BitVec 8) (w : Nat) (m : Mask) (val : Nat → Nat) :
    (putD g sd d w m val).flags = g.flags := by
  unfold putD
  split
  · split <;> simp [flags_wsw]
  · exact fold_keep (lanes m) _ (fun h => h.flags) (fun g k _ => flags_wvw _ _ _ _ _) g

theorem rng_putD (g : Gang) (sd : Bool) (d : BitVec 8) (w : Nat) (m : Mask) (val : Nat → Nat) :
    (putD g sd d w m val).rng = g.rng := by
  unfold putD
  split
  · split <;> simp [rng_wsw]
  · exact fold_keep (lanes m) _ (fun h => h.rng) (fun g k _ => rng_wvw _ _ _ _ _) g

theorem rp_putP (g : Gang) (n : Nat) (m : Mask) (val : Nat → Bool) (n' l : Nat) (h : l < 32) :
    rp (putP g n m val) n' l = if n' = n ∧ m.getLsbD l = true then val l else rp g n' l := by
  unfold putP
  by_cases e : n' = n
  · subst e
    rw [fold_read (lanes m) _ (fun h => rp h n' l) l (val l)]
    · simp [mem_lanes' h]
    · intro g hl
      simp [rp_wp _ _ _ _ _ _ h h]
    · intro g k hk hne
      simp only [rp_wp _ _ _ _ _ _ (lanes_lt hk) h]
      rw [if_neg (by omega)]
  · rw [fold_keep (lanes m) _ (fun h => rp h n' l)]
    · simp [e]
    · intro g k hk
      simp only [rp_wp _ _ _ _ _ _ (lanes_lt hk) h]
      rw [if_neg (fun x => e x.1)]

theorem putP_fields (g : Gang) (n : Nat) (m : Mask) (val : Nat → Bool) :
    (putP g n m val).v = g.v ∧ (putP g n m val).s = g.s ∧ (putP g n m val).flags = g.flags ∧
      (putP g n m val).rng = g.rng := by
  unfold putP
  refine ⟨?_, ?_, ?_, ?_⟩
  · exact fold_keep (lanes m) (fun h l => wp h n l (val l)) (fun h => h.v) (fun _ _ _ => rfl) g
  · exact fold_keep (lanes m) (fun h l => wp h n l (val l)) (fun h => h.s) (fun _ _ _ => rfl) g
  · exact fold_keep (lanes m) (fun h l => wp h n l (val l)) (fun h => h.flags) (fun _ _ _ => rfl) g
  · exact fold_keep (lanes m) (fun h l => wp h n l (val l)) (fun h => h.rng) (fun _ _ _ => rfl) g

/-! ### Writes of a gang as `Writes` -/

/-- A change of the gang that reads as `e` says is `Writes`. -/
theorem writes_of {s : State} {c : Ctx} {e : Effect} {f : Gang → Gang} (hg : Map.find? s.gangs c.gk = some c.g)
    (rest : SameRest c.g (f c.g))
    (vs : ∀ n l, l < 32 → rv (f c.g) n l =
      if e.sd = false ∧ e.m.getLsbD l = true ∧ e.d ≤ n ∧ n < e.d + e.w then e.val l / 2 ^ (32 * (n - e.d)) % 2 ^ 32
      else rv c.g n l)
    (ss : ∀ n, rs (f c.g) n =
      if e.sd = true ∧ e.m ≠ 0 ∧ e.d ≤ n ∧ n < e.d + e.w then e.val (lowLane e.m) / 2 ^ (32 * (n - e.d)) % 2 ^ 32
      else rs c.g n)
    (ps : ∀ n l, l < 32 → rp (f c.g) n l = if e.pn = some n ∧ e.m.getLsbD l = true then e.pval l else rp c.g n l)
    (fs : ∀ l, l < 32 → rfl' (f c.g) l = if e.m.getLsbD l = true then rfl' c.g l ||| e.fl l else rfl' c.g l)
    (rr : ∀ l, l < 32 → rrng (f c.g) l = match e.rng with
      | some r => if e.m.getLsbD l = true then r l else rrng c.g l
      | none => rrng c.g l) : Writes s (onGang s c.gk f) c e := by
  have hu : Map.find? (onGang s c.gk f).gangs c.gk = some (f c.g) := by simp [hg]
  have ha : gangAt (onGang s c.gk f) c.gk = f c.g := by simp [gangAt, hg]
  refine ⟨⟨rfl, fun j hj => ?_⟩, ?_, ?_, ?_, ?_, ?_, ?_⟩
  · simp [Map.find?_adjust_ne _ _ hj]
  · obtain ⟨v, x, p, fl, r, h⟩ := rest
    exact ⟨v, x, p, fl, r, by rw [hu, h]⟩
  · rw [ha]; exact vs
  · rw [ha]; exact ss
  · rw [ha]; exact ps
  · rw [ha]; exact fs
  · rw [ha]; exact rr

/-- One destination written by `putD`. -/
theorem putD_writes {s : State} {c : Ctx} (hg : Map.find? s.gangs c.gk = some c.g) (sd : Bool) (d : BitVec 8) (w : Nat)
    (m : Mask) (val : Nat → Nat) (hw : w = 1 ∨ w = 2) :
    Writes s (onGang s c.gk (fun g => putD g sd d w m val)) c { m := m, sd := sd, d := d.toNat, w := w, val := val } := by
  refine writes_of hg (putD_rest _ _ _ _ _ _) (fun n l h => rv_putD _ _ _ _ _ _ hw _ _ h)
    (fun n => rs_putD _ _ _ _ _ _ hw _) (fun n l h => ?_) (fun l h => ?_) (fun l h => ?_)
  · simp [rp_putD]
  · simp [rfl', flags_putD]
  · simp [rrng, rng_putD]

/-- A destination and a predicate. -/
theorem putDP_writes {s : State} {c : Ctx} (hg : Map.find? s.gangs c.gk = some c.g) (sd : Bool) (d : BitVec 8) (w : Nat)
    (m : Mask) (val : Nat → Nat) (n : Nat) (pval : Nat → Bool) (hw : w = 1 ∨ w = 2) :
    Writes s (onGang s c.gk (fun g => putP (putD g sd d w m val) n m pval)) c
      { m := m, sd := sd, d := d.toNat, w := w, val := val, pn := some n, pval := pval } := by
  have hp := putP_fields (putD c.g sd d w m val) n m pval
  refine writes_of hg ((putD_rest _ _ _ _ _ _).trans (putP_rest _ _ _ _)) (fun k l h => ?_) (fun k => ?_) (fun k l h => ?_)
    (fun l h => ?_) (fun l h => ?_)
  · rw [← rv_putD _ _ _ _ _ _ hw _ _ h]; simp [rv, hp.1]
  · rw [← rs_putD _ _ _ _ _ _ hw _]; simp [rs, hp.2.1]
  · simp only [rp_putP _ _ _ _ _ _ h, rp_putD, Option.some.injEq]
    simp only [eq_comm]
  · simp [rfl', hp.2.2.1, flags_putD]
  · simp [rrng, hp.2.2.2, rng_putD]

/-- A predicate alone. -/
theorem putP_writes {s : State} {c : Ctx} (hg : Map.find? s.gangs c.gk = some c.g) (n : Nat) (m : Mask) (pval : Nat → Bool) :
    Writes s (onGang s c.gk (fun g => putP g n m pval)) c { m := m, pn := some n, pval := pval } := by
  have hp := putP_fields c.g n m pval
  refine writes_of hg (putP_rest _ _ _ _) (fun k l h => ?_) (fun k => ?_) (fun k l h => ?_) (fun l h => ?_) (fun l h => ?_)
  · rw [if_neg (by simp)]; simp [rv, hp.1]
  · rw [if_neg (by simp)]; simp [rs, hp.2.1]
  · simp only [rp_putP _ _ _ _ _ _ h, Option.some.injEq]
    simp only [eq_comm]
  · simp [rfl', hp.2.2.1]
  · simp [rrng, hp.2.2.2]

/-- No register written. -/
theorem none_writes {s : State} {c : Ctx} (hg : Map.find? s.gangs c.gk = some c.g) (m : Mask) : Writes s s c { m := m } := by
  have ha : gangAt s c.gk = c.g := by simp [gangAt, hg]
  refine ⟨⟨rfl, fun j hj => rfl⟩, ⟨c.g.v, c.g.s, c.g.p, c.g.flags, c.g.rng, hg⟩, ?_, ?_, ?_, ?_, ?_⟩ <;> intros <;>
    simp [ha]

end Sys2Proof.Machine
end

