-- ==== Sys2Proof/Laws/Encode.lean ====
section
/-! SUPPORT. Encoding and decoding by format: the fields of a packed word are the fields packed. -/

namespace Sys2Proof

theorem cat_lo {n m : Nat} (x : BitVec n) (y : BitVec m) {i : Nat} (h : i < m) : (x ++ y).getLsbD i = y.getLsbD i := by
  simp [BitVec.getLsbD_append, h]
theorem cat_hi {n m : Nat} (x : BitVec n) (y : BitVec m) {i : Nat} (h : m ≤ i) : (x ++ y).getLsbD i = x.getLsbD (i - m) := by
  have : ¬ i < m := Nat.not_lt.mpr h
  simp [BitVec.getLsbD_append, this]
theorem ext_get {n : Nat} (x : DWord) (k : Nat) (y : BitVec n) (h : ∀ i, i < n → x.getLsbD (k + i) = y.getLsbD i) :
    x.extractLsb' k n = y := by
  refine BitVec.eq_of_getLsbD_eq fun i hi => ?_
  simp [hi, h i hi]
theorem ext_get_nat {n : Nat} (x : DWord) (k : Nat) (y : BitVec n) (h : ∀ i, i < n → x.getLsbD (k + i) = y.getLsbD i) :
    (x.extractLsb' k n).toNat = y.toNat := congrArg BitVec.toNat (ext_get x k y h)
theorem get_ext (x : DWord) (k n j : Nat) {i : Nat} (h : j < n) (e : i = k + j) : (x.extractLsb' k n).getLsbD j = x.getLsbD i := by
  subst e; simp [h]
theorem get_bool (x : DWord) (k j : Nat) {i : Nat} (h : j = 0) (e : i = k) : (BitVec.ofBool (x.getLsbD k)).getLsbD j = x.getLsbD i := by
  subst h; subst e; simp

theorem opc_RRR (o : BitVec 8) (f : RRR) : opcOf (packRRR o f) = o.toNat := by
  refine ext_get_nat _ _ _ fun i hi => ?_
  unfold packRRR b1
  rw [cat_lo _ _ (by omega)]
  congr 1; omega
theorem fmt_RRR (o : BitVec 8) (f : RRR) : fmtOf (packRRR o f) = 0 := by
  refine ext_get_nat _ _ 0#3 fun i hi => ?_
  unfold packRRR b1
  repeat first | rw [cat_lo _ _ (by omega)] | rw [cat_hi _ _ (by omega)]
  congr 1; omega
theorem of_RRR (o : BitVec 8) (f : RRR) : rrrOf (packRRR o f) = f := by
  obtain ⟨⟨gp, gn⟩, d, a, b, c, type, rnd, sat, sa, sb, sc, func, sd⟩ := f
  simp only [rrrOf, guardOf, dOf, aOf, bOf, cOf, RRR.mk.injEq, Guard.mk.injEq]
  refine ⟨⟨?_, ?_⟩, ?_, ?_, ?_, ?_, ?_, ?_, ?_, ?_, ?_, ?_, ?_, ?_⟩
  · refine ext_get _ _ _ fun i hi => ?_
    unfold packRRR b1
    repeat first | rw [cat_lo _ _ (by omega)] | rw [cat_hi _ _ (by omega)]
    congr 1; omega
  · unfold packRRR b1
    repeat first | rw [cat_lo _ _ (by omega)] | rw [cat_hi _ _ (by omega)]
    simp
  · refine ext_get _ _ _ fun i hi => ?_
    unfold packRRR b1
    repeat first | rw [cat_lo _ _ (by omega)] | rw [cat_hi _ _ (by omega)]
    congr 1; omega
  · refine ext_get _ _ _ fun i hi => ?_
    unfold packRRR b1
    repeat first | rw [cat_lo _ _ (by omega)] | rw [cat_hi _ _ (by omega)]
    congr 1; omega
  · refine ext_get _ _ _ fun i hi => ?_
    unfold packRRR b1
    repeat first | rw [cat_lo _ _ (by omega)] | rw [cat_hi _ _ (by omega)]
    congr 1; omega
  · refine ext_get _ _ _ fun i hi => ?_
    unfold packRRR b1
    repeat first | rw [cat_lo _ _ (by omega)] | rw [cat_hi _ _ (by omega)]
    congr 1; omega
  · refine ext_get _ _ _ fun i hi => ?_
    unfold packRRR b1
    repeat first | rw [cat_lo _ _ (by omega)] | rw [cat_hi _ _ (by omega)]
    congr 1; omega
  · refine ext_get _ _ _ fun i hi => ?_
    unfold packRRR b1
    repeat first | rw [cat_lo _ _ (by omega)] | rw [cat_hi _ _ (by omega)]
    congr 1; omega
  · unfold packRRR b1
    repeat first | rw [cat_lo _ _ (by omega)] | rw [cat_hi _ _ (by omega)]
    simp
  · unfold packRRR b1
    repeat first | rw [cat_lo _ _ (by omega)] | rw [cat_hi _ _ (by omega)]
    simp
  · unfold packRRR b1
    repeat first | rw [cat_lo _ _ (by omega)] | rw [cat_hi _ _ (by omega)]
    simp
  · unfold packRRR b1
    repeat first | rw [cat_lo _ _ (by omega)] | rw [cat_hi _ _ (by omega)]
    simp
  · refine ext_get _ _ _ fun i hi => ?_
    unfold packRRR b1
    repeat first | rw [cat_lo _ _ (by omega)] | rw [cat_hi _ _ (by omega)]
    congr 1; omega
  · unfold packRRR b1
    repeat first | rw [cat_lo _ _ (by omega)] | rw [cat_hi _ _ (by omega)]
    simp
/-- The decoder on a packed word of the format. -/
theorem dec_RRR (o : BitVec 8) (f : RRR) : decode (packRRR o f) = decodeRRR o.toNat f := by
  unfold decode
  rw [fmt_RRR, opc_RRR, of_RRR]
  rfl
/-- Packing the fields of a word of the format gives the word back. -/
theorem pack_RRR (w : DWord) (h : fmtOf w = 0) : packRRR (w.extractLsb' 0 8) (rrrOf w) = w := by
  have hf : w.extractLsb' 13 3 = 0#3 := BitVec.eq_of_toNat_eq h
  refine BitVec.eq_of_getLsbD_eq fun i hi => ?_
  unfold packRRR b1 rrrOf guardOf dOf aOf bOf cOf
  rw [← hf]
  by_cases h0 : i < 8
  · rw [cat_lo _ _ (by omega)]
    exact get_ext w _ _ _ (by omega) (by omega)
  rw [cat_hi _ _ (by omega)]
  by_cases h8 : i < 12
  · rw [cat_lo _ _ (by omega)]
    exact get_ext w _ _ _ (by omega) (by omega)
  rw [cat_hi _ _ (by omega)]
  by_cases h12 : i < 13
  · rw [cat_lo _ _ (by omega)]
    exact get_bool w _ _ (by omega) (by omega)
  rw [cat_hi _ _ (by omega)]
  by_cases h13 : i < 16
  · rw [cat_lo _ _ (by omega)]
    exact get_ext w _ _ _ (by omega) (by omega)
  rw [cat_hi _ _ (by omega)]
  by_cases h16 : i < 24
  · rw [cat_lo _ _ (by omega)]
    exact get_ext w _ _ _ (by omega) (by omega)
  rw [cat_hi _ _ (by omega)]
  by_cases h24 : i < 32
  · rw [cat_lo _ _ (by omega)]
    exact get_ext w _ _ _ (by omega) (by omega)
  rw [cat_hi _ _ (by omega)]
  by_cases h32 : i < 40
  · rw [cat_lo _ _ (by omega)]
    exact get_ext w _ _ _ (by omega) (by omega)
  rw [cat_hi _ _ (by omega)]
  by_cases h40 : i < 48
  · rw [cat_lo _ _ (by omega)]
    exact get_ext w _ _ _ (by omega) (by omega)
  rw [cat_hi _ _ (by omega)]
  by_cases h48 : i < 52
  · rw [cat_lo _ _ (by omega)]
    exact get_ext w _ _ _ (by omega) (by omega)
  rw [cat_hi _ _ (by omega)]
  by_cases h52 : i < 54
  · rw [cat_lo _ _ (by omega)]
    exact get_ext w _ _ _ (by omega) (by omega)
  rw [cat_hi _ _ (by omega)]
  by_cases h54 : i < 55
  · rw [cat_lo _ _ (by omega)]
    exact get_bool w _ _ (by omega) (by omega)
  rw [cat_hi _ _ (by omega)]
  by_cases h55 : i < 56
  · rw [cat_lo _ _ (by omega)]
    exact get_bool w _ _ (by omega) (by omega)
  rw [cat_hi _ _ (by omega)]
  by_cases h56 : i < 57
  · rw [cat_lo _ _ (by omega)]
    exact get_bool w _ _ (by omega) (by omega)
  rw [cat_hi _ _ (by omega)]
  by_cases h57 : i < 58
  · rw [cat_lo _ _ (by omega)]
    exact get_bool w _ _ (by omega) (by omega)
  rw [cat_hi _ _ (by omega)]
  by_cases h58 : i < 63
  · rw [cat_lo _ _ (by omega)]
    exact get_ext w _ _ _ (by omega) (by omega)
  rw [cat_hi _ _ (by omega)]
  exact get_bool w _ _ (by omega) (by omega)

theorem opc_RRI (o : BitVec 8) (f : RRI) : opcOf (packRRI o f) = o.toNat := by
  refine ext_get_nat _ _ _ fun i hi => ?_
  unfold packRRI b1
  rw [cat_lo _ _ (by omega)]
  congr 1; omega
theorem fmt_RRI (o : BitVec 8) (f : RRI) : fmtOf (packRRI o f) = 1 := by
  refine ext_get_nat _ _ 1#3 fun i hi => ?_
  unfold packRRI b1
  repeat first | rw [cat_lo _ _ (by omega)] | rw [cat_hi _ _ (by omega)]
  congr 1; omega
theorem of_RRI (o : BitVec 8) (f : RRI) : rriOf (packRRI o f) = f := by
  obtain ⟨⟨gp, gn⟩, d, a, imm⟩ := f
  simp only [rriOf, guardOf, dOf, aOf, RRI.mk.injEq, Guard.mk.injEq]
  refine ⟨⟨?_, ?_⟩, ?_, ?_, ?_⟩
  · refine ext_get _ _ _ fun i hi => ?_
    unfold packRRI b1
    repeat first | rw [cat_lo _ _ (by omega)] | rw [cat_hi _ _ (by omega)]
    congr 1; omega
  · unfold packRRI b1
    repeat first | rw [cat_lo _ _ (by omega)] | rw [cat_hi _ _ (by omega)]
    simp
  · refine ext_get _ _ _ fun i hi => ?_
    unfold packRRI b1
    repeat first | rw [cat_lo _ _ (by omega)] | rw [cat_hi _ _ (by omega)]
    congr 1; omega
  · refine ext_get _ _ _ fun i hi => ?_
    unfold packRRI b1
    repeat first | rw [cat_lo _ _ (by omega)] | rw [cat_hi _ _ (by omega)]
    congr 1; omega
  · refine ext_get _ _ _ fun i hi => ?_
    unfold packRRI b1
    repeat first | rw [cat_lo _ _ (by omega)] | rw [cat_hi _ _ (by omega)]
    congr 1; omega
/-- The decoder on a packed word of the format. -/
theorem dec_RRI (o : BitVec 8) (f : RRI) : decode (packRRI o f) = decodeRRI o.toNat f := by
  unfold decode
  rw [fmt_RRI, opc_RRI, of_RRI]
  rfl
/-- Packing the fields of a word of the format gives the word back. -/
theorem pack_RRI (w : DWord) (h : fmtOf w = 1) : packRRI (w.extractLsb' 0 8) (rriOf w) = w := by
  have hf : w.extractLsb' 13 3 = 1#3 := BitVec.eq_of_toNat_eq h
  refine BitVec.eq_of_getLsbD_eq fun i hi => ?_
  unfold packRRI b1 rriOf guardOf dOf aOf
  rw [← hf]
  by_cases h0 : i < 8
  · rw [cat_lo _ _ (by omega)]
    exact get_ext w _ _ _ (by omega) (by omega)
  rw [cat_hi _ _ (by omega)]
  by_cases h8 : i < 12
  · rw [cat_lo _ _ (by omega)]
    exact get_ext w _ _ _ (by omega) (by omega)
  rw [cat_hi _ _ (by omega)]
  by_cases h12 : i < 13
  · rw [cat_lo _ _ (by omega)]
    exact get_bool w _ _ (by omega) (by omega)
  rw [cat_hi _ _ (by omega)]
  by_cases h13 : i < 16
  · rw [cat_lo _ _ (by omega)]
    exact get_ext w _ _ _ (by omega) (by omega)
  rw [cat_hi _ _ (by omega)]
  by_cases h16 : i < 24
  · rw [cat_lo _ _ (by omega)]
    exact get_ext w _ _ _ (by omega) (by omega)
  rw [cat_hi _ _ (by omega)]
  by_cases h24 : i < 32
  · rw [cat_lo _ _ (by omega)]
    exact get_ext w _ _ _ (by omega) (by omega)
  rw [cat_hi _ _ (by omega)]
  exact get_ext w _ _ _ (by omega) (by omega)

theorem opc_MEM (o : BitVec 8) (f : MEM) : opcOf (packMEM o f) = o.toNat := by
  refine ext_get_nat _ _ _ fun i hi => ?_
  unfold packMEM b1
  rw [cat_lo _ _ (by omega)]
  congr 1; omega
theorem fmt_MEM (o : BitVec 8) (f : MEM) : fmtOf (packMEM o f) = 2 := by
  refine ext_get_nat _ _ 2#3 fun i hi => ?_
  unfold packMEM b1
  repeat first | rw [cat_lo _ _ (by omega)] | rw [cat_hi _ _ (by omega)]
  congr 1; omega
theorem of_MEM (o : BitVec 8) (f : MEM) : memOf (packMEM o f) = f := by
  obtain ⟨⟨gp, gn⟩, d, a, b, size, ord, scope, off⟩ := f
  simp only [memOf, guardOf, dOf, aOf, bOf, MEM.mk.injEq, Guard.mk.injEq]
  refine ⟨⟨?_, ?_⟩, ?_, ?_, ?_, ?_, ?_, ?_, ?_⟩
  · refine ext_get _ _ _ fun i hi => ?_
    unfold packMEM b1
    repeat first | rw [cat_lo _ _ (by omega)] | rw [cat_hi _ _ (by omega)]
    congr 1; omega
  · unfold packMEM b1
    repeat first | rw [cat_lo _ _ (by omega)] | rw [cat_hi _ _ (by omega)]
    simp
  · refine ext_get _ _ _ fun i hi => ?_
    unfold packMEM b1
    repeat first | rw [cat_lo _ _ (by omega)] | rw [cat_hi _ _ (by omega)]
    congr 1; omega
  · refine ext_get _ _ _ fun i hi => ?_
    unfold packMEM b1
    repeat first | rw [cat_lo _ _ (by omega)] | rw [cat_hi _ _ (by omega)]
    congr 1; omega
  · refine ext_get _ _ _ fun i hi => ?_
    unfold packMEM b1
    repeat first | rw [cat_lo _ _ (by omega)] | rw [cat_hi _ _ (by omega)]
    congr 1; omega
  · refine ext_get _ _ _ fun i hi => ?_
    unfold packMEM b1
    repeat first | rw [cat_lo _ _ (by omega)] | rw [cat_hi _ _ (by omega)]
    congr 1; omega
  · refine ext_get _ _ _ fun i hi => ?_
    unfold packMEM b1
    repeat first | rw [cat_lo _ _ (by omega)] | rw [cat_hi _ _ (by omega)]
    congr 1; omega
  · refine ext_get _ _ _ fun i hi => ?_
    unfold packMEM b1
    repeat first | rw [cat_lo _ _ (by omega)] | rw [cat_hi _ _ (by omega)]
    congr 1; omega
  · refine ext_get _ _ _ fun i hi => ?_
    unfold packMEM b1
    repeat first | rw [cat_lo _ _ (by omega)] | rw [cat_hi _ _ (by omega)]
    congr 1; omega
/-- The decoder on a packed word of the format. -/
theorem dec_MEM (o : BitVec 8) (f : MEM) : decode (packMEM o f) = decodeMEM o.toNat f := by
  unfold decode
  rw [fmt_MEM, opc_MEM, of_MEM]
  rfl
/-- Packing the fields of a word of the format gives the word back. -/
theorem pack_MEM (w : DWord) (h : fmtOf w = 2) : packMEM (w.extractLsb' 0 8) (memOf w) = w := by
  have hf : w.extractLsb' 13 3 = 2#3 := BitVec.eq_of_toNat_eq h
  refine BitVec.eq_of_getLsbD_eq fun i hi => ?_
  unfold packMEM b1 memOf guardOf dOf aOf bOf
  rw [← hf]
  by_cases h0 : i < 8
  · rw [cat_lo _ _ (by omega)]
    exact get_ext w _ _ _ (by omega) (by omega)
  rw [cat_hi _ _ (by omega)]
  by_cases h8 : i < 12
  · rw [cat_lo _ _ (by omega)]
    exact get_ext w _ _ _ (by omega) (by omega)
  rw [cat_hi _ _ (by omega)]
  by_cases h12 : i < 13
  · rw [cat_lo _ _ (by omega)]
    exact get_bool w _ _ (by omega) (by omega)
  rw [cat_hi _ _ (by omega)]
  by_cases h13 : i < 16
  · rw [cat_lo _ _ (by omega)]
    exact get_ext w _ _ _ (by omega) (by omega)
  rw [cat_hi _ _ (by omega)]
  by_cases h16 : i < 24
  · rw [cat_lo _ _ (by omega)]
    exact get_ext w _ _ _ (by omega) (by omega)
  rw [cat_hi _ _ (by omega)]
  by_cases h24 : i < 32
  · rw [cat_lo _ _ (by omega)]
    exact get_ext w _ _ _ (by omega) (by omega)
  rw [cat_hi _ _ (by omega)]
  by_cases h32 : i < 40
  · rw [cat_lo _ _ (by omega)]
    exact get_ext w _ _ _ (by omega) (by omega)
  rw [cat_hi _ _ (by omega)]
  by_cases h40 : i < 43
  · rw [cat_lo _ _ (by omega)]
    exact get_ext w _ _ _ (by omega) (by omega)
  rw [cat_hi _ _ (by omega)]
  by_cases h43 : i < 45
  · rw [cat_lo _ _ (by omega)]
    exact get_ext w _ _ _ (by omega) (by omega)
  rw [cat_hi _ _ (by omega)]
  by_cases h45 : i < 48
  · rw [cat_lo _ _ (by omega)]
    exact get_ext w _ _ _ (by omega) (by omega)
  rw [cat_hi _ _ (by omega)]
  exact get_ext w _ _ _ (by omega) (by omega)

theorem opc_BR (o : BitVec 8) (f : BR) : opcOf (packBR o f) = o.toNat := by
  refine ext_get_nat _ _ _ fun i hi => ?_
  unfold packBR b1
  rw [cat_lo _ _ (by omega)]
  congr 1; omega
theorem fmt_BR (o : BitVec 8) (f : BR) : fmtOf (packBR o f) = 3 := by
  refine ext_get_nat _ _ 3#3 fun i hi => ?_
  unfold packBR b1
  repeat first | rw [cat_lo _ _ (by omega)] | rw [cat_hi _ _ (by omega)]
  congr 1; omega
theorem of_BR (o : BitVec 8) (f : BR) : brOf (packBR o f) = f := by
  obtain ⟨⟨gp, gn⟩, d, a, off⟩ := f
  simp only [brOf, guardOf, dOf, aOf, BR.mk.injEq, Guard.mk.injEq]
  refine ⟨⟨?_, ?_⟩, ?_, ?_, ?_⟩
  · refine ext_get _ _ _ fun i hi => ?_
    unfold packBR b1
    repeat first | rw [cat_lo _ _ (by omega)] | rw [cat_hi _ _ (by omega)]
    congr 1; omega
  · unfold packBR b1
    repeat first | rw [cat_lo _ _ (by omega)] | rw [cat_hi _ _ (by omega)]
    simp
  · refine ext_get _ _ _ fun i hi => ?_
    unfold packBR b1
    repeat first | rw [cat_lo _ _ (by omega)] | rw [cat_hi _ _ (by omega)]
    congr 1; omega
  · refine ext_get _ _ _ fun i hi => ?_
    unfold packBR b1
    repeat first | rw [cat_lo _ _ (by omega)] | rw [cat_hi _ _ (by omega)]
    congr 1; omega
  · refine ext_get _ _ _ fun i hi => ?_
    unfold packBR b1
    repeat first | rw [cat_lo _ _ (by omega)] | rw [cat_hi _ _ (by omega)]
    congr 1; omega
/-- The decoder on a packed word of the format. -/
theorem dec_BR (o : BitVec 8) (f : BR) : decode (packBR o f) = decodeBR o.toNat f := by
  unfold decode
  rw [fmt_BR, opc_BR, of_BR]
  rfl
/-- Packing the fields of a word of the format gives the word back. -/
theorem pack_BR (w : DWord) (h : fmtOf w = 3) : packBR (w.extractLsb' 0 8) (brOf w) = w := by
  have hf : w.extractLsb' 13 3 = 3#3 := BitVec.eq_of_toNat_eq h
  refine BitVec.eq_of_getLsbD_eq fun i hi => ?_
  unfold packBR b1 brOf guardOf dOf aOf
  rw [← hf]
  by_cases h0 : i < 8
  · rw [cat_lo _ _ (by omega)]
    exact get_ext w _ _ _ (by omega) (by omega)
  rw [cat_hi _ _ (by omega)]
  by_cases h8 : i < 12
  · rw [cat_lo _ _ (by omega)]
    exact get_ext w _ _ _ (by omega) (by omega)
  rw [cat_hi _ _ (by omega)]
  by_cases h12 : i < 13
  · rw [cat_lo _ _ (by omega)]
    exact get_bool w _ _ (by omega) (by omega)
  rw [cat_hi _ _ (by omega)]
  by_cases h13 : i < 16
  · rw [cat_lo _ _ (by omega)]
    exact get_ext w _ _ _ (by omega) (by omega)
  rw [cat_hi _ _ (by omega)]
  by_cases h16 : i < 24
  · rw [cat_lo _ _ (by omega)]
    exact get_ext w _ _ _ (by omega) (by omega)
  rw [cat_hi _ _ (by omega)]
  by_cases h24 : i < 32
  · rw [cat_lo _ _ (by omega)]
    exact get_ext w _ _ _ (by omega) (by omega)
  rw [cat_hi _ _ (by omega)]
  exact get_ext w _ _ _ (by omega) (by omega)

theorem opc_XL (o : BitVec 8) (f : XL) : opcOf (packXL o f) = o.toNat := by
  refine ext_get_nat _ _ _ fun i hi => ?_
  unfold packXL b1
  rw [cat_lo _ _ (by omega)]
  congr 1; omega
theorem fmt_XL (o : BitVec 8) (f : XL) : fmtOf (packXL o f) = 4 := by
  refine ext_get_nat _ _ 4#3 fun i hi => ?_
  unfold packXL b1
  repeat first | rw [cat_lo _ _ (by omega)] | rw [cat_hi _ _ (by omega)]
  congr 1; omega
theorem of_XL (o : BitVec 8) (f : XL) : xlOf (packXL o f) = f := by
  obtain ⟨⟨gp, gn⟩, d, a, b, px, type, rnd, gw, sa, sb, sd, rsv, fn⟩ := f
  simp only [xlOf, guardOf, dOf, aOf, bOf, XL.mk.injEq, Guard.mk.injEq]
  refine ⟨⟨?_, ?_⟩, ?_, ?_, ?_, ?_, ?_, ?_, ?_, ?_, ?_, ?_, ?_, ?_⟩
  · refine ext_get _ _ _ fun i hi => ?_
    unfold packXL b1
    repeat first | rw [cat_lo _ _ (by omega)] | rw [cat_hi _ _ (by omega)]
    congr 1; omega
  · unfold packXL b1
    repeat first | rw [cat_lo _ _ (by omega)] | rw [cat_hi _ _ (by omega)]
    simp
  · refine ext_get _ _ _ fun i hi => ?_
    unfold packXL b1
    repeat first | rw [cat_lo _ _ (by omega)] | rw [cat_hi _ _ (by omega)]
    congr 1; omega
  · refine ext_get _ _ _ fun i hi => ?_
    unfold packXL b1
    repeat first | rw [cat_lo _ _ (by omega)] | rw [cat_hi _ _ (by omega)]
    congr 1; omega
  · refine ext_get _ _ _ fun i hi => ?_
    unfold packXL b1
    repeat first | rw [cat_lo _ _ (by omega)] | rw [cat_hi _ _ (by omega)]
    congr 1; omega
  · refine ext_get _ _ _ fun i hi => ?_
    unfold packXL b1
    repeat first | rw [cat_lo _ _ (by omega)] | rw [cat_hi _ _ (by omega)]
    congr 1; omega
  · refine ext_get _ _ _ fun i hi => ?_
    unfold packXL b1
    repeat first | rw [cat_lo _ _ (by omega)] | rw [cat_hi _ _ (by omega)]
    congr 1; omega
  · refine ext_get _ _ _ fun i hi => ?_
    unfold packXL b1
    repeat first | rw [cat_lo _ _ (by omega)] | rw [cat_hi _ _ (by omega)]
    congr 1; omega
  · unfold packXL b1
    repeat first | rw [cat_lo _ _ (by omega)] | rw [cat_hi _ _ (by omega)]
    simp
  · unfold packXL b1
    repeat first | rw [cat_lo _ _ (by omega)] | rw [cat_hi _ _ (by omega)]
    simp
  · unfold packXL b1
    repeat first | rw [cat_lo _ _ (by omega)] | rw [cat_hi _ _ (by omega)]
    simp
  · unfold packXL b1
    repeat first | rw [cat_lo _ _ (by omega)] | rw [cat_hi _ _ (by omega)]
    simp
  · refine ext_get _ _ _ fun i hi => ?_
    unfold packXL b1
    repeat first | rw [cat_lo _ _ (by omega)] | rw [cat_hi _ _ (by omega)]
    congr 1; omega
  · refine ext_get _ _ _ fun i hi => ?_
    unfold packXL b1
    repeat first | rw [cat_lo _ _ (by omega)] | rw [cat_hi _ _ (by omega)]
    congr 1; omega
/-- The decoder on a packed word of the format. -/
theorem dec_XL (o : BitVec 8) (f : XL) : decode (packXL o f) = decodeXL o.toNat f := by
  unfold decode
  rw [fmt_XL, opc_XL, of_XL]
  rfl
/-- Packing the fields of a word of the format gives the word back. -/
theorem pack_XL (w : DWord) (h : fmtOf w = 4) : packXL (w.extractLsb' 0 8) (xlOf w) = w := by
  have hf : w.extractLsb' 13 3 = 4#3 := BitVec.eq_of_toNat_eq h
  refine BitVec.eq_of_getLsbD_eq fun i hi => ?_
  unfold packXL b1 xlOf guardOf dOf aOf bOf
  rw [← hf]
  by_cases h0 : i < 8
  · rw [cat_lo _ _ (by omega)]
    exact get_ext w _ _ _ (by omega) (by omega)
  rw [cat_hi _ _ (by omega)]
  by_cases h8 : i < 12
  · rw [cat_lo _ _ (by omega)]
    exact get_ext w _ _ _ (by omega) (by omega)
  rw [cat_hi _ _ (by omega)]
  by_cases h12 : i < 13
  · rw [cat_lo _ _ (by omega)]
    exact get_bool w _ _ (by omega) (by omega)
  rw [cat_hi _ _ (by omega)]
  by_cases h13 : i < 16
  · rw [cat_lo _ _ (by omega)]
    exact get_ext w _ _ _ (by omega) (by omega)
  rw [cat_hi _ _ (by omega)]
  by_cases h16 : i < 24
  · rw [cat_lo _ _ (by omega)]
    exact get_ext w _ _ _ (by omega) (by omega)
  rw [cat_hi _ _ (by omega)]
  by_cases h24 : i < 32
  · rw [cat_lo _ _ (by omega)]
    exact get_ext w _ _ _ (by omega) (by omega)
  rw [cat_hi _ _ (by omega)]
  by_cases h32 : i < 40
  · rw [cat_lo _ _ (by omega)]
    exact get_ext w _ _ _ (by omega) (by omega)
  rw [cat_hi _ _ (by omega)]
  by_cases h40 : i < 44
  · rw [cat_lo _ _ (by omega)]
    exact get_ext w _ _ _ (by omega) (by omega)
  rw [cat_hi _ _ (by omega)]
  by_cases h44 : i < 48
  · rw [cat_lo _ _ (by omega)]
    exact get_ext w _ _ _ (by omega) (by omega)
  rw [cat_hi _ _ (by omega)]
  by_cases h48 : i < 50
  · rw [cat_lo _ _ (by omega)]
    exact get_ext w _ _ _ (by omega) (by omega)
  rw [cat_hi _ _ (by omega)]
  by_cases h50 : i < 51
  · rw [cat_lo _ _ (by omega)]
    exact get_bool w _ _ (by omega) (by omega)
  rw [cat_hi _ _ (by omega)]
  by_cases h51 : i < 52
  · rw [cat_lo _ _ (by omega)]
    exact get_bool w _ _ (by omega) (by omega)
  rw [cat_hi _ _ (by omega)]
  by_cases h52 : i < 53
  · rw [cat_lo _ _ (by omega)]
    exact get_bool w _ _ (by omega) (by omega)
  rw [cat_hi _ _ (by omega)]
  by_cases h53 : i < 54
  · rw [cat_lo _ _ (by omega)]
    exact get_bool w _ _ (by omega) (by omega)
  rw [cat_hi _ _ (by omega)]
  by_cases h54 : i < 56
  · rw [cat_lo _ _ (by omega)]
    exact get_ext w _ _ _ (by omega) (by omega)
  rw [cat_hi _ _ (by omega)]
  exact get_ext w _ _ _ (by omega) (by omega)

theorem opc_ENG (o : BitVec 8) (f : ENG) : opcOf (packENG o f) = o.toNat := by
  refine ext_get_nat _ _ _ fun i hi => ?_
  unfold packENG b1
  rw [cat_lo _ _ (by omega)]
  congr 1; omega
theorem fmt_ENG (o : BitVec 8) (f : ENG) : fmtOf (packENG o f) = 5 := by
  refine ext_get_nat _ _ 5#3 fun i hi => ?_
  unfold packENG b1
  repeat first | rw [cat_lo _ _ (by omega)] | rw [cat_hi _ _ (by omega)]
  congr 1; omega
theorem of_ENG (o : BitVec 8) (f : ENG) : engOf (packENG o f) = f := by
  obtain ⟨⟨gp, gn⟩, d, a, b, c, tile, rsv, sa, sb, sc, sd, scope, dec⟩ := f
  simp only [engOf, guardOf, dOf, aOf, bOf, cOf, ENG.mk.injEq, Guard.mk.injEq]
  refine ⟨⟨?_, ?_⟩, ?_, ?_, ?_, ?_, ?_, ?_, ?_, ?_, ?_, ?_, ?_, ?_⟩
  · refine ext_get _ _ _ fun i hi => ?_
    unfold packENG b1
    repeat first | rw [cat_lo _ _ (by omega)] | rw [cat_hi _ _ (by omega)]
    congr 1; omega
  · unfold packENG b1
    repeat first | rw [cat_lo _ _ (by omega)] | rw [cat_hi _ _ (by omega)]
    simp
  · refine ext_get _ _ _ fun i hi => ?_
    unfold packENG b1
    repeat first | rw [cat_lo _ _ (by omega)] | rw [cat_hi _ _ (by omega)]
    congr 1; omega
  · refine ext_get _ _ _ fun i hi => ?_
    unfold packENG b1
    repeat first | rw [cat_lo _ _ (by omega)] | rw [cat_hi _ _ (by omega)]
    congr 1; omega
  · refine ext_get _ _ _ fun i hi => ?_
    unfold packENG b1
    repeat first | rw [cat_lo _ _ (by omega)] | rw [cat_hi _ _ (by omega)]
    congr 1; omega
  · refine ext_get _ _ _ fun i hi => ?_
    unfold packENG b1
    repeat first | rw [cat_lo _ _ (by omega)] | rw [cat_hi _ _ (by omega)]
    congr 1; omega
  · refine ext_get _ _ _ fun i hi => ?_
    unfold packENG b1
    repeat first | rw [cat_lo _ _ (by omega)] | rw [cat_hi _ _ (by omega)]
    congr 1; omega
  · refine ext_get _ _ _ fun i hi => ?_
    unfold packENG b1
    repeat first | rw [cat_lo _ _ (by omega)] | rw [cat_hi _ _ (by omega)]
    congr 1; omega
  · unfold packENG b1
    repeat first | rw [cat_lo _ _ (by omega)] | rw [cat_hi _ _ (by omega)]
    simp
  · unfold packENG b1
    repeat first | rw [cat_lo _ _ (by omega)] | rw [cat_hi _ _ (by omega)]
    simp
  · unfold packENG b1
    repeat first | rw [cat_lo _ _ (by omega)] | rw [cat_hi _ _ (by omega)]
    simp
  · unfold packENG b1
    repeat first | rw [cat_lo _ _ (by omega)] | rw [cat_hi _ _ (by omega)]
    simp
  · refine ext_get _ _ _ fun i hi => ?_
    unfold packENG b1
    repeat first | rw [cat_lo _ _ (by omega)] | rw [cat_hi _ _ (by omega)]
    congr 1; omega
  · unfold packENG b1
    repeat first | rw [cat_lo _ _ (by omega)] | rw [cat_hi _ _ (by omega)]
    simp
/-- The decoder on a packed word of the format. -/
theorem dec_ENG (o : BitVec 8) (f : ENG) : decode (packENG o f) = decodeENG o.toNat f := by
  unfold decode
  rw [fmt_ENG, opc_ENG, of_ENG]
  rfl
/-- Packing the fields of a word of the format gives the word back. -/
theorem pack_ENG (w : DWord) (h : fmtOf w = 5) : packENG (w.extractLsb' 0 8) (engOf w) = w := by
  have hf : w.extractLsb' 13 3 = 5#3 := BitVec.eq_of_toNat_eq h
  refine BitVec.eq_of_getLsbD_eq fun i hi => ?_
  unfold packENG b1 engOf guardOf dOf aOf bOf cOf
  rw [← hf]
  by_cases h0 : i < 8
  · rw [cat_lo _ _ (by omega)]
    exact get_ext w _ _ _ (by omega) (by omega)
  rw [cat_hi _ _ (by omega)]
  by_cases h8 : i < 12
  · rw [cat_lo _ _ (by omega)]
    exact get_ext w _ _ _ (by omega) (by omega)
  rw [cat_hi _ _ (by omega)]
  by_cases h12 : i < 13
  · rw [cat_lo _ _ (by omega)]
    exact get_bool w _ _ (by omega) (by omega)
  rw [cat_hi _ _ (by omega)]
  by_cases h13 : i < 16
  · rw [cat_lo _ _ (by omega)]
    exact get_ext w _ _ _ (by omega) (by omega)
  rw [cat_hi _ _ (by omega)]
  by_cases h16 : i < 24
  · rw [cat_lo _ _ (by omega)]
    exact get_ext w _ _ _ (by omega) (by omega)
  rw [cat_hi _ _ (by omega)]
  by_cases h24 : i < 32
  · rw [cat_lo _ _ (by omega)]
    exact get_ext w _ _ _ (by omega) (by omega)
  rw [cat_hi _ _ (by omega)]
  by_cases h32 : i < 40
  · rw [cat_lo _ _ (by omega)]
    exact get_ext w _ _ _ (by omega) (by omega)
  rw [cat_hi _ _ (by omega)]
  by_cases h40 : i < 48
  · rw [cat_lo _ _ (by omega)]
    exact get_ext w _ _ _ (by omega) (by omega)
  rw [cat_hi _ _ (by omega)]
  by_cases h48 : i < 54
  · rw [cat_lo _ _ (by omega)]
    exact get_ext w _ _ _ (by omega) (by omega)
  rw [cat_hi _ _ (by omega)]
  by_cases h54 : i < 56
  · rw [cat_lo _ _ (by omega)]
    exact get_ext w _ _ _ (by omega) (by omega)
  rw [cat_hi _ _ (by omega)]
  by_cases h56 : i < 57
  · rw [cat_lo _ _ (by omega)]
    exact get_bool w _ _ (by omega) (by omega)
  rw [cat_hi _ _ (by omega)]
  by_cases h57 : i < 58
  · rw [cat_lo _ _ (by omega)]
    exact get_bool w _ _ (by omega) (by omega)
  rw [cat_hi _ _ (by omega)]
  by_cases h58 : i < 59
  · rw [cat_lo _ _ (by omega)]
    exact get_bool w _ _ (by omega) (by omega)
  rw [cat_hi _ _ (by omega)]
  by_cases h59 : i < 60
  · rw [cat_lo _ _ (by omega)]
    exact get_bool w _ _ (by omega) (by omega)
  rw [cat_hi _ _ (by omega)]
  by_cases h60 : i < 63
  · rw [cat_lo _ _ (by omega)]
    exact get_ext w _ _ _ (by omega) (by omega)
  rw [cat_hi _ _ (by omega)]
  exact get_bool w _ _ (by omega) (by omega)

theorem opc_GR (o : BitVec 8) (f : GR) : opcOf (packGR o f) = o.toNat := by
  refine ext_get_nat _ _ _ fun i hi => ?_
  unfold packGR b1
  rw [cat_lo _ _ (by omega)]
  congr 1; omega
theorem fmt_GR (o : BitVec 8) (f : GR) : fmtOf (packGR o f) = 6 := by
  refine ext_get_nat _ _ 6#3 fun i hi => ?_
  unfold packGR b1
  repeat first | rw [cat_lo _ _ (by omega)] | rw [cat_hi _ _ (by omega)]
  congr 1; omega
theorem of_GR (o : BitVec 8) (f : GR) : grOf (packGR o f) = f := by
  obtain ⟨⟨gp, gn⟩, d, a, b, c, cur, dir, px, strict, sb, ord, scope, rsv⟩ := f
  simp only [grOf, guardOf, dOf, aOf, bOf, cOf, GR.mk.injEq, Guard.mk.injEq]
  refine ⟨⟨?_, ?_⟩, ?_, ?_, ?_, ?_, ?_, ?_, ?_, ?_, ?_, ?_, ?_, ?_⟩
  · refine ext_get _ _ _ fun i hi => ?_
    unfold packGR b1
    repeat first | rw [cat_lo _ _ (by omega)] | rw [cat_hi _ _ (by omega)]
    congr 1; omega
  · unfold packGR b1
    repeat first | rw [cat_lo _ _ (by omega)] | rw [cat_hi _ _ (by omega)]
    simp
  · refine ext_get _ _ _ fun i hi => ?_
    unfold packGR b1
    repeat first | rw [cat_lo _ _ (by omega)] | rw [cat_hi _ _ (by omega)]
    congr 1; omega
  · refine ext_get _ _ _ fun i hi => ?_
    unfold packGR b1
    repeat first | rw [cat_lo _ _ (by omega)] | rw [cat_hi _ _ (by omega)]
    congr 1; omega
  · refine ext_get _ _ _ fun i hi => ?_
    unfold packGR b1
    repeat first | rw [cat_lo _ _ (by omega)] | rw [cat_hi _ _ (by omega)]
    congr 1; omega
  · refine ext_get _ _ _ fun i hi => ?_
    unfold packGR b1
    repeat first | rw [cat_lo _ _ (by omega)] | rw [cat_hi _ _ (by omega)]
    congr 1; omega
  · refine ext_get _ _ _ fun i hi => ?_
    unfold packGR b1
    repeat first | rw [cat_lo _ _ (by omega)] | rw [cat_hi _ _ (by omega)]
    congr 1; omega
  · unfold packGR b1
    repeat first | rw [cat_lo _ _ (by omega)] | rw [cat_hi _ _ (by omega)]
    simp
  · refine ext_get _ _ _ fun i hi => ?_
    unfold packGR b1
    repeat first | rw [cat_lo _ _ (by omega)] | rw [cat_hi _ _ (by omega)]
    congr 1; omega
  · unfold packGR b1
    repeat first | rw [cat_lo _ _ (by omega)] | rw [cat_hi _ _ (by omega)]
    simp
  · unfold packGR b1
    repeat first | rw [cat_lo _ _ (by omega)] | rw [cat_hi _ _ (by omega)]
    simp
  · refine ext_get _ _ _ fun i hi => ?_
    unfold packGR b1
    repeat first | rw [cat_lo _ _ (by omega)] | rw [cat_hi _ _ (by omega)]
    congr 1; omega
  · refine ext_get _ _ _ fun i hi => ?_
    unfold packGR b1
    repeat first | rw [cat_lo _ _ (by omega)] | rw [cat_hi _ _ (by omega)]
    congr 1; omega
  · unfold packGR b1
    repeat first | rw [cat_lo _ _ (by omega)] | rw [cat_hi _ _ (by omega)]
    simp
/-- The decoder on a packed word of the format. -/
theorem dec_GR (o : BitVec 8) (f : GR) : decode (packGR o f) = decodeGR o.toNat f := by
  unfold decode
  rw [fmt_GR, opc_GR, of_GR]
  rfl
/-- Packing the fields of a word of the format gives the word back. -/
theorem pack_GR (w : DWord) (h : fmtOf w = 6) : packGR (w.extractLsb' 0 8) (grOf w) = w := by
  have hf : w.extractLsb' 13 3 = 6#3 := BitVec.eq_of_toNat_eq h
  refine BitVec.eq_of_getLsbD_eq fun i hi => ?_
  unfold packGR b1 grOf guardOf dOf aOf bOf cOf
  rw [← hf]
  by_cases h0 : i < 8
  · rw [cat_lo _ _ (by omega)]
    exact get_ext w _ _ _ (by omega) (by omega)
  rw [cat_hi _ _ (by omega)]
  by_cases h8 : i < 12
  · rw [cat_lo _ _ (by omega)]
    exact get_ext w _ _ _ (by omega) (by omega)
  rw [cat_hi _ _ (by omega)]
  by_cases h12 : i < 13
  · rw [cat_lo _ _ (by omega)]
    exact get_bool w _ _ (by omega) (by omega)
  rw [cat_hi _ _ (by omega)]
  by_cases h13 : i < 16
  · rw [cat_lo _ _ (by omega)]
    exact get_ext w _ _ _ (by omega) (by omega)
  rw [cat_hi _ _ (by omega)]
  by_cases h16 : i < 24
  · rw [cat_lo _ _ (by omega)]
    exact get_ext w _ _ _ (by omega) (by omega)
  rw [cat_hi _ _ (by omega)]
  by_cases h24 : i < 32
  · rw [cat_lo _ _ (by omega)]
    exact get_ext w _ _ _ (by omega) (by omega)
  rw [cat_hi _ _ (by omega)]
  by_cases h32 : i < 40
  · rw [cat_lo _ _ (by omega)]
    exact get_ext w _ _ _ (by omega) (by omega)
  rw [cat_hi _ _ (by omega)]
  by_cases h40 : i < 48
  · rw [cat_lo _ _ (by omega)]
    exact get_ext w _ _ _ (by omega) (by omega)
  rw [cat_hi _ _ (by omega)]
  by_cases h48 : i < 51
  · rw [cat_lo _ _ (by omega)]
    exact get_ext w _ _ _ (by omega) (by omega)
  rw [cat_hi _ _ (by omega)]
  by_cases h51 : i < 52
  · rw [cat_lo _ _ (by omega)]
    exact get_bool w _ _ (by omega) (by omega)
  rw [cat_hi _ _ (by omega)]
  by_cases h52 : i < 56
  · rw [cat_lo _ _ (by omega)]
    exact get_ext w _ _ _ (by omega) (by omega)
  rw [cat_hi _ _ (by omega)]
  by_cases h56 : i < 57
  · rw [cat_lo _ _ (by omega)]
    exact get_bool w _ _ (by omega) (by omega)
  rw [cat_hi _ _ (by omega)]
  by_cases h57 : i < 58
  · rw [cat_lo _ _ (by omega)]
    exact get_bool w _ _ (by omega) (by omega)
  rw [cat_hi _ _ (by omega)]
  by_cases h58 : i < 60
  · rw [cat_lo _ _ (by omega)]
    exact get_ext w _ _ _ (by omega) (by omega)
  rw [cat_hi _ _ (by omega)]
  by_cases h60 : i < 63
  · rw [cat_lo _ _ (by omega)]
    exact get_ext w _ _ _ (by omega) (by omega)
  rw [cat_hi _ _ (by omega)]
  exact get_bool w _ _ (by omega) (by omega)

theorem opc_SYS (o : BitVec 8) (f : SYS) : opcOf (packSYS o f) = o.toNat := by
  refine ext_get_nat _ _ _ fun i hi => ?_
  unfold packSYS b1
  rw [cat_lo _ _ (by omega)]
  congr 1; omega
theorem fmt_SYS (o : BitVec 8) (f : SYS) : fmtOf (packSYS o f) = 7 := by
  refine ext_get_nat _ _ 7#3 fun i hi => ?_
  unfold packSYS b1
  repeat first | rw [cat_lo _ _ (by omega)] | rw [cat_hi _ _ (by omega)]
  congr 1; omega
theorem of_SYS (o : BitVec 8) (f : SYS) : sysOf (packSYS o f) = f := by
  obtain ⟨⟨gp, gn⟩, d, a, sel, sa, sd, imm⟩ := f
  simp only [sysOf, guardOf, dOf, aOf, SYS.mk.injEq, Guard.mk.injEq]
  refine ⟨⟨?_, ?_⟩, ?_, ?_, ?_, ?_, ?_, ?_⟩
  · refine ext_get _ _ _ fun i hi => ?_
    unfold packSYS b1
    repeat first | rw [cat_lo _ _ (by omega)] | rw [cat_hi _ _ (by omega)]
    congr 1; omega
  · unfold packSYS b1
    repeat first | rw [cat_lo _ _ (by omega)] | rw [cat_hi _ _ (by omega)]
    simp
  · refine ext_get _ _ _ fun i hi => ?_
    unfold packSYS b1
    repeat first | rw [cat_lo _ _ (by omega)] | rw [cat_hi _ _ (by omega)]
    congr 1; omega
  · refine ext_get _ _ _ fun i hi => ?_
    unfold packSYS b1
    repeat first | rw [cat_lo _ _ (by omega)] | rw [cat_hi _ _ (by omega)]
    congr 1; omega
  · refine ext_get _ _ _ fun i hi => ?_
    unfold packSYS b1
    repeat first | rw [cat_lo _ _ (by omega)] | rw [cat_hi _ _ (by omega)]
    congr 1; omega
  · unfold packSYS b1
    repeat first | rw [cat_lo _ _ (by omega)] | rw [cat_hi _ _ (by omega)]
    simp
  · unfold packSYS b1
    repeat first | rw [cat_lo _ _ (by omega)] | rw [cat_hi _ _ (by omega)]
    simp
  · refine ext_get _ _ _ fun i hi => ?_
    unfold packSYS b1
    repeat first | rw [cat_lo _ _ (by omega)] | rw [cat_hi _ _ (by omega)]
    congr 1; omega
/-- The decoder on a packed word of the format. -/
theorem dec_SYS (o : BitVec 8) (f : SYS) : decode (packSYS o f) = decodeSYS o.toNat f := by
  unfold decode
  rw [fmt_SYS, opc_SYS, of_SYS]
  rfl
/-- Packing the fields of a word of the format gives the word back. -/
theorem pack_SYS (w : DWord) (h : fmtOf w = 7) : packSYS (w.extractLsb' 0 8) (sysOf w) = w := by
  have hf : w.extractLsb' 13 3 = 7#3 := BitVec.eq_of_toNat_eq h
  refine BitVec.eq_of_getLsbD_eq fun i hi => ?_
  unfold packSYS b1 sysOf guardOf dOf aOf
  rw [← hf]
  by_cases h0 : i < 8
  · rw [cat_lo _ _ (by omega)]
    exact get_ext w _ _ _ (by omega) (by omega)
  rw [cat_hi _ _ (by omega)]
  by_cases h8 : i < 12
  · rw [cat_lo _ _ (by omega)]
    exact get_ext w _ _ _ (by omega) (by omega)
  rw [cat_hi _ _ (by omega)]
  by_cases h12 : i < 13
  · rw [cat_lo _ _ (by omega)]
    exact get_bool w _ _ (by omega) (by omega)
  rw [cat_hi _ _ (by omega)]
  by_cases h13 : i < 16
  · rw [cat_lo _ _ (by omega)]
    exact get_ext w _ _ _ (by omega) (by omega)
  rw [cat_hi _ _ (by omega)]
  by_cases h16 : i < 24
  · rw [cat_lo _ _ (by omega)]
    exact get_ext w _ _ _ (by omega) (by omega)
  rw [cat_hi _ _ (by omega)]
  by_cases h24 : i < 32
  · rw [cat_lo _ _ (by omega)]
    exact get_ext w _ _ _ (by omega) (by omega)
  rw [cat_hi _ _ (by omega)]
  by_cases h32 : i < 38
  · rw [cat_lo _ _ (by omega)]
    exact get_ext w _ _ _ (by omega) (by omega)
  rw [cat_hi _ _ (by omega)]
  by_cases h38 : i < 39
  · rw [cat_lo _ _ (by omega)]
    exact get_bool w _ _ (by omega) (by omega)
  rw [cat_hi _ _ (by omega)]
  by_cases h39 : i < 40
  · rw [cat_lo _ _ (by omega)]
    exact get_bool w _ _ (by omega) (by omega)
  rw [cat_hi _ _ (by omega)]
  exact get_ext w _ _ _ (by omega) (by omega)

end Sys2Proof
end

