-- ==== Sys2Proof/Laws/Inv.lean ====
section
/-! SUPPORT. Every operation that answers a state keeps the invariant. -/

namespace Sys2Proof.Machine

theorem mapPut_wf {m : Map Byte} (h : Memory.wf m = true) (a : Nat) (bs : List Byte) : Memory.wf (mapPut m a bs) = true := by
  induction bs generalizing m a with
  | nil => exact h
  | cons b bs ih => exact ih (Map.wfD_setD a b h) (a + 1)

theorem filter_wf {m : Map Byte} (h : Memory.wf m = true) (p : Nat × Byte → Bool) : Memory.wf (m.filter p) = true :=
  Map.wfD_filter p h

/-- A field that is no byte store and no management register may change. -/
theorem inv_of {s t : State} (h : Inv s) (a : t.mem = s.mem) (b : t.plain = s.plain) (c : t.hostMem = s.hostMem)
    (d : t.mg = s.mg) (e : t.ckpt = s.ckpt) : Inv t := by
  unfold Inv; rw [a, b, c, d, e]; exact h

/-- A record update that touches no byte store and no management register. -/
theorem inv_mk {s : State} {tape : List Move} {cur : Nat} {tick : Nat} {free : Nat} {poison : Map Bool} {plainPoison
    : Map Bool} {rels : Map Rel} {acc : Map Word} {accPoison : Map Bool} {paths : Map Path} {gangs : Map Gang} {crews :
    Map Crew} {pre : List PreCrew} {runs : Map Run} {nextRun : Nat} {stampCnt : Nat} {nextUid : Nat} {lq : Map (List
    (List Byte))} {spill : Map (List (List Byte))} {spillCnt : Map Nat} {stalled : List (Nat × List Byte)} {arrivals :
    List Nat} {deal : List Nat} {outOfService : List Nat} {scanning : Option Nat} {eng : Map EngOp} {nextEng : Nat}
    {locks : List Lock} {tileQ : Map (List Nat)} {resv : Map (List Resv)} {granted : Map Nat} {prism : Map (List Nat)}
    {binds : Map Binding} {xlats : List Xlat} {dirty : List Dirty} {shoots : List Shoot} {harvs : List Harv} {reclaims :
    List Reclaim} {svcs : List Svc} {nextTag : Nat} {bounce : Map Nat} {pool : Map Nat} {migr : Option Migr} {migrQ :
    List (List Byte)} {zports : Map ZPort} {peerOps : List PeerOp} {nextPeerTag : Nat} {ctrs : Map Ctr} {lens : Map Nat}
    {lensTags : List LensTag} {exits : Map Exited} {devQ : List DevPut} {hostRead : List Byte} {hostEp : Bool} (h : Inv
    s) : Inv (State.mk tape cur tick free s.mem poison s.plain plainPoison rels acc accPoison s.hostMem paths gangs
    crews pre runs nextRun stampCnt nextUid lq spill spillCnt stalled arrivals deal outOfService scanning eng nextEng
    locks tileQ resv granted prism binds xlats dirty shoots harvs reclaims svcs nextTag bounce pool migr migrQ zports
    peerOps nextPeerTag ctrs lens lensTags exits devQ s.ckpt hostRead hostEp s.mg) := h

/-- A record update that touches no byte store and leaves the management registers legal. -/
theorem inv_mk_mg {s : State} {tape : List Move} {cur : Nat} {tick : Nat} {free : Nat} {poison : Map Bool}
    {plainPoison : Map Bool} {rels : Map Rel} {acc : Map Word} {accPoison : Map Bool} {paths : Map Path} {gangs : Map
    Gang} {crews : Map Crew} {pre : List PreCrew} {runs : Map Run} {nextRun : Nat} {stampCnt : Nat} {nextUid : Nat} {lq
    : Map (List (List Byte))} {spill : Map (List (List Byte))} {spillCnt : Map Nat} {stalled : List (Nat × List Byte)}
    {arrivals : List Nat} {deal : List Nat} {outOfService : List Nat} {scanning : Option Nat} {eng : Map EngOp} {nextEng
    : Nat} {locks : List Lock} {tileQ : Map (List Nat)} {resv : Map (List Resv)} {granted : Map Nat} {prism : Map (List
    Nat)} {binds : Map Binding} {xlats : List Xlat} {dirty : List Dirty} {shoots : List Shoot} {harvs : List Harv}
    {reclaims : List Reclaim} {svcs : List Svc} {nextTag : Nat} {bounce : Map Nat} {pool : Map Nat} {migr : Option Migr}
    {migrQ : List (List Byte)} {zports : Map ZPort} {peerOps : List PeerOp} {nextPeerTag : Nat} {ctrs : Map Ctr} {lens :
    Map Nat} {lensTags : List LensTag} {exits : Map Exited} {devQ : List DevPut} {hostRead : List Byte} {hostEp : Bool}
    {m : Mgmt} (h : Inv s) (k : m.ok) : Inv (State.mk tape cur tick free s.mem poison s.plain plainPoison rels acc
    accPoison s.hostMem paths gangs crews pre runs nextRun stampCnt nextUid lq spill spillCnt stalled arrivals deal
    outOfService scanning eng nextEng locks tileQ resv granted prism binds xlats dirty shoots harvs reclaims svcs
    nextTag bounce pool migr migrQ zports peerOps nextPeerTag ctrs lens lensTags exits devQ s.ckpt hostRead hostEp m) :=
    ⟨h.1, h.2.1, h.2.2.1, k, h.2.2.2.2⟩

theorem ok_of {m m' : Mgmt} (k : m.ok) (a : m'.clkStep = m.clkStep) (b : m'.demThermal = m.demThermal)
    (c : m'.demPower = m.demPower) (d : m'.clkCeil = m.clkCeil) (e : m'.pwrCap = m.pwrCap)
    (f : m'.staging = m.staging := by rfl) (g : m'.flash = m.flash := by rfl) (h : m'.fwCopy = m.fwCopy := by rfl) : m'.ok := by
  unfold Mgmt.ok; rw [a, b, c, d, e, f, g, h]; exact k

theorem inv_onMg {s : State} (h : Inv s) (f : Mgmt → Mgmt) (k : ∀ m : Mgmt, m.ok → (f m).ok) : Inv (onMg s f) :=
  ⟨h.1, h.2.1, h.2.2.1, k _ h.2.2.2.1, h.2.2.2.2⟩

theorem inv_host {s : State} (h : Inv s) {m : Map Byte} (w : Memory.wf m = true) (v : List Svc) :
    Inv { s with hostMem := m, svcs := v } := ⟨h.1, h.2.1, w, h.2.2.2⟩

theorem inv_foldl {α : Type} (xs : List α) (f : State → α → State) (k : ∀ t x, Inv t → Inv (f t x)) {s : State} (h : Inv s) :
    Inv (xs.foldl f s) := by
  induction xs generalizing s with
  | nil => exact h
  | cons x xs ih => exact ih (k s x h)

theorem inv_ite {p : Prop} [Decidable p] {a b : State} (ha : p → Inv a) (hb : ¬ p → Inv b) : Inv (if p then a else b) := by
  split
  · exact ha ‹_›
  · exact hb ‹_›

/-- A fold whose state is the second part of the accumulator. -/
theorem inv_foldl_snd {α β : Type} (xs : List α) (f : β × State → α → β × State) (k : ∀ r x, Inv r.2 → Inv (f r x).2)
    {r : β × State} (h : Inv r.2) : Inv (xs.foldl f r).2 := by
  induction xs generalizing r with
  | nil => exact h
  | cons x xs ih => exact ih (k r x h)

theorem inv_foldlM {α : Type} (xs : List α) (f : State → α → Option State) (k : ∀ t x u, Inv t → f t x = some u → Inv u)
    {s t : State} (h : Inv s) (e : xs.foldlM f s = some t) : Inv t := by
  induction xs generalizing s with
  | nil => cases e; exact h
  | cons x xs ih =>
    simp only [List.foldlM_cons, Option.bind_eq_bind, Option.bind_eq_some_iff] at e
    obtain ⟨u, e1, e2⟩ := e
    exact ih (k s x u h e1) e2

theorem foldl_wf {α : Type} (xs : List α) (f : Map Byte → α → Map Byte) (k : ∀ m x, Memory.wf m = true → Memory.wf (f m x) = true)
    {m : Map Byte} (h : Memory.wf m = true) : Memory.wf (xs.foldl f m) = true := by
  induction xs generalizing m with
  | nil => exact h
  | cons x xs ih => exact ih (k m x h)

/-- Listing bytes that are not what an unlisted address reads as keeps the canonical form. -/
theorem foldl_put_wf (xs : Map Byte) (key : Nat × Byte → Nat) (k : ∀ e ∈ xs, e.2 ≠ Config.emptyByte) {m : Map Byte}
    (h : Memory.wf m = true) : Memory.wf (xs.foldl (fun a e => Map.put a (key e) e.2) m) = true := by
  induction xs generalizing m with
  | nil => exact h
  | cons x xs ih =>
    refine ih (fun e he => k e (List.mem_cons_of_mem _ he)) ?_
    have hx := k x (List.mem_cons_self ..)
    have := Map.wfD_setD (d := Config.emptyByte) (key x) x.2 h
    have e : Map.setD m (key x) x.2 Config.emptyByte = Map.put m (key x) x.2 := by unfold Map.setD; rw [if_neg hx]
    rw [e] at this
    exact this

theorem inv_ite_fst {β : Type} {p : Prop} [Decidable p] {a b : State × β} (ha : p → Inv a.1) (hb : ¬ p → Inv b.1) :
    Inv (if p then a else b).1 := by
  split
  · exact ha ‹_›
  · exact hb ‹_›

theorem inv_getD {o : Option State} {s : State} (h : Inv s) (k : ∀ t, o = some t → Inv t) : Inv (o.getD s) := by
  cases o with
  | none => exact h
  | some t => exact k t rfl

theorem fst_inv {β : Type} {a : State × β} {s : State} {x : β} (e : a = (s, x)) (h : Inv a.1) : Inv s := by
  subst e; exact h

theorem snd_inv {β : Type} {a : β × State} {s : State} {x : β} (e : a = (x, s)) (h : Inv a.2) : Inv s := by
  subst e; exact h

end Sys2Proof.Machine
end

