-- ==== Sys2Proof/Laws/Keeps.lean ====
section
/-! SUPPORT. Every operation of the machine that answers a state keeps the invariant. -/

set_option linter.unusedVariables false
set_option Elab.async false

namespace Sys2Proof.Machine

theorem onGang_inv {s : State} (h : Inv s) (k : Nat) (f : Gang → Gang) : Inv (onGang s k f) := by
  unfold onGang
  try dsimp only
  repeat' (first | with_reducible assumption | with_reducible apply inv_foldl | with_reducible apply inv_foldl_snd | with_reducible intro _ _ _ | with_reducible intro _ _ | (with_reducible apply inv_mk; first | with_reducible assumption | with_reducible apply inv_foldl | with_reducible apply inv_foldl_snd | with_reducible intro _ _ _ | with_reducible intro _ _ | split) | split)

theorem onPath_inv {s : State} (h : Inv s) (k : Nat) (f : Path → Path) : Inv (onPath s k f) := by
  unfold onPath
  try dsimp only
  repeat' (first | with_reducible assumption | with_reducible apply inv_foldl | with_reducible apply inv_foldl_snd | with_reducible intro _ _ _ | with_reducible intro _ _ | (with_reducible apply inv_mk; first | with_reducible assumption | with_reducible apply inv_foldl | with_reducible apply inv_foldl_snd | with_reducible intro _ _ _ | with_reducible intro _ _ | split) | split)

theorem onCrew_inv {s : State} (h : Inv s) (k : Nat) (f : Crew → Crew) : Inv (onCrew s k f) := by
  unfold onCrew
  try dsimp only
  repeat' (first | with_reducible assumption | with_reducible apply inv_foldl | with_reducible apply inv_foldl_snd | with_reducible intro _ _ _ | with_reducible intro _ _ | (with_reducible apply inv_mk; first | with_reducible assumption | with_reducible apply inv_foldl | with_reducible apply inv_foldl_snd | with_reducible intro _ _ _ | with_reducible intro _ _ | split) | split)

theorem onRun_inv {s : State} (h : Inv s) (k : Nat) (f : Run → Run) : Inv (onRun s k f) := by
  unfold onRun
  try dsimp only
  repeat' (first | with_reducible assumption | with_reducible apply inv_foldl | with_reducible apply inv_foldl_snd | with_reducible intro _ _ _ | with_reducible intro _ _ | (with_reducible apply inv_mk; first | with_reducible assumption | with_reducible apply inv_foldl | with_reducible apply inv_foldl_snd | with_reducible intro _ _ _ | with_reducible intro _ _ | split) | split)

theorem setPath_inv {s : State} (h : Inv s) (k : Nat) (p : Path) : Inv (setPath s k p) := by
  unfold setPath
  try dsimp only
  repeat' (first | with_reducible assumption | with_reducible apply inv_foldl | with_reducible apply inv_foldl_snd | with_reducible intro _ _ _ | with_reducible intro _ _ | (with_reducible apply inv_mk; first | with_reducible assumption | with_reducible apply inv_foldl | with_reducible apply inv_foldl_snd | with_reducible intro _ _ _ | with_reducible intro _ _ | split) | split)

theorem delPath_inv {s : State} (h : Inv s) (k : Nat) : Inv (delPath s k) := by
  unfold delPath
  try dsimp only
  repeat' (first | with_reducible assumption | with_reducible apply inv_foldl | with_reducible apply inv_foldl_snd | with_reducible intro _ _ _ | with_reducible intro _ _ | (with_reducible apply inv_mk; first | with_reducible assumption | with_reducible apply inv_foldl | with_reducible apply inv_foldl_snd | with_reducible intro _ _ _ | with_reducible intro _ _ | split) | split)

theorem putCtr_inv {s : State} (h : Inv s) (k : Nat) (c : Ctr) : Inv (putCtr s k c) := by
  unfold putCtr
  try dsimp only
  repeat' (first | with_reducible assumption | with_reducible apply inv_foldl | with_reducible apply inv_foldl_snd | with_reducible intro _ _ _ | with_reducible intro _ _ | (with_reducible apply inv_mk; first | with_reducible assumption | with_reducible apply inv_foldl | with_reducible apply inv_foldl_snd | with_reducible intro _ _ _ | with_reducible intro _ _ | split) | split)

theorem bumpCtr_inv {s : State} (h : Inv s) (k : Nat) (n : Nat) : Inv (bumpCtr s k n) := by
  unfold bumpCtr
  try dsimp only
  repeat' (first | with_reducible assumption | with_reducible apply putCtr_inv | with_reducible apply inv_foldl | with_reducible apply inv_foldl_snd | with_reducible intro _ _ _ | with_reducible intro _ _ | (with_reducible apply inv_mk; first | with_reducible assumption | with_reducible apply putCtr_inv | with_reducible apply inv_foldl | with_reducible apply inv_foldl_snd | with_reducible intro _ _ _ | with_reducible intro _ _ | split) | split)

theorem bumpRange_inv {s : State} (h : Inv s) (lo : Nat) (hi : Nat) (code : Nat) (n : Nat) (q : Option Nat) : Inv
    (bumpRange s lo hi code n q) := by
  unfold bumpRange
  try dsimp only
  repeat' (first | with_reducible assumption | with_reducible apply bumpCtr_inv | with_reducible apply inv_foldl | with_reducible apply inv_foldl_snd | with_reducible intro _ _ _ | with_reducible intro _ _ | (with_reducible apply inv_mk; first | with_reducible assumption | with_reducible apply bumpCtr_inv | with_reducible apply inv_foldl | with_reducible apply inv_foldl_snd | with_reducible intro _ _ _ | with_reducible intro _ _ | split) | split)

theorem bumpCore_inv {s : State} (h : Inv s) (core : Nat) (q : Nat) (code : Nat) (n : Nat) : Inv (bumpCore s core q
    code n) := by
  unfold bumpCore
  try dsimp only
  repeat' (first | with_reducible assumption | with_reducible apply bumpRange_inv | with_reducible apply inv_foldl | with_reducible apply inv_foldl_snd | with_reducible intro _ _ _ | with_reducible intro _ _ | (with_reducible apply inv_mk; first | with_reducible assumption | with_reducible apply bumpRange_inv | with_reducible apply inv_foldl | with_reducible apply inv_foldl_snd | with_reducible intro _ _ _ | with_reducible intro _ _ | split) | split)

theorem bumpDie_inv {s : State} (h : Inv s) (die : Nat) (code : Nat) (n : Nat) : Inv (bumpDie s die code n) := by
  unfold bumpDie
  try dsimp only
  repeat' (first | with_reducible assumption | with_reducible apply bumpRange_inv | with_reducible apply inv_foldl | with_reducible apply inv_foldl_snd | with_reducible intro _ _ _ | with_reducible intro _ _ | (with_reducible apply inv_mk; first | with_reducible assumption | with_reducible apply bumpRange_inv | with_reducible apply inv_foldl | with_reducible apply inv_foldl_snd | with_reducible intro _ _ _ | with_reducible intro _ _ | split) | split)

theorem signal_inv {s : State} (h : Inv s) (v : Nat) : Inv (signal s v) := by
  unfold signal
  try dsimp only
  repeat' (first | with_reducible assumption | ((with_reducible apply inv_onMg); case k => exact fun _ k => ok_of k rfl rfl rfl rfl rfl) | with_reducible apply inv_foldl | with_reducible apply inv_foldl_snd | with_reducible intro _ _ _ | with_reducible intro _ _ | (with_reducible apply inv_mk; first | with_reducible assumption | ((with_reducible apply inv_onMg); case k => exact fun _ k => ok_of k rfl rfl rfl rfl rfl) | with_reducible apply inv_foldl | with_reducible apply inv_foldl_snd | with_reducible intro _ _ _ | with_reducible intro _ _ | split) | split)

theorem useFree_inv {s : State} (h : Inv s)  : Inv (useFree s) := by
  unfold useFree
  try dsimp only
  repeat' (first | with_reducible assumption | with_reducible apply inv_foldl | with_reducible apply inv_foldl_snd | with_reducible intro _ _ _ | with_reducible intro _ _ | (with_reducible apply inv_mk; first | with_reducible assumption | with_reducible apply inv_foldl | with_reducible apply inv_foldl_snd | with_reducible intro _ _ _ | with_reducible intro _ _ | split) | split)

theorem dropRels_inv {s : State} (h : Inv s) (l : Loc) (n : Nat) : Inv (dropRels s l n) := by
  unfold dropRels
  try dsimp only
  repeat' (first | with_reducible assumption | with_reducible apply inv_foldl | with_reducible apply inv_foldl_snd | with_reducible intro _ _ _ | with_reducible intro _ _ | (with_reducible apply inv_mk; first | with_reducible assumption | with_reducible apply inv_foldl | with_reducible apply inv_foldl_snd | with_reducible intro _ _ _ | with_reducible intro _ _ | split) | split)

theorem dropRel_inv {s : State} (h : Inv s) (l : Loc) : Inv (dropRel s l) := by
  unfold dropRel
  try dsimp only
  repeat' (first | with_reducible assumption | with_reducible apply inv_foldl | with_reducible apply inv_foldl_snd | with_reducible intro _ _ _ | with_reducible intro _ _ | (with_reducible apply inv_mk; first | with_reducible assumption | with_reducible apply inv_foldl | with_reducible apply inv_foldl_snd | with_reducible intro _ _ _ | with_reducible intro _ _ | split) | split)

theorem relWrite_inv {s : State} (h : Inv s) (keys : List Nat) (h : Option Head) (atomic : Bool) : Inv (relWrite s
    keys h atomic) := by
  unfold relWrite
  try dsimp only
  repeat' (first | with_reducible assumption | with_reducible apply inv_foldl | with_reducible apply inv_foldl_snd | with_reducible intro _ _ _ | with_reducible intro _ _ | (with_reducible apply inv_mk; first | with_reducible assumption | with_reducible apply inv_foldl | with_reducible apply inv_foldl_snd | with_reducible intro _ _ _ | with_reducible intro _ _ | split) | split)

theorem memPut_inv {s : State} (h : Inv s) (a : Nat) (bs : List Byte) : Inv (memPut s a bs) :=
  dropRels_inv (s := { s with mem := mapPut s.mem a bs }) ⟨mapPut_wf h.1 a bs, h.2⟩ _ _

theorem plainPut_inv {s : State} (h : Inv s) (a : Nat) (bs : List Byte) : Inv (plainPut s a bs) :=
  dropRels_inv (s := { s with plain := mapPut s.plain a bs }) ⟨h.1, mapPut_wf h.2.1 a bs, h.2.2⟩ _ _

theorem putEntry_inv {s : State} (h : Inv s) (oid : Nat) (off : Nat) (bs : List Byte) : Inv (putEntry s oid off bs) :=
    by
  unfold putEntry
  try dsimp only
  repeat' (first | with_reducible assumption | with_reducible apply memPut_inv | with_reducible apply inv_foldl | with_reducible apply inv_foldl_snd | with_reducible intro _ _ _ | with_reducible intro _ _ | (with_reducible apply inv_mk; first | with_reducible assumption | with_reducible apply memPut_inv | with_reducible apply inv_foldl | with_reducible apply inv_foldl_snd | with_reducible intro _ _ _ | with_reducible intro _ _ | split) | split)

theorem setByte_inv {s : State} (h : Inv s) (b : Byte) (y0 : Loc) : Inv (setByte s b y0) := by
  cases y0 with
  | plain o => exact ⟨h.1, Map.wfD_setD o b h.2.1, h.2.2⟩
  | dev x => exact ⟨Map.wfD_setD x b h.1, h.2⟩
  | host x => exact ⟨h.1, h.2.1, Map.wfD_setD x b h.2.2.1, h.2.2.2⟩
  | none => exact h

theorem writeByte_inv {s : State} (h : Inv s) (b : Byte) (l : Loc) : Inv (writeByte s b l) := by
  unfold writeByte
  try dsimp only
  repeat' (first | with_reducible assumption | with_reducible apply dropRel_inv | with_reducible apply setByte_inv | with_reducible apply inv_foldl | with_reducible apply inv_foldl_snd | with_reducible intro _ _ _ | with_reducible intro _ _ | (with_reducible apply inv_mk; first | with_reducible assumption | with_reducible apply dropRel_inv | with_reducible apply setByte_inv | with_reducible apply inv_foldl | with_reducible apply inv_foldl_snd | with_reducible intro _ _ _ | with_reducible intro _ _ | split) | split)

theorem setPoison_inv {s : State} (h : Inv s) (b : Bool) (y0 : Loc) : Inv (setPoison s b y0) := by
  unfold setPoison
  try dsimp only
  repeat' (first | with_reducible assumption | with_reducible apply inv_foldl | with_reducible apply inv_foldl_snd | with_reducible intro _ _ _ | with_reducible intro _ _ | (with_reducible apply inv_mk; first | with_reducible assumption | with_reducible apply inv_foldl | with_reducible apply inv_foldl_snd | with_reducible intro _ _ _ | with_reducible intro _ _ | split) | split)

theorem noteSpread_inv {s : State} (h : Inv s) (peer : Nat) (a : Nat) (port : Nat) : Inv (noteSpread s peer a port) :=
    by
  unfold noteSpread
  try dsimp only
  repeat' (first | with_reducible assumption | ((with_reducible apply inv_onMg); case k => exact fun _ k => ok_of k rfl rfl rfl rfl rfl) | with_reducible apply inv_foldl | with_reducible apply inv_foldl_snd | with_reducible intro _ _ _ | with_reducible intro _ _ | (with_reducible apply inv_mk; first | with_reducible assumption | ((with_reducible apply inv_onMg); case k => exact fun _ k => ok_of k rfl rfl rfl rfl rfl) | with_reducible apply inv_foldl | with_reducible apply inv_foldl_snd | with_reducible intro _ _ _ | with_reducible intro _ _ | split) | split)

theorem touch_inv {s : State} (h : Inv s) (w : Who) (a : Nat) (write : Bool) : Inv (touch s w a write) := by
  unfold touch
  try dsimp only
  repeat' (first | with_reducible assumption | with_reducible apply bumpCore_inv | with_reducible apply bumpDie_inv | with_reducible apply inv_foldl | with_reducible apply inv_foldl_snd | with_reducible intro _ _ _ | with_reducible intro _ _ | (with_reducible apply inv_mk; first | with_reducible assumption | with_reducible apply bumpCore_inv | with_reducible apply bumpDie_inv | with_reducible apply inv_foldl | with_reducible apply inv_foldl_snd | with_reducible intro _ _ _ | with_reducible intro _ _ | split) | split)

theorem storeBytes_inv {s : State} (h : Inv s) (w : Who) (a : Nat) (y0 : List Byte) : Inv (storeBytes s w a y0) := by
  induction y0 generalizing s a with
  | nil => exact h
  | cons b bs ih => exact ih (writeByte_inv h ..) _

theorem storeLoc_inv {s : State} (h : Inv s) (l : Loc) (y0 : List Byte) : Inv (storeLoc s l y0) := by
  induction y0 generalizing s l with
  | nil => exact h
  | cons b bs ih => exact ih (writeByte_inv h ..) _

theorem setObjFlag_inv {s : State} (h : Inv s) (oid : Nat) (bit : Nat) (b : Bool) : Inv (setObjFlag s oid bit b) := by
  unfold setObjFlag
  try dsimp only
  repeat' (first | with_reducible assumption | with_reducible apply putEntry_inv | with_reducible apply inv_foldl | with_reducible apply inv_foldl_snd | with_reducible intro _ _ _ | with_reducible intro _ _ | (with_reducible apply inv_mk; first | with_reducible assumption | with_reducible apply putEntry_inv | with_reducible apply inv_foldl | with_reducible apply inv_foldl_snd | with_reducible intro _ _ _ | with_reducible intro _ _ | split) | split)

theorem poisonByte_inv {s : State} (h : Inv s) (w : Who) (a : Nat) : Inv (poisonByte s w a) := by
  unfold poisonByte
  try dsimp only
  repeat' (first | with_reducible assumption | with_reducible apply setPoison_inv | with_reducible apply setObjFlag_inv | with_reducible apply inv_foldl | with_reducible apply inv_foldl_snd | with_reducible intro _ _ _ | with_reducible intro _ _ | (with_reducible apply inv_mk; first | with_reducible assumption | with_reducible apply setPoison_inv | with_reducible apply setObjFlag_inv | with_reducible apply inv_foldl | with_reducible apply inv_foldl_snd | with_reducible intro _ _ _ | with_reducible intro _ _ | split) | split)

theorem takeFrame_inv {s : State} (h : Inv s) (die : Nat) : ∀ x, (takeFrame s die) = some x → Inv x.2 := by
  intro x e
  obtain ⟨p, -, e⟩ := List.exists_of_findSome?_eq_some e
  dsimp only at e
  split at e
  · cases e; exact h
  · cases e

theorem giveFrames_inv {s : State} (h : Inv s) (f : Nat) (n : Nat) : Inv (giveFrames s f n) := by
  unfold giveFrames
  try dsimp only
  repeat' (first | with_reducible assumption | with_reducible apply inv_foldl | with_reducible apply inv_foldl_snd | with_reducible intro _ _ _ | with_reducible intro _ _ | (with_reducible apply inv_mk; first | with_reducible assumption | with_reducible apply inv_foldl | with_reducible apply inv_foldl_snd | with_reducible intro _ _ _ | with_reducible intro _ _ | split) | split)

theorem takeFrameNear_inv {s : State} (h : Inv s) (die : Nat) : ∀ x, (takeFrameNear s die) = some x → Inv x.2 := by
  intro x e
  unfold takeFrameNear at e
  split at e
  · rename_i e'
    cases e
    exact takeFrame_inv h _ _ e'
  · obtain ⟨d, -, e⟩ := List.exists_of_findSome?_eq_some e
    exact takeFrame_inv h _ _ e

theorem putExt_inv {s : State} (h : Inv s) (e : ObjEnt) (i : Nat) (first : Nat) (n : Nat) (target : Nat) : Inv (putExt
    s e i first n target) := by
  unfold putExt
  try dsimp only
  repeat' (first | with_reducible assumption | with_reducible apply memPut_inv | with_reducible apply inv_foldl | with_reducible apply inv_foldl_snd | with_reducible intro _ _ _ | with_reducible intro _ _ | (with_reducible apply inv_mk; first | with_reducible assumption | with_reducible apply memPut_inv | with_reducible apply inv_foldl | with_reducible apply inv_foldl_snd | with_reducible intro _ _ _ | with_reducible intro _ _ | split) | split)

theorem putExtList_inv {s : State} (h : Inv s) (oid : Nat) (e : ObjEnt) (xs : List (Nat × Nat × Nat)) : Inv
    (putExtList s oid e xs) := by
  unfold putExtList
  try dsimp only
  repeat' (first | with_reducible assumption | with_reducible apply putExt_inv | with_reducible apply putEntry_inv | with_reducible apply inv_foldl | with_reducible apply inv_foldl_snd | with_reducible intro _ _ _ | with_reducible intro _ _ | (with_reducible apply inv_mk; first | with_reducible assumption | with_reducible apply putExt_inv | with_reducible apply putEntry_inv | with_reducible apply inv_foldl | with_reducible apply inv_foldl_snd | with_reducible intro _ _ _ | with_reducible intro _ _ | split) | split)

theorem mapObjPage_inv {s : State} (h : Inv s) (oid : Nat) (page : Nat) (target : Nat) : ∀ t, (mapObjPage s oid page
    target) = some t → Inv t := by
  intro t e
  unfold mapObjPage at e
  dsimp only at e
  repeat' split at e
  all_goals first
    | (cases e; done)
    | (cases e; exact putExtList_inv h ..)

theorem zeroFrame_inv {s : State} (h : Inv s) (f : Nat) : Inv (zeroFrame s f) := ⟨filter_wf h.1 _, h.2⟩

theorem engPage_inv {s : State} (h : Inv s) (w : Who) (a : Nat) : ∀ t, (engPage s w a) = some t → Inv t := by
  intro t e
  unfold engPage at e
  split at e
  · split at e
    · cases e; exact zeroFrame_inv h _
    · cases e
  · cases e; exact h

theorem engPages_inv {s : State} (h : Inv s) (w : Who) (a : Nat) (n : Nat) : ∀ t, (engPages s w a n) = some t → Inv
    t := by
  intro t e
  unfold engPages at e
  split at e
  · cases e; exact h
  · exact inv_foldlM _ _ (fun u i v k e => engPage_inv k _ _ _ e) h e

theorem engStore_inv {s : State} (h : Inv s) (w : Who) (a : Nat) (bs : List Byte) : Inv (engStore s w a bs) := by
  unfold engStore
  exact inv_foldl _ _ (fun _ _ k => inv_ite (fun _ => setPoison_inv k ..) (fun _ => k))
    (inv_foldl _ _ (fun _ _ k => inv_ite (fun _ => touch_inv k ..) (fun _ => k)) (storeBytes_inv h ..))

theorem putBar_inv {s : State} (h : Inv s) (ck : Nat) (off : Nat) (b : Bar) : Inv (putBar s ck off b) := by
  unfold putBar
  try dsimp only
  repeat' (first | with_reducible assumption | with_reducible apply onCrew_inv | with_reducible apply plainPut_inv | with_reducible apply inv_foldl | with_reducible apply inv_foldl_snd | with_reducible intro _ _ _ | with_reducible intro _ _ | (with_reducible apply inv_mk; first | with_reducible assumption | with_reducible apply onCrew_inv | with_reducible apply plainPut_inv | with_reducible apply inv_foldl | with_reducible apply inv_foldl_snd | with_reducible intro _ _ _ | with_reducible intro _ _ | split) | split)

theorem clearArrivals_inv {s : State} (h : Inv s) (ck : Nat) (off : Nat) : Inv (clearArrivals s ck off) := by
  unfold clearArrivals
  try dsimp only
  repeat' (first | with_reducible assumption | with_reducible apply inv_foldl | with_reducible apply inv_foldl_snd | with_reducible intro _ _ _ | with_reducible intro _ _ | (with_reducible apply inv_mk; first | with_reducible assumption | with_reducible apply inv_foldl | with_reducible apply inv_foldl_snd | with_reducible intro _ _ _ | with_reducible intro _ _ | split) | split)

theorem barUpdate_inv {s : State} (h : Inv s) (ck : Nat) (off : Nat) (f : Bar → Bar) : Inv (barUpdate s ck off f) :=
    by
  unfold barUpdate
  try dsimp only
  repeat' (first | with_reducible assumption | with_reducible apply clearArrivals_inv | with_reducible apply putBar_inv | with_reducible apply inv_foldl | with_reducible apply inv_foldl_snd | with_reducible intro _ _ _ | with_reducible intro _ _ | (with_reducible apply inv_mk; first | with_reducible assumption | with_reducible apply clearArrivals_inv | with_reducible apply putBar_inv | with_reducible apply inv_foldl | with_reducible apply inv_foldl_snd | with_reducible intro _ _ _ | with_reducible intro _ _ | split) | split)

theorem engPend_inv {s : State} (h : Inv s) (ck : Nat) (off : Nat) (up : Bool) : Inv (engPend s ck off up) := by
  unfold engPend
  try dsimp only
  repeat' (first | with_reducible assumption | with_reducible apply putBar_inv | with_reducible apply barUpdate_inv | with_reducible apply inv_foldl | with_reducible apply inv_foldl_snd | with_reducible intro _ _ _ | with_reducible intro _ _ | (with_reducible apply inv_mk; first | with_reducible assumption | with_reducible apply putBar_inv | with_reducible apply barUpdate_inv | with_reducible apply inv_foldl | with_reducible apply inv_foldl_snd | with_reducible intro _ _ _ | with_reducible intro _ _ | split) | split)

theorem arriveTest_inv {s : State} (h : Inv s) (gk : Nat) (off : Nat) : Inv (arriveTest s gk off) := by
  unfold arriveTest
  try dsimp only
  repeat' (first | with_reducible assumption | with_reducible apply barUpdate_inv | with_reducible apply inv_foldl | with_reducible apply inv_foldl_snd | with_reducible intro _ _ _ | with_reducible intro _ _ | (with_reducible apply inv_mk; first | with_reducible assumption | with_reducible apply barUpdate_inv | with_reducible apply inv_foldl | with_reducible apply inv_foldl_snd | with_reducible intro _ _ _ | with_reducible intro _ _ | split) | split)

theorem retest_inv {s : State} (h : Inv s) (gk : Nat) : Inv (retest s gk) := by
  unfold retest
  try dsimp only
  repeat' (first | with_reducible assumption | with_reducible apply arriveTest_inv | with_reducible apply inv_foldl | with_reducible apply inv_foldl_snd | with_reducible intro _ _ _ | with_reducible intro _ _ | (with_reducible apply inv_mk; first | with_reducible assumption | with_reducible apply arriveTest_inv | with_reducible apply inv_foldl | with_reducible apply inv_foldl_snd | with_reducible intro _ _ _ | with_reducible intro _ _ | split) | split)

theorem freeEntry_inv {s : State} (h : Inv s) (pk : Nat) : Inv (freeEntry s pk) := by
  unfold freeEntry
  try dsimp only
  repeat' (first | with_reducible assumption | with_reducible apply delPath_inv | with_reducible apply setPath_inv | with_reducible apply inv_foldl | with_reducible apply inv_foldl_snd | with_reducible intro _ _ _ | with_reducible intro _ _ | (with_reducible apply inv_mk; first | with_reducible assumption | with_reducible apply delPath_inv | with_reducible apply setPath_inv | with_reducible apply inv_foldl | with_reducible apply inv_foldl_snd | with_reducible intro _ _ _ | with_reducible intro _ _ | split) | split)

theorem endSide_inv {s : State} (h : Inv s) (pk : Nat) (p : Path) : Inv (endSide s pk p) := by
  unfold endSide
  try dsimp only
  repeat' (first | with_reducible assumption | with_reducible apply setPath_inv | with_reducible apply freeEntry_inv | with_reducible apply inv_foldl | with_reducible apply inv_foldl_snd | with_reducible intro _ _ _ | with_reducible intro _ _ | (with_reducible apply inv_mk; first | with_reducible assumption | with_reducible apply setPath_inv | with_reducible apply freeEntry_inv | with_reducible apply inv_foldl | with_reducible apply inv_foldl_snd | with_reducible intro _ _ _ | with_reducible intro _ _ | split) | split)

theorem cutLanes_inv {s : State} (h : Inv s) (gk : Nat) (m : Mask) : Inv (cutLanes s gk m) := by
  unfold cutLanes
  try dsimp only
  repeat' (first | with_reducible assumption | with_reducible apply endSide_inv | with_reducible apply inv_foldl | with_reducible apply inv_foldl_snd | with_reducible intro _ _ _ | with_reducible intro _ _ | (with_reducible apply inv_mk; first | with_reducible assumption | with_reducible apply endSide_inv | with_reducible apply inv_foldl | with_reducible apply inv_foldl_snd | with_reducible intro _ _ _ | with_reducible intro _ _ | split) | split)

theorem orphan_inv {s : State} (h : Inv s) (gk : Nat) (m : Mask) : Inv (orphan s gk m) := by
  unfold orphan
  try dsimp only
  repeat' (first | with_reducible assumption | with_reducible apply inv_foldl | with_reducible apply inv_foldl_snd | with_reducible intro _ _ _ | with_reducible intro _ _ | (with_reducible apply inv_mk; first | with_reducible assumption | with_reducible apply inv_foldl | with_reducible apply inv_foldl_snd | with_reducible intro _ _ _ | with_reducible intro _ _ | split) | split)

theorem leave_inv {s : State} (h : Inv s) (gk : Nat) (m : Mask) : Inv (leave s gk m) := by
  unfold leave
  try dsimp only
  repeat' (first | with_reducible assumption | with_reducible apply onGang_inv | with_reducible apply orphan_inv | with_reducible apply retest_inv | with_reducible apply cutLanes_inv | with_reducible apply inv_foldl | with_reducible apply inv_foldl_snd | with_reducible intro _ _ _ | with_reducible intro _ _ | (with_reducible apply inv_mk; first | with_reducible assumption | with_reducible apply onGang_inv | with_reducible apply orphan_inv | with_reducible apply retest_inv | with_reducible apply cutLanes_inv | with_reducible apply inv_foldl | with_reducible apply inv_foldl_snd | with_reducible intro _ _ _ | with_reducible intro _ _ | split) | split)

theorem kill_inv {s : State} (h : Inv s) (gk : Nat) (m : Mask) (code : TrapCode) : Inv (kill s gk m code) := by
  unfold kill
  try dsimp only
  repeat' (first | with_reducible assumption | with_reducible apply onRun_inv | with_reducible apply leave_inv | with_reducible apply onGang_inv | with_reducible apply inv_foldl | with_reducible apply inv_foldl_snd | with_reducible intro _ _ _ | with_reducible intro _ _ | (with_reducible apply inv_mk; first | with_reducible assumption | with_reducible apply onRun_inv | with_reducible apply leave_inv | with_reducible apply onGang_inv | with_reducible apply inv_foldl | with_reducible apply inv_foldl_snd | with_reducible intro _ _ _ | with_reducible intro _ _ | split) | split)

theorem takeTrap_inv {s : State} (h : Inv s) (st : Site) (fs : List LaneFault) : Inv (takeTrap s st fs).1 := by
  have k2 : ∀ (b : Prop) [Decidable b] (t : State) core q, Inv t → Inv (if b then bumpCore t core q 0x042 1 else t) :=
    fun _ _ _ _ _ k => inv_ite (fun _ => bumpCore_inv k ..) (fun _ => k)
  have k3 : ∀ (b : Prop) [Decidable b] (t : State) d, Inv t → Inv (if b then bumpDie t d 0x121 1 else t) :=
    fun _ _ _ _ k => inv_ite (fun _ => bumpDie_inv k ..) (fun _ => k)
  have k4 : ∀ (b : Prop) [Decidable b] (t : State) n v (x y : Wait), Inv t →
      Inv (if b then (({ t with nextTag := n, svcs := v } : State), x) else (t, y)).1 :=
    fun _ _ _ _ _ _ _ k => inv_ite_fst (fun _ => inv_mk k) (fun _ => k)
  unfold takeTrap
  split
  · exact h
  · extract_lets m rest
    generalize chooseHandler fs = hc
    obtain ⟨kind, code⟩ := hc
    dsimp only
    refine inv_ite_fst (fun _ => kill_inv (k3 _ _ _ (k2 _ _ _ _ h)) ..) (fun _ =>
      inv_ite_fst (fun _ => kill_inv (k3 _ _ _ (k2 _ _ _ _ h)) ..) (fun _ => ?_))
    refine inv_ite_fst (fun _ => setPath_inv (k4 _ _ _ _ _ _ (bumpCore_inv (k3 _ _ _ (k2 _ _ _ _ h)) ..)) ..) (fun _ => ?_)
    split
    · exact setPath_inv (setPath_inv (inv_mk (k4 _ _ _ _ _ _ (bumpCore_inv (k3 _ _ _ (k2 _ _ _ _ h)) ..))) ..) ..
    · exact setPath_inv (inv_mk (k4 _ _ _ _ _ _ (bumpCore_inv (k3 _ _ _ (k2 _ _ _ _ h)) ..))) ..

theorem returnFrom_inv {s : State} (h : Inv s) (pk : Nat) (sel : Nat) (km : Mask) : Inv (returnFrom s pk sel km) := by
  unfold returnFrom
  split
  · exact h
  · rename_i p _
    split
    · exact h
    · rename_i t _
      refine inv_ite (fun _ => kill_inv h ..) (fun _ => inv_ite (fun _ => kill_inv h ..) (fun _ => ?_))
      dsimp only
      have k : Inv (if sel = 4 then kill s p.gang (km &&& p.mask) t.code else s) := inv_ite (fun _ => kill_inv h ..) (fun _ => h)
      generalize (if sel = 4 then kill s p.gang (km &&& p.mask) t.code else s) = u at k ⊢
      refine inv_ite (fun _ => k) (fun _ => ?_)
      split
      · exact inv_ite (fun _ => setPath_inv (inv_mk k) ..)
          (fun _ => inv_ite (fun _ => setPath_inv (inv_mk k) ..) (fun _ => setPath_inv (inv_mk k) ..))
      · exact inv_ite (fun _ => setPath_inv k ..) (fun _ => setPath_inv k ..)

theorem endClause_inv {s : State} (h : Inv s) (pk : Nat) : Inv (endClause s pk) := by
  unfold endClause
  try dsimp only
  repeat' (first | with_reducible assumption | with_reducible apply returnFrom_inv | with_reducible apply setPath_inv | with_reducible apply inv_foldl | with_reducible apply inv_foldl_snd | with_reducible intro _ _ _ | with_reducible intro _ _ | (with_reducible apply inv_mk; first | with_reducible assumption | with_reducible apply returnFrom_inv | with_reducible apply setPath_inv | with_reducible apply inv_foldl | with_reducible apply inv_foldl_snd | with_reducible intro _ _ _ | with_reducible intro _ _ | split) | split)

theorem advance_inv {s : State} (h : Inv s) (pk : Nat) : Inv (advance s pk) := by
  unfold advance
  try dsimp only
  repeat' (first | with_reducible assumption | with_reducible apply setPath_inv | with_reducible apply onPath_inv | with_reducible apply endClause_inv | with_reducible apply inv_foldl | with_reducible apply inv_foldl_snd | with_reducible intro _ _ _ | with_reducible intro _ _ | (with_reducible apply inv_mk; first | with_reducible assumption | with_reducible apply setPath_inv | with_reducible apply onPath_inv | with_reducible apply endClause_inv | with_reducible apply inv_foldl | with_reducible apply inv_foldl_snd | with_reducible intro _ _ _ | with_reducible intro _ _ | split) | split)

theorem takeSides_inv {s : State} (h : Inv s) (pk : Nat) (y0 : List Side) : Inv (takeSides s pk y0) := by
  induction y0 generalizing s with
  | nil => exact h
  | cons d ds ih =>
    unfold takeSides
    dsimp only
    split
    · exact ih (setPath_inv (bumpCore_inv h ..) ..)
    · exact ih (setPath_inv (bumpCore_inv (bumpCore_inv h ..) ..) ..)

theorem split_inv {s : State} (h : Inv s) (pk : Nat) (sides : List Side) : Inv (split s pk sides) := by
  unfold split
  try dsimp only
  repeat' (first | with_reducible assumption | with_reducible apply takeSides_inv | with_reducible apply onPath_inv | with_reducible apply inv_foldl | with_reducible apply inv_foldl_snd | with_reducible intro _ _ _ | with_reducible intro _ _ | (with_reducible apply inv_mk; first | with_reducible assumption | with_reducible apply takeSides_inv | with_reducible apply onPath_inv | with_reducible apply inv_foldl | with_reducible apply inv_foldl_snd | with_reducible intro _ _ _ | with_reducible intro _ _ | split) | split)

theorem settle_inv {s : State} (h : Inv s) (c : Ctx) (fs : List LaneFault) (akind : Nat) (extra : List Word) : Inv
    (settle s c fs akind extra) := by
  unfold settle
  try dsimp only
  repeat' (first | with_reducible assumption | with_reducible apply advance_inv | with_reducible apply takeTrap_inv | (have e := ‹takeTrap _ _ _ = _›; have q := takeTrap_inv (by assumption) _ _; rw [e] at q; exact q) | with_reducible apply inv_foldl | with_reducible apply inv_foldl_snd | with_reducible intro _ _ _ | with_reducible intro _ _ | (with_reducible apply inv_mk; first | with_reducible assumption | with_reducible apply advance_inv | with_reducible apply takeTrap_inv | (have e := ‹takeTrap _ _ _ = _›; have q := takeTrap_inv (by assumption) _ _; rw [e] at q; exact q) | with_reducible apply inv_foldl | with_reducible apply inv_foldl_snd | with_reducible intro _ _ _ | with_reducible intro _ _ | split) | split)

theorem trapAll_inv {s : State} (h : Inv s) (c : Ctx) (code : TrapCode) (m : Mask) (extra : List Word) : Inv (trapAll
    s c code m extra) := by
  unfold trapAll
  try dsimp only
  repeat' (first | with_reducible assumption | with_reducible apply settle_inv | with_reducible apply inv_foldl | with_reducible apply inv_foldl_snd | with_reducible intro _ _ _ | with_reducible intro _ _ | (with_reducible apply inv_mk; first | with_reducible assumption | with_reducible apply settle_inv | with_reducible apply inv_foldl | with_reducible apply inv_foldl_snd | with_reducible intro _ _ _ | with_reducible intro _ _ | split) | split)

theorem trapShape_inv {s : State} (h : Inv s) (sh : Shape) (c : Ctx) (code : TrapCode) (m : Mask) : Inv (trapShape s
    sh c code m) := by
  unfold trapShape
  try dsimp only
  repeat' (first | with_reducible assumption | with_reducible apply advance_inv | with_reducible apply takeTrap_inv | (have e := ‹takeTrap _ _ _ = _›; have q := takeTrap_inv (by assumption) _ _; rw [e] at q; exact q) | with_reducible apply inv_foldl | with_reducible apply inv_foldl_snd | with_reducible intro _ _ _ | with_reducible intro _ _ | (with_reducible apply inv_mk; first | with_reducible assumption | with_reducible apply advance_inv | with_reducible apply takeTrap_inv | (have e := ‹takeTrap _ _ _ = _›; have q := takeTrap_inv (by assumption) _ _; rw [e] at q; exact q) | with_reducible apply inv_foldl | with_reducible apply inv_foldl_snd | with_reducible intro _ _ _ | with_reducible intro _ _ | split) | split)

theorem pushAside_inv {s : State} (h : Inv s) (pk : Nat) : Inv (pushAside s pk) := by
  unfold pushAside
  try dsimp only
  repeat' (first | with_reducible assumption | with_reducible apply setPath_inv | with_reducible apply inv_foldl | with_reducible apply inv_foldl_snd | with_reducible intro _ _ _ | with_reducible intro _ _ | (with_reducible apply inv_mk; first | with_reducible assumption | with_reducible apply setPath_inv | with_reducible apply inv_foldl | with_reducible apply inv_foldl_snd | with_reducible intro _ _ _ | with_reducible intro _ _ | split) | split)

theorem gangWait_inv {s : State} (h : Inv s) (c : Ctx) : Inv (gangWait s c) := by
  unfold gangWait
  try dsimp only
  repeat' (first | with_reducible assumption | with_reducible apply onPath_inv | with_reducible apply inv_foldl | with_reducible apply inv_foldl_snd | with_reducible intro _ _ _ | with_reducible intro _ _ | (with_reducible apply inv_mk; first | with_reducible assumption | with_reducible apply onPath_inv | with_reducible apply inv_foldl | with_reducible apply inv_foldl_snd | with_reducible intro _ _ _ | with_reducible intro _ _ | split) | split)

theorem waitFor_inv {s : State} (h : Inv s) (c : Ctx) (w : Wait) : Inv (waitFor s c w) := by
  unfold waitFor
  try dsimp only
  repeat' (first | with_reducible assumption | with_reducible apply onPath_inv | with_reducible apply inv_foldl | with_reducible apply inv_foldl_snd | with_reducible intro _ _ _ | with_reducible intro _ _ | (with_reducible apply inv_mk; first | with_reducible assumption | with_reducible apply onPath_inv | with_reducible apply inv_foldl | with_reducible apply inv_foldl_snd | with_reducible intro _ _ _ | with_reducible intro _ _ | split) | split)

theorem countIssue_inv {s : State} (h : Inv s) (c : Ctx) : Inv (countIssue s c) := by
  unfold countIssue
  try dsimp only
  repeat' (first | with_reducible assumption | with_reducible apply bumpCore_inv | with_reducible apply inv_foldl | with_reducible apply inv_foldl_snd | with_reducible intro _ _ _ | with_reducible intro _ _ | (with_reducible apply inv_mk; first | with_reducible assumption | with_reducible apply bumpCore_inv | with_reducible apply inv_foldl | with_reducible apply inv_foldl_snd | with_reducible intro _ _ _ | with_reducible intro _ _ | split) | split)

theorem issue_inv (sh : Shape) {s : State} (h : Inv s) (body : Ctx → State → State) (hbody : ∀ x0 x1, Inv x1 → Inv
    (body x0 x1)) : ∀ t, (issue sh s body) = .next t → Inv t := by
  intro t e
  unfold issue at e
  split at e
  · cases e
  · split at e
    · cases e; exact trapShape_inv h ..
    · split at e
      · dsimp only at e
        split at e
        · cases e; exact trapAll_inv h ..
        · cases e; exact pushAside_inv (gangWait_inv h ..) ..
      · split at e
        · cases e; exact trapAll_inv h ..
        · dsimp only at e
          have k : ∀ c : Ctx, Inv (if c.p.wait = .none then countIssue s c else s) := fun c =>
            inv_ite (fun _ => countIssue_inv h ..) (fun _ => h)
          split at e
          · cases e; exact waitFor_inv (k _) ..
          · cases e; exact hbody _ _ (k _)

theorem always_inv {s : State} (h : Inv s) (f : State → State) (hf : ∀ x0, Inv x0 → Inv (f x0)) : ∀ t, (always s f) =
    .next t → Inv t := by
  intro t e
  cases e
  exact hf s h

theorem event_inv {s : State} (h : Inv s) (f : State → State) (hf : ∀ x0, Inv x0 → Inv (f x0)) : ∀ t, (event s f) =
    .next t → Inv t := by
  refine always_inv h _ (fun u k => ?_)
  split
  · exact k
  · exact hf u k

theorem regEvent_inv {s : State} (h : Inv s) (f : State → State) (hf : ∀ x0, Inv x0 → Inv (f x0)) : ∀ t, (regEvent s f) =
    .next t → Inv t := by
  refine always_inv h _ (fun u k => ?_)
  split
  · exact hf u k
  · exact k

theorem hostEvent_inv {s : State} (h : Inv s) (f : State → State) (hf : ∀ x0, Inv x0 → Inv (f x0)) : ∀ t, (hostEvent
    s f) = .next t → Inv t := by
  refine event_inv h _ (fun u k => ?_)
  split
  · exact hf u k
  · exact k

theorem joinBatch_inv {s : State} (h : Inv s) (gk : Nat) : Inv (joinBatch s gk).2 := by
  unfold joinBatch
  try dsimp only
  repeat' (first | with_reducible assumption | with_reducible apply onGang_inv | with_reducible apply inv_foldl | with_reducible apply inv_foldl_snd | with_reducible intro _ _ _ | with_reducible intro _ _ | (with_reducible apply inv_mk; first | with_reducible assumption | with_reducible apply onGang_inv | with_reducible apply inv_foldl | with_reducible apply inv_foldl_snd | with_reducible intro _ _ _ | with_reducible intro _ _ | split) | split)

theorem batchDone_inv {s : State} (h : Inv s) (gk : Nat) (n : Word) (st : BitVec 8) : Inv (batchDone s gk n st) := by
  unfold batchDone
  try dsimp only
  repeat' (first | with_reducible assumption | with_reducible apply onGang_inv | with_reducible apply inv_foldl | with_reducible apply inv_foldl_snd | with_reducible intro _ _ _ | with_reducible intro _ _ | (with_reducible apply inv_mk; first | with_reducible assumption | with_reducible apply onGang_inv | with_reducible apply inv_foldl | with_reducible apply inv_foldl_snd | with_reducible intro _ _ _ | with_reducible intro _ _ | split) | split)

theorem addOpCur_inv {s : State} (h : Inv s) (c : Ctx) (m : Mask) (body : OpBody) (dv : List Nat) (ds : List Nat) (dp
    : List Nat) (store : Bool) (cur : Option Nat) : Inv (addOpCur s c m body dv ds dp store cur) := by
  unfold addOpCur
  try dsimp only
  repeat' (first | with_reducible assumption | with_reducible apply onPath_inv | with_reducible apply onGang_inv | with_reducible apply inv_foldl | with_reducible apply inv_foldl_snd | with_reducible intro _ _ _ | with_reducible intro _ _ | (with_reducible apply inv_mk; first | with_reducible assumption | with_reducible apply onPath_inv | with_reducible apply onGang_inv | with_reducible apply inv_foldl | with_reducible apply inv_foldl_snd | with_reducible intro _ _ _ | with_reducible intro _ _ | split) | split)

theorem addOp_inv {s : State} (h : Inv s) (c : Ctx) (m : Mask) (body : OpBody) (dv : List Nat) (ds : List Nat) (dp :
    List Nat) (store : Bool) : Inv (addOp s c m body dv ds dp store) := by
  unfold addOp
  try dsimp only
  repeat' (first | with_reducible assumption | with_reducible apply addOpCur_inv | with_reducible apply inv_foldl | with_reducible apply inv_foldl_snd | with_reducible intro _ _ _ | with_reducible intro _ _ | (with_reducible apply inv_mk; first | with_reducible assumption | with_reducible apply addOpCur_inv | with_reducible apply inv_foldl | with_reducible apply inv_foldl_snd | with_reducible intro _ _ _ | with_reducible intro _ _ | split) | split)

theorem alu_inv {s : State} (h : Inv s) (f : RRR) (w : Nat) (fn : Nat → Nat → Nat → Nat) (c : Ctx) : Inv (alu f w fn c
    s) := by
  unfold alu
  try dsimp only
  repeat' (first | with_reducible assumption | with_reducible apply advance_inv | with_reducible apply onGang_inv | with_reducible apply inv_foldl | with_reducible apply inv_foldl_snd | with_reducible intro _ _ _ | with_reducible intro _ _ | (with_reducible apply inv_mk; first | with_reducible assumption | with_reducible apply advance_inv | with_reducible apply onGang_inv | with_reducible apply inv_foldl | with_reducible apply inv_foldl_snd | with_reducible intro _ _ _ | with_reducible intro _ _ | split) | split)

theorem aluE_inv {y1 : State} (h : Inv y1) (f : RRR) (fn : Int → Int → Int → Int) (y0 : Ctx) : Inv (aluE f fn y0 y1)
    := by
  unfold aluE
  try dsimp only
  repeat' (first | with_reducible assumption | with_reducible apply alu_inv | with_reducible apply inv_foldl | with_reducible apply inv_foldl_snd | with_reducible intro _ _ _ | with_reducible intro _ _ | (with_reducible apply inv_mk; first | with_reducible assumption | with_reducible apply alu_inv | with_reducible apply inv_foldl | with_reducible apply inv_foldl_snd | with_reducible intro _ _ _ | with_reducible intro _ _ | split) | split)

theorem aluU_inv {y1 : State} (h : Inv y1) (f : RRR) (fn : ITy → Nat → Nat → Nat → Nat) (y0 : Ctx) : Inv (aluU f fn y0
    y1) := by
  unfold aluU
  try dsimp only
  repeat' (first | with_reducible assumption | with_reducible apply alu_inv | with_reducible apply inv_foldl | with_reducible apply inv_foldl_snd | with_reducible intro _ _ _ | with_reducible intro _ _ | (with_reducible apply inv_mk; first | with_reducible assumption | with_reducible apply alu_inv | with_reducible apply inv_foldl | with_reducible apply inv_foldl_snd | with_reducible intro _ _ _ | with_reducible intro _ _ | split) | split)

theorem aluImm_inv {s : State} (h : Inv s) (f : RRI) (sf : Bool) (fn : Nat → Nat → Nat) (c : Ctx) : Inv (aluImm f sf
    fn c s) := by
  unfold aluImm
  try dsimp only
  repeat' (first | with_reducible assumption | with_reducible apply advance_inv | with_reducible apply onGang_inv | with_reducible apply inv_foldl | with_reducible apply inv_foldl_snd | with_reducible intro _ _ _ | with_reducible intro _ _ | (with_reducible apply inv_mk; first | with_reducible assumption | with_reducible apply advance_inv | with_reducible apply onGang_inv | with_reducible apply inv_foldl | with_reducible apply inv_foldl_snd | with_reducible intro _ _ _ | with_reducible intro _ _ | split) | split)

theorem onPort_inv {s : State} (h : Inv s) (p : Nat) (f : ZPort → ZPort) : Inv (onPort s p f) := by
  unfold onPort
  try dsimp only
  repeat' (first | with_reducible assumption | with_reducible apply inv_foldl | with_reducible apply inv_foldl_snd | with_reducible intro _ _ _ | with_reducible intro _ _ | (with_reducible apply inv_mk; first | with_reducible assumption | with_reducible apply inv_foldl | with_reducible apply inv_foldl_snd | with_reducible intro _ _ _ | with_reducible intro _ _ | split) | split)

theorem sendFlit_inv {s : State} (h : Inv s) (p : Nat) (kind : Nat) (body : List Byte) : Inv (sendFlit s p kind body)
    := by
  unfold sendFlit
  try dsimp only
  repeat' (first | with_reducible assumption | with_reducible apply bumpDie_inv | with_reducible apply onPort_inv | with_reducible apply inv_foldl | with_reducible apply inv_foldl_snd | with_reducible intro _ _ _ | with_reducible intro _ _ | (with_reducible apply inv_mk; first | with_reducible assumption | with_reducible apply bumpDie_inv | with_reducible apply onPort_inv | with_reducible apply inv_foldl | with_reducible apply inv_foldl_snd | with_reducible intro _ _ _ | with_reducible intro _ _ | split) | split)

theorem sendMsg_inv {s : State} (h : Inv s) (p : Nat) (m : Msg) : Inv (sendMsg s p m) := by
  unfold sendMsg
  try dsimp only
  repeat' (first | with_reducible assumption | with_reducible apply sendFlit_inv | with_reducible apply inv_foldl | with_reducible apply inv_foldl_snd | with_reducible intro _ _ _ | with_reducible intro _ _ | (with_reducible apply inv_mk; first | with_reducible assumption | with_reducible apply sendFlit_inv | with_reducible apply inv_foldl | with_reducible apply inv_foldl_snd | with_reducible intro _ _ _ | with_reducible intro _ _ | split) | split)

theorem askWith_inv {s : State} (h : Inv s) (e : ObjEnt) (port : Nat) (op : Nat) (owner : PeerFor) (a : Nat) (n : Nat)
    (data : List Byte) (stream : Bool) : Inv (askWith s e port op owner a n data stream) := by
  unfold askWith
  try dsimp only
  repeat' (first | with_reducible assumption | with_reducible apply noteSpread_inv | with_reducible apply sendMsg_inv | with_reducible apply inv_foldl | with_reducible apply inv_foldl_snd | with_reducible intro _ _ _ | with_reducible intro _ _ | (with_reducible apply inv_mk; first | with_reducible assumption | with_reducible apply noteSpread_inv | with_reducible apply sendMsg_inv | with_reducible apply inv_foldl | with_reducible apply inv_foldl_snd | with_reducible intro _ _ _ | with_reducible intro _ _ | split) | split)

theorem askPeer_inv {s : State} (h : Inv s) (e : ObjEnt) (port : Nat) (op : Nat) (owner : PeerFor) (a : Nat) (n : Nat)
    (data : List Byte) : Inv (askPeer s e port op owner a n data) := by
  unfold askPeer
  try dsimp only
  repeat' (first | with_reducible assumption | with_reducible apply askWith_inv | with_reducible apply inv_foldl | with_reducible apply inv_foldl_snd | with_reducible intro _ _ _ | with_reducible intro _ _ | (with_reducible apply inv_mk; first | with_reducible assumption | with_reducible apply askWith_inv | with_reducible apply inv_foldl | with_reducible apply inv_foldl_snd | with_reducible intro _ _ _ | with_reducible intro _ _ | split) | split)

theorem devRel_inv {s : State} (h : Inv s) (rs : Map Rel) (d : DevPut) (peer : Bool) : Inv (devRel s rs d peer) := by
  unfold devRel
  try dsimp only
  repeat' (first | with_reducible assumption | with_reducible apply relWrite_inv | with_reducible apply inv_foldl | with_reducible apply inv_foldl_snd | with_reducible intro _ _ _ | with_reducible intro _ _ | (with_reducible apply inv_mk; first | with_reducible assumption | with_reducible apply relWrite_inv | with_reducible apply inv_foldl | with_reducible apply inv_foldl_snd | with_reducible intro _ _ _ | with_reducible intro _ _ | split) | split)

theorem markDone_inv {s : State} (h : Inv s) (y0 : DevMark) : Inv (markDone s y0) := by
  unfold markDone
  try dsimp only
  repeat' (first | with_reducible assumption | ((with_reducible apply inv_onMg); case k => exact fun _ k => ok_of k rfl rfl rfl rfl rfl) | with_reducible apply inv_foldl | with_reducible apply inv_foldl_snd | with_reducible intro _ _ _ | with_reducible intro _ _ | (with_reducible apply inv_mk; first | with_reducible assumption | ((with_reducible apply inv_onMg); case k => exact fun _ k => ok_of k rfl rfl rfl rfl rfl) | with_reducible apply inv_foldl | with_reducible apply inv_foldl_snd | with_reducible intro _ _ _ | with_reducible intro _ _ | split) | split)

theorem putHere_inv {s : State} (h : Inv s) (d : DevPut) (rs : Map Rel) : ∀ t, (putHere s d rs) = some t → Inv t := by
  intro t e
  unfold putHere at e
  obtain ⟨u, e2, rfl⟩ := Option.map_eq_some_iff.mp e
  exact devRel_inv (engStore_inv (engPages_inv h _ _ _ _ e2) ..) ..

theorem putFirst_inv {s : State} (h : Inv s)  : ∀ t, (putFirst s) = some t → Inv t := by
  unfold putFirst
  try dsimp only
  repeat' (first | with_reducible assumption | with_reducible apply markDone_inv | with_reducible apply devRel_inv | with_reducible apply askPeer_inv | (have e := ‹putHere _ _ _ = some _›; exact putHere_inv (by assumption) _ _ _ e) | (intro _ e; exact putHere_inv (by assumption) _ _ _ e) | (intro t e; obtain ⟨u, e2, rfl⟩ := Option.map_eq_some_iff.mp e; exact devRel_inv (engStore_inv (engPages_inv (inv_mk ‹_›) _ _ _ _ e2) ..) ..) | (intro _ e; cases e) | with_reducible apply inv_foldl | with_reducible apply inv_foldl_snd | with_reducible intro _ _ _ | (with_reducible apply inv_mk; first | with_reducible assumption | with_reducible apply markDone_inv | with_reducible apply devRel_inv | with_reducible apply askPeer_inv | (have e := ‹putHere _ _ _ = some _›; exact putHere_inv (by assumption) _ _ _ e) | (intro _ e; exact putHere_inv (by assumption) _ _ _ e) | (intro t e; obtain ⟨u, e2, rfl⟩ := Option.map_eq_some_iff.mp e; exact devRel_inv (engStore_inv (engPages_inv (inv_mk ‹_›) _ _ _ _ e2) ..) ..) | (intro _ e; cases e) | with_reducible apply inv_foldl | with_reducible apply inv_foldl_snd | with_reducible intro _ _ _ | split) | split)

theorem pumpDev_inv {s : State} (h : Inv s)  : Inv (pumpDev s) := by
  unfold pumpDev
  try dsimp only
  repeat' (first | with_reducible assumption | (have e := ‹putFirst _ = some _›; exact putFirst_inv (by assumption)  _ e) | (intro _ e; exact putFirst_inv (by assumption)  _ e) | exact inv_getD ‹_› (fun _ e => putFirst_inv ‹_› _ e) | with_reducible apply inv_foldl | with_reducible apply inv_foldl_snd | with_reducible intro _ _ _ | with_reducible intro _ _ | (with_reducible apply inv_mk; first | with_reducible assumption | (have e := ‹putFirst _ = some _›; exact putFirst_inv (by assumption)  _ e) | (intro _ e; exact putFirst_inv (by assumption)  _ e) | exact inv_getD ‹_› (fun _ e => putFirst_inv ‹_› _ e) | with_reducible apply inv_foldl | with_reducible apply inv_foldl_snd | with_reducible intro _ _ _ | with_reducible intro _ _ | split) | split)

theorem devPut_inv {s : State} (h : Inv s) (d : DevPut) : Inv (devPut s d) := by
  unfold devPut
  try dsimp only
  repeat' (first | with_reducible assumption | with_reducible apply pumpDev_inv | with_reducible apply inv_foldl | with_reducible apply inv_foldl_snd | with_reducible intro _ _ _ | with_reducible intro _ _ | (with_reducible apply inv_mk; first | with_reducible assumption | with_reducible apply pumpDev_inv | with_reducible apply inv_foldl | with_reducible apply inv_foldl_snd | with_reducible intro _ _ _ | with_reducible intro _ _ | split) | split)

theorem devStore_inv {s : State} (h : Inv s) (a : Nat) (bs : List Byte) : Inv (devStore s a bs) := by
  unfold devStore
  try dsimp only
  repeat' (first | with_reducible assumption | with_reducible apply devPut_inv | with_reducible apply inv_foldl | with_reducible apply inv_foldl_snd | with_reducible intro _ _ _ | with_reducible intro _ _ | (with_reducible apply inv_mk; first | with_reducible assumption | with_reducible apply devPut_inv | with_reducible apply inv_foldl | with_reducible apply inv_foldl_snd | with_reducible intro _ _ _ | with_reducible intro _ _ | split) | split)

theorem devMark_inv {s : State} (h : Inv s) (m : DevMark) : Inv (devMark s m) := by
  unfold devMark
  try dsimp only
  repeat' (first | with_reducible assumption | with_reducible apply devPut_inv | with_reducible apply inv_foldl | with_reducible apply inv_foldl_snd | with_reducible intro _ _ _ | with_reducible intro _ _ | (with_reducible apply inv_mk; first | with_reducible assumption | with_reducible apply devPut_inv | with_reducible apply inv_foldl | with_reducible apply inv_foldl_snd | with_reducible intro _ _ _ | with_reducible intro _ _ | split) | split)

theorem lastWrites_inv {s : State} (h : Inv s) : Inv (lastWrites s) := by
  unfold lastWrites
  refine inv_foldl _ _ (fun t d k => inv_ite (fun _ => k) (fun _ => inv_getD k (fun _ e => putHere_inv k _ _ _ e))) h

theorem acquire_inv {s : State} (h : Inv s) (c : Ctx) (scope : Nat) (xs : List Seen) : Inv (acquire s c scope xs) :=
    by
  unfold acquire
  try dsimp only
  repeat' (first | with_reducible assumption | with_reducible apply onGang_inv | with_reducible apply inv_foldl | with_reducible apply inv_foldl_snd | with_reducible intro _ _ _ | with_reducible intro _ _ | (with_reducible apply inv_mk; first | with_reducible assumption | with_reducible apply onGang_inv | with_reducible apply inv_foldl | with_reducible apply inv_foldl_snd | with_reducible intro _ _ _ | with_reducible intro _ _ | split) | split)

theorem relRead_inv {s : State} (h : Inv s) (c : Ctx) (acq : Option Nat) (keys : List Nat) : Inv (relRead s c acq
    keys) := by
  unfold relRead
  try dsimp only
  repeat' (first | with_reducible assumption | with_reducible apply onPath_inv | with_reducible apply acquire_inv | with_reducible apply inv_foldl | with_reducible apply inv_foldl_snd | with_reducible intro _ _ _ | with_reducible intro _ _ | (with_reducible apply inv_mk; first | with_reducible assumption | with_reducible apply onPath_inv | with_reducible apply acquire_inv | with_reducible apply inv_foldl | with_reducible apply inv_foldl_snd | with_reducible intro _ _ _ | with_reducible intro _ _ | split) | split)

theorem releaseWait_inv {s : State} (h : Inv s) (c : Ctx) : ∀ t, (releaseWait s c) = some t → Inv t := by
  unfold releaseWait
  try dsimp only
  repeat' (first | with_reducible assumption | with_reducible apply waitFor_inv | with_reducible apply onGang_inv | with_reducible apply settle_inv | (intro _ e; cases e) | with_reducible apply inv_foldl | with_reducible apply inv_foldl_snd | with_reducible intro _ _ _ | (with_reducible apply inv_mk; first | with_reducible assumption | with_reducible apply waitFor_inv | with_reducible apply onGang_inv | with_reducible apply settle_inv | (intro _ e; cases e) | with_reducible apply inv_foldl | with_reducible apply inv_foldl_snd | with_reducible intro _ _ _ | split) | split)

theorem release_inv {p : Prop} [Decidable p] {s t : State} {c : Ctx}
    (e : (if p then releaseWait s c else none) = some t) (h : Inv s) : Inv t := by
  split at e
  · exact releaseWait_inv h _ _ e
  · cases e

theorem peerWait_inv {s : State} (h : Inv s) (c : Ctx) (xs : List LaneAcc) (op : Nat) (k : Nat) (data : Nat → List
    Byte) : ∀ t, (peerWait s c xs op k data) = some t → Inv t := by
  intro t e
  unfold peerWait at e
  dsimp only at e
  split at e
  · split at e <;> cases e
    exact waitFor_inv h _ _
  · split at e
    · cases e; exact waitFor_inv h _ _
    · cases e
      refine waitFor_inv (inv_foldl _ _ ?_ h) _ _
      intro u x k
      split
      · exact askPeer_inv k ..
      · exact k

theorem dropAnswers_inv {s : State} (h : Inv s) (c : Ctx) : Inv (dropAnswers s c) := by
  unfold dropAnswers
  try dsimp only
  repeat' (first | with_reducible assumption | with_reducible apply inv_foldl | with_reducible apply inv_foldl_snd | with_reducible intro _ _ _ | with_reducible intro _ _ | (with_reducible apply inv_mk; first | with_reducible assumption | with_reducible apply inv_foldl | with_reducible apply inv_foldl_snd | with_reducible intro _ _ _ | with_reducible intro _ _ | split) | split)

theorem loadV_inv {s : State} (h : Inv s) (f : MEM) (sb : Bool) (c : Ctx) : Inv (loadV f sb c s) := by
  unfold loadV
  try dsimp only
  repeat' (first | with_reducible assumption | (have e := ‹peerWait _ _ _ _ _ _ = some _›; exact peerWait_inv (by assumption) _ _ _ _ _ _ e) | (intro _ e; exact peerWait_inv (by assumption) _ _ _ _ _ _ e) | with_reducible apply touch_inv | with_reducible apply relRead_inv | with_reducible apply dropAnswers_inv | with_reducible apply addOp_inv | with_reducible apply settle_inv | with_reducible apply inv_foldl | with_reducible apply inv_foldl_snd | with_reducible intro _ _ _ | with_reducible intro _ _ | (with_reducible apply inv_mk; first | with_reducible assumption | (have e := ‹peerWait _ _ _ _ _ _ = some _›; exact peerWait_inv (by assumption) _ _ _ _ _ _ e) | (intro _ e; exact peerWait_inv (by assumption) _ _ _ _ _ _ e) | with_reducible apply touch_inv | with_reducible apply relRead_inv | with_reducible apply dropAnswers_inv | with_reducible apply addOp_inv | with_reducible apply settle_inv | with_reducible apply inv_foldl | with_reducible apply inv_foldl_snd | with_reducible intro _ _ _ | with_reducible intro _ _ | split) | split)

theorem markWritten_inv {s : State} (h : Inv s) (a : Nat) : Inv (markWritten s a) := by
  unfold markWritten
  try dsimp only
  repeat' (first | with_reducible assumption | with_reducible apply inv_foldl | with_reducible apply inv_foldl_snd | with_reducible intro _ _ _ | with_reducible intro _ _ | (with_reducible apply inv_mk; first | with_reducible assumption | with_reducible apply inv_foldl | with_reducible apply inv_foldl_snd | with_reducible intro _ _ _ | with_reducible intro _ _ | split) | split)

theorem storePart_inv (c : Ctx) (f : MEM) (good : List LaneAcc) (base : State) (half : Nat) (w : Nat) {s : State} (h
    : Inv s) : Inv (storePart c f good base half w s) := by
  unfold storePart
  refine inv_foldl _ _ ?_ h
  intro u x k
  exact storeLoc_inv k _ _

theorem storeV_inv (f : MEM) (sb : Bool) (c : Ctx) {s : State} (h : Inv s) : Inv (storeV f sb c s) := by
  unfold storeV
  extract_lets k xs
  split
  · rename_i e
    split at e
    · exact releaseWait_inv h _ _ e
    · cases e
  · split
    · exact waitFor_inv h ..
    · split
      · exact waitFor_inv h ..
      · refine settle_inv ?_ ..
        have k5 : ∀ {s0}, Inv s0 → ∀ (fs : List (LaneAcc × ObjEnt × Nat)) op, Inv (fs.foldl (fun t y => askPeer t y.2.1 y.2.2 3
            (.lane c.gk c.pk op y.1.lane) y.1.addr k (leBytes k (rvn c.g f.b.toNat y.1.lane (regsOf k)))) s0) :=
          fun q fs op => inv_foldl _ _ (fun u x q => askPeer_inv q ..) q
        refine inv_ite (fun _ => k5 ?_ _ _) (fun _ => addOp_inv (k5 ?_ _ _) ..) <;>
        · refine inv_foldl _ _ (fun u x q => inv_ite
            (fun _ => relWrite_inv (touch_inv (markWritten_inv q ..) ..) ..) (fun _ => touch_inv (markWritten_inv q ..) ..)) ?_
          exact useFree_inv (inv_ite (fun _ => storePart_inv _ _ _ _ _ _ (storePart_inv _ _ _ _ _ _ h))
            (fun _ => storePart_inv _ _ _ _ _ _ h))

theorem atomAt_inv {s : State} (h : Inv s) (l : Loc) (op : AtomOp) (k : Nat) (b : Nat) (cmp : Nat) : Inv (atomAt s l
    op k b cmp).2.2 := by
  unfold atomAt
  try dsimp only
  repeat' (first | with_reducible assumption | with_reducible apply storeLoc_inv | with_reducible apply inv_foldl | with_reducible apply inv_foldl_snd | with_reducible intro _ _ _ | with_reducible intro _ _ | (with_reducible apply inv_mk; first | with_reducible assumption | with_reducible apply storeLoc_inv | with_reducible apply inv_foldl | with_reducible apply inv_foldl_snd | with_reducible intro _ _ _ | with_reducible intro _ _ | split) | split)

theorem atomic_inv (f : MEM) (op : AtomOp) (c : Ctx) {s : State} (h : Inv s) : Inv (atomic f op c s) := by
  unfold atomic
  extract_lets k n operand cmp
  split
  · rename_i e
    split at e
    · exact releaseWait_inv h _ _ e
    · cases e
  · split
    · exact waitFor_inv h ..
    · split
      · rename_i e
        exact peerWait_inv h _ _ _ _ _ _ e
      · refine settle_inv ?_ ..
        have kr : ∀ (xs : List LaneAcc) hd (r0 : List RegWrite × State), Inv r0.2 → Inv (xs.foldl (fun (acc : List RegWrite × State) x =>
            let keys := accKeys s c k x
            let t := relRead acc.2 c (ordAcq f) keys
            let (old, wrote, t) := match x.peer with
              | some o =>
                let old := leNat ((o.answer.getD []).take k)
                (old, (atomNew op k old (operand x.lane) (cmp x.lane)).isSome, t)
              | none => atomAt t (locate s (c.whoAt x.lane) x.addr) op k (operand x.lane) (cmp x.lane)
            let t := if wrote then relWrite t keys hd true else t
            (acc.1 ++ vWrites f.d.toNat x.lane n old, touch t (c.whoAt x.lane) x.addr true)) r0).2 := by
          intro xs hd r0 q
          refine inv_foldl_snd _ _ (fun acc x q => ?_) q
          extract_lets keys t1
          have q1 : Inv t1 := relRead_inv q ..
          split
          rename_i old wrote t e
          have q2 : Inv t := by
            split at e
            · simp only [Prod.mk.injEq] at e
              rw [← e.2.2]; exact q1
            · have := atomAt_inv q1 (locate s (c.whoAt x.lane) x.addr) op k (operand x.lane) (cmp x.lane)
              rw [e] at this; exact this
          exact touch_inv (inv_ite (fun _ => relWrite_inv q2 ..) (fun _ => q2)) ..
        exact inv_ite (fun _ => dropAnswers_inv (kr _ _ _ h) ..) (fun _ => addOp_inv (dropAnswers_inv (kr _ _ _ h) ..) ..)

theorem onBarrier_inv (off : Nat) (c : Ctx) {s : State} (h : Inv s) (body : State → State) (hbody : ∀ x0, Inv x0 →
    Inv (body x0)) : Inv (onBarrier off c s body) := by
  unfold onBarrier
  split
  · exact advance_inv h _
  · split
    · exact settle_inv h ..
    · exact hbody s h

theorem barArrive_inv (off : Nat) (c : Ctx) {s : State} (h : Inv s) (next : State → Word → State) (hnext : ∀ x0 x1,
    Inv x0 → Inv (next x0 x1)) : Inv (barArrive off c s next) := by
  refine onBarrier_inv _ _ h _ ?_
  intro t k
  try dsimp only
  split
  · exact trapAll_inv k ..
  · split
    · exact waitFor_inv k ..
    · split
      · exact waitFor_inv k ..
      · exact hnext _ _ (arriveTest_inv (onGang_inv k _ _) ..)

theorem barWait_inv {s : State} (h : Inv s) (c : Ctx) (off : Nat) (ph : Word) : Inv (barWait s c off ph) := by
  unfold barWait
  try dsimp only
  repeat' (first | with_reducible assumption | with_reducible apply waitFor_inv | with_reducible apply pushAside_inv | with_reducible apply inv_foldl | with_reducible apply inv_foldl_snd | with_reducible intro _ _ _ | with_reducible intro _ _ | (with_reducible apply inv_mk; first | with_reducible assumption | with_reducible apply waitFor_inv | with_reducible apply pushAside_inv | with_reducible apply inv_foldl | with_reducible apply inv_foldl_snd | with_reducible intro _ _ _ | with_reducible intro _ _ | split) | split)

theorem newEng_inv {s : State} (h : Inv s) (c : Ctx) (kind : EngKind) (join : Bool) (bar : Option Nat) : Inv (newEng s
    c kind join bar).2 := by
  unfold newEng
  try dsimp only
  repeat' (first | with_reducible assumption | with_reducible apply joinBatch_inv | (have e := ‹joinBatch _ _ = _›; have q := joinBatch_inv (by assumption) _; rw [e] at q; exact q) | with_reducible apply engPend_inv | with_reducible apply inv_foldl | with_reducible apply inv_foldl_snd | with_reducible intro _ _ _ | with_reducible intro _ _ | (with_reducible apply inv_mk; first | with_reducible assumption | with_reducible apply joinBatch_inv | (have e := ‹joinBatch _ _ = _›; have q := joinBatch_inv (by assumption) _; rw [e] at q; exact q) | with_reducible apply engPend_inv | with_reducible apply inv_foldl | with_reducible apply inv_foldl_snd | with_reducible intro _ _ _ | with_reducible intro _ _ | split) | split)

theorem report_inv {s : State} (h : Inv s) (e : EngOp) (st : BitVec 8) : Inv (report s e st) := by
  unfold report
  try dsimp only
  repeat' (first | with_reducible assumption | with_reducible apply batchDone_inv | with_reducible apply engPend_inv | with_reducible apply inv_foldl | with_reducible apply inv_foldl_snd | with_reducible intro _ _ _ | with_reducible intro _ _ | (with_reducible apply inv_mk; first | with_reducible assumption | with_reducible apply batchDone_inv | with_reducible apply engPend_inv | with_reducible apply inv_foldl | with_reducible apply inv_foldl_snd | with_reducible intro _ _ _ | with_reducible intro _ _ | split) | split)

theorem finishEng_inv {s : State} (h : Inv s) (op : Nat) (st : BitVec 8) : Inv (finishEng s op st) := by
  unfold finishEng
  try dsimp only
  repeat' (first | with_reducible assumption | with_reducible apply report_inv | with_reducible apply inv_foldl | with_reducible apply inv_foldl_snd | with_reducible intro _ _ _ | with_reducible intro _ _ | (with_reducible apply inv_mk; first | with_reducible assumption | with_reducible apply report_inv | with_reducible apply inv_foldl | with_reducible apply inv_foldl_snd | with_reducible intro _ _ _ | with_reducible intro _ _ | split) | split)

theorem flushPage_inv {s : State} (h : Inv s) (d : Dirty) : Inv (flushPage s d) := by
  unfold flushPage
  try dsimp only
  repeat' (first | with_reducible assumption | with_reducible apply memPut_inv | with_reducible apply inv_foldl | with_reducible apply inv_foldl_snd | with_reducible intro _ _ _ | with_reducible intro _ _ | (with_reducible apply inv_mk; first | with_reducible assumption | with_reducible apply memPut_inv | with_reducible apply inv_foldl | with_reducible apply inv_foldl_snd | with_reducible intro _ _ _ | with_reducible intro _ _ | split) | split)

theorem flushDirty_inv {s : State} (h : Inv s) (sel : Dirty → Bool) : Inv (flushDirty s sel) := by
  unfold flushDirty
  try dsimp only
  repeat' (first | with_reducible assumption | with_reducible apply flushPage_inv | with_reducible apply inv_foldl | with_reducible apply inv_foldl_snd | with_reducible intro _ _ _ | with_reducible intro _ _ | (with_reducible apply inv_mk; first | with_reducible assumption | with_reducible apply flushPage_inv | with_reducible apply inv_foldl | with_reducible apply inv_foldl_snd | with_reducible intro _ _ _ | with_reducible intro _ _ | split) | split)

theorem shootDown_inv {s : State} (h : Inv s) (oid : Nat) : Inv (shootDown s oid) := by
  unfold shootDown
  try dsimp only
  repeat' (first | with_reducible assumption | with_reducible apply flushDirty_inv | with_reducible apply inv_foldl | with_reducible apply inv_foldl_snd | with_reducible intro _ _ _ | with_reducible intro _ _ | (with_reducible apply inv_mk; first | with_reducible assumption | with_reducible apply flushDirty_inv | with_reducible apply inv_foldl | with_reducible apply inv_foldl_snd | with_reducible intro _ _ _ | with_reducible intro _ _ | split) | split)

theorem relink_inv {s : State} (h : Inv s) (die : Nat) : Inv (relink s die) := by
  unfold relink
  try dsimp only
  repeat' (first | with_reducible assumption | with_reducible apply putEntry_inv | with_reducible apply inv_foldl | with_reducible apply inv_foldl_snd | with_reducible intro _ _ _ | with_reducible intro _ _ | (with_reducible apply inv_mk; first | with_reducible assumption | with_reducible apply putEntry_inv | with_reducible apply inv_foldl | with_reducible apply inv_foldl_snd | with_reducible intro _ _ _ | with_reducible intro _ _ | split) | split)

theorem startReclaim_inv {s : State} (h : Inv s) (die : Nat) (oid : Nat) (op : Nat) : Inv (startReclaim s die oid op)
    := by
  unfold startReclaim
  try dsimp only
  repeat' (first | with_reducible assumption | with_reducible apply setObjFlag_inv | with_reducible apply inv_foldl | with_reducible apply inv_foldl_snd | with_reducible intro _ _ _ | with_reducible intro _ _ | (with_reducible apply inv_mk; first | with_reducible assumption | with_reducible apply setObjFlag_inv | with_reducible apply inv_foldl | with_reducible apply inv_foldl_snd | with_reducible intro _ _ _ | with_reducible intro _ _ | split) | split)

theorem releaseFrames_inv {s : State} (h : Inv s) (oid : Nat) : Inv (releaseFrames s oid) := by
  unfold releaseFrames
  try dsimp only
  repeat' (first | with_reducible assumption | with_reducible apply giveFrames_inv | with_reducible apply inv_foldl | with_reducible apply inv_foldl_snd | with_reducible intro _ _ _ | with_reducible intro _ _ | (with_reducible apply inv_mk; first | with_reducible assumption | with_reducible apply giveFrames_inv | with_reducible apply inv_foldl | with_reducible apply inv_foldl_snd | with_reducible intro _ _ _ | with_reducible intro _ _ | split) | split)

theorem freeObject_inv {s : State} (h : Inv s) (oid : Nat) : Inv (freeObject s oid) := by
  unfold freeObject
  try dsimp only
  repeat' (first | with_reducible assumption | with_reducible apply releaseFrames_inv | with_reducible apply setObjFlag_inv | with_reducible apply putEntry_inv | with_reducible apply bumpDie_inv | with_reducible apply relink_inv | with_reducible apply finishEng_inv | with_reducible apply inv_foldl | with_reducible apply inv_foldl_snd | with_reducible intro _ _ _ | with_reducible intro _ _ | (with_reducible apply inv_mk; first | with_reducible assumption | with_reducible apply releaseFrames_inv | with_reducible apply setObjFlag_inv | with_reducible apply putEntry_inv | with_reducible apply bumpDie_inv | with_reducible apply relink_inv | with_reducible apply finishEng_inv | with_reducible apply inv_foldl | with_reducible apply inv_foldl_snd | with_reducible intro _ _ _ | with_reducible intro _ _ | split) | split)

theorem endReclaims_inv {s : State} (h : Inv s) (sel : EngOp → Bool) : Inv (endReclaims s sel) := by
  unfold endReclaims
  try dsimp only
  repeat' (first | with_reducible assumption | with_reducible apply finishEng_inv | with_reducible apply inv_foldl | with_reducible apply inv_foldl_snd | with_reducible intro _ _ _ | with_reducible intro _ _ | (with_reducible apply inv_mk; first | with_reducible assumption | with_reducible apply finishEng_inv | with_reducible apply inv_foldl | with_reducible apply inv_foldl_snd | with_reducible intro _ _ _ | with_reducible intro _ _ | split) | split)

theorem writeShoot_inv {s : State} (h : Inv s) (v : Nat) : Inv (writeShoot s v) := by
  unfold writeShoot
  try dsimp only
  repeat' (first | with_reducible assumption | with_reducible apply inv_foldl | with_reducible apply inv_foldl_snd | with_reducible intro _ _ _ | with_reducible intro _ _ | (with_reducible apply inv_mk; first | with_reducible assumption | with_reducible apply inv_foldl | with_reducible apply inv_foldl_snd | with_reducible intro _ _ _ | with_reducible intro _ _ | split) | split)

theorem moveRels_inv {s : State} (h : Inv s) (src : Nat) (dst : Nat) (toHost : Bool) : Inv (moveRels s src dst toHost)
    := by
  unfold moveRels
  try dsimp only
  repeat' (first | with_reducible assumption | with_reducible apply inv_foldl | with_reducible apply inv_foldl_snd | with_reducible intro _ _ _ | with_reducible intro _ _ | (with_reducible apply inv_mk; first | with_reducible assumption | with_reducible apply inv_foldl | with_reducible apply inv_foldl_snd | with_reducible intro _ _ _ | with_reducible intro _ _ | split) | split)

theorem copyFrame_inv {s : State} (h : Inv s) (src : Nat) (dst : Nat) (toHost : Bool) : Inv (copyFrame s src dst
    toHost) := by
  have w : ∀ m, Memory.wf m = true → Memory.wf ((s.mem.filter (fun e => e.1 / 65536 == src)).foldl
      (fun m e => Map.setD m (dst * 65536 + e.1 % 65536) e.2 Config.emptyByte) (m.filter (fun e => e.1 / 65536 != dst))) = true := by
    intro m k
    exact foldl_wf _ _ (fun m e k => Map.wfD_setD _ _ k) (filter_wf k _)
  unfold copyFrame
  try dsimp only
  split
  · exact ⟨h.1, h.2.1, w _ h.2.2.1, h.2.2.2⟩
  · exact ⟨w _ h.1, h.2⟩

theorem dropBounce_inv {s : State} (h : Inv s) (oid : Nat) (page : Nat) : Inv (dropBounce s oid page) := by
  unfold dropBounce
  try dsimp only
  repeat' (first | with_reducible assumption | with_reducible apply zeroFrame_inv | with_reducible apply inv_foldl | with_reducible apply inv_foldl_snd | with_reducible intro _ _ _ | with_reducible intro _ _ | (with_reducible apply inv_mk; first | with_reducible assumption | with_reducible apply zeroFrame_inv | with_reducible apply inv_foldl | with_reducible apply inv_foldl_snd | with_reducible intro _ _ _ | with_reducible intro _ _ | split) | split)

theorem serveAnswer_inv {s : State} (h : Inv s) (v : Svc) (ref : Bool) : Inv (serveAnswer s v ref) := by
  unfold serveAnswer
  try dsimp only
  repeat' (first | with_reducible assumption | with_reducible apply onPath_inv | with_reducible apply takeTrap_inv | (have e := ‹takeTrap _ _ _ = _›; have q := takeTrap_inv (by assumption) _ _; rw [e] at q; exact q) | with_reducible apply pumpDev_inv | with_reducible apply dropBounce_inv | with_reducible apply copyFrame_inv | with_reducible apply inv_foldl | with_reducible apply inv_foldl_snd | with_reducible intro _ _ _ | with_reducible intro _ _ | (with_reducible apply inv_mk; first | with_reducible assumption | with_reducible apply onPath_inv | with_reducible apply takeTrap_inv | (have e := ‹takeTrap _ _ _ = _›; have q := takeTrap_inv (by assumption) _ _; rw [e] at q; exact q) | with_reducible apply pumpDev_inv | with_reducible apply dropBounce_inv | with_reducible apply copyFrame_inv | with_reducible apply inv_foldl | with_reducible apply inv_foldl_snd | with_reducible intro _ _ _ | with_reducible intro _ _ | split) | split)

theorem writeHsanswer_inv {s : State} (h : Inv s) (v : DWord) : Inv (writeHsanswer s v) := by
  unfold writeHsanswer
  try dsimp only
  repeat' (first | with_reducible assumption | with_reducible apply serveAnswer_inv | with_reducible apply inv_foldl | with_reducible apply inv_foldl_snd | with_reducible intro _ _ _ | with_reducible intro _ _ | (with_reducible apply inv_mk; first | with_reducible assumption | with_reducible apply serveAnswer_inv | with_reducible apply inv_foldl | with_reducible apply inv_foldl_snd | with_reducible intro _ _ _ | with_reducible intro _ _ | split) | split)

theorem takeFrames_inv {s : State} (h : Inv s) (die : Nat) (y0 : Nat) : ∀ x, (takeFrames s die y0) = some x → Inv
    x.2 := by
  induction y0 generalizing s with
  | zero => intro x e; cases e; exact h
  | succ n ih =>
    intro x e
    unfold takeFrames at e
    split at e
    · cases e
    · rename_i e'
      have k := takeFrame_inv h _ _ e'
      simp only [Option.map_eq_some_iff] at e
      obtain ⟨r, e2, rfl⟩ := e
      exact ih k r e2

theorem migrStatus_inv {s : State} (h : Inv s) (obj : Nat) (status : Nat) (bad : Nat) (at' : Nat) : Inv (migrStatus s
    obj status bad at') := by
  unfold migrStatus
  try dsimp only
  repeat' (first | with_reducible assumption | with_reducible apply devStore_inv | with_reducible apply inv_foldl | with_reducible apply inv_foldl_snd | with_reducible intro _ _ _ | with_reducible intro _ _ | (with_reducible apply inv_mk; first | with_reducible assumption | with_reducible apply devStore_inv | with_reducible apply inv_foldl | with_reducible apply inv_foldl_snd | with_reducible intro _ _ _ | with_reducible intro _ _ | split) | split)

theorem startMigr_inv {s : State} (h : Inv s) (d : List Byte) : Inv (startMigr s d) := by
  unfold startMigr
  try dsimp only
  repeat' (first | with_reducible assumption | with_reducible apply migrStatus_inv | (have e := ‹takeFrames _ _ _ = some _›; exact takeFrames_inv (by assumption) _ _ _ e) | (intro _ e; exact takeFrames_inv (by assumption) _ _ _ e) | with_reducible apply setObjFlag_inv | with_reducible apply inv_foldl | with_reducible apply inv_foldl_snd | with_reducible intro _ _ _ | with_reducible intro _ _ | (with_reducible apply inv_mk; first | with_reducible assumption | with_reducible apply migrStatus_inv | (have e := ‹takeFrames _ _ _ = some _›; exact takeFrames_inv (by assumption) _ _ _ e) | (intro _ e; exact takeFrames_inv (by assumption) _ _ _ e) | with_reducible apply setObjFlag_inv | with_reducible apply inv_foldl | with_reducible apply inv_foldl_snd | with_reducible intro _ _ _ | with_reducible intro _ _ | split) | split)

theorem nextMigr_inv {s : State} (h : Inv s)  : Inv (nextMigr s) := by
  unfold nextMigr
  try dsimp only
  repeat' (first | with_reducible assumption | with_reducible apply startMigr_inv | with_reducible apply inv_foldl | with_reducible apply inv_foldl_snd | with_reducible intro _ _ _ | with_reducible intro _ _ | (with_reducible apply inv_mk; first | with_reducible assumption | with_reducible apply startMigr_inv | with_reducible apply inv_foldl | with_reducible apply inv_foldl_snd | with_reducible intro _ _ _ | with_reducible intro _ _ | split) | split)

theorem abortMigr_inv {s : State} (h : Inv s) (m : Migr) (status : Nat) (bad : List Nat) : Inv (abortMigr s m status
    bad) := by
  unfold abortMigr
  try dsimp only
  repeat' (first | with_reducible assumption | with_reducible apply giveFrames_inv | with_reducible apply poisonByte_inv | with_reducible apply migrStatus_inv | with_reducible apply setObjFlag_inv | with_reducible apply inv_foldl | with_reducible apply inv_foldl_snd | with_reducible intro _ _ _ | with_reducible intro _ _ | (with_reducible apply inv_mk; first | with_reducible assumption | with_reducible apply giveFrames_inv | with_reducible apply poisonByte_inv | with_reducible apply migrStatus_inv | with_reducible apply setObjFlag_inv | with_reducible apply inv_foldl | with_reducible apply inv_foldl_snd | with_reducible intro _ _ _ | with_reducible intro _ _ | split) | split)

theorem gPut_inv {s : State} (h : Inv s) (oid : Nat) (off : Nat) (n : Nat) (x : Nat) : Inv (gPut s oid off n x) := by
  unfold gPut
  try dsimp only
  repeat' (first | with_reducible assumption | with_reducible apply memPut_inv | with_reducible apply inv_foldl | with_reducible apply inv_foldl_snd | with_reducible intro _ _ _ | with_reducible intro _ _ | (with_reducible apply inv_mk; first | with_reducible assumption | with_reducible apply memPut_inv | with_reducible apply inv_foldl | with_reducible apply inv_foldl_snd | with_reducible intro _ _ _ | with_reducible intro _ _ | split) | split)

theorem takeBlock_inv {s : State} (h : Inv s) (oid : Nat) : ∀ x, (takeBlock s oid) = some x → Inv x.2 := by
  unfold takeBlock
  try dsimp only
  repeat' (first | with_reducible assumption | with_reducible apply gPut_inv | (intro _ e; cases e) | with_reducible apply inv_foldl | with_reducible apply inv_foldl_snd | with_reducible intro _ _ _ | (with_reducible apply inv_mk; first | with_reducible assumption | with_reducible apply gPut_inv | (intro _ e; cases e) | with_reducible apply inv_foldl | with_reducible apply inv_foldl_snd | with_reducible intro _ _ _ | split) | split)

theorem blkWrite_inv {b : Build} (h : Inv b.s) (oid version : Nat) (c : Content) :
    ∀ x, blkWrite b oid version c = some x → Inv x.2.s := by
  intro x e
  unfold blkWrite at e
  split at e
  · cases e
  · rename_i e'
    have k := takeBlock_inv h _ _ e'
    cases e
    exact bumpDie_inv (memPut_inv k ..) ..

theorem writeAll_inv {b : Build} (h : Inv b.s) (oid version : Nat) (cs : List Content) :
    ∀ x, writeAll b oid version cs = some x → Inv x.2.s := by
  induction cs generalizing b with
  | nil => intro x e; cases e; exact h
  | cons c cs ih =>
    intro x e
    unfold writeAll at e
    split at e
    · cases e
    · rename_i e'
      have k := blkWrite_inv h _ _ _ _ e'
      simp only [Option.map_eq_some_iff] at e
      obtain ⟨r, e2, rfl⟩ := e
      exact ih (b := _) k r e2

theorem writeChild_inv {b : Build} (h : Inv b.s) (oid version : Nat) (cut : Option Nat) (n : Nat) (c : Content) :
    ∀ x, writeChild b oid version cut n c = some x → Inv x.2.s := by
  have one : ∀ (b1 : Build) (xs : List Child) x, Inv b1.s →
      (blkWrite b1 oid version (.idx xs)).map (fun r => ([r.1], r.2)) = some x → Inv x.2.s := by
    intro b1 xs x k e
    simp only [Option.map_eq_some_iff] at e
    obtain ⟨r, e2, rfl⟩ := e
    exact blkWrite_inv k _ _ _ _ e2
  intro x e
  unfold writeChild at e
  cases cut with
  | none => exact writeAll_inv h _ _ _ _ e
  | some k =>
    dsimp only at e
    split at e
    · generalize hw : writeAll b oid version c.fit = w at e
      match w, hw, e with
      | none, _, e => cases e
      | some ([], b1), hw, e => exact one _ _ _ (writeAll_inv h _ _ _ _ hw) e
      | some ([y], b1), hw, e => cases e; exact writeAll_inv h _ _ _ _ hw
      | some (y :: z :: ys, b1), hw, e => exact one _ _ _ (writeAll_inv h _ _ _ _ hw) e
    · exact writeAll_inv h _ _ _ _ e

theorem edgeWrite_inv (oid version : Nat) (last : Bool) (f : List (Nat × Nat) → List (Nat × Nat)) (fuel : Nat) {b : Build}
    (h : Inv b.s) (blk : Nat) : ∀ x, edgeWrite oid version last f fuel b blk = some x → Inv x.2.s := by
  induction fuel generalizing b blk with
  | zero => intro x e; cases e
  | succ fuel ih =>
    intro x e
    unfold edgeWrite at e
    dsimp only at e
    split at e
    · exact blkWrite_inv (b := { b with old := b.old ++ [blk] }) h _ _ _ _ e
    · split at e
      · cases e
      · rename_i e'
        exact blkWrite_inv (ih (b := { b with old := b.old ++ [blk] }) h _ _ e') _ _ _ _ e

theorem mend_inv {b : Build} (h : Inv b.s) (oid version : Nat) (cut : Option Nat) (n : Nat) (left : Bool) (p : Child) (c : Content) :
    ∀ x, mend b oid version cut n left p c = some x → Inv x.2.s := by
  intro x e
  have h' : Inv ({ b with old := b.old ++ [p.blk] } : Build).s := h
  unfold mend at e
  dsimp only at e
  split at e
  · exact writeChild_inv h' _ _ _ _ _ _ e
  · exact writeChild_inv h' _ _ _ _ _ _ e
  · cases e; exact h
  · split at e
    · obtain ⟨y, e2, rfl⟩ := Option.map_eq_some_iff.mp e
      exact edgeWrite_inv _ _ _ _ _ h _ _ e2
    · split at e
      · cases e
      · rename_i e'
        obtain ⟨y, e2, rfl⟩ := Option.map_eq_some_iff.mp e
        exact blkWrite_inv (edgeWrite_inv _ _ _ _ _ h _ _ e') _ _ _ _ e2

theorem treeEdit_inv (oid version n : Nat) (cut : Option Nat) (f : List (Nat × Nat) → List (Nat × Nat)) (fuel : Nat) {b : Build}
    (h : Inv b.s) (blk : Nat) : ∀ x, treeEdit oid version n cut f fuel b blk = some x → Inv x.2.s := by
  induction fuel generalizing b blk with
  | zero => intro x e; cases e
  | succ fuel ih =>
    intro x e
    unfold treeEdit at e
    dsimp only at e
    split at e
    · cases e; exact h
    · split at e
      · cases e
      · rename_i b2 e'
        have k : Inv b2.s := ih (b := { b with old := b.old ++ [blk] }) h _ _ e'
        split at e <;> obtain ⟨y, e2, rfl⟩ := Option.map_eq_some_iff.mp e
        · exact mend_inv k _ _ _ _ _ _ _ _ e2
        · exact mend_inv k _ _ _ _ _ _ _ _ e2
        · exact writeChild_inv k _ _ _ _ _ _ e2

theorem writeRoot_inv {b : Build} (h : Inv b.s) (oid version : Nat) (c : Content) :
    ∀ x, writeRoot b oid version c = some x → Inv x.2.s := by
  intro x e
  unfold writeRoot at e
  split at e
  · cases e; exact h
  · cases e; exact h
  · split at e
    · simp only [Option.map_eq_some_iff] at e
      obtain ⟨r, e2, rfl⟩ := e
      exact blkWrite_inv h _ _ _ _ e2
    · split at e
      · cases e
      · rename_i e'
        have k := writeAll_inv h _ _ _ _ e'
        simp only [Option.map_eq_some_iff] at e
        obtain ⟨r, e2, rfl⟩ := e
        exact blkWrite_inv k _ _ _ _ e2

theorem listEdit_inv {b : Build} (h : Inv b.s) (oid seq v : Nat) (inn : Bool) (n : Nat)
    (f : List (Nat × Nat) → List (Nat × Nat)) : ∀ x, listEdit b oid seq v inn n f = some x → Inv x.s := by
  intro x e
  unfold listEdit at e
  dsimp only at e
  split at e
  · cases e
  · rename_i c b2 e'
    have k : Inv b2.s := by
      split at e'
      · cases e'; exact h
      · exact treeEdit_inv _ _ _ _ _ _ h _ _ e'
    split at e
    · cases e
    · rename_i e2
      have k2 := writeRoot_inv k _ _ _ _ e2
      cases e
      exact gPut_inv (gPut_inv (gPut_inv k2 ..) ..) ..

theorem setNext_inv {s : State} (h : Inv s) (oid : Nat) (b : Nat) (next : Nat) : Inv (setNext s oid b next) := by
  unfold setNext
  try dsimp only
  repeat' (first | with_reducible assumption | with_reducible apply gPut_inv | with_reducible apply inv_foldl | with_reducible apply inv_foldl_snd | with_reducible intro _ _ _ | with_reducible intro _ _ | (with_reducible apply inv_mk; first | with_reducible assumption | with_reducible apply gPut_inv | with_reducible apply inv_foldl | with_reducible apply inv_foldl_snd | with_reducible intro _ _ _ | with_reducible intro _ _ | split) | split)

theorem deferBlock_inv {s : State} (h : Inv s) (oid : Nat) (tag : Nat) (b : Nat) : Inv (deferBlock s oid tag b) := by
  unfold deferBlock
  try dsimp only
  repeat' (first | with_reducible assumption | with_reducible apply gPut_inv | with_reducible apply setNext_inv | with_reducible apply inv_foldl | with_reducible apply inv_foldl_snd | with_reducible intro _ _ _ | with_reducible intro _ _ | (with_reducible apply inv_mk; first | with_reducible assumption | with_reducible apply gPut_inv | with_reducible apply setNext_inv | with_reducible apply inv_foldl | with_reducible apply inv_foldl_snd | with_reducible intro _ _ _ | with_reducible intro _ _ | split) | split)

theorem commitEdge_inv {s : State} (h : Inv s) (oid : Nat) (seq : Nat) (u : Nat) (v : Nat) (f : Nat → List (Nat ×
    Nat) → List (Nat × Nat)) : ∀ t, (commitEdge s oid seq u v f) = some t → Inv t := by
  intro t e
  unfold commitEdge edgeBuild at e
  simp only [Option.map_eq_some_iff, Option.bind_eq_some_iff] at e
  obtain ⟨b, ⟨b1, e1, e2⟩, rfl⟩ := e
  have k1 := listEdit_inv (b := { s := s, old := [], taken := [] }) h _ _ _ _ _ _ _ e1
  have k2 := listEdit_inv k1 _ _ _ _ _ _ _ e2
  refine bumpDie_inv (gPut_inv (inv_foldl _ _ ?_ k2) ..) ..
  intro u x k
  exact deferBlock_inv k ..

theorem mutate_inv {s : State} (h : Inv s) (kind : GraphKind) (oid : Nat) (x : GraphLane) : Inv (mutate s kind oid
    x).2 := by
  unfold mutate
  try dsimp only
  repeat' (first | with_reducible assumption | (have e := ‹commitEdge _ _ _ _ _ _ = some _›; exact commitEdge_inv (by assumption) _ _ _ _ _ _ e) | (intro _ e; exact commitEdge_inv (by assumption) _ _ _ _ _ _ e) | with_reducible apply inv_foldl | with_reducible apply inv_foldl_snd | with_reducible intro _ _ _ | with_reducible intro _ _ | (with_reducible apply inv_mk; first | with_reducible assumption | (have e := ‹commitEdge _ _ _ _ _ _ = some _›; exact commitEdge_inv (by assumption) _ _ _ _ _ _ e) | (intro _ e; exact commitEdge_inv (by assumption) _ _ _ _ _ _ e) | with_reducible apply inv_foldl | with_reducible apply inv_foldl_snd | with_reducible intro _ _ _ | with_reducible intro _ _ | split) | split)

theorem gSettle_inv {s : State} (h : Inv s) (c : Ctx) (fs : List GFault) : Inv (gSettle s c fs) := by
  unfold gSettle
  try dsimp only
  repeat' (first | with_reducible assumption | with_reducible apply settle_inv | with_reducible apply inv_foldl | with_reducible apply inv_foldl_snd | with_reducible intro _ _ _ | with_reducible intro _ _ | (with_reducible apply inv_mk; first | with_reducible assumption | with_reducible apply settle_inv | with_reducible apply inv_foldl | with_reducible apply inv_foldl_snd | with_reducible intro _ _ _ | with_reducible intro _ _ | split) | split)

theorem gIssue_inv {s : State} (h : Inv s) (c : Ctx) (f : GR) (kind : GraphKind) (oids : List Nat) (dv : List Nat)
    (cur : Option Nat) (todo : List GraphLane) : Inv (gIssue s c f kind oids dv cur todo) := by
  unfold gIssue
  try dsimp only
  repeat' (first | with_reducible assumption | with_reducible apply addOpCur_inv | with_reducible apply inv_foldl | with_reducible apply inv_foldl_snd | with_reducible intro _ _ _ | with_reducible intro _ _ | (with_reducible apply inv_mk; first | with_reducible assumption | with_reducible apply addOpCur_inv | with_reducible apply inv_foldl | with_reducible apply inv_foldl_snd | with_reducible intro _ _ _ | with_reducible intro _ _ | split) | split)

theorem mutation_inv {s : State} (h : Inv s) (f : GR) (kind : GraphKind) (c : Ctx) : Inv (mutation f kind c s) := by
  unfold mutation
  try dsimp only
  repeat' (first | with_reducible assumption | with_reducible apply gSettle_inv | with_reducible apply gIssue_inv | with_reducible apply inv_foldl | with_reducible apply inv_foldl_snd | with_reducible intro _ _ _ | with_reducible intro _ _ | (with_reducible apply inv_mk; first | with_reducible assumption | with_reducible apply gSettle_inv | with_reducible apply gIssue_inv | with_reducible apply inv_foldl | with_reducible apply inv_foldl_snd | with_reducible intro _ _ _ | with_reducible intro _ _ | split) | split)

theorem graphRead_inv {s : State} (h : Inv s) (f : GR) (kind : GraphKind) (dv : List Nat) (entry : Nat → Option (Bool
    × Nat)) (c : Ctx) : Inv (graphRead f kind dv entry c s) := by
  unfold graphRead
  try dsimp only
  repeat' (first | with_reducible assumption | with_reducible apply gSettle_inv | with_reducible apply gIssue_inv | with_reducible apply inv_foldl | with_reducible apply inv_foldl_snd | with_reducible intro _ _ _ | with_reducible intro _ _ | (with_reducible apply inv_mk; first | with_reducible assumption | with_reducible apply gSettle_inv | with_reducible apply gIssue_inv | with_reducible apply inv_foldl | with_reducible apply inv_foldl_snd | with_reducible intro _ _ _ | with_reducible intro _ _ | split) | split)

theorem strictGlde_inv {s : State} (h : Inv s) (f : GR) (c : Ctx) : Inv (strictGlde f c s) := by
  unfold strictGlde
  try dsimp only
  repeat' (first | with_reducible assumption | with_reducible apply waitFor_inv | with_reducible apply relRead_inv | with_reducible apply addOp_inv | with_reducible apply gSettle_inv | with_reducible apply inv_foldl | with_reducible apply inv_foldl_snd | with_reducible intro _ _ _ | with_reducible intro _ _ | (with_reducible apply inv_mk; first | with_reducible assumption | with_reducible apply waitFor_inv | with_reducible apply relRead_inv | with_reducible apply addOp_inv | with_reducible apply gSettle_inv | with_reducible apply inv_foldl | with_reducible apply inv_foldl_snd | with_reducible intro _ _ _ | with_reducible intro _ _ | split) | split)

theorem cursorStep_inv {s : State} (h : Inv s) (f : GR) (kind : GraphKind) (dv : List Nat) (c : Ctx) : Inv (cursorStep
    f kind dv c s) := by
  unfold cursorStep
  try dsimp only
  repeat' (first | with_reducible assumption | with_reducible apply waitFor_inv | with_reducible apply gSettle_inv | with_reducible apply gIssue_inv | with_reducible apply inv_foldl | with_reducible apply inv_foldl_snd | with_reducible intro _ _ _ | with_reducible intro _ _ | (with_reducible apply inv_mk; first | with_reducible assumption | with_reducible apply waitFor_inv | with_reducible apply gSettle_inv | with_reducible apply gIssue_inv | with_reducible apply inv_foldl | with_reducible apply inv_foldl_snd | with_reducible intro _ _ _ | with_reducible intro _ _ | split) | split)

theorem laneDone_inv {s : State} (h : Inv s) (gk : Nat) (op : Nat) (r : GraphReq) (rest : List GraphLane) (f : Gang →
    Gang) : Inv (laneDone s gk op r rest f) := by
  unfold laneDone
  try dsimp only
  repeat' (first | with_reducible assumption | with_reducible apply retest_inv | with_reducible apply onGang_inv | with_reducible apply inv_foldl | with_reducible apply inv_foldl_snd | with_reducible intro _ _ _ | with_reducible intro _ _ | (with_reducible apply inv_mk; first | with_reducible assumption | with_reducible apply retest_inv | with_reducible apply onGang_inv | with_reducible apply inv_foldl | with_reducible apply inv_foldl_snd | with_reducible intro _ _ _ | with_reducible intro _ _ | split) | split)

theorem noteSeen_inv {s : State} (h : Inv s) (gk : Nat) (op : Nat) (hs : List Head) : Inv (noteSeen s gk op hs) := by
  unfold noteSeen
  try dsimp only
  repeat' (first | with_reducible assumption | with_reducible apply inv_foldl | with_reducible apply inv_foldl_snd | with_reducible intro _ _ _ | with_reducible intro _ _ | (with_reducible apply inv_mk; first | with_reducible assumption | with_reducible apply inv_foldl | with_reducible apply inv_foldl_snd | with_reducible intro _ _ _ | with_reducible intro _ _ | split) | split)

theorem uniFault_inv {s : State} (h : Inv s) (c : Ctx) (code : TrapCode) (addr : Nat) (akind : Nat) (extra : List
    Word) : Inv (uniFault s c code addr akind extra) := by
  unfold uniFault
  try dsimp only
  repeat' (first | with_reducible assumption | with_reducible apply settle_inv | with_reducible apply inv_foldl | with_reducible apply inv_foldl_snd | with_reducible intro _ _ _ | with_reducible intro _ _ | (with_reducible apply inv_mk; first | with_reducible assumption | with_reducible apply settle_inv | with_reducible apply inv_foldl | with_reducible apply inv_foldl_snd | with_reducible intro _ _ _ | with_reducible intro _ _ | split) | split)

theorem regLocks_inv {s : State} (h : Inv s) (c : Ctx) (op : Nat) (rs : List (Nat × Nat)) : Inv (regLocks s c op rs)
    := by
  unfold regLocks
  try dsimp only
  repeat' (first | with_reducible assumption | with_reducible apply inv_foldl | with_reducible apply inv_foldl_snd | with_reducible intro _ _ _ | with_reducible intro _ _ | (with_reducible apply inv_mk; first | with_reducible assumption | with_reducible apply inv_foldl | with_reducible apply inv_foldl_snd | with_reducible intro _ _ _ | with_reducible intro _ _ | split) | split)

theorem stallHost_inv {s : State} (h : Inv s) (op : Nat) (pg : Nat × Nat) : Inv (stallHost s op pg) := by
  unfold stallHost
  try dsimp only
  repeat' (first | with_reducible assumption | with_reducible apply inv_foldl | with_reducible apply inv_foldl_snd | with_reducible intro _ _ _ | with_reducible intro _ _ | (with_reducible apply inv_mk; first | with_reducible assumption | with_reducible apply inv_foldl | with_reducible apply inv_foldl_snd | with_reducible intro _ _ _ | with_reducible intro _ _ | split) | split)

theorem engAsk_inv {s : State} (h : Inv s) (w : Who) (op : Nat) (asks : List Ask) : Inv (engAsk s w op asks) := by
  unfold engAsk
  try dsimp only
  repeat' (first | with_reducible assumption | with_reducible apply askWith_inv | with_reducible apply inv_foldl | with_reducible apply inv_foldl_snd | with_reducible intro _ _ _ | with_reducible intro _ _ | (with_reducible apply inv_mk; first | with_reducible assumption | with_reducible apply askWith_inv | with_reducible apply inv_foldl | with_reducible apply inv_foldl_snd | with_reducible intro _ _ _ | with_reducible intro _ _ | split) | split)

theorem writeLine_inv {s : State} (h : Inv s) (w : Who) (a : Nat) (cs : List Cell) : Inv (writeLine s w a cs).2 := by
  unfold writeLine
  try dsimp only
  repeat' (first | with_reducible assumption | with_reducible apply engStore_inv | with_reducible apply poisonByte_inv | with_reducible apply inv_foldl | with_reducible apply inv_foldl_snd | with_reducible intro _ _ _ | with_reducible intro _ _ | (with_reducible apply inv_mk; first | with_reducible assumption | with_reducible apply engStore_inv | with_reducible apply poisonByte_inv | with_reducible apply inv_foldl | with_reducible apply inv_foldl_snd | with_reducible intro _ _ _ | with_reducible intro _ _ | split) | split)

theorem writeCells_inv (w : Who) (fuel : Nat) (a : Nat) (cs : List Cell) (r : BitVec 8 × State) (h : Inv r.2) :
    Inv (writeCells w fuel a cs r).2 := by
  induction fuel generalizing a cs r with
  | zero => exact h
  | succ fuel ih =>
    unfold writeCells
    try dsimp only
    split
    · exact h
    · exact ih _ _ _ (writeLine_inv h ..)

theorem dstPages_inv {s : State} (h : Inv s) (w : Who) (ps : List Piece) : ∀ t, (dstPages s w ps) = some t → Inv t := by
  intro t e
  refine inv_foldlM _ _ ?_ h e
  intro u p v k e
  split at e
  · split at e
    · cases e; exact k
    · exact engPages_inv k _ _ _ _ e
  · cases e; exact k

/-- The state a move answers. -/
def movedState : Moved → State
  | .stalled s => s
  | .done _ s => s

theorem moved_stalled {m : Moved} {t : State} (e : m = .stalled t) (h : Inv (movedState m)) : Inv t := by
  subst e; exact h

theorem moved_done {m : Moved} {st : BitVec 8} {t : State} (e : m = .done st t) (h : Inv (movedState m)) : Inv t := by
  subst e; exact h

theorem moveOut_inv {s : State} (h : Inv s) (w : Who) (op base : Nat) (dp : List Piece) (cells : List Cell) :
    Inv (movedState (moveOut s w op base dp cells)) := by
  unfold moveOut
  try dsimp only
  split
  · exact engAsk_inv h ..
  · split
    · exact engAsk_inv h ..
    · split
      · exact engAsk_inv h ..
      · rename_i e
        have k := dstPages_inv (engAsk_inv h ..) _ _ _ e
        refine inv_foldl_snd _ _ ?_ k
        intro r x k
        split
        · exact k
        · split
          · exact k
          · exact writeCells_inv _ _ _ _ _ k

theorem moveIn_inv {s : State} (h : Inv s) (w : Who) (e : EngOp) (op : Nat) (base : Nat) (sp : List Piece) : Inv
    (moveIn s w e op base sp).1 := by
  unfold moveIn
  try dsimp only
  repeat' (first | with_reducible assumption | with_reducible apply stallHost_inv | with_reducible apply engAsk_inv | with_reducible apply inv_foldl | with_reducible apply inv_foldl_snd | with_reducible intro _ _ _ | with_reducible intro _ _ | (with_reducible apply inv_mk; first | with_reducible assumption | with_reducible apply stallHost_inv | with_reducible apply engAsk_inv | with_reducible apply inv_foldl | with_reducible apply inv_foldl_snd | with_reducible intro _ _ _ | with_reducible intro _ _ | split) | split)

theorem moveAll_inv {s : State} (h : Inv s) (w : Who) (e : EngOp) (op base : Nat) (sp dp : List Piece) :
    Inv (movedState (moveAll s w e op base sp dp)) := by
  have q := moveIn_inv h w e op base sp
  unfold moveAll
  split
  · rename_i e; rw [e] at q; exact q
  · rename_i e; rw [e] at q; exact moveOut_inv q ..

theorem onBinding_inv {s : State} (h : Inv s) (op : Nat) (f : Binding → Binding) : Inv (onBinding s op f) := by
  unfold onBinding
  try dsimp only
  repeat' (first | with_reducible assumption | with_reducible apply inv_foldl | with_reducible apply inv_foldl_snd | with_reducible intro _ _ _ | with_reducible intro _ _ | (with_reducible apply inv_mk; first | with_reducible assumption | with_reducible apply inv_foldl | with_reducible apply inv_foldl_snd | with_reducible intro _ _ _ | with_reducible intro _ _ | split) | split)

theorem fillRun_inv {s : State} (h : Inv s) (w : Who) (e : EngOp) (op : Nat) (win : Nat) (new : Binding) (old :
    Option Binding) (st : BitVec 8) : Inv (fillRun s w e op win new old st) := by
  unfold fillRun
  split
  · exact fst_inv ‹_› (moveIn_inv h ..)
  · have q := fst_inv ‹_› (moveIn_inv h ..)
    extract_lets ixs new2 s1 peer asks s2 local2
    have q1 : Inv s1 := inv_mk q
    have q2 : Inv s2 := engAsk_inv q1 ..
    refine inv_ite (fun _ => q2) (fun _ => ?_)
    generalize hostMiss _ _ _ _ = o
    cases o with
    | some pg => exact stallHost_inv q2 ..
    | none =>
      generalize hm : moveOut _ _ _ _ _ _ = r
      cases r with
      | stalled t => exact moved_stalled hm (moveOut_inv q2 ..)
      | done st2 t => exact finishEng_inv (onBinding_inv (moved_done hm (moveOut_inv q2 ..)) ..) ..

theorem fillOrUnbind_inv {s : State} (h : Inv s) (e : EngOp) (op : Nat) (win : Nat) (new : Binding) (old : Option
    Binding) : Inv (fillOrUnbind s e op win new old) := by
  unfold fillOrUnbind
  try dsimp only
  split
  · split
    · split
      · exact moved_stalled ‹_› (moveAll_inv h ..)
      · rename_i e2
        refine fillRun_inv (inv_mk ?_) ..
        exact moved_done ‹_› (moveAll_inv h ..)
    · exact fillRun_inv h ..
  · exact fillRun_inv h ..

theorem ctabIn_inv {s : State} (h : Inv s) (w : Who) (e : EngOp) (op a : Nat) : Inv (ctabIn s w e op a).1 := by
  unfold ctabIn
  dsimp only
  split
  · exact h
  · split <;> exact fst_inv ‹_› (moveIn_inv h ..)

theorem streamIn_inv {s : State} (h : Inv s) (w : Who) (e : EngOp) (op a n : Nat) (raw : Bool) :
    Inv (streamIn s w e op a n raw).1 := by
  unfold streamIn
  dsimp only
  split
  · exact h
  · split
    · exact fst_inv ‹_› (ctabIn_inv h ..)
    · have k := fst_inv ‹_› (ctabIn_inv h ..)
      refine inv_ite_fst (fun _ => inv_ite_fst (fun _ => engAsk_inv k ..) (fun _ => inv_ite_fst (fun _ => engAsk_inv k ..) (fun _ => ?_)))
        (fun _ => ?_)
      · split <;> exact fst_inv ‹_› (moveIn_inv (engAsk_inv k ..) ..)
      · split <;> exact fst_inv ‹_› (moveIn_inv k ..)

theorem countBad_inv {s : State} (h : Inv s) (n : Nat) : Inv (countBad s n) := by
  unfold countBad
  try dsimp only
  repeat' (first | with_reducible assumption | with_reducible apply bumpDie_inv | with_reducible apply inv_foldl | with_reducible apply inv_foldl_snd | with_reducible intro _ _ _ | with_reducible intro _ _ | (with_reducible apply inv_mk; first | with_reducible assumption | with_reducible apply bumpDie_inv | with_reducible apply inv_foldl | with_reducible apply inv_foldl_snd | with_reducible intro _ _ _ | with_reducible intro _ _ | split) | split)

theorem openEng_inv {s : State} (h : Inv s) (op : Nat) (held : List (Nat × List (List Cell))) : Inv (openEng s op
    held) := by
  unfold openEng
  try dsimp only
  repeat' (first | with_reducible assumption | with_reducible apply useFree_inv | with_reducible apply inv_foldl | with_reducible apply inv_foldl_snd | with_reducible intro _ _ _ | with_reducible intro _ _ | (with_reducible apply inv_mk; first | with_reducible assumption | with_reducible apply useFree_inv | with_reducible apply inv_foldl | with_reducible apply inv_foldl_snd | with_reducible intro _ _ _ | with_reducible intro _ _ | split) | split)

theorem runCopy_inv {s : State} (h : Inv s) (op : Nat) (e : EngOp) (src dst : DWord) (n : Nat) (sb db : Option Binding) :
    Inv (runCopy s op e src dst n sb db) := by
  unfold runCopy
  dsimp only
  split
  · exact fst_inv ‹_› (moveIn_inv h ..)
  · have k := fst_inv ‹_› (moveIn_inv h ..)
    refine inv_ite (fun _ => openEng_inv k ..) (fun _ => ?_)
    generalize hm : moveOut _ _ _ _ _ _ = r
    cases r with
    | stalled t => exact moved_stalled hm (moveOut_inv k ..)
    | done st t => exact finishEng_inv (moved_done hm (moveOut_inv k ..)) ..

theorem runDecode_inv {s : State} (h : Inv s) (op : Nat) (e : EngOp) (src dst : DWord) (n : Nat) : Inv (runDecode s op e src dst n) := by
  unfold runDecode
  dsimp only
  split
  · exact fst_inv ‹_› (streamIn_inv h ..)
  · have k := fst_inv ‹_› (streamIn_inv h ..)
    refine inv_ite (fun _ => countBad_inv (openEng_inv k ..) ..) (fun _ => ?_)
    generalize hm : moveOut _ _ _ _ _ _ = r
    cases r with
    | stalled t => exact moved_stalled hm (moveOut_inv k ..)
    | done st t => exact finishEng_inv (countBad_inv (moved_done hm (moveOut_inv k ..)) ..) ..

theorem issueCopies_inv {s : State} (h : Inv s) (c : Ctx) (dec : Bool) (y0 : List (Nat × Nat × Nat × Nat)) : Inv
    (issueCopies s c dec y0).1 := by
  induction y0 generalizing s with
  | nil => exact h
  | cons x rest ih =>
    obtain ⟨l, src, dst, n⟩ := x
    unfold issueCopies
    dsimp only
    exact inv_ite_fst (fun _ => h) (fun _ => ih (onPath_inv (inv_ite (fun _ => finishEng_inv (newEng_inv h ..) ..)
      (fun _ => regLocks_inv (newEng_inv h ..) ..)) ..))

theorem copyIssue_inv (f : ENG) (dec : Bool) (c : Ctx) {s : State} (h : Inv s) : Inv (copyIssue f dec c s) := by
  unfold copyIssue
  dsimp only
  refine inv_ite (fun _ => waitFor_inv h ..) (fun _ => ?_)
  split
  · exact waitFor_inv (fst_inv ‹issueCopies _ _ _ _ = _› (issueCopies_inv h ..)) ..
  · have k := fst_inv ‹issueCopies _ _ _ _ = _› (issueCopies_inv h ..)
    refine inv_ite (fun _ => ?_) (fun _ => settle_inv k ..)
    split
    · exact uniFault_inv k ..
    · exact advance_inv k ..

theorem rettWith_inv {s : State} (h : Inv s) (sel : Nat) (km : Mask) (c : Ctx) : Inv (rettWith sel km c s) := by
  unfold rettWith
  try dsimp only
  repeat' (first | with_reducible assumption | with_reducible apply trapAll_inv | with_reducible apply advance_inv | with_reducible apply onPath_inv | with_reducible apply inv_foldl | with_reducible apply inv_foldl_snd | with_reducible intro _ _ _ | with_reducible intro _ _ | (with_reducible apply inv_mk; first | with_reducible assumption | with_reducible apply trapAll_inv | with_reducible apply advance_inv | with_reducible apply onPath_inv | with_reducible apply inv_foldl | with_reducible apply inv_foldl_snd | with_reducible intro _ _ _ | with_reducible intro _ _ | split) | split)

theorem mapTouch_inv {s : State} (h : Inv s) (die : Nat) (a : Nat) : Inv (mapTouch s die a).2 := by
  unfold mapTouch
  try dsimp only
  split
  · exact h
  · split
    · exact h
    · rename_i e
      have k := takeFrameNear_inv h _ _ e
      split
      · exact h
      · rename_i e2
        exact inv_mk (mapObjPage_inv (zeroFrame_inv k _) _ _ _ _ e2)

theorem initGraph_inv {s : State} (h : Inv s) (oid : Nat) (cap : Nat) : Inv (initGraph s oid cap) := by
  unfold initGraph
  try dsimp only
  repeat' (first | with_reducible assumption | with_reducible apply gPut_inv | with_reducible apply inv_foldl | with_reducible apply inv_foldl_snd | with_reducible intro _ _ _ | with_reducible intro _ _ | (with_reducible apply inv_mk; first | with_reducible assumption | with_reducible apply gPut_inv | with_reducible apply inv_foldl | with_reducible apply inv_foldl_snd | with_reducible intro _ _ _ | with_reducible intro _ _ | split) | split)

theorem newObject_inv {s : State} (h : Inv s) (bs : List Byte) : Inv (newObject s bs).2 := by
  unfold newObject
  try dsimp only
  repeat' (first | with_reducible assumption | with_reducible apply shootDown_inv | with_reducible apply putEntry_inv | with_reducible apply initGraph_inv | with_reducible apply inv_foldl | with_reducible apply inv_foldl_snd | with_reducible intro _ _ _ | with_reducible intro _ _ | (with_reducible apply inv_mk; first | with_reducible assumption | with_reducible apply shootDown_inv | with_reducible apply putEntry_inv | with_reducible apply initGraph_inv | with_reducible apply inv_foldl | with_reducible apply inv_foldl_snd | with_reducible intro _ _ _ | with_reducible intro _ _ | split) | split)

theorem objset_inv {s : State} (h : Inv s) (f : SYS) (w : Nat) (c : Ctx) (put : ObjEnt → Nat → Option (Nat × List
    Byte)) : Inv (objset f w c s put) := by
  unfold objset
  try dsimp only
  repeat' (first | with_reducible assumption | with_reducible apply advance_inv | with_reducible apply uniFault_inv | with_reducible apply trapAll_inv | with_reducible apply waitFor_inv | with_reducible apply putEntry_inv | with_reducible apply inv_foldl | with_reducible apply inv_foldl_snd | with_reducible intro _ _ _ | with_reducible intro _ _ | (with_reducible apply inv_mk; first | with_reducible assumption | with_reducible apply advance_inv | with_reducible apply uniFault_inv | with_reducible apply trapAll_inv | with_reducible apply waitFor_inv | with_reducible apply putEntry_inv | with_reducible apply inv_foldl | with_reducible apply inv_foldl_snd | with_reducible intro _ _ _ | with_reducible intro _ _ | split) | split)

theorem transfer_inv {s : State} (h : Inv s) (c : Ctx) (fallFirst : Bool) (ts : List (Nat × Target)) : Inv (transfer s
    c fallFirst ts) := by
  unfold transfer
  try dsimp only
  repeat' (first | with_reducible assumption | with_reducible apply onPath_inv | with_reducible apply endClause_inv | with_reducible apply split_inv | with_reducible apply setPath_inv | with_reducible apply inv_foldl | with_reducible apply inv_foldl_snd | with_reducible intro _ _ _ | with_reducible intro _ _ | (with_reducible apply inv_mk; first | with_reducible assumption | with_reducible apply onPath_inv | with_reducible apply endClause_inv | with_reducible apply split_inv | with_reducible apply setPath_inv | with_reducible apply inv_foldl | with_reducible apply inv_foldl_snd | with_reducible intro _ _ _ | with_reducible intro _ _ | split) | split)

theorem transferOr_inv {s : State} (h : Inv s) (c : Ctx) (fallFirst : Bool) (ts : List (Nat × Target)) : Inv
    (transferOr s c fallFirst ts) := by
  unfold transferOr
  try dsimp only
  repeat' (first | with_reducible assumption | with_reducible apply takeTrap_inv | (have e := ‹takeTrap _ _ _ = _›; have q := takeTrap_inv (by assumption) _ _; rw [e] at q; exact q) | with_reducible apply transfer_inv | with_reducible apply inv_foldl | with_reducible apply inv_foldl_snd | with_reducible intro _ _ _ | with_reducible intro _ _ | (with_reducible apply inv_mk; first | with_reducible assumption | with_reducible apply takeTrap_inv | (have e := ‹takeTrap _ _ _ = _›; have q := takeTrap_inv (by assumption) _ _; rw [e] at q; exact q) | with_reducible apply transfer_inv | with_reducible apply inv_foldl | with_reducible apply inv_foldl_snd | with_reducible intro _ _ _ | with_reducible intro _ _ | split) | split)

theorem transferVia_inv {s : State} (h : Inv s) (c : Ctx) (f : RRR) (depth : Nat) (link : State → Mask → State)
    (hlink : ∀ x0 x1, Inv x0 → Inv (link x0 x1)) : Inv (transferVia s c f depth link) := by
  unfold transferVia
  extract_lets xs
  split
  · exact peerWait_inv h _ _ _ _ _ _ ‹_›
  · rename_i good ts extra s1 s2 go r _ _
    have k2 : Inv s2 := dropAnswers_inv (inv_foldl _ _ (fun u x k => touch_inv (relRead_inv k ..) ..) h) ..
    have kr : Inv r.1 := inv_ite_fst (fun _ => k2) (fun _ => takeTrap_inv k2 ..)
    exact inv_ite (fun _ => kr) (fun _ => inv_ite (fun _ => transfer_inv (hlink _ _ kr) ..) (fun _ => transferOr_inv kr ..))

theorem linkPair_inv {s : State} (h : Inv s) (c : Ctx) (d : BitVec 8) (m : Mask) : Inv (linkPair c d s m) := by
  unfold linkPair
  try dsimp only
  repeat' (first | with_reducible assumption | with_reducible apply onGang_inv | with_reducible apply inv_foldl | with_reducible apply inv_foldl_snd | with_reducible intro _ _ _ | with_reducible intro _ _ | (with_reducible apply inv_mk; first | with_reducible assumption | with_reducible apply onGang_inv | with_reducible apply inv_foldl | with_reducible apply inv_foldl_snd | with_reducible intro _ _ _ | with_reducible intro _ _ | split) | split)

theorem noteExit_inv {s t : State} (c : Ctx) (h : Inv t) : Inv (noteExit s c t) := by
  unfold noteExit
  split
  · split
    · exact h
    · exact inv_mk h
  · exact h

theorem setYield_inv {s : State} (h : Inv s) (c : Ctx) (k : Nat) : Inv (setYield s c k) := by
  unfold setYield
  try dsimp only
  repeat' (first | with_reducible assumption | with_reducible apply onPath_inv | with_reducible apply inv_foldl | with_reducible apply inv_foldl_snd | with_reducible intro _ _ _ | with_reducible intro _ _ | (with_reducible apply inv_mk; first | with_reducible assumption | with_reducible apply onPath_inv | with_reducible apply inv_foldl | with_reducible apply inv_foldl_snd | with_reducible intro _ _ _ | with_reducible intro _ _ | split) | split)

theorem markRecord_inv {s : State} (h : Inv s) (rec' : Nat) : Inv (markRecord s rec') := by
  unfold markRecord
  dsimp only
  split
  · exact h
  · exact inv_ite (fun _ => inv_onMg h _ (fun _ k => ok_of k rfl rfl rfl rfl rfl)) (fun _ => devMark_inv (devStore_inv h ..) ..)

theorem addCount_inv {s : State} (h : Inv s) (oid : Nat) (d : Nat) (rel : Option Nat) : Inv (addCount s oid d rel) :=
    by
  unfold addCount
  try dsimp only
  repeat' (first | with_reducible assumption | with_reducible apply devPut_inv | with_reducible apply inv_foldl | with_reducible apply inv_foldl_snd | with_reducible intro _ _ _ | with_reducible intro _ _ | (with_reducible apply inv_mk; first | with_reducible assumption | with_reducible apply devPut_inv | with_reducible apply inv_foldl | with_reducible apply inv_foldl_snd | with_reducible intro _ _ _ | with_reducible intro _ _ | split) | split)

theorem complete_inv {s : State} (h : Inv s) (compl : Nat) (status : Nat) (tag : Word) (retired : Nat) (tFirst :
    DWord) (tLast : DWord) (killed : Nat) (code : Nat) : Inv (complete s compl status tag retired tFirst tLast killed
    code) := by
  unfold complete
  try dsimp only
  repeat' (first | with_reducible assumption | with_reducible apply devStore_inv | with_reducible apply devPut_inv | with_reducible apply inv_foldl | with_reducible apply inv_foldl_snd | with_reducible intro _ _ _ | with_reducible intro _ _ | (with_reducible apply inv_mk; first | with_reducible assumption | with_reducible apply devStore_inv | with_reducible apply devPut_inv | with_reducible apply inv_foldl | with_reducible apply inv_foldl_snd | with_reducible intro _ _ _ | with_reducible intro _ _ | split) | split)

theorem waitRead_inv {s : State} (h : Inv s) (rk : Nat) (oid : Nat) : Inv (waitRead s rk oid) := by
  unfold waitRead
  try dsimp only
  repeat' (first | with_reducible assumption | with_reducible apply onRun_inv | with_reducible apply inv_foldl | with_reducible apply inv_foldl_snd | with_reducible intro _ _ _ | with_reducible intro _ _ | (with_reducible apply inv_mk; first | with_reducible assumption | with_reducible apply onRun_inv | with_reducible apply inv_foldl | with_reducible apply inv_foldl_snd | with_reducible intro _ _ _ | with_reducible intro _ _ | split) | split)

theorem pollWait_inv {s : State} (h : Inv s) (rk : Nat) (oid : Nat) : Inv (pollWait rk s oid) := by
  unfold pollWait
  try dsimp only
  repeat' (first | with_reducible assumption | with_reducible apply waitRead_inv | with_reducible apply askPeer_inv | with_reducible apply inv_foldl | with_reducible apply inv_foldl_snd | with_reducible intro _ _ _ | with_reducible intro _ _ | (with_reducible apply inv_mk; first | with_reducible assumption | with_reducible apply waitRead_inv | with_reducible apply askPeer_inv | with_reducible apply inv_foldl | with_reducible apply inv_foldl_snd | with_reducible intro _ _ _ | with_reducible intro _ _ | split) | split)

theorem pollWaits_inv {s : State} (h : Inv s)  : Inv (pollWaits s) := by
  unfold pollWaits
  try dsimp only
  repeat' (first | with_reducible assumption | with_reducible apply pollWait_inv | with_reducible apply inv_foldl | with_reducible apply inv_foldl_snd | with_reducible intro _ _ _ | with_reducible intro _ _ | (with_reducible apply inv_mk; first | with_reducible assumption | with_reducible apply pollWait_inv | with_reducible apply inv_foldl | with_reducible apply inv_foldl_snd | with_reducible intro _ _ _ | with_reducible intro _ _ | split) | split)

theorem finishRun_inv {s : State} (h : Inv s) (rk : Nat) (status : Nat) : Inv (finishRun s rk status) := by
  unfold finishRun
  try dsimp only
  repeat' (first | with_reducible assumption | with_reducible apply flushDirty_inv | with_reducible apply complete_inv | with_reducible apply addCount_inv | with_reducible apply signal_inv | with_reducible apply pollWaits_inv | with_reducible apply devMark_inv | with_reducible apply inv_foldl | with_reducible apply inv_foldl_snd | with_reducible intro _ _ _ | with_reducible intro _ _ | (with_reducible apply inv_mk; first | with_reducible assumption | with_reducible apply flushDirty_inv | with_reducible apply complete_inv | with_reducible apply addCount_inv | with_reducible apply signal_inv | with_reducible apply pollWaits_inv | with_reducible apply devMark_inv | with_reducible apply inv_foldl | with_reducible apply inv_foldl_snd | with_reducible intro _ _ _ | with_reducible intro _ _ | split) | split)

theorem serviceFull_inv {s : State} (h : Inv s)  : Inv (serviceFull s) := by
  unfold serviceFull
  try dsimp only
  repeat' (first | with_reducible assumption | ((with_reducible apply inv_onMg); case k => exact fun _ k => ok_of k rfl rfl rfl rfl rfl) | with_reducible apply inv_foldl | with_reducible apply inv_foldl_snd | with_reducible intro _ _ _ | with_reducible intro _ _ | (with_reducible apply inv_mk; first | with_reducible assumption | ((with_reducible apply inv_onMg); case k => exact fun _ k => ok_of k rfl rfl rfl rfl rfl) | with_reducible apply inv_foldl | with_reducible apply inv_foldl_snd | with_reducible intro _ _ _ | with_reducible intro _ _ | split) | split)

theorem redeal_inv {s : State} (h : Inv s) : Inv (redeal s) := by
  unfold redeal
  try dsimp only
  split
  · exact h
  · refine ⟨h.1, ?_, h.2.2⟩
    refine foldl_wf _ _ ?_ rfl
    intro a x w
    try dsimp only
    refine foldl_put_wf _ _ ?_ w
    intro e he
    have := h.2.1
    unfold Memory.wf Map.wfD at this
    rw [Bool.and_eq_true, List.all_eq_true] at this
    simpa using this.2 e (List.mem_filter.mp he).1

theorem portTake_inv {s : State} (h : Inv s) (p : Nat) (bs : List Byte) : Inv (portTake s p bs) := by
  unfold portTake
  try dsimp only
  repeat' (first | with_reducible assumption | with_reducible apply devStore_inv | with_reducible apply signal_inv | with_reducible apply bumpDie_inv | with_reducible apply inv_foldl | with_reducible apply inv_foldl_snd | with_reducible intro _ _ _ | with_reducible intro _ _ | (with_reducible apply inv_mk; first | with_reducible assumption | with_reducible apply devStore_inv | with_reducible apply signal_inv | with_reducible apply bumpDie_inv | with_reducible apply inv_foldl | with_reducible apply inv_foldl_snd | with_reducible intro _ _ _ | with_reducible intro _ _ | split) | split)

theorem unstall_inv {s : State} (h : Inv s) (y0 : Nat) : Inv (unstall s y0) := by
  induction y0 generalizing s with
  | zero => exact h
  | succ n ih =>
    unfold unstall
    split
    · exact h
    · split
      · refine ih (portTake_inv ?_ ..)
        exact h
      · exact h

theorem popPort_inv {s : State} (h : Inv s) (p : Nat) : ∀ x, (popPort s p) = some x → Inv x.2 := by
  unfold popPort
  try dsimp only
  repeat' (first | with_reducible assumption | (intro _ e; cases e) | with_reducible apply inv_foldl | with_reducible apply inv_foldl_snd | with_reducible intro _ _ _ | (with_reducible apply inv_mk; first | with_reducible assumption | (intro _ e; cases e) | with_reducible apply inv_foldl | with_reducible apply inv_foldl_snd | with_reducible intro _ _ _ | split) | split)

theorem acceptRecord_inv {s : State} (h : Inv s) (p : Nat) (bs : List Byte) : Inv (acceptRecord s p bs) := by
  unfold acceptRecord
  try dsimp only
  repeat' (first | with_reducible assumption | with_reducible apply pollWaits_inv | with_reducible apply complete_inv | ((with_reducible apply inv_onMg); case k => exact fun _ k => ok_of k rfl rfl rfl rfl rfl) | with_reducible apply bumpDie_inv | with_reducible apply addCount_inv | with_reducible apply signal_inv | with_reducible apply inv_foldl | with_reducible apply inv_foldl_snd | with_reducible intro _ _ _ | with_reducible intro _ _ | (with_reducible apply inv_mk; first | with_reducible assumption | with_reducible apply pollWaits_inv | with_reducible apply complete_inv | ((with_reducible apply inv_onMg); case k => exact fun _ k => ok_of k rfl rfl rfl rfl rfl) | with_reducible apply bumpDie_inv | with_reducible apply addCount_inv | with_reducible apply signal_inv | with_reducible apply inv_foldl | with_reducible apply inv_foldl_snd | with_reducible intro _ _ _ | with_reducible intro _ _ | split) | split)

theorem placeGang_inv {s : State} (h : Inv s) (ck : Nat) (no : Nat) (lr : LaunchRec) (crewNo : Nat) : Inv (placeGang s
    ck no lr crewNo) := by
  unfold placeGang
  try dsimp only
  repeat' (first | with_reducible assumption | with_reducible apply inv_foldl | with_reducible apply inv_foldl_snd | with_reducible intro _ _ _ | with_reducible intro _ _ | (with_reducible apply inv_mk; first | with_reducible assumption | with_reducible apply inv_foldl | with_reducible apply inv_foldl_snd | with_reducible intro _ _ _ | with_reducible intro _ _ | split) | split)

theorem seatCrew_inv {s : State} (h : Inv s) (core : Nat) (c : Crew) (ngran : Nat) (ntiles : Nat) : ∀ x, (seatCrew s
    core c ngran ntiles) = some x → Inv x.2 := by
  unfold seatCrew
  try dsimp only
  repeat' (first | with_reducible assumption | (intro _ e; cases e) | with_reducible apply inv_foldl | with_reducible apply inv_foldl_snd | with_reducible intro _ _ _ | (with_reducible apply inv_mk; first | with_reducible assumption | (intro _ e; cases e) | with_reducible apply inv_foldl | with_reducible apply inv_foldl_snd | with_reducible intro _ _ _ | split) | split)

theorem placeCrew_inv {s : State} (h : Inv s) (rk : Nat) (core : Nat) : Inv (placeCrew s rk core) := by
  unfold placeCrew
  try dsimp only
  repeat' (first | with_reducible assumption | (have e := ‹seatCrew _ _ _ _ _ = some _›; exact seatCrew_inv (by assumption) _ _ _ _ _ e) | (intro _ e; exact seatCrew_inv (by assumption) _ _ _ _ _ e) | with_reducible apply placeGang_inv | with_reducible apply serviceFull_inv | with_reducible apply onRun_inv | with_reducible apply inv_foldl | with_reducible apply inv_foldl_snd | with_reducible intro _ _ _ | with_reducible intro _ _ | (with_reducible apply inv_mk; first | with_reducible assumption | (have e := ‹seatCrew _ _ _ _ _ = some _›; exact seatCrew_inv (by assumption) _ _ _ _ _ e) | (intro _ e; exact seatCrew_inv (by assumption) _ _ _ _ _ e) | with_reducible apply placeGang_inv | with_reducible apply serviceFull_inv | with_reducible apply onRun_inv | with_reducible apply inv_foldl | with_reducible apply inv_foldl_snd | with_reducible intro _ _ _ | with_reducible intro _ _ | split) | split)

theorem placeAll_inv {s : State} (h : Inv s) (rk : Nat) (y0 : Nat) : Inv (placeAll s rk y0) := by
  induction y0 generalizing s with
  | zero => exact h
  | succ n ih =>
    unfold placeAll
    try dsimp only
    split
    · exact h
    · exact ih (placeCrew_inv h ..)

theorem leaveBarriers_inv {s : State} (h : Inv s) (g : Gang) : Inv (leaveBarriers s g) := by
  unfold leaveBarriers
  try dsimp only
  repeat' (first | with_reducible assumption | with_reducible apply barUpdate_inv | with_reducible apply inv_foldl | with_reducible apply inv_foldl_snd | with_reducible intro _ _ _ | with_reducible intro _ _ | (with_reducible apply inv_mk; first | with_reducible assumption | with_reducible apply barUpdate_inv | with_reducible apply inv_foldl | with_reducible apply inv_foldl_snd | with_reducible intro _ _ _ | with_reducible intro _ _ | split) | split)

theorem retireGang_inv {s : State} (h : Inv s) (gk : Nat) : Inv (retireGang s gk) := by
  unfold retireGang
  try dsimp only
  repeat' (first | with_reducible assumption | with_reducible apply onGang_inv | with_reducible apply leaveBarriers_inv | with_reducible apply onRun_inv | with_reducible apply endReclaims_inv | with_reducible apply onCrew_inv | with_reducible apply inv_foldl | with_reducible apply inv_foldl_snd | with_reducible intro _ _ _ | with_reducible intro _ _ | (with_reducible apply inv_mk; first | with_reducible assumption | with_reducible apply onGang_inv | with_reducible apply leaveBarriers_inv | with_reducible apply onRun_inv | with_reducible apply endReclaims_inv | with_reducible apply onCrew_inv | with_reducible apply inv_foldl | with_reducible apply inv_foldl_snd | with_reducible intro _ _ _ | with_reducible intro _ _ | split) | split)

theorem crewRetired_inv {s : State} (h : Inv s) (rk : Nat) : Inv (crewRetired s rk) := by
  unfold crewRetired
  try dsimp only
  repeat' (first | with_reducible assumption | with_reducible apply onRun_inv | with_reducible apply serviceFull_inv | with_reducible apply redeal_inv | with_reducible apply finishRun_inv | with_reducible apply pollWaits_inv | with_reducible apply inv_foldl | with_reducible apply inv_foldl_snd | with_reducible intro _ _ _ | with_reducible intro _ _ | (with_reducible apply inv_mk; first | with_reducible assumption | with_reducible apply onRun_inv | with_reducible apply serviceFull_inv | with_reducible apply redeal_inv | with_reducible apply finishRun_inv | with_reducible apply pollWaits_inv | with_reducible apply inv_foldl | with_reducible apply inv_foldl_snd | with_reducible intro _ _ _ | with_reducible intro _ _ | split) | split)

theorem beginDrain_inv {s : State} (h : Inv s) (ck : Nat) : ∀ t, (beginDrain s ck) = some t → Inv t := by
  unfold beginDrain
  try dsimp only
  repeat' (first | with_reducible assumption | with_reducible apply onCrew_inv | with_reducible apply bumpRange_inv | with_reducible apply endReclaims_inv | (intro _ e; cases e) | with_reducible apply inv_foldl | with_reducible apply inv_foldl_snd | with_reducible intro _ _ _ | (with_reducible apply inv_mk; first | with_reducible assumption | with_reducible apply onCrew_inv | with_reducible apply bumpRange_inv | with_reducible apply endReclaims_inv | (intro _ e; cases e) | with_reducible apply inv_foldl | with_reducible apply inv_foldl_snd | with_reducible intro _ _ _ | split) | split)

theorem beginDrains_inv {s : State} (h : Inv s) (cks : List Nat) : ∀ t, (beginDrains s cks) = some t → Inv t := by
  intro t e
  exact inv_foldlM _ _ (fun u i v k e => beginDrain_inv k _ _ e) h e

theorem dropCrew_inv {s : State} (h : Inv s) (ck : Nat) : Inv (dropCrew s ck) := by
  unfold dropCrew
  try dsimp only
  repeat' (first | with_reducible assumption | with_reducible apply inv_foldl | with_reducible apply inv_foldl_snd | with_reducible intro _ _ _ | with_reducible intro _ _ | (with_reducible apply inv_mk; first | with_reducible assumption | with_reducible apply inv_foldl | with_reducible apply inv_foldl_snd | with_reducible intro _ _ _ | with_reducible intro _ _ | split) | split)

theorem areaPut_inv {s : State} (h : Inv s) (gran : Nat) (off : Nat) (bs : List Byte) : Inv (areaPut s gran off bs) :=
    by
  unfold areaPut
  try dsimp only
  repeat' (first | with_reducible assumption | with_reducible apply devStore_inv | with_reducible apply inv_foldl | with_reducible apply inv_foldl_snd | with_reducible intro _ _ _ | with_reducible intro _ _ | (with_reducible apply inv_mk; first | with_reducible assumption | with_reducible apply devStore_inv | with_reducible apply inv_foldl | with_reducible apply inv_foldl_snd | with_reducible intro _ _ _ | with_reducible intro _ _ | split) | split)

theorem saveTile_inv {s : State} (h : Inv s) (base : Nat) (gran : Nat) : Inv (saveTile s base gran) := by
  unfold saveTile
  try dsimp only
  repeat' (first | with_reducible assumption | with_reducible apply areaPut_inv | with_reducible apply poisonByte_inv | with_reducible apply inv_foldl | with_reducible apply inv_foldl_snd | with_reducible intro _ _ _ | with_reducible intro _ _ | (with_reducible apply inv_mk; first | with_reducible assumption | with_reducible apply areaPut_inv | with_reducible apply poisonByte_inv | with_reducible apply inv_foldl | with_reducible apply inv_foldl_snd | with_reducible intro _ _ _ | with_reducible intro _ _ | split) | split)

theorem saveGranule_inv {s : State} (h : Inv s) (base : Nat) (gran : Nat) : Inv (saveGranule s base gran) := by
  unfold saveGranule
  try dsimp only
  repeat' (first | with_reducible assumption | with_reducible apply areaPut_inv | with_reducible apply poisonByte_inv | with_reducible apply inv_foldl | with_reducible apply inv_foldl_snd | with_reducible intro _ _ _ | with_reducible intro _ _ | (with_reducible apply inv_mk; first | with_reducible assumption | with_reducible apply areaPut_inv | with_reducible apply poisonByte_inv | with_reducible apply inv_foldl | with_reducible apply inv_foldl_snd | with_reducible intro _ _ _ | with_reducible intro _ _ | split) | split)

theorem savePins_inv {s : State} (h : Inv s) (ck : Nat) (gran : Nat) : Inv (savePins s ck gran) := by
  unfold savePins
  try dsimp only
  repeat' (first | with_reducible assumption | with_reducible apply devStore_inv | with_reducible apply inv_foldl | with_reducible apply inv_foldl_snd | with_reducible intro _ _ _ | with_reducible intro _ _ | (with_reducible apply inv_mk; first | with_reducible assumption | with_reducible apply devStore_inv | with_reducible apply inv_foldl | with_reducible apply inv_foldl_snd | with_reducible intro _ _ _ | with_reducible intro _ _ | split) | split)

theorem saveCrew_inv {s : State} (h : Inv s) (ck : Nat) : Inv (saveCrew s ck) := by
  unfold saveCrew
  try dsimp only
  repeat' (first | with_reducible assumption | with_reducible apply savePins_inv | with_reducible apply endReclaims_inv | with_reducible apply areaPut_inv | with_reducible apply saveTile_inv | with_reducible apply saveGranule_inv | with_reducible apply dropCrew_inv | with_reducible apply freeEntry_inv | with_reducible apply inv_foldl | with_reducible apply inv_foldl_snd | with_reducible intro _ _ _ | with_reducible intro _ _ | (with_reducible apply inv_mk; first | with_reducible assumption | with_reducible apply savePins_inv | with_reducible apply endReclaims_inv | with_reducible apply areaPut_inv | with_reducible apply saveTile_inv | with_reducible apply saveGranule_inv | with_reducible apply dropCrew_inv | with_reducible apply freeEntry_inv | with_reducible apply inv_foldl | with_reducible apply inv_foldl_snd | with_reducible intro _ _ _ | with_reducible intro _ _ | split) | split)

theorem resumeGang_inv {s : State} (h : Inv s) (ck : Nat) (lr : LaunchRec) (p : PreCrew) (a : Nat) : Inv (resumeGang s
    ck lr p a) := by
  unfold resumeGang
  refine inv_ite (fun _ => h) (fun _ => ?_)
  split
  · exact h
  · refine inv_foldl _ _ (fun t j k => ?_) (inv_mk h)
    split
    · exact k
    · exact inv_ite (fun _ => inv_mk (setPath_inv (inv_mk k) ..)) (fun _ => setPath_inv (inv_mk k) ..)

theorem dropPinRecs_inv {s : State} (h : Inv s) (gran : Nat) : Inv (dropPinRecs s gran) := by
  unfold dropPinRecs
  try dsimp only
  split
  · exact h
  · refine inv_foldl _ _ ?_ h
    intro u i k
    try dsimp only
    split
    · exact devStore_inv k ..
    · exact k

theorem loadTile_inv {s : State} (h : Inv s) (base : Nat) (gran : Nat) : Inv (loadTile s base gran) := by
  unfold loadTile
  try dsimp only
  repeat' (first | with_reducible assumption | with_reducible apply inv_foldl | with_reducible apply inv_foldl_snd | with_reducible intro _ _ _ | with_reducible intro _ _ | (with_reducible apply inv_mk; first | with_reducible assumption | with_reducible apply inv_foldl | with_reducible apply inv_foldl_snd | with_reducible intro _ _ _ | with_reducible intro _ _ | split) | split)

theorem loadGranule_inv {s : State} (h : Inv s) (base : Nat) (gran : Nat) (i : Nat) (rels : Map Rel) : Inv
    (loadGranule s base gran i rels) := by
  unfold loadGranule
  try dsimp only
  repeat' (first | with_reducible assumption | with_reducible apply plainPut_inv | with_reducible apply inv_foldl | with_reducible apply inv_foldl_snd | with_reducible intro _ _ _ | with_reducible intro _ _ | (with_reducible apply inv_mk; first | with_reducible assumption | with_reducible apply plainPut_inv | with_reducible apply inv_foldl | with_reducible apply inv_foldl_snd | with_reducible intro _ _ _ | with_reducible intro _ _ | split) | split)

theorem lostCrew_inv {s : State} (h : Inv s) (p : PreCrew) : Inv (lostCrew s p) := by
  unfold lostCrew
  try dsimp only
  repeat' (first | with_reducible assumption | with_reducible apply dropPinRecs_inv | with_reducible apply onRun_inv | with_reducible apply crewRetired_inv | with_reducible apply inv_foldl | with_reducible apply inv_foldl_snd | with_reducible intro _ _ _ | with_reducible intro _ _ | (with_reducible apply inv_mk; first | with_reducible assumption | with_reducible apply dropPinRecs_inv | with_reducible apply onRun_inv | with_reducible apply crewRetired_inv | with_reducible apply inv_foldl | with_reducible apply inv_foldl_snd | with_reducible intro _ _ _ | with_reducible intro _ _ | split) | split)

theorem resumeOn_inv {s : State} (h : Inv s) (p : PreCrew) (core : Nat) (seat : Bool) : Inv (resumeOn s p core seat) := by
  unfold resumeOn
  extract_lets lr s1 a
  have k1 : Inv s1 := inv_mk h
  split
  · exact lostCrew_inv k1 ..
  · rename_i as _
    dsimp only
    split
    · exact k1
    · rename_i ck s2 e
      have k2 : Inv s2 := seatCrew_inv k1 _ _ _ _ _ e
      have k3 : Inv (if seat then onCrew s2 ck (fun c => { c with gran := p.scratch, tiles := p.tiles }) else s2) :=
        inv_ite (fun _ => onCrew_inv k2 ..) (fun _ => k2)
      refine serviceFull_inv (dropPinRecs_inv (inv_foldl _ _ (fun u x k => resumeGang_inv k ..) ?_) ..)
      refine inv_foldl _ _ (fun u x k => loadGranule_inv k ..) ?_
      exact inv_foldl _ _ (fun u x k => loadTile_inv k ..) k3

theorem writeSavepool_inv {s : State} (h : Inv s) (v : Nat) : Inv (writeSavepool s v) := by
  unfold writeSavepool
  try dsimp only
  repeat' (first | with_reducible assumption | ((with_reducible apply inv_onMg); case k => exact fun _ k => ok_of k rfl rfl rfl rfl rfl) | with_reducible apply inv_foldl | with_reducible apply inv_foldl_snd | with_reducible intro _ _ _ | with_reducible intro _ _ | (with_reducible apply inv_mk; first | with_reducible assumption | ((with_reducible apply inv_onMg); case k => exact fun _ k => ok_of k rfl rfl rfl rfl rfl) | with_reducible apply inv_foldl | with_reducible apply inv_foldl_snd | with_reducible intro _ _ _ | with_reducible intro _ _ | split) | split)

theorem growthGrant_inv {s : State} (h : Inv s) (gk : Nat) (n : Nat) : Inv (growthGrant s gk n) := by
  unfold growthGrant
  try dsimp only
  repeat' (first | with_reducible assumption | with_reducible apply onGang_inv | with_reducible apply inv_foldl | with_reducible apply inv_foldl_snd | with_reducible intro _ _ _ | with_reducible intro _ _ | (with_reducible apply inv_mk; first | with_reducible assumption | with_reducible apply onGang_inv | with_reducible apply inv_foldl | with_reducible apply inv_foldl_snd | with_reducible intro _ _ _ | with_reducible intro _ _ | split) | split)

theorem xform_inv {s : State} (h : Inv s) (f : ENG) (t : Nat) (c : Ctx) : Inv (xform f t c s) := by
  unfold xform
  try dsimp only
  repeat' (first | with_reducible assumption | with_reducible apply advance_inv | with_reducible apply uniFault_inv | with_reducible apply trapAll_inv | with_reducible apply waitFor_inv | with_reducible apply newEng_inv | (have e := ‹newEng _ _ _ _ _ = _›; have q := newEng_inv (by assumption) _ _ _ _; rw [e] at q; exact q) | with_reducible apply regLocks_inv | with_reducible apply inv_foldl | with_reducible apply inv_foldl_snd | with_reducible intro _ _ _ | with_reducible intro _ _ | (with_reducible apply inv_mk; first | with_reducible assumption | with_reducible apply advance_inv | with_reducible apply uniFault_inv | with_reducible apply trapAll_inv | with_reducible apply waitFor_inv | with_reducible apply newEng_inv | (have e := ‹newEng _ _ _ _ _ = _›; have q := newEng_inv (by assumption) _ _ _ _; rw [e] at q; exact q) | with_reducible apply regLocks_inv | with_reducible apply inv_foldl | with_reducible apply inv_foldl_snd | with_reducible intro _ _ _ | with_reducible intro _ _ | split) | split)

theorem xSource_inv {s : State} (h : Inv s) (w : Who) (e : EngOp) (op : Nat) (r : Lay) (t : Nat) : Inv (xSource s w e
    op r t).1 := by
  unfold xSource
  try dsimp only
  repeat' (first | with_reducible assumption | with_reducible apply streamIn_inv | (have e := ‹streamIn _ _ _ _ _ _ _ = _›; have q := streamIn_inv (by assumption) _ _ _ _ _ _; rw [e] at q; exact q) | with_reducible apply moveIn_inv | (have e := ‹moveIn _ _ _ _ _ _ = _›; have q := moveIn_inv (by assumption) _ _ _ _ _; rw [e] at q; exact q) | with_reducible apply inv_foldl | with_reducible apply inv_foldl_snd | with_reducible intro _ _ _ | with_reducible intro _ _ | (with_reducible apply inv_mk; first | with_reducible assumption | with_reducible apply streamIn_inv | (have e := ‹streamIn _ _ _ _ _ _ _ = _›; have q := streamIn_inv (by assumption) _ _ _ _ _ _; rw [e] at q; exact q) | with_reducible apply moveIn_inv | (have e := ‹moveIn _ _ _ _ _ _ = _›; have q := moveIn_inv (by assumption) _ _ _ _ _; rw [e] at q; exact q) | with_reducible apply inv_foldl | with_reducible apply inv_foldl_snd | with_reducible intro _ _ _ | with_reducible intro _ _ | split) | split)

theorem writeXform_inv {s : State} (h : Inv s) (op : Nat) (w : Who) (r : Lay) (lost poisoned : Bool) (o : XOut) :
    Inv (writeXform s op w r lost poisoned o) := by
  unfold writeXform
  dsimp only
  refine inv_ite (fun _ => engAsk_inv h ..) (fun _ => ?_)
  generalize hm : moveOut _ _ _ _ _ _ = m
  cases m with
  | stalled t => exact moved_stalled hm (moveOut_inv (engAsk_inv h ..) ..)
  | done st t => exact finishEng_inv (countBad_inv (moved_done hm (moveOut_inv (engAsk_inv h ..) ..)) ..) ..

theorem runXform_inv {s : State} (h : Inv s) (op : Nat) (e : EngOp) (t : Nat) (r : Lay) : Inv (runXform s op e t r) := by
  unfold runXform
  dsimp only
  split
  · exact fst_inv ‹_› (xSource_inv h ..)
  · have q := fst_inv ‹_› (xSource_inv h ..)
    split
    · exact fst_inv ‹_› (moveIn_inv q ..)
    · have q2 := fst_inv ‹_› (moveIn_inv q ..)
      split
      · exact fst_inv ‹_› (moveIn_inv q2 ..)
      · have q3 := fst_inv ‹_› (moveIn_inv q2 ..)
        exact inv_ite (fun _ => countBad_inv (openEng_inv q3 ..) ..) (fun _ => writeXform_inv q3 ..)

theorem putAcc_inv {s : State} (h : Inv s) (tile : Nat) (i : Nat) (x : Nat) : Inv (putAcc s tile i x) := by
  unfold putAcc
  try dsimp only
  repeat' (first | with_reducible assumption | with_reducible apply inv_foldl | with_reducible apply inv_foldl_snd | with_reducible intro _ _ _ | with_reducible intro _ _ | (with_reducible apply inv_mk; first | with_reducible assumption | with_reducible apply inv_foldl | with_reducible apply inv_foldl_snd | with_reducible intro _ _ _ | with_reducible intro _ _ | split) | split)

theorem accClean_inv {s : State} (h : Inv s) (tile : Nat) (i : Nat) : Inv (accClean s tile i) := by
  unfold accClean
  try dsimp only
  repeat' (first | with_reducible assumption | with_reducible apply inv_foldl | with_reducible apply inv_foldl_snd | with_reducible intro _ _ _ | with_reducible intro _ _ | (with_reducible apply inv_mk; first | with_reducible assumption | with_reducible apply inv_foldl | with_reducible apply inv_foldl_snd | with_reducible intro _ _ _ | with_reducible intro _ _ | split) | split)

theorem passStep_inv {s : State} (h : Inv s) (w : Who) (tile : Nat) (steps : Nat) (a : Opr) (b : Opr) (st : Nat) : ∀
    t, (passStep s w tile steps a b st) = some t → Inv t := by
  intro t e
  unfold passStep at e
  simp only [Option.bind_eq_bind, Option.bind_eq_some_iff, Option.pure_def] at e
  obtain ⟨as, -, bs, -, e⟩ := e
  cases e
  refine inv_foldl _ _ ?_ h
  intro u x k
  refine inv_foldl _ _ ?_ k
  intro u y k
  exact putAcc_inv k ..

theorem passChain_inv (w : Who) (tile : Nat) (steps : Nat) (a : Opr) (b : Opr) (y0 : Nat) {y1 : State} (h : Inv y1)
    : Inv (passChain w tile steps a b y0 y1).1 := by
  induction y0 generalizing y1 with
  | zero => exact h
  | succ k ih =>
    unfold passChain
    split
    · rename_i e
      exact ih (passStep_inv h _ _ _ _ _ _ _ e)
    · exact h

theorem reachTile_inv {s : State} (h : Inv s) (tile : Nat) (op : Nat) : Inv (reachTile s tile op) := by
  unfold reachTile
  try dsimp only
  repeat' (first | with_reducible assumption | with_reducible apply inv_foldl | with_reducible apply inv_foldl_snd | with_reducible intro _ _ _ | with_reducible intro _ _ | (with_reducible apply inv_mk; first | with_reducible assumption | with_reducible apply inv_foldl | with_reducible apply inv_foldl_snd | with_reducible intro _ _ _ | with_reducible intro _ _ | split) | split)

theorem popTile_inv {s : State} (h : Inv s) (tile : Nat) : Inv (popTile s tile) := by
  unfold popTile
  try dsimp only
  repeat' (first | with_reducible assumption | with_reducible apply inv_foldl | with_reducible apply inv_foldl_snd | with_reducible intro _ _ _ | with_reducible intro _ _ | (with_reducible apply inv_mk; first | with_reducible assumption | with_reducible apply inv_foldl | with_reducible apply inv_foldl_snd | with_reducible intro _ _ _ | with_reducible intro _ _ | split) | split)

theorem cancelDrains_inv {s : State} (h : Inv s) (tile : Nat) : Inv (cancelDrains s tile) := by
  unfold cancelDrains
  try dsimp only
  repeat' (first | with_reducible assumption | with_reducible apply inv_foldl | with_reducible apply inv_foldl_snd | with_reducible intro _ _ _ | with_reducible intro _ _ | (with_reducible apply inv_mk; first | with_reducible assumption | with_reducible apply inv_foldl | with_reducible apply inv_foldl_snd | with_reducible intro _ _ _ | with_reducible intro _ _ | split) | split)

theorem postPass_inv {s : State} (h : Inv s) (c : Ctx) (tile : Nat) (op : Nat) : Inv (postPass s c tile op) := by
  unfold postPass
  try dsimp only
  repeat' (first | with_reducible assumption | with_reducible apply reachTile_inv | with_reducible apply advance_inv | with_reducible apply inv_foldl | with_reducible apply inv_foldl_snd | with_reducible intro _ _ _ | with_reducible intro _ _ | (with_reducible apply inv_mk; first | with_reducible assumption | with_reducible apply reachTile_inv | with_reducible apply advance_inv | with_reducible apply inv_foldl | with_reducible apply inv_foldl_snd | with_reducible intro _ _ _ | with_reducible intro _ _ | split) | split)

theorem tilePlain_inv {s : State} (h : Inv s) (f : ENG) (drain : Bool) (c : Ctx) : Inv (tilePlain f drain c s) := by
  unfold tilePlain
  refine inv_ite (fun _ => trapAll_inv h ..) (fun _ => inv_ite (fun _ => trapAll_inv h ..) (fun _ => ?_))
  refine inv_ite (fun _ => advance_inv h ..) (fun _ => inv_ite (fun _ => uniFault_inv h ..) (fun _ => ?_))
  refine inv_ite (fun _ => uniFault_inv h ..) (fun _ => ?_)
  split
  · exact uniFault_inv h ..
  · refine inv_ite (fun _ => waitFor_inv h ..) (fun _ => inv_ite (fun _ => waitFor_inv h ..) (fun _ => ?_))
    dsimp only
    exact advance_inv (reachTile_inv (regLocks_inv (newEng_inv h ..) ..) ..) ..

theorem onOpGang_inv {s : State} (h : Inv s) (e : EngOp) (f : Gang → Gang) : Inv (onOpGang s e f) := by
  unfold onOpGang
  try dsimp only
  repeat' (first | with_reducible assumption | with_reducible apply onGang_inv | with_reducible apply inv_foldl | with_reducible apply inv_foldl_snd | with_reducible intro _ _ _ | with_reducible intro _ _ | (with_reducible apply inv_mk; first | with_reducible assumption | with_reducible apply onGang_inv | with_reducible apply inv_foldl | with_reducible apply inv_foldl_snd | with_reducible intro _ _ _ | with_reducible intro _ _ | split) | split)

theorem performTile_inv {s : State} (h : Inv s) (op : Nat) (e : EngOp) : Inv (performTile s op e) := by
  unfold performTile
  try dsimp only
  split
  · refine popTile_inv (finishEng_inv ?_ ..) ..
    exact h
  · exact popTile_inv (finishEng_inv (useFree_inv (onOpGang_inv h ..)) ..) ..
  · refine popTile_inv (finishEng_inv (inv_foldl _ _ ?_ h) ..) ..
    intro u k hu
    exact putAcc_inv hu ..
  · split
    · exact moved_stalled ‹_› (moveOut_inv h ..)
    · exact popTile_inv (finishEng_inv (moved_done ‹_› (moveOut_inv h ..)) ..) ..
  · refine popTile_inv (finishEng_inv (inv_foldl _ _ ?_ h) ..) ..
    intro u k hu
    exact putAcc_inv (accClean_inv hu ..) ..
  · exact h

theorem swapIn_inv {s : State} (h : Inv s) (q : Nat) : Inv (swapIn s q) := by
  unfold swapIn
  try dsimp only
  repeat' (first | with_reducible assumption | with_reducible apply onPath_inv | with_reducible apply bumpCore_inv | with_reducible apply inv_foldl | with_reducible apply inv_foldl_snd | with_reducible intro _ _ _ | with_reducible intro _ _ | (with_reducible apply inv_mk; first | with_reducible assumption | with_reducible apply onPath_inv | with_reducible apply bumpCore_inv | with_reducible apply inv_foldl | with_reducible apply inv_foldl_snd | with_reducible intro _ _ _ | with_reducible intro _ _ | split) | split)

theorem elapse_inv {s : State} (h : Inv s)  : Inv (elapse s) := by
  unfold elapse
  try dsimp only
  repeat' (first | with_reducible assumption | with_reducible apply bumpCtr_inv | with_reducible apply inv_foldl | with_reducible apply inv_foldl_snd | with_reducible intro _ _ _ | with_reducible intro _ _ | (with_reducible apply inv_mk; first | with_reducible assumption | with_reducible apply bumpCtr_inv | with_reducible apply inv_foldl | with_reducible apply inv_foldl_snd | with_reducible intro _ _ _ | with_reducible intro _ _ | split) | split)

theorem lensRecord_inv {s : State} (h : Inv s) (rec' : List Byte) (core : Nat) (quad : Nat) : Inv (lensRecord s rec'
    core quad) := by
  unfold lensRecord
  try dsimp only
  repeat' (first | with_reducible assumption | ((with_reducible apply inv_onMg); case k => exact fun _ k => ok_of k rfl rfl rfl rfl rfl) | with_reducible apply devStore_inv | with_reducible apply bumpCore_inv | with_reducible apply devMark_inv | with_reducible apply inv_foldl | with_reducible apply inv_foldl_snd | with_reducible intro _ _ _ | with_reducible intro _ _ | (with_reducible apply inv_mk; first | with_reducible assumption | ((with_reducible apply inv_onMg); case k => exact fun _ k => ok_of k rfl rfl rfl rfl rfl) | with_reducible apply devStore_inv | with_reducible apply bumpCore_inv | with_reducible apply devMark_inv | with_reducible apply inv_foldl | with_reducible apply inv_foldl_snd | with_reducible intro _ _ _ | with_reducible intro _ _ | split) | split)

theorem lensTry_inv {s : State} (h : Inv s) (pk : Nat) (p : Path) (w : Nat) : Inv (lensTry s pk p w) := by
  unfold lensTry
  try dsimp only
  repeat' (first | with_reducible assumption | with_reducible apply inv_foldl | with_reducible apply inv_foldl_snd | with_reducible intro _ _ _ | with_reducible intro _ _ | (with_reducible apply inv_mk; first | with_reducible assumption | with_reducible apply inv_foldl | with_reducible apply inv_foldl_snd | with_reducible intro _ _ _ | with_reducible intro _ _ | split) | split)

theorem lensSettle_inv {s : State} (h : Inv s)  : Inv (lensSettle s) := by
  unfold lensSettle
  try dsimp only
  repeat' (first | with_reducible assumption | with_reducible apply lensRecord_inv | with_reducible apply inv_foldl | with_reducible apply inv_foldl_snd | with_reducible intro _ _ _ | with_reducible intro _ _ | (with_reducible apply inv_mk; first | with_reducible assumption | with_reducible apply lensRecord_inv | with_reducible apply inv_foldl | with_reducible apply inv_foldl_snd | with_reducible intro _ _ _ | with_reducible intro _ _ | split) | split)

theorem mergeTwo_inv {s : State} (h : Inv s) (a : Nat × Path) (b : Nat × Path) : Inv (mergeTwo s a b).2 := by
  unfold mergeTwo
  try dsimp only
  repeat' (first | with_reducible assumption | with_reducible apply bumpCore_inv | with_reducible apply freeEntry_inv | with_reducible apply setPath_inv | with_reducible apply inv_foldl | with_reducible apply inv_foldl_snd | with_reducible intro _ _ _ | with_reducible intro _ _ | (with_reducible apply inv_mk; first | with_reducible assumption | with_reducible apply bumpCore_inv | with_reducible apply freeEntry_inv | with_reducible apply setPath_inv | with_reducible apply inv_foldl | with_reducible apply inv_foldl_snd | with_reducible intro _ _ _ | with_reducible intro _ _ | split) | split)

theorem mergeAll_inv {s : State} (h : Inv s) (pk : Nat) (y0 : List Nat) : Inv (mergeAll s pk y0).2 := by
  induction y0 generalizing s pk with
  | nil => exact h
  | cons k ks ih =>
    unfold mergeAll
    split
    · exact ih (mergeTwo_inv h ..) _
    · exact ih h _

theorem mergeSide_inv {s : State} (h : Inv s) (pk : Nat) (y0 : Nat) : Inv (mergeSide s pk y0) := by
  induction y0 generalizing s with
  | zero => exact h
  | succ n ih =>
    unfold mergeSide
    split
    · exact h
    · split
      · split
        · exact ih (bumpCore_inv (setPath_inv (inv_mk h) ..) ..)
        · exact h
      · exact h

theorem dropFetch_inv {s : State} (h : Inv s) (pk : Nat) : Inv (dropFetch s pk) := by
  unfold dropFetch
  try dsimp only
  repeat' (first | with_reducible assumption | with_reducible apply inv_foldl | with_reducible apply inv_foldl_snd | with_reducible intro _ _ _ | with_reducible intro _ _ | (with_reducible apply inv_mk; first | with_reducible assumption | with_reducible apply inv_foldl | with_reducible apply inv_foldl_snd | with_reducible intro _ _ _ | with_reducible intro _ _ | split) | split)

theorem fetchPeer_inv {s : State} (h : Inv s) (pk : Nat) (p : Path) (w : Who) (as : List Nat) : Inv (fetchPeer s pk p
    w as) := by
  unfold fetchPeer
  try dsimp only
  repeat' (first | with_reducible assumption | with_reducible apply askPeer_inv | with_reducible apply onPath_inv | with_reducible apply inv_foldl | with_reducible apply inv_foldl_snd | with_reducible intro _ _ _ | with_reducible intro _ _ | (with_reducible apply inv_mk; first | with_reducible assumption | with_reducible apply askPeer_inv | with_reducible apply onPath_inv | with_reducible apply inv_foldl | with_reducible apply inv_foldl_snd | with_reducible intro _ _ _ | with_reducible intro _ _ | split) | split)

theorem headerFault_inv {s : State} (h : Inv s) (pk : Nat) (p : Path) (code : TrapCode) (extra : List Word) : Inv
    (headerFault s pk p code extra) := by
  unfold headerFault
  try dsimp only
  repeat' (first | with_reducible assumption | with_reducible apply takeTrap_inv | (have e := ‹takeTrap _ _ _ = _›; have q := takeTrap_inv (by assumption) _ _; rw [e] at q; exact q) | with_reducible apply dropFetch_inv | with_reducible apply inv_foldl | with_reducible apply inv_foldl_snd | with_reducible intro _ _ _ | with_reducible intro _ _ | (with_reducible apply inv_mk; first | with_reducible assumption | with_reducible apply takeTrap_inv | (have e := ‹takeTrap _ _ _ = _›; have q := takeTrap_inv (by assumption) _ _; rw [e] at q; exact q) | with_reducible apply dropFetch_inv | with_reducible apply inv_foldl | with_reducible apply inv_foldl_snd | with_reducible intro _ _ _ | with_reducible intro _ _ | split) | split)

theorem fetchStall_inv {s : State} (h : Inv s) (pk : Nat) (a : DWord) : Inv (fetchStall s pk a) := by
  unfold fetchStall
  try dsimp only
  repeat' (first | with_reducible assumption | with_reducible apply onPath_inv | with_reducible apply inv_foldl | with_reducible apply inv_foldl_snd | with_reducible intro _ _ _ | with_reducible intro _ _ | (with_reducible apply inv_mk; first | with_reducible assumption | with_reducible apply onPath_inv | with_reducible apply inv_foldl | with_reducible apply inv_foldl_snd | with_reducible intro _ _ _ | with_reducible intro _ _ | split) | split)

theorem beginClause_inv {s : State} (h : Inv s) (pk : Nat) : Inv (beginClause s pk) := by
  unfold beginClause
  try dsimp only
  repeat' (first | with_reducible assumption | with_reducible apply headerFault_inv | with_reducible apply fetchStall_inv | with_reducible apply fetchPeer_inv | with_reducible apply touch_inv | with_reducible apply dropFetch_inv | with_reducible apply bumpCore_inv | with_reducible apply setPath_inv | with_reducible apply inv_foldl | with_reducible apply inv_foldl_snd | with_reducible intro _ _ _ | with_reducible intro _ _ | (with_reducible apply inv_mk; first | with_reducible assumption | with_reducible apply headerFault_inv | with_reducible apply fetchStall_inv | with_reducible apply fetchPeer_inv | with_reducible apply touch_inv | with_reducible apply dropFetch_inv | with_reducible apply bumpCore_inv | with_reducible apply setPath_inv | with_reducible apply inv_foldl | with_reducible apply inv_foldl_snd | with_reducible intro _ _ _ | with_reducible intro _ _ | split) | split)

theorem illegalWord_inv {s : State} (h : Inv s) (w : DWord) : Inv (illegalWord s w) := by
  unfold illegalWord
  try dsimp only
  repeat' (first | with_reducible assumption | with_reducible apply trapShape_inv | with_reducible apply inv_foldl | with_reducible apply inv_foldl_snd | with_reducible intro _ _ _ | with_reducible intro _ _ | (with_reducible apply inv_mk; first | with_reducible assumption | with_reducible apply trapShape_inv | with_reducible apply inv_foldl | with_reducible apply inv_foldl_snd | with_reducible intro _ _ _ | with_reducible intro _ _ | split) | split)

theorem badWord_inv {s : State} (h : Inv s) (pk : Nat) (p : Path) (c : Clause) (code : TrapCode) (extra : List Word) :
    Inv (badWord s pk p c code extra) := by
  unfold badWord
  try dsimp only
  repeat' (first | with_reducible assumption | with_reducible apply takeTrap_inv | (have e := ‹takeTrap _ _ _ = _›; have q := takeTrap_inv (by assumption) _ _; rw [e] at q; exact q) | with_reducible apply inv_foldl | with_reducible apply inv_foldl_snd | with_reducible intro _ _ _ | with_reducible intro _ _ | (with_reducible apply inv_mk; first | with_reducible assumption | with_reducible apply takeTrap_inv | (have e := ‹takeTrap _ _ _ = _›; have q := takeTrap_inv (by assumption) _ _; rw [e] at q; exact q) | with_reducible apply inv_foldl | with_reducible apply inv_foldl_snd | with_reducible intro _ _ _ | with_reducible intro _ _ | split) | split)

theorem landEarly_inv {s : State} (h : Inv s) (gk : Nat) : Inv (landEarly s gk) := by
  unfold landEarly
  try dsimp only
  repeat' (first | with_reducible assumption | with_reducible apply useFree_inv | with_reducible apply onGang_inv | with_reducible apply inv_foldl | with_reducible apply inv_foldl_snd | with_reducible intro _ _ _ | with_reducible intro _ _ | (with_reducible apply inv_mk; first | with_reducible assumption | with_reducible apply useFree_inv | with_reducible apply onGang_inv | with_reducible apply inv_foldl | with_reducible apply inv_foldl_snd | with_reducible intro _ _ _ | with_reducible intro _ _ | split) | split)

theorem fetchReady_inv {s : State} (h : Inv s) (w : DWord) : Inv (fetchReady s w) :=
  inv_mk_mg h (ok_of h.2.2.2.1 rfl rfl rfl rfl rfl)

theorem writeClkceil_inv {s : State} (h : Inv s) (v : Nat) : Inv (writeClkceil s v) := by
  unfold writeClkceil
  split
  · exact inv_onMg h _ (fun _ k => ⟨k.1, k.2.1, k.2.2.1, ‹_›, k.2.2.2.2⟩)
  · exact h

theorem writePwrcap_inv {s : State} (h : Inv s) (v : Nat) : Inv (writePwrcap s v) := by
  refine inv_onMg h _ (fun _ k => ⟨k.1, k.2.1, k.2.2.1, k.2.2.2.1, ?_, Nat.min_le_left _ _, k.2.2.2.2.2.2⟩)
  exact Nat.le_min.mpr ⟨by decide, Nat.le_max_left _ _⟩

theorem reading_inv {s : State} (h : Inv s) (degc : Nat) (die : Nat) : Inv (reading s degc die) := by
  unfold reading
  try dsimp only
  repeat' (first | with_reducible assumption | ((with_reducible apply inv_onMg); case k => exact fun _ k => ok_of k rfl rfl rfl rfl rfl) | with_reducible apply inv_foldl | with_reducible apply inv_foldl_snd | with_reducible intro _ _ _ | with_reducible intro _ _ | (with_reducible apply inv_mk; first | with_reducible assumption | ((with_reducible apply inv_onMg); case k => exact fun _ k => ok_of k rfl rfl rfl rfl rfl) | with_reducible apply inv_foldl | with_reducible apply inv_foldl_snd | with_reducible intro _ _ _ | with_reducible intro _ _ | split) | split)

theorem settleTag_inv {s : State} (h : Inv s) (p : Nat) (m : Msg) (ops : List Nat) (f : PeerOp → PeerOp) : Inv
    (settleTag s p m ops f) := by
  unfold settleTag
  try dsimp only
  repeat' (first | with_reducible assumption | with_reducible apply inv_foldl | with_reducible apply inv_foldl_snd | with_reducible intro _ _ _ | with_reducible intro _ _ | (with_reducible apply inv_mk; first | with_reducible assumption | with_reducible apply inv_foldl | with_reducible apply inv_foldl_snd | with_reducible intro _ _ _ | with_reducible intro _ _ | split) | split)

theorem countBlock_inv {s : State} (h : Inv s) (p : Nat) (bad : Bool) : Inv (countBlock s p bad) := by
  unfold countBlock
  try dsimp only
  repeat' (first | with_reducible assumption | with_reducible apply bumpDie_inv | with_reducible apply inv_foldl | with_reducible apply inv_foldl_snd | with_reducible intro _ _ _ | with_reducible intro _ _ | (with_reducible apply inv_mk; first | with_reducible assumption | with_reducible apply bumpDie_inv | with_reducible apply inv_foldl | with_reducible apply inv_foldl_snd | with_reducible intro _ _ _ | with_reducible intro _ _ | split) | split)

theorem takeAnswer_inv {s : State} (h : Inv s) (p : Nat) (m : Msg) : Inv (takeAnswer s p m) := by
  unfold takeAnswer
  try dsimp only
  repeat' (first | with_reducible assumption | with_reducible apply settleTag_inv | with_reducible apply inv_foldl | with_reducible apply inv_foldl_snd | with_reducible intro _ _ _ | with_reducible intro _ _ | (with_reducible apply inv_mk; first | with_reducible assumption | with_reducible apply settleTag_inv | with_reducible apply inv_foldl | with_reducible apply inv_foldl_snd | with_reducible intro _ _ _ | with_reducible intro _ _ | split) | split)

theorem dropLink_inv {s : State} (h : Inv s) (p : Nat) : Inv (dropLink s p) := by
  unfold dropLink
  try dsimp only
  repeat' (first | with_reducible assumption | with_reducible apply takeAnswer_inv | with_reducible apply onPort_inv | with_reducible apply pumpDev_inv | with_reducible apply inv_foldl | with_reducible apply inv_foldl_snd | with_reducible intro _ _ _ | with_reducible intro _ _ | (with_reducible apply inv_mk; first | with_reducible assumption | with_reducible apply takeAnswer_inv | with_reducible apply onPort_inv | with_reducible apply pumpDev_inv | with_reducible apply inv_foldl | with_reducible apply inv_foldl_snd | with_reducible intro _ _ _ | with_reducible intro _ _ | split) | split)

theorem abortRecord_inv {s : State} (h : Inv s) (status : Nat) (bs : List Byte) : Inv (abortRecord status s bs) := by
  unfold abortRecord
  try dsimp only
  repeat' (first | with_reducible assumption | with_reducible apply complete_inv | with_reducible apply inv_foldl | with_reducible apply inv_foldl_snd | with_reducible intro _ _ _ | with_reducible intro _ _ | (with_reducible apply inv_mk; first | with_reducible assumption | with_reducible apply complete_inv | with_reducible apply inv_foldl | with_reducible apply inv_foldl_snd | with_reducible intro _ _ _ | with_reducible intro _ _ | split) | split)

theorem abortRuns_inv {s : State} (h : Inv s) (status : Nat) : Inv (abortRuns s status) := by
  unfold abortRuns
  try dsimp only
  repeat' (first | with_reducible assumption | with_reducible apply abortRecord_inv | with_reducible apply finishRun_inv | with_reducible apply inv_foldl | with_reducible apply inv_foldl_snd | with_reducible intro _ _ _ | with_reducible intro _ _ | (with_reducible apply inv_mk; first | with_reducible assumption | with_reducible apply abortRecord_inv | with_reducible apply finishRun_inv | with_reducible apply inv_foldl | with_reducible apply inv_foldl_snd | with_reducible intro _ _ _ | with_reducible intro _ _ | split) | split)

theorem stopCores_inv {s : State} (h : Inv s)  : Inv (stopCores s) := by
  unfold stopCores
  try dsimp only
  repeat' (first | with_reducible assumption | with_reducible apply inv_foldl | with_reducible apply inv_foldl_snd | with_reducible intro _ _ _ | with_reducible intro _ _ | (with_reducible apply inv_mk; first | with_reducible assumption | with_reducible apply inv_foldl | with_reducible apply inv_foldl_snd | with_reducible intro _ _ _ | with_reducible intro _ _ | split) | split)

theorem resetKeep_inv {s : State} (h : Inv s) (cold : Bool) : Inv (resetKeep s cold) := by
  have ok := h.2.2.2.1
  refine ⟨?_, rfl, h.2.2.1, ?_, h.2.2.2.2⟩
  · dsimp only [resetKeep]
    split
    · rfl
    · exact h.1
  · dsimp only [resetKeep]
    split <;> exact ⟨Nat.le_refl 6, Nat.zero_le 6, Nat.zero_le 6, Nat.zero_le 6, (by decide : 1200 ≤ 2400), Nat.le_refl 2400, rfl,
      ok.2.2.2.2.2.2.2.1, rfl⟩

theorem fwGoes_inv {s : State} (h : Inv s) (st : Nat) (reason : Nat) : Inv (fwGoes s st reason) := by
  unfold fwGoes
  try dsimp only
  repeat' (first | with_reducible assumption | with_reducible apply signal_inv | ((with_reducible apply inv_onMg); case k => exact fun _ k => ok_of k rfl rfl rfl rfl rfl) | with_reducible apply inv_foldl | with_reducible apply inv_foldl_snd | with_reducible intro _ _ _ | with_reducible intro _ _ | (with_reducible apply inv_mk; first | with_reducible assumption | with_reducible apply signal_inv | ((with_reducible apply inv_onMg); case k => exact fun _ k => ok_of k rfl rfl rfl rfl rfl) | with_reducible apply inv_foldl | with_reducible apply inv_foldl_snd | with_reducible intro _ _ _ | with_reducible intro _ _ | split) | split)

theorem fwStart_inv {s : State} (h : Inv s) (img : Map Byte) (rec' : Bool) (reason : Nat) : Inv (fwStart s img rec'
    reason) := by
  unfold fwStart
  try dsimp only
  repeat' (first | with_reducible assumption | with_reducible apply fwGoes_inv | ((with_reducible apply inv_onMg); case k => exact fun _ k => ok_of k rfl rfl rfl rfl rfl) | with_reducible apply inv_foldl | with_reducible apply inv_foldl_snd | with_reducible intro _ _ _ | with_reducible intro _ _ | (with_reducible apply inv_mk; first | with_reducible assumption | with_reducible apply fwGoes_inv | ((with_reducible apply inv_onMg); case k => exact fun _ k => ok_of k rfl rfl rfl rfl rfl) | with_reducible apply inv_foldl | with_reducible apply inv_foldl_snd | with_reducible intro _ _ _ | with_reducible intro _ _ | split) | split)

theorem writeFwload_inv {s : State} (h : Inv s) (cmd : Nat) : Inv (writeFwload s cmd) := by
  unfold writeFwload
  try dsimp only
  repeat' (first | with_reducible assumption | with_reducible apply fwGoes_inv | ((with_reducible apply inv_onMg); case k => exact fun _ k => ok_of k rfl rfl rfl rfl rfl) | with_reducible apply inv_foldl | with_reducible apply inv_foldl_snd | with_reducible intro _ _ _ | with_reducible intro _ _ | (with_reducible apply inv_mk; first | with_reducible assumption | with_reducible apply fwGoes_inv | ((with_reducible apply inv_onMg); case k => exact fun _ k => ok_of k rfl rfl rfl rfl rfl) | with_reducible apply inv_foldl | with_reducible apply inv_foldl_snd | with_reducible intro _ _ _ | with_reducible intro _ _ | split) | split)

theorem firstDeal_inv {s : State} (h : Inv s)  : Inv (firstDeal s) := by
  unfold firstDeal
  try dsimp only
  repeat' (first | with_reducible assumption | with_reducible apply inv_foldl | with_reducible apply inv_foldl_snd | with_reducible intro _ _ _ | with_reducible intro _ _ | (with_reducible apply inv_mk; first | with_reducible assumption | with_reducible apply inv_foldl | with_reducible apply inv_foldl_snd | with_reducible intro _ _ _ | with_reducible intro _ _ | split) | split)

theorem writeFeatacc_inv {s : State} (h : Inv s) (n : Nat) (v : Word) : Inv (writeFeatacc s n v) := by
  unfold writeFeatacc
  try dsimp only
  repeat' (first | with_reducible assumption | ((with_reducible apply inv_onMg); case k => exact fun _ k => ok_of k rfl rfl rfl rfl rfl) | with_reducible apply inv_foldl | with_reducible apply inv_foldl_snd | with_reducible intro _ _ _ | with_reducible intro _ _ | (with_reducible apply inv_mk; first | with_reducible assumption | ((with_reducible apply inv_onMg); case k => exact fun _ k => ok_of k rfl rfl rfl rfl rfl) | with_reducible apply inv_foldl | with_reducible apply inv_foldl_snd | with_reducible intro _ _ _ | with_reducible intro _ _ | split) | split)

theorem writeHandler_inv {s : State} (h : Inv s) (n : Nat) (v : DWord) : Inv (writeHandler s n v) := by
  unfold writeHandler
  try dsimp only
  split
  · exact inv_onMg h _ (fun _ k => ok_of k rfl rfl rfl rfl rfl)
  · refine inv_onMg h _ (fun _ k => ?_)
    try dsimp only
    split <;> exact ok_of k rfl rfl rfl rfl rfl

theorem writeLaunchen_inv {s : State} (h : Inv s) (v : Word) : Inv (writeLaunchen s v) := by
  unfold writeLaunchen
  try dsimp only
  repeat' (first | with_reducible assumption | ((with_reducible apply inv_onMg); case k => exact fun _ k => ok_of k rfl rfl rfl rfl rfl) | with_reducible apply inv_foldl | with_reducible apply inv_foldl_snd | with_reducible intro _ _ _ | with_reducible intro _ _ | (with_reducible apply inv_mk; first | with_reducible assumption | ((with_reducible apply inv_onMg); case k => exact fun _ k => ok_of k rfl rfl rfl rfl rfl) | with_reducible apply inv_foldl | with_reducible apply inv_foldl_snd | with_reducible intro _ _ _ | with_reducible intro _ _ | split) | split)

theorem writeObjtbase_inv {s : State} (h : Inv s) (v : Nat) : Inv (writeObjtbase s v) := by
  unfold writeObjtbase
  try dsimp only
  repeat' (first | with_reducible assumption | ((with_reducible apply inv_onMg); case k => exact fun _ k => ok_of k rfl rfl rfl rfl rfl) | with_reducible apply inv_foldl | with_reducible apply inv_foldl_snd | with_reducible intro _ _ _ | with_reducible intro _ _ | (with_reducible apply inv_mk; first | with_reducible assumption | ((with_reducible apply inv_onMg); case k => exact fun _ k => ok_of k rfl rfl rfl rfl rfl) | with_reducible apply inv_foldl | with_reducible apply inv_foldl_snd | with_reducible intro _ _ _ | with_reducible intro _ _ | split) | split)

theorem writeObjtcnt_inv {s : State} (h : Inv s) (v : Nat) : Inv (writeObjtcnt s v) := by
  unfold writeObjtcnt
  try dsimp only
  repeat' (first | with_reducible assumption | ((with_reducible apply inv_onMg); case k => exact fun _ k => ok_of k rfl rfl rfl rfl rfl) | with_reducible apply inv_foldl | with_reducible apply inv_foldl_snd | with_reducible intro _ _ _ | with_reducible intro _ _ | (with_reducible apply inv_mk; first | with_reducible assumption | ((with_reducible apply inv_onMg); case k => exact fun _ k => ok_of k rfl rfl rfl rfl rfl) | with_reducible apply inv_foldl | with_reducible apply inv_foldl_snd | with_reducible intro _ _ _ | with_reducible intro _ _ | split) | split)

theorem writePinovf_inv {s : State} (h : Inv s) (v : Nat) : Inv (writePinovf s v) := by
  unfold writePinovf
  try dsimp only
  repeat' (first | with_reducible assumption | ((with_reducible apply inv_onMg); case k => exact fun _ k => ok_of k rfl rfl rfl rfl rfl) | with_reducible apply inv_foldl | with_reducible apply inv_foldl_snd | with_reducible intro _ _ _ | with_reducible intro _ _ | (with_reducible apply inv_mk; first | with_reducible assumption | ((with_reducible apply inv_onMg); case k => exact fun _ k => ok_of k rfl rfl rfl rfl rfl) | with_reducible apply inv_foldl | with_reducible apply inv_foldl_snd | with_reducible intro _ _ _ | with_reducible intro _ _ | split) | split)

theorem writeAttreq_inv {s : State} (h : Inv s) (v : Word) : Inv (writeAttreq s v) := by
  unfold writeAttreq
  try dsimp only
  repeat' (first | with_reducible assumption | ((with_reducible apply inv_onMg); case k => exact fun _ k => ok_of k rfl rfl rfl rfl rfl) | with_reducible apply inv_foldl | with_reducible apply inv_foldl_snd | with_reducible intro _ _ _ | with_reducible intro _ _ | (with_reducible apply inv_mk; first | with_reducible assumption | ((with_reducible apply inv_onMg); case k => exact fun _ k => ok_of k rfl rfl rfl rfl rfl) | with_reducible apply inv_foldl | with_reducible apply inv_foldl_snd | with_reducible intro _ _ _ | with_reducible intro _ _ | split) | split)

theorem onTarget_inv {s : State} (h : Inv s) (f : Map Byte → Map Byte)
    (hf : ∀ m, Memory.wf m = true → Memory.wf (f m) = true) : Inv (onTarget s f) := by
  unfold onTarget
  split
  · exact ⟨h.1, h.2.1, h.2.2.1, h.2.2.2.1, hf _ h.2.2.2.2⟩
  · exact ⟨h.1, h.2.1, hf _ h.2.2.1, h.2.2.2⟩

theorem targetPut_inv {s : State} (h : Inv s) (o : Nat) (bs : List Byte) : Inv (targetPut s o bs) := onTarget_inv h _ (fun m w => mapPut_wf w _ _)

theorem resumeAll_inv {s : State} (h : Inv s)  : Inv (resumeAll s) := by
  unfold resumeAll
  try dsimp only
  repeat' (first | with_reducible assumption | with_reducible apply resumeOn_inv | with_reducible apply inv_foldl | with_reducible apply inv_foldl_snd | with_reducible intro _ _ _ | with_reducible intro _ _ | (with_reducible apply inv_mk; first | with_reducible assumption | with_reducible apply resumeOn_inv | with_reducible apply inv_foldl | with_reducible apply inv_foldl_snd | with_reducible intro _ _ _ | with_reducible intro _ _ | split) | split)

theorem saveFails_inv {s : State} (h : Inv s)  : Inv (saveFails s) := by
  unfold saveFails
  try dsimp only
  repeat' (first | with_reducible assumption | with_reducible apply resumeAll_inv | ((with_reducible apply inv_onMg); case k => exact fun _ k => ok_of k rfl rfl rfl rfl rfl) | with_reducible apply inv_foldl | with_reducible apply inv_foldl_snd | with_reducible intro _ _ _ | with_reducible intro _ _ | (with_reducible apply inv_mk; first | with_reducible assumption | with_reducible apply resumeAll_inv | ((with_reducible apply inv_onMg); case k => exact fun _ k => ok_of k rfl rfl rfl rfl rfl) | with_reducible apply inv_foldl | with_reducible apply inv_foldl_snd | with_reducible intro _ _ _ | with_reducible intro _ _ | split) | split)

theorem startSave_inv {s : State} (h : Inv s)  : Inv (startSave s) := by
  unfold startSave
  try dsimp only
  repeat' (first | with_reducible assumption | ((with_reducible apply inv_onMg); case k => exact fun _ k => ok_of k rfl rfl rfl rfl rfl) | (have e := ‹beginDrains _ _ = some _›; exact beginDrains_inv (by assumption) _ _ e) | (intro _ e; exact beginDrains_inv (by assumption) _ _ e) | with_reducible apply inv_foldl | with_reducible apply inv_foldl_snd | with_reducible intro _ _ _ | with_reducible intro _ _ | (with_reducible apply inv_mk; first | with_reducible assumption | ((with_reducible apply inv_onMg); case k => exact fun _ k => ok_of k rfl rfl rfl rfl rfl) | (have e := ‹beginDrains _ _ = some _›; exact beginDrains_inv (by assumption) _ _ e) | (intro _ e; exact beginDrains_inv (by assumption) _ _ e) | with_reducible apply inv_foldl | with_reducible apply inv_foldl_snd | with_reducible intro _ _ _ | with_reducible intro _ _ | split) | split)

theorem startRestore_inv {s : State} (h : Inv s)  : Inv (startRestore s) := by
  unfold startRestore
  try dsimp only
  repeat' (first | with_reducible assumption | ((with_reducible apply inv_onMg); case k => exact fun _ k => ok_of k rfl rfl rfl rfl rfl) | with_reducible apply inv_foldl | with_reducible apply inv_foldl_snd | with_reducible intro _ _ _ | with_reducible intro _ _ | (with_reducible apply inv_mk; first | with_reducible assumption | ((with_reducible apply inv_onMg); case k => exact fun _ k => ok_of k rfl rfl rfl rfl rfl) | with_reducible apply inv_foldl | with_reducible apply inv_foldl_snd | with_reducible intro _ _ _ | with_reducible intro _ _ | split) | split)

theorem writeCkptctl_inv {s : State} (h : Inv s) (v : Word) : Inv (writeCkptctl s v) := by
  unfold writeCkptctl
  try dsimp only
  repeat' (first | with_reducible assumption | ((with_reducible apply inv_onMg); case k => exact fun _ k => ok_of k rfl rfl rfl rfl rfl) | with_reducible apply startRestore_inv | with_reducible apply startSave_inv | with_reducible apply inv_foldl | with_reducible apply inv_foldl_snd | with_reducible intro _ _ _ | with_reducible intro _ _ | (with_reducible apply inv_mk; first | with_reducible assumption | ((with_reducible apply inv_onMg); case k => exact fun _ k => ok_of k rfl rfl rfl rfl rfl) | with_reducible apply startRestore_inv | with_reducible apply startSave_inv | with_reducible apply inv_foldl | with_reducible apply inv_foldl_snd | with_reducible intro _ _ _ | with_reducible intro _ _ | split) | split)

theorem writeImage_inv {s : State} (h : Inv s) : Inv (writeImage s) := by
  unfold writeImage
  try dsimp only
  refine inv_onMg (inv_foldl _ _ (fun u x k => targetPut_inv k ..) (inv_foldl _ _ (fun u x k => targetPut_inv k ..)
    (targetPut_inv (onTarget_inv h _ ?_) ..))) _ (fun _ k => ok_of k rfl rfl rfl rfl rfl)
  intro m w
  try dsimp only
  refine foldl_wf _ _ (fun m e w => Map.wfD_setD _ _ w) ?_
  refine foldl_wf _ _ (fun m e w => mapPut_wf w _ _) ?_
  refine foldl_wf _ _ (fun m e w => ?_) (filter_wf w _)
  split
  · exact Map.wfD_setD _ _ w
  · exact w

theorem restoreFrames_inv {s : State} (h : Inv s) (dies : List Nat) : Inv (restoreFrames s dies) := by
  unfold restoreFrames
  try dsimp only
  refine inv_foldl _ _ ?_ ⟨filter_wf h.1 _, h.2⟩
  intro u i k
  try dsimp only
  refine inv_foldl _ _ ?_ (memPut_inv k _ _)
  intro v j k
  try dsimp only
  split
  · exact k
  · exact k

theorem finishF_inv {s : State} (h : Inv s) (c : Ctx) (res : Nat → LOut) (put : Gang → Mask → Gang) : Inv (finishF c s
    res put) := by
  unfold finishF
  try dsimp only
  repeat' (first | with_reducible assumption | with_reducible apply settle_inv | with_reducible apply onGang_inv | with_reducible apply inv_foldl | with_reducible apply inv_foldl_snd | with_reducible intro _ _ _ | with_reducible intro _ _ | (with_reducible apply inv_mk; first | with_reducible assumption | with_reducible apply settle_inv | with_reducible apply onGang_inv | with_reducible apply inv_foldl | with_reducible apply inv_foldl_snd | with_reducible intro _ _ _ | with_reducible intro _ _ | split) | split)

theorem fltOp_inv {s : State} (h : Inv s) (f : RRR) (el : Fmt → Bool → Nat → Nat → Nat → Word → Nat × Nat × Word) (c :
    Ctx) : Inv (fltOp f el c s) := by
  unfold fltOp
  try dsimp only
  repeat' (first | with_reducible assumption | with_reducible apply finishF_inv | with_reducible apply inv_foldl | with_reducible apply inv_foldl_snd | with_reducible intro _ _ _ | with_reducible intro _ _ | (with_reducible apply inv_mk; first | with_reducible assumption | with_reducible apply finishF_inv | with_reducible apply inv_foldl | with_reducible apply inv_foldl_snd | with_reducible intro _ _ _ | with_reducible intro _ _ | split) | split)

theorem fltExact_inv {y1 : State} (h : Inv y1) (f : RRR) (op : Mode → FVal → FVal → FVal → FVal × Nat) (y0 : Ctx) :
    Inv (fltExact f op y0 y1) := by
  unfold fltExact
  try dsimp only
  repeat' (first | with_reducible assumption | with_reducible apply fltOp_inv | with_reducible apply inv_foldl | with_reducible apply inv_foldl_snd | with_reducible intro _ _ _ | with_reducible intro _ _ | (with_reducible apply inv_mk; first | with_reducible assumption | with_reducible apply fltOp_inv | with_reducible apply inv_foldl | with_reducible apply inv_foldl_snd | with_reducible intro _ _ _ | with_reducible intro _ _ | split) | split)

theorem fltPlain_inv {y1 : State} (h : Inv y1) (f : RRR) (el : Fmt → Bool → Nat → Nat → Nat × Nat) (y0 : Ctx) : Inv
    (fltPlain f el y0 y1) := by
  unfold fltPlain
  try dsimp only
  repeat' (first | with_reducible assumption | with_reducible apply fltOp_inv | with_reducible apply inv_foldl | with_reducible apply inv_foldl_snd | with_reducible intro _ _ _ | with_reducible intro _ _ | (with_reducible apply inv_mk; first | with_reducible assumption | with_reducible apply fltOp_inv | with_reducible apply inv_foldl | with_reducible apply inv_foldl_snd | with_reducible intro _ _ _ | with_reducible intro _ _ | split) | split)

theorem pairOp_inv {s : State} (h : Inv s) (f : RRR) (wa : Nat) (op : Nat → Nat → Nat × Nat) (c : Ctx) : Inv (pairOp f
    wa op c s) := by
  unfold pairOp
  try dsimp only
  repeat' (first | with_reducible assumption | with_reducible apply finishF_inv | with_reducible apply inv_foldl | with_reducible apply inv_foldl_snd | with_reducible intro _ _ _ | with_reducible intro _ _ | (with_reducible apply inv_mk; first | with_reducible assumption | with_reducible apply finishF_inv | with_reducible apply inv_foldl | with_reducible apply inv_foldl_snd | with_reducible intro _ _ _ | with_reducible intro _ _ | split) | split)

theorem reply_inv {s : State} (h : Inv s) (p : Nat) (m : Msg) (op : Nat) (data : List Byte) : Inv (reply s p m op
    data) := by
  unfold reply
  try dsimp only
  repeat' (first | with_reducible assumption | with_reducible apply sendMsg_inv | with_reducible apply inv_foldl | with_reducible apply inv_foldl_snd | with_reducible intro _ _ _ | with_reducible intro _ _ | (with_reducible apply inv_mk; first | with_reducible assumption | with_reducible apply sendMsg_inv | with_reducible apply inv_foldl | with_reducible apply inv_foldl_snd | with_reducible intro _ _ _ | with_reducible intro _ _ | split) | split)

theorem flushErrs_inv {s : State} (h : Inv s) (p : Nat) : Inv (flushErrs s p) := by
  unfold flushErrs
  try dsimp only
  repeat' (first | with_reducible assumption | with_reducible apply reply_inv | with_reducible apply onPort_inv | with_reducible apply inv_foldl | with_reducible apply inv_foldl_snd | with_reducible intro _ _ _ | with_reducible intro _ _ | (with_reducible apply inv_mk; first | with_reducible assumption | with_reducible apply reply_inv | with_reducible apply onPort_inv | with_reducible apply inv_foldl | with_reducible apply inv_foldl_snd | with_reducible intro _ _ _ | with_reducible intro _ _ | split) | split)

theorem takeMsg_inv {s : State} (h : Inv s) (p : Nat) (m : Msg) : Inv (takeMsg s p m) := by
  unfold takeMsg
  try dsimp only
  repeat' (first | with_reducible assumption | with_reducible apply onPort_inv | with_reducible apply inv_foldl | with_reducible apply inv_foldl_snd | with_reducible intro _ _ _ | with_reducible intro _ _ | (with_reducible apply inv_mk; first | with_reducible assumption | with_reducible apply onPort_inv | with_reducible apply inv_foldl | with_reducible apply inv_foldl_snd | with_reducible intro _ _ _ | with_reducible intro _ _ | split) | split)

theorem takeBody_inv {s : State} (h : Inv s) (p : Nat) (kind : Nat) (body : List Byte) : Inv (takeBody s p kind body)
    := by
  unfold takeBody
  try dsimp only
  repeat' (first | with_reducible assumption | with_reducible apply takeMsg_inv | with_reducible apply onPort_inv | with_reducible apply inv_foldl | with_reducible apply inv_foldl_snd | with_reducible intro _ _ _ | with_reducible intro _ _ | (with_reducible apply inv_mk; first | with_reducible assumption | with_reducible apply takeMsg_inv | with_reducible apply onPort_inv | with_reducible apply inv_foldl | with_reducible apply inv_foldl_snd | with_reducible intro _ _ _ | with_reducible intro _ _ | split) | split)

theorem acceptFlit_inv {s : State} (h : Inv s) (p : Nat) (flit : List Byte) : Inv (acceptFlit s p flit) := by
  unfold acceptFlit
  try dsimp only
  repeat' (first | with_reducible assumption | with_reducible apply onPort_inv | with_reducible apply flushErrs_inv | with_reducible apply takeBody_inv | with_reducible apply sendFlit_inv | with_reducible apply inv_foldl | with_reducible apply inv_foldl_snd | with_reducible intro _ _ _ | with_reducible intro _ _ | (with_reducible apply inv_mk; first | with_reducible assumption | with_reducible apply onPort_inv | with_reducible apply flushErrs_inv | with_reducible apply takeBody_inv | with_reducible apply sendFlit_inv | with_reducible apply inv_foldl | with_reducible apply inv_foldl_snd | with_reducible intro _ _ _ | with_reducible intro _ _ | split) | split)

theorem loseLink_inv {s : State} (h : Inv s) (p : Nat) : Inv (loseLink s p) := by
  unfold loseLink
  try dsimp only
  repeat' (first | with_reducible assumption | with_reducible apply signal_inv | with_reducible apply bumpDie_inv | with_reducible apply onPort_inv | with_reducible apply dropLink_inv | with_reducible apply inv_foldl | with_reducible apply inv_foldl_snd | with_reducible intro _ _ _ | with_reducible intro _ _ | (with_reducible apply inv_mk; first | with_reducible assumption | with_reducible apply signal_inv | with_reducible apply bumpDie_inv | with_reducible apply onPort_inv | with_reducible apply dropLink_inv | with_reducible apply inv_foldl | with_reducible apply inv_foldl_snd | with_reducible intro _ _ _ | with_reducible intro _ _ | split) | split)

theorem dropReq_inv {s : State} (h : Inv s) (k : Nat) : Inv (dropReq s k) := by
  unfold dropReq
  try dsimp only
  repeat' (first | with_reducible assumption | with_reducible apply inv_foldl | with_reducible apply inv_foldl_snd | with_reducible intro _ _ _ | with_reducible intro _ _ | (with_reducible apply inv_mk; first | with_reducible assumption | with_reducible apply inv_foldl | with_reducible apply inv_foldl_snd | with_reducible intro _ _ _ | with_reducible intro _ _ | split) | split)

theorem dropMsg_inv {s : State} (h : Inv s) (p : Nat) (m : Msg) : Inv (dropMsg s p m) := by
  unfold dropMsg
  try dsimp only
  repeat' (first | with_reducible assumption | with_reducible apply dropReq_inv | with_reducible apply onPort_inv | with_reducible apply inv_foldl | with_reducible apply inv_foldl_snd | with_reducible intro _ _ _ | with_reducible intro _ _ | (with_reducible apply inv_mk; first | with_reducible assumption | with_reducible apply dropReq_inv | with_reducible apply onPort_inv | with_reducible apply inv_foldl | with_reducible apply inv_foldl_snd | with_reducible intro _ _ _ | with_reducible intro _ _ | split) | split)

theorem stallReq_inv {s : State} (h : Inv s) (p : Nat) (m : Msg) : Inv (stallReq s p m) := by
  unfold stallReq
  try dsimp only
  repeat' (first | with_reducible assumption | with_reducible apply inv_foldl | with_reducible apply inv_foldl_snd | with_reducible intro _ _ _ | with_reducible intro _ _ | (with_reducible apply inv_mk; first | with_reducible assumption | with_reducible apply inv_foldl | with_reducible apply inv_foldl_snd | with_reducible intro _ _ _ | with_reducible intro _ _ | split) | split)

theorem refuse_inv {s : State} (h : Inv s) (p : Nat) (m : Msg) (c : TrapCode) : Inv (refuse s p m c) := by
  unfold refuse
  try dsimp only
  repeat' (first | with_reducible assumption | with_reducible apply reply_inv | with_reducible apply dropMsg_inv | with_reducible apply inv_foldl | with_reducible apply inv_foldl_snd | with_reducible intro _ _ _ | with_reducible intro _ _ | (with_reducible apply inv_mk; first | with_reducible assumption | with_reducible apply reply_inv | with_reducible apply dropMsg_inv | with_reducible apply inv_foldl | with_reducible apply inv_foldl_snd | with_reducible intro _ _ _ | with_reducible intro _ _ | split) | split)

theorem answerMsg_inv {s : State} (h : Inv s) (p : Nat) (m : Msg) (op : Nat) (data : List Byte) : Inv (answerMsg s p m
    op data) := by
  unfold answerMsg
  try dsimp only
  repeat' (first | with_reducible assumption | with_reducible apply reply_inv | with_reducible apply dropMsg_inv | with_reducible apply inv_foldl | with_reducible apply inv_foldl_snd | with_reducible intro _ _ _ | with_reducible intro _ _ | (with_reducible apply inv_mk; first | with_reducible assumption | with_reducible apply reply_inv | with_reducible apply dropMsg_inv | with_reducible apply inv_foldl | with_reducible apply inv_foldl_snd | with_reducible intro _ _ _ | with_reducible intro _ _ | split) | split)

theorem onRequest_inv {s : State} (h : Inv s) (p : Nat) (op : Nat) (f : State → Msg → State) (hf : ∀ x0 x1, Inv x0 →
    Inv (f x0 x1)) : Inv (onRequest s p op f) := by
  unfold onRequest
  split
  · split
    · exact hf _ _ h
    · exact h
  · exact h

theorem serveRead_inv {s : State} (h : Inv s) (p : Nat) (m : Msg) (w : Who) (rs : List (Nat × Nat)) (f : State → List Byte → State)
    (hf : ∀ x0 x1, Inv x0 → Inv (f x0 x1)) : Inv (serveRead s p m w rs f) := by
  unfold serveRead
  split
  · exact refuse_inv h ..
  · split
    · exact stallReq_inv (fst_inv ‹_› (moveIn_inv h ..)) ..
    · have k := fst_inv ‹_› (moveIn_inv h ..)
      exact inv_ite (fun _ => refuse_inv k ..) (fun _ => inv_ite (fun _ => refuse_inv k ..) (fun _ => hf _ _ k))

theorem answerBlock_inv {s : State} (h : Inv s) (p : Nat) (m : Msg) (b : Block) (bad : Bool) (bs : List Byte) (n :
    Nat) (last : Bool) : Inv (answerBlock s p m b bad bs n last) := by
  unfold answerBlock
  try dsimp only
  repeat' (first | with_reducible assumption | with_reducible apply countBlock_inv | with_reducible apply sendMsg_inv | with_reducible apply inv_foldl | with_reducible apply inv_foldl_snd | with_reducible intro _ _ _ | with_reducible intro _ _ | (with_reducible apply inv_mk; first | with_reducible assumption | with_reducible apply countBlock_inv | with_reducible apply sendMsg_inv | with_reducible apply inv_foldl | with_reducible apply inv_foldl_snd | with_reducible intro _ _ _ | with_reducible intro _ _ | split) | split)

theorem serveStream_inv {s : State} (h : Inv s) (p : Nat) (m : Msg) : Inv (serveStream s p m) := by
  unfold serveStream
  dsimp only
  split
  · exact refuse_inv h ..
  · refine inv_ite (fun _ => answerMsg_inv h ..) (fun _ => ?_)
    split
    · exact stallReq_inv (fst_inv ‹_› (ctabIn_inv h ..)) ..
    · have k := fst_inv ‹_› (ctabIn_inv h ..)
      split
      · exact stallReq_inv (fst_inv ‹_› (moveIn_inv k ..)) ..
      · have q := fst_inv ‹_› (moveIn_inv k ..)
        exact inv_ite (fun _ => refuse_inv q ..) (fun _ => answerBlock_inv (inv_ite (fun _ => dropMsg_inv q ..)
          (fun _ => onPort_inv (dropReq_inv q ..) ..)) ..)

theorem serveWrite_inv {s : State} (h : Inv s) (p : Nat) (m : Msg) (cs : List Cell) : Inv (serveWrite s p m cs) := by
  unfold serveWrite
  dsimp only
  split
  · exact refuse_inv h ..
  · generalize hm : moveOut _ _ _ _ _ _ = r
    cases r with
    | stalled t => exact stallReq_inv (moved_stalled hm (moveOut_inv h ..)) ..
    | done st t =>
      have k := moved_done hm (moveOut_inv h ..)
      exact inv_ite (fun _ => refuse_inv k ..) (fun _ => inv_ite (fun _ => answerMsg_inv k ..) (fun _ => dropMsg_inv k ..))

theorem serveAtomic_inv {s : State} (h : Inv s) (p : Nat) (m : Msg) : Inv (serveAtomic s p m) := by
  unfold serveAtomic
  dsimp only
  split
  · exact refuse_inv h ..
  · refine inv_ite (fun _ => refuse_inv h ..) (fun _ => ?_)
    split
    · exact refuse_inv h ..
    · refine inv_ite (fun _ => refuse_inv h ..) (fun _ => inv_ite (fun _ => ?_) (fun _ => inv_ite (fun _ => refuse_inv h ..) (fun _ => ?_)))
      · split
        · exact answerMsg_inv (engAsk_inv h ..) ..
        · exact refuse_inv (engAsk_inv h ..) ..
        · exact engAsk_inv h ..
      · split
        · exact stallHost_inv (stallReq_inv h ..) ..
        · refine inv_ite (fun _ => h) (fun _ => inv_ite (fun _ => refuse_inv h ..) (fun _ => ?_))
          split
          · exact h
          · have k := engPages_inv h _ _ _ _ ‹_›
            refine inv_ite (fun _ => refuse_inv h ..) (fun _ => answerMsg_inv (touch_inv ?_ ..) ..)
            exact inv_ite (fun _ => relWrite_inv (atomAt_inv k ..) ..) (fun _ => atomAt_inv k ..)

theorem onAnswer_inv {s : State} (h : Inv s) (p : Nat) (op : Nat) : Inv (onAnswer s p op) := by
  unfold onAnswer
  split
  · exact pumpDev_inv (takeAnswer_inv (onPort_inv h _ _) ..)
  · exact h

theorem predOp_inv {s : State} (h : Inv s) (f : RRR) (fn : Bool → Bool → Bool) (c : Ctx) : Inv (predOp f fn c s) := by
  unfold predOp
  try dsimp only
  repeat' (first | with_reducible assumption | with_reducible apply advance_inv | with_reducible apply onGang_inv | with_reducible apply inv_foldl | with_reducible apply inv_foldl_snd | with_reducible intro _ _ _ | with_reducible intro _ _ | (with_reducible apply inv_mk; first | with_reducible assumption | with_reducible apply advance_inv | with_reducible apply onGang_inv | with_reducible apply inv_foldl | with_reducible apply inv_foldl_snd | with_reducible intro _ _ _ | with_reducible intro _ _ | split) | split)

theorem writeTracectl_inv {s : State} (h : Inv s) (v : DWord) : Inv (writeTracectl s v) := by
  refine inv_onMg (inv_mk h) _ (fun _ k => ?_)
  dsimp only
  split <;> split <;> exact ok_of k rfl rfl rfl rfl rfl

theorem releaseHeld_inv {s : State} (h : Inv s) (n : Nat) : Inv (releaseHeld s n) := by
  unfold releaseHeld
  try dsimp only
  repeat' (first | with_reducible assumption | with_reducible apply inv_foldl | with_reducible apply inv_foldl_snd | with_reducible intro _ _ _ | with_reducible intro _ _ | (with_reducible apply inv_mk; first | with_reducible assumption | with_reducible apply inv_foldl | with_reducible apply inv_foldl_snd | with_reducible intro _ _ _ | with_reducible intro _ _ | split) | split)

theorem writeBkptctl_inv {s : State} (h : Inv s) (n : Nat) (v : Word) : Inv (writeBkptctl s n v) := by
  unfold writeBkptctl
  try dsimp only
  repeat' (first | with_reducible assumption | ((with_reducible apply inv_onMg); case k => exact fun _ k => ok_of k rfl rfl rfl rfl rfl) | with_reducible apply releaseHeld_inv | with_reducible apply inv_foldl | with_reducible apply inv_foldl_snd | with_reducible intro _ _ _ | with_reducible intro _ _ | (with_reducible apply inv_mk; first | with_reducible assumption | ((with_reducible apply inv_onMg); case k => exact fun _ k => ok_of k rfl rfl rfl rfl rfl) | with_reducible apply releaseHeld_inv | with_reducible apply inv_foldl | with_reducible apply inv_foldl_snd | with_reducible intro _ _ _ | with_reducible intro _ _ | split) | split)

theorem writeBkptaddr_inv {s : State} (h : Inv s) (n : Nat) (v : DWord) : Inv (writeBkptaddr s n v) := by
  unfold writeBkptaddr
  try dsimp only
  repeat' (first | with_reducible assumption | ((with_reducible apply inv_onMg); case k => exact fun _ k => ok_of k rfl rfl rfl rfl rfl) | with_reducible apply inv_foldl | with_reducible apply inv_foldl_snd | with_reducible intro _ _ _ | with_reducible intro _ _ | (with_reducible apply inv_mk; first | with_reducible assumption | ((with_reducible apply inv_onMg); case k => exact fun _ k => ok_of k rfl rfl rfl rfl rfl) | with_reducible apply inv_foldl | with_reducible apply inv_foldl_snd | with_reducible intro _ _ _ | with_reducible intro _ _ | split) | split)

theorem writeWatchctl_inv {s : State} (h : Inv s) (n : Nat) (v : Word) : Inv (writeWatchctl s n v) := by
  unfold writeWatchctl
  try dsimp only
  repeat' (first | with_reducible assumption | ((with_reducible apply inv_onMg); case k => exact fun _ k => ok_of k rfl rfl rfl rfl rfl) | with_reducible apply inv_foldl | with_reducible apply inv_foldl_snd | with_reducible intro _ _ _ | with_reducible intro _ _ | (with_reducible apply inv_mk; first | with_reducible assumption | ((with_reducible apply inv_onMg); case k => exact fun _ k => ok_of k rfl rfl rfl rfl rfl) | with_reducible apply inv_foldl | with_reducible apply inv_foldl_snd | with_reducible intro _ _ _ | with_reducible intro _ _ | split) | split)

theorem writeWatchaddr_inv {s : State} (h : Inv s) (n : Nat) (v : DWord) : Inv (writeWatchaddr s n v) := by
  unfold writeWatchaddr
  try dsimp only
  repeat' (first | with_reducible assumption | ((with_reducible apply inv_onMg); case k => exact fun _ k => ok_of k rfl rfl rfl rfl rfl) | with_reducible apply inv_foldl | with_reducible apply inv_foldl_snd | with_reducible intro _ _ _ | with_reducible intro _ _ | (with_reducible apply inv_mk; first | with_reducible assumption | ((with_reducible apply inv_onMg); case k => exact fun _ k => ok_of k rfl rfl rfl rfl rfl) | with_reducible apply inv_foldl | with_reducible apply inv_foldl_snd | with_reducible intro _ _ _ | with_reducible intro _ _ | split) | split)

theorem apErr_inv {s : State} (h : Inv s)  : Inv (apErr s) := by
  unfold apErr
  try dsimp only
  repeat' (first | with_reducible assumption | ((with_reducible apply inv_onMg); case k => exact fun _ k => ok_of k rfl rfl rfl rfl rfl) | with_reducible apply inv_foldl | with_reducible apply inv_foldl_snd | with_reducible intro _ _ _ | with_reducible intro _ _ | (with_reducible apply inv_mk; first | with_reducible assumption | ((with_reducible apply inv_onMg); case k => exact fun _ k => ok_of k rfl rfl rfl rfl rfl) | with_reducible apply inv_foldl | with_reducible apply inv_foldl_snd | with_reducible intro _ _ _ | with_reducible intro _ _ | split) | split)

theorem writeDevstat_inv {s : State} (h : Inv s) (v : Word) : Inv (writeDevstat s v) := by
  unfold writeDevstat
  try dsimp only
  repeat' (first | with_reducible assumption | ((with_reducible apply inv_onMg); case k => exact fun _ k => ok_of k rfl rfl rfl rfl rfl) | with_reducible apply inv_foldl | with_reducible apply inv_foldl_snd | with_reducible intro _ _ _ | with_reducible intro _ _ | (with_reducible apply inv_mk; first | with_reducible assumption | ((with_reducible apply inv_onMg); case k => exact fun _ k => ok_of k rfl rfl rfl rfl rfl) | with_reducible apply inv_foldl | with_reducible apply inv_foldl_snd | with_reducible intro _ _ _ | with_reducible intro _ _ | split) | split)

theorem writeTracedrop_inv {s : State} (h : Inv s) (v : Word) : Inv (writeTracedrop s v) := by
  unfold writeTracedrop
  try dsimp only
  repeat' (first | with_reducible assumption | ((with_reducible apply inv_onMg); case k => exact fun _ k => ok_of k rfl rfl rfl rfl rfl) | with_reducible apply inv_foldl | with_reducible apply inv_foldl_snd | with_reducible intro _ _ _ | with_reducible intro _ _ | (with_reducible apply inv_mk; first | with_reducible assumption | ((with_reducible apply inv_onMg); case k => exact fun _ k => ok_of k rfl rfl rfl rfl rfl) | with_reducible apply inv_foldl | with_reducible apply inv_foldl_snd | with_reducible intro _ _ _ | with_reducible intro _ _ | split) | split)

theorem writeEvsel_inv {s : State} (h : Inv s) (key : Nat) (v : Word) : Inv (writeEvsel s key v) := by
  unfold writeEvsel
  try dsimp only
  repeat' (first | with_reducible assumption | with_reducible apply putCtr_inv | with_reducible apply inv_foldl | with_reducible apply inv_foldl_snd | with_reducible intro _ _ _ | with_reducible intro _ _ | (with_reducible apply inv_mk; first | with_reducible assumption | with_reducible apply putCtr_inv | with_reducible apply inv_foldl | with_reducible apply inv_foldl_snd | with_reducible intro _ _ _ | with_reducible intro _ _ | split) | split)

theorem writeCount_inv {s : State} (h : Inv s) (key : Nat) (v : DWord) : Inv (writeCount s key v) := by
  unfold writeCount
  try dsimp only
  repeat' (first | with_reducible assumption | with_reducible apply putCtr_inv | with_reducible apply inv_foldl | with_reducible apply inv_foldl_snd | with_reducible intro _ _ _ | with_reducible intro _ _ | (with_reducible apply inv_mk; first | with_reducible assumption | with_reducible apply putCtr_inv | with_reducible apply inv_foldl | with_reducible apply inv_foldl_snd | with_reducible intro _ _ _ | with_reducible intro _ _ | split) | split)

theorem writeStaging_inv {s : State} (h : Inv s) (o : Nat) (v : DWord) : Inv (writeStaging s o v) := by
  refine inv_ite (fun _ => h) (fun _ => inv_onMg h _ (fun _ k => ⟨k.1, k.2.1, k.2.2.1, k.2.2.2.1, k.2.2.2.2.1, k.2.2.2.2.2.1, ?_,
    k.2.2.2.2.2.2.2⟩))
  exact mapPut_wf k.2.2.2.2.2.2.1 ..

theorem writeNonce_inv {s : State} (h : Inv s) (o : Nat) (v : DWord) : Inv (writeNonce s o v) := by
  unfold writeNonce
  try dsimp only
  repeat' (first | with_reducible assumption | ((with_reducible apply inv_onMg); case k => exact fun _ k => ok_of k rfl rfl rfl rfl rfl) | with_reducible apply inv_foldl | with_reducible apply inv_foldl_snd | with_reducible intro _ _ _ | with_reducible intro _ _ | (with_reducible apply inv_mk; first | with_reducible assumption | ((with_reducible apply inv_onMg); case k => exact fun _ k => ok_of k rfl rfl rfl rfl rfl) | with_reducible apply inv_foldl | with_reducible apply inv_foldl_snd | with_reducible intro _ _ _ | with_reducible intro _ _ | split) | split)

theorem writeHsring_inv {s : State} (h : Inv s) (v : DWord) : Inv (writeHsring s v) := by
  unfold writeHsring
  try dsimp only
  repeat' (first | with_reducible assumption | ((with_reducible apply inv_onMg); case k => exact fun _ k => ok_of k rfl rfl rfl rfl rfl) | with_reducible apply inv_foldl | with_reducible apply inv_foldl_snd | with_reducible intro _ _ _ | with_reducible intro _ _ | (with_reducible apply inv_mk; first | with_reducible assumption | ((with_reducible apply inv_onMg); case k => exact fun _ k => ok_of k rfl rfl rfl rfl rfl) | with_reducible apply inv_foldl | with_reducible apply inv_foldl_snd | with_reducible intro _ _ _ | with_reducible intro _ _ | split) | split)

theorem writeFabric_inv {s : State} (h : Inv s) (off : Nat) (v : DWord) : Inv (writeFabric s off v) := by
  unfold writeFabric
  try dsimp only
  repeat' (first | with_reducible assumption | ((with_reducible apply inv_onMg); case k => exact fun _ k => ok_of k rfl rfl rfl rfl rfl) | with_reducible apply inv_foldl | with_reducible apply inv_foldl_snd | with_reducible intro _ _ _ | with_reducible intro _ _ | (with_reducible apply inv_mk; first | with_reducible assumption | ((with_reducible apply inv_onMg); case k => exact fun _ k => ok_of k rfl rfl rfl rfl rfl) | with_reducible apply inv_foldl | with_reducible apply inv_foldl_snd | with_reducible intro _ _ _ | with_reducible intro _ _ | split) | split)

theorem writeLow_inv {s : State} (h : Inv s) (off : Nat) (v : DWord) : Inv (writeLow s off v) := by
  unfold writeLow
  try dsimp only
  repeat' (first | with_reducible assumption | with_reducible apply writeFeatacc_inv | with_reducible apply writeDevstat_inv | with_reducible apply writeLaunchen_inv | with_reducible apply writeHandler_inv | with_reducible apply writeClkceil_inv | with_reducible apply writePwrcap_inv | with_reducible apply writeFwload_inv | with_reducible apply writeCkptctl_inv | ((with_reducible apply inv_onMg); case k => exact fun _ k => ok_of k rfl rfl rfl rfl rfl) | with_reducible apply inv_foldl | with_reducible apply inv_foldl_snd | with_reducible intro _ _ _ | with_reducible intro _ _ | (with_reducible apply inv_mk; first | with_reducible assumption | with_reducible apply writeFeatacc_inv | with_reducible apply writeDevstat_inv | with_reducible apply writeLaunchen_inv | with_reducible apply writeHandler_inv | with_reducible apply writeClkceil_inv | with_reducible apply writePwrcap_inv | with_reducible apply writeFwload_inv | with_reducible apply writeCkptctl_inv | ((with_reducible apply inv_onMg); case k => exact fun _ k => ok_of k rfl rfl rfl rfl rfl) | with_reducible apply inv_foldl | with_reducible apply inv_foldl_snd | with_reducible intro _ _ _ | with_reducible intro _ _ | split) | split)

theorem writeMid_inv {s : State} (h : Inv s) (off : Nat) (v : DWord) : Inv (writeMid s off v) := by
  unfold writeMid
  try dsimp only
  repeat' (first | with_reducible assumption | with_reducible apply writeSavepool_inv | with_reducible apply writeTracectl_inv | ((with_reducible apply inv_onMg); case k => exact fun _ k => ok_of k rfl rfl rfl rfl rfl) | with_reducible apply writeTracedrop_inv | with_reducible apply writeObjtbase_inv | with_reducible apply writeObjtcnt_inv | with_reducible apply writePinovf_inv | with_reducible apply writeShoot_inv | with_reducible apply writeHsring_inv | with_reducible apply writeHsanswer_inv | with_reducible apply writeBkptaddr_inv | with_reducible apply writeBkptctl_inv | with_reducible apply writeWatchaddr_inv | with_reducible apply writeWatchctl_inv | with_reducible apply apErr_inv | with_reducible apply inv_foldl | with_reducible apply inv_foldl_snd | with_reducible intro _ _ _ | with_reducible intro _ _ | (with_reducible apply inv_mk; first | with_reducible assumption | with_reducible apply writeSavepool_inv | with_reducible apply writeTracectl_inv | ((with_reducible apply inv_onMg); case k => exact fun _ k => ok_of k rfl rfl rfl rfl rfl) | with_reducible apply writeTracedrop_inv | with_reducible apply writeObjtbase_inv | with_reducible apply writeObjtcnt_inv | with_reducible apply writePinovf_inv | with_reducible apply writeShoot_inv | with_reducible apply writeHsring_inv | with_reducible apply writeHsanswer_inv | with_reducible apply writeBkptaddr_inv | with_reducible apply writeBkptctl_inv | with_reducible apply writeWatchaddr_inv | with_reducible apply writeWatchctl_inv | with_reducible apply apErr_inv | with_reducible apply inv_foldl | with_reducible apply inv_foldl_snd | with_reducible intro _ _ _ | with_reducible intro _ _ | split) | split)

theorem writeHigh_inv {s : State} (h : Inv s) (off : Nat) (v : DWord) : Inv (writeHigh s off v) := by
  unfold writeHigh
  have hc : ∀ (key o : Nat) (w : Word), Inv (if o = 0 then writeEvsel s key w else if o = 8 then writeCount s key v else s) :=
    fun _ _ _ => inv_ite (fun _ => writeEvsel_inv h ..) (fun _ => inv_ite (fun _ => writeCount_inv h ..) (fun _ => h))
  refine inv_ite (fun _ => inv_ite (fun _ => writeNonce_inv h ..) (fun _ => h)) (fun _ => ?_)
  refine inv_ite (fun _ => writeAttreq_inv h ..) (fun _ => inv_ite (fun _ => h) (fun _ => ?_))
  refine inv_ite (fun _ => hc ..) (fun _ => inv_ite (fun _ => h) (fun _ => inv_ite (fun _ => hc ..) (fun _ => ?_)))
  refine inv_ite (fun _ => inv_ite (fun _ => inv_onMg h _ (fun _ k => ok_of k rfl rfl rfl rfl rfl)) (fun _ => h)) (fun _ => ?_)
  refine inv_ite (fun _ => inv_ite (fun _ => writeStaging_inv h ..) (fun _ => h)) (fun _ => ?_)
  exact inv_ite (fun _ => writeFabric_inv h ..) (fun _ => h)

theorem writeReg_inv {s : State} (h : Inv s) (off : Nat) (v : DWord) : Inv (writeReg s off v) := by
  unfold writeReg
  try dsimp only
  repeat' (first | with_reducible assumption | with_reducible apply writeLow_inv | with_reducible apply writeMid_inv | with_reducible apply writeHigh_inv | with_reducible apply inv_foldl | with_reducible apply inv_foldl_snd | with_reducible intro _ _ _ | with_reducible intro _ _ | (with_reducible apply inv_mk; first | with_reducible assumption | with_reducible apply writeLow_inv | with_reducible apply writeMid_inv | with_reducible apply writeHigh_inv | with_reducible apply inv_foldl | with_reducible apply inv_foldl_snd | with_reducible intro _ _ _ | with_reducible intro _ _ | split) | split)

theorem hostGets_inv {s : State} (h : Inv s) (bs : List Byte) (ep : Bool) : Inv (hostGets s bs ep) := by
  unfold hostGets
  try dsimp only
  repeat' (first | with_reducible assumption | with_reducible apply inv_foldl | with_reducible apply inv_foldl_snd | with_reducible intro _ _ _ | with_reducible intro _ _ | (with_reducible apply inv_mk; first | with_reducible assumption | with_reducible apply inv_foldl | with_reducible apply inv_foldl_snd | with_reducible intro _ _ _ | with_reducible intro _ _ | split) | split)

theorem hostOnes_inv {s : State} (h : Inv s) (n : Nat) : Inv (hostOnes s n) := by
  unfold hostOnes
  try dsimp only
  repeat' (first | with_reducible assumption | with_reducible apply apErr_inv | with_reducible apply hostGets_inv | with_reducible apply inv_foldl | with_reducible apply inv_foldl_snd | with_reducible intro _ _ _ | with_reducible intro _ _ | (with_reducible apply inv_mk; first | with_reducible assumption | with_reducible apply apErr_inv | with_reducible apply hostGets_inv | with_reducible apply inv_foldl | with_reducible apply inv_foldl_snd | with_reducible intro _ _ _ | with_reducible intro _ _ | split) | split)

theorem hostAsks_inv {s : State} (h : Inv s) (e : ObjEnt) (ps : List Piece) : Inv (hostAsks s e ps) := by
  unfold hostAsks
  try dsimp only
  repeat' (first | with_reducible assumption | with_reducible apply askPeer_inv | with_reducible apply inv_foldl | with_reducible apply inv_foldl_snd | with_reducible intro _ _ _ | with_reducible intro _ _ | (with_reducible apply inv_mk; first | with_reducible assumption | with_reducible apply askPeer_inv | with_reducible apply inv_foldl | with_reducible apply inv_foldl_snd | with_reducible intro _ _ _ | with_reducible intro _ _ | split) | split)

theorem hostReadPeer_inv {s : State} (h : Inv s) (e : ObjEnt) (a : Nat) (n : Nat) : Inv (hostReadPeer s e a n) := by
  unfold hostReadPeer
  try dsimp only
  repeat' (first | with_reducible assumption | with_reducible apply hostAsks_inv | with_reducible apply hostOnes_inv | with_reducible apply hostGets_inv | with_reducible apply inv_foldl | with_reducible apply inv_foldl_snd | with_reducible intro _ _ _ | with_reducible intro _ _ | (with_reducible apply inv_mk; first | with_reducible assumption | with_reducible apply hostAsks_inv | with_reducible apply hostOnes_inv | with_reducible apply hostGets_inv | with_reducible apply inv_foldl | with_reducible apply inv_foldl_snd | with_reducible intro _ _ _ | with_reducible intro _ _ | split) | split)

theorem hostSends_inv {s : State} (h : Inv s) (e : ObjEnt) (xs : List (Piece × List Byte)) :
    ∀ t, (hostSends s e xs) = some t → Inv t := by
  induction xs generalizing s with
  | nil => intro t e; cases e; exact h
  | cons x xs ih =>
    intro t e'
    unfold hostSends at e'
    obtain ⟨a, _, e2⟩ := Option.bind_eq_some_iff.mp e'
    obtain ⟨k, _, e3⟩ := Option.bind_eq_some_iff.mp e2
    split at e3
    · exact ih (askPeer_inv h ..) _ e3
    · cases e3

theorem xlDone_inv {s : State} (h : Inv s) (f : XL) (w : Nat) (val : Nat → Nat) (pv : Nat → Bool) (c : Ctx) : Inv
    (xlDone f w val pv c s) := by
  unfold xlDone
  try dsimp only
  repeat' (first | with_reducible assumption | with_reducible apply advance_inv | with_reducible apply onGang_inv | with_reducible apply inv_foldl | with_reducible apply inv_foldl_snd | with_reducible intro _ _ _ | with_reducible intro _ _ | (with_reducible apply inv_mk; first | with_reducible assumption | with_reducible apply advance_inv | with_reducible apply onGang_inv | with_reducible apply inv_foldl | with_reducible apply inv_foldl_snd | with_reducible intro _ _ _ | with_reducible intro _ _ | split) | split)

theorem redDone_inv {s : State} (h : Inv s) (f : XL) (w : Nat) (res : Nat → Nat × Nat) (c : Ctx) : Inv (redDone f w
    res c s) := by
  unfold redDone
  try dsimp only
  repeat' (first | with_reducible assumption | with_reducible apply finishF_inv | with_reducible apply inv_foldl | with_reducible apply inv_foldl_snd | with_reducible intro _ _ _ | with_reducible intro _ _ | (with_reducible apply inv_mk; first | with_reducible assumption | with_reducible apply finishF_inv | with_reducible apply inv_foldl | with_reducible apply inv_foldl_snd | with_reducible intro _ _ _ | with_reducible intro _ _ | split) | split)

theorem State_withFetchWord_inv {s : State} (h : Inv s) (nbits : Nat) (w : Nat) : Inv (State.withFetchWord s nbits w)
    := by
  unfold State.withFetchWord
  try dsimp only
  repeat' (first | with_reducible assumption | with_reducible apply fetchReady_inv | with_reducible apply inv_foldl | with_reducible apply inv_foldl_snd | with_reducible intro _ _ _ | with_reducible intro _ _ | (with_reducible apply inv_mk; first | with_reducible assumption | with_reducible apply fetchReady_inv | with_reducible apply inv_foldl | with_reducible apply inv_foldl_snd | with_reducible intro _ _ _ | with_reducible intro _ _ | split) | split)

end Sys2Proof.Machine
end

