-- ==== Sys2Proof/Laws/KeepsExec.lean ====
section
/-! SUPPORT. Every meaning that answers a next state keeps the invariant. -/

set_option linter.unusedVariables false
set_option Elab.async false

namespace Sys2Proof.Machine

theorem execAdd_inv (f : RRR) {s : State} (h : Inv s) : ∀ t, (execAdd f s) = .next t → Inv t := by
  unfold execAdd
  refine issue_inv _ h _ (fun c u k => ?_)
  try dsimp only
  repeat' (first | with_reducible assumption | with_reducible apply aluE_inv | with_reducible apply inv_foldl | with_reducible apply inv_foldl_snd | with_reducible intro _ _ _ | with_reducible intro _ _ | (with_reducible apply inv_mk; first | with_reducible assumption | with_reducible apply aluE_inv | with_reducible apply inv_foldl | with_reducible apply inv_foldl_snd | with_reducible intro _ _ _ | with_reducible intro _ _ | split) | split)

theorem execSub_inv (f : RRR) {s : State} (h : Inv s) : ∀ t, (execSub f s) = .next t → Inv t := by
  unfold execSub
  refine issue_inv _ h _ (fun c u k => ?_)
  try dsimp only
  repeat' (first | with_reducible assumption | with_reducible apply aluE_inv | with_reducible apply inv_foldl | with_reducible apply inv_foldl_snd | with_reducible intro _ _ _ | with_reducible intro _ _ | (with_reducible apply inv_mk; first | with_reducible assumption | with_reducible apply aluE_inv | with_reducible apply inv_foldl | with_reducible apply inv_foldl_snd | with_reducible intro _ _ _ | with_reducible intro _ _ | split) | split)

theorem execAddc_inv (f : RRR) {s : State} (h : Inv s) : ∀ t, (execAddc f s) = .next t → Inv t := by
  unfold execAddc
  refine issue_inv _ h _ (fun c u k => ?_)
  try dsimp only
  repeat' (first | with_reducible assumption | with_reducible apply advance_inv | with_reducible apply onGang_inv | with_reducible apply inv_foldl | with_reducible apply inv_foldl_snd | with_reducible intro _ _ _ | with_reducible intro _ _ | (with_reducible apply inv_mk; first | with_reducible assumption | with_reducible apply advance_inv | with_reducible apply onGang_inv | with_reducible apply inv_foldl | with_reducible apply inv_foldl_snd | with_reducible intro _ _ _ | with_reducible intro _ _ | split) | split)

theorem execSubb_inv (f : RRR) {s : State} (h : Inv s) : ∀ t, (execSubb f s) = .next t → Inv t := by
  unfold execSubb
  refine issue_inv _ h _ (fun c u k => ?_)
  try dsimp only
  repeat' (first | with_reducible assumption | with_reducible apply advance_inv | with_reducible apply onGang_inv | with_reducible apply inv_foldl | with_reducible apply inv_foldl_snd | with_reducible intro _ _ _ | with_reducible intro _ _ | (with_reducible apply inv_mk; first | with_reducible assumption | with_reducible apply advance_inv | with_reducible apply onGang_inv | with_reducible apply inv_foldl | with_reducible apply inv_foldl_snd | with_reducible intro _ _ _ | with_reducible intro _ _ | split) | split)

theorem execMul_inv (f : RRR) {s : State} (h : Inv s) : ∀ t, (execMul f s) = .next t → Inv t := by
  unfold execMul
  refine issue_inv _ h _ (fun c u k => ?_)
  try dsimp only
  repeat' (first | with_reducible assumption | with_reducible apply aluE_inv | with_reducible apply inv_foldl | with_reducible apply inv_foldl_snd | with_reducible intro _ _ _ | with_reducible intro _ _ | (with_reducible apply inv_mk; first | with_reducible assumption | with_reducible apply aluE_inv | with_reducible apply inv_foldl | with_reducible apply inv_foldl_snd | with_reducible intro _ _ _ | with_reducible intro _ _ | split) | split)

theorem execMulh_inv (f : RRR) {s : State} (h : Inv s) : ∀ t, (execMulh f s) = .next t → Inv t := by
  unfold execMulh
  refine issue_inv _ h _ (fun c u k => ?_)
  try dsimp only
  repeat' (first | with_reducible assumption | with_reducible apply aluE_inv | with_reducible apply inv_foldl | with_reducible apply inv_foldl_snd | with_reducible intro _ _ _ | with_reducible intro _ _ | (with_reducible apply inv_mk; first | with_reducible assumption | with_reducible apply aluE_inv | with_reducible apply inv_foldl | with_reducible apply inv_foldl_snd | with_reducible intro _ _ _ | with_reducible intro _ _ | split) | split)

theorem execMulw_inv (f : RRR) {s : State} (h : Inv s) : ∀ t, (execMulw f s) = .next t → Inv t := by
  unfold execMulw
  refine issue_inv _ h _ (fun c u k => ?_)
  try dsimp only
  repeat' (first | with_reducible assumption | with_reducible apply advance_inv | with_reducible apply onGang_inv | with_reducible apply inv_foldl | with_reducible apply inv_foldl_snd | with_reducible intro _ _ _ | with_reducible intro _ _ | (with_reducible apply inv_mk; first | with_reducible assumption | with_reducible apply advance_inv | with_reducible apply onGang_inv | with_reducible apply inv_foldl | with_reducible apply inv_foldl_snd | with_reducible intro _ _ _ | with_reducible intro _ _ | split) | split)

theorem execMad_inv (f : RRR) {s : State} (h : Inv s) : ∀ t, (execMad f s) = .next t → Inv t := by
  unfold execMad
  refine issue_inv _ h _ (fun c u k => ?_)
  try dsimp only
  repeat' (first | with_reducible assumption | with_reducible apply aluE_inv | with_reducible apply inv_foldl | with_reducible apply inv_foldl_snd | with_reducible intro _ _ _ | with_reducible intro _ _ | (with_reducible apply inv_mk; first | with_reducible assumption | with_reducible apply aluE_inv | with_reducible apply inv_foldl | with_reducible apply inv_foldl_snd | with_reducible intro _ _ _ | with_reducible intro _ _ | split) | split)

theorem execDiv_inv (f : RRR) {s : State} (h : Inv s) : ∀ t, (execDiv f s) = .next t → Inv t := by
  unfold execDiv
  refine issue_inv _ h _ (fun c u k => ?_)
  try dsimp only
  repeat' (first | with_reducible assumption | with_reducible apply aluE_inv | with_reducible apply inv_foldl | with_reducible apply inv_foldl_snd | with_reducible intro _ _ _ | with_reducible intro _ _ | (with_reducible apply inv_mk; first | with_reducible assumption | with_reducible apply aluE_inv | with_reducible apply inv_foldl | with_reducible apply inv_foldl_snd | with_reducible intro _ _ _ | with_reducible intro _ _ | split) | split)

theorem execRem_inv (f : RRR) {s : State} (h : Inv s) : ∀ t, (execRem f s) = .next t → Inv t := by
  unfold execRem
  refine issue_inv _ h _ (fun c u k => ?_)
  try dsimp only
  repeat' (first | with_reducible assumption | with_reducible apply aluE_inv | with_reducible apply inv_foldl | with_reducible apply inv_foldl_snd | with_reducible intro _ _ _ | with_reducible intro _ _ | (with_reducible apply inv_mk; first | with_reducible assumption | with_reducible apply aluE_inv | with_reducible apply inv_foldl | with_reducible apply inv_foldl_snd | with_reducible intro _ _ _ | with_reducible intro _ _ | split) | split)

theorem execMin_inv (f : RRR) {s : State} (h : Inv s) : ∀ t, (execMin f s) = .next t → Inv t := by
  unfold execMin
  refine issue_inv _ h _ (fun c u k => ?_)
  try dsimp only
  repeat' (first | with_reducible assumption | with_reducible apply aluE_inv | with_reducible apply inv_foldl | with_reducible apply inv_foldl_snd | with_reducible intro _ _ _ | with_reducible intro _ _ | (with_reducible apply inv_mk; first | with_reducible assumption | with_reducible apply aluE_inv | with_reducible apply inv_foldl | with_reducible apply inv_foldl_snd | with_reducible intro _ _ _ | with_reducible intro _ _ | split) | split)

theorem execMax_inv (f : RRR) {s : State} (h : Inv s) : ∀ t, (execMax f s) = .next t → Inv t := by
  unfold execMax
  refine issue_inv _ h _ (fun c u k => ?_)
  try dsimp only
  repeat' (first | with_reducible assumption | with_reducible apply aluE_inv | with_reducible apply inv_foldl | with_reducible apply inv_foldl_snd | with_reducible intro _ _ _ | with_reducible intro _ _ | (with_reducible apply inv_mk; first | with_reducible assumption | with_reducible apply aluE_inv | with_reducible apply inv_foldl | with_reducible apply inv_foldl_snd | with_reducible intro _ _ _ | with_reducible intro _ _ | split) | split)

theorem execAbs_inv (f : RRR) {s : State} (h : Inv s) : ∀ t, (execAbs f s) = .next t → Inv t := by
  unfold execAbs
  refine issue_inv _ h _ (fun c u k => ?_)
  try dsimp only
  repeat' (first | with_reducible assumption | with_reducible apply aluE_inv | with_reducible apply inv_foldl | with_reducible apply inv_foldl_snd | with_reducible intro _ _ _ | with_reducible intro _ _ | (with_reducible apply inv_mk; first | with_reducible assumption | with_reducible apply aluE_inv | with_reducible apply inv_foldl | with_reducible apply inv_foldl_snd | with_reducible intro _ _ _ | with_reducible intro _ _ | split) | split)

theorem execNeg_inv (f : RRR) {s : State} (h : Inv s) : ∀ t, (execNeg f s) = .next t → Inv t := by
  unfold execNeg
  refine issue_inv _ h _ (fun c u k => ?_)
  try dsimp only
  repeat' (first | with_reducible assumption | with_reducible apply aluE_inv | with_reducible apply inv_foldl | with_reducible apply inv_foldl_snd | with_reducible intro _ _ _ | with_reducible intro _ _ | (with_reducible apply inv_mk; first | with_reducible assumption | with_reducible apply aluE_inv | with_reducible apply inv_foldl | with_reducible apply inv_foldl_snd | with_reducible intro _ _ _ | with_reducible intro _ _ | split) | split)

theorem execAndr_inv (f : RRR) {s : State} (h : Inv s) : ∀ t, (execAndr f s) = .next t → Inv t := by
  unfold execAndr
  refine issue_inv _ h _ (fun c u k => ?_)
  try dsimp only
  repeat' (first | with_reducible assumption | with_reducible apply aluU_inv | with_reducible apply inv_foldl | with_reducible apply inv_foldl_snd | with_reducible intro _ _ _ | with_reducible intro _ _ | (with_reducible apply inv_mk; first | with_reducible assumption | with_reducible apply aluU_inv | with_reducible apply inv_foldl | with_reducible apply inv_foldl_snd | with_reducible intro _ _ _ | with_reducible intro _ _ | split) | split)

theorem execOrr_inv (f : RRR) {s : State} (h : Inv s) : ∀ t, (execOrr f s) = .next t → Inv t := by
  unfold execOrr
  refine issue_inv _ h _ (fun c u k => ?_)
  try dsimp only
  repeat' (first | with_reducible assumption | with_reducible apply aluU_inv | with_reducible apply inv_foldl | with_reducible apply inv_foldl_snd | with_reducible intro _ _ _ | with_reducible intro _ _ | (with_reducible apply inv_mk; first | with_reducible assumption | with_reducible apply aluU_inv | with_reducible apply inv_foldl | with_reducible apply inv_foldl_snd | with_reducible intro _ _ _ | with_reducible intro _ _ | split) | split)

theorem execXorr_inv (f : RRR) {s : State} (h : Inv s) : ∀ t, (execXorr f s) = .next t → Inv t := by
  unfold execXorr
  refine issue_inv _ h _ (fun c u k => ?_)
  try dsimp only
  repeat' (first | with_reducible assumption | with_reducible apply aluU_inv | with_reducible apply inv_foldl | with_reducible apply inv_foldl_snd | with_reducible intro _ _ _ | with_reducible intro _ _ | (with_reducible apply inv_mk; first | with_reducible assumption | with_reducible apply aluU_inv | with_reducible apply inv_foldl | with_reducible apply inv_foldl_snd | with_reducible intro _ _ _ | with_reducible intro _ _ | split) | split)

theorem execAndn_inv (f : RRR) {s : State} (h : Inv s) : ∀ t, (execAndn f s) = .next t → Inv t := by
  unfold execAndn
  refine issue_inv _ h _ (fun c u k => ?_)
  try dsimp only
  repeat' (first | with_reducible assumption | with_reducible apply aluU_inv | with_reducible apply inv_foldl | with_reducible apply inv_foldl_snd | with_reducible intro _ _ _ | with_reducible intro _ _ | (with_reducible apply inv_mk; first | with_reducible assumption | with_reducible apply aluU_inv | with_reducible apply inv_foldl | with_reducible apply inv_foldl_snd | with_reducible intro _ _ _ | with_reducible intro _ _ | split) | split)

theorem execNotr_inv (f : RRR) {s : State} (h : Inv s) : ∀ t, (execNotr f s) = .next t → Inv t := by
  unfold execNotr
  refine issue_inv _ h _ (fun c u k => ?_)
  try dsimp only
  repeat' (first | with_reducible assumption | with_reducible apply aluU_inv | with_reducible apply inv_foldl | with_reducible apply inv_foldl_snd | with_reducible intro _ _ _ | with_reducible intro _ _ | (with_reducible apply inv_mk; first | with_reducible assumption | with_reducible apply aluU_inv | with_reducible apply inv_foldl | with_reducible apply inv_foldl_snd | with_reducible intro _ _ _ | with_reducible intro _ _ | split) | split)

theorem execShl_inv (f : RRR) {s : State} (h : Inv s) : ∀ t, (execShl f s) = .next t → Inv t := by
  unfold execShl
  refine issue_inv _ h _ (fun c u k => ?_)
  try dsimp only
  repeat' (first | with_reducible assumption | with_reducible apply aluU_inv | with_reducible apply inv_foldl | with_reducible apply inv_foldl_snd | with_reducible intro _ _ _ | with_reducible intro _ _ | (with_reducible apply inv_mk; first | with_reducible assumption | with_reducible apply aluU_inv | with_reducible apply inv_foldl | with_reducible apply inv_foldl_snd | with_reducible intro _ _ _ | with_reducible intro _ _ | split) | split)

theorem execShr_inv (f : RRR) {s : State} (h : Inv s) : ∀ t, (execShr f s) = .next t → Inv t := by
  unfold execShr
  refine issue_inv _ h _ (fun c u k => ?_)
  try dsimp only
  repeat' (first | with_reducible assumption | with_reducible apply aluU_inv | with_reducible apply inv_foldl | with_reducible apply inv_foldl_snd | with_reducible intro _ _ _ | with_reducible intro _ _ | (with_reducible apply inv_mk; first | with_reducible assumption | with_reducible apply aluU_inv | with_reducible apply inv_foldl | with_reducible apply inv_foldl_snd | with_reducible intro _ _ _ | with_reducible intro _ _ | split) | split)

theorem execSar_inv (f : RRR) {s : State} (h : Inv s) : ∀ t, (execSar f s) = .next t → Inv t := by
  unfold execSar
  refine issue_inv _ h _ (fun c u k => ?_)
  try dsimp only
  repeat' (first | with_reducible assumption | with_reducible apply aluU_inv | with_reducible apply inv_foldl | with_reducible apply inv_foldl_snd | with_reducible intro _ _ _ | with_reducible intro _ _ | (with_reducible apply inv_mk; first | with_reducible assumption | with_reducible apply aluU_inv | with_reducible apply inv_foldl | with_reducible apply inv_foldl_snd | with_reducible intro _ _ _ | with_reducible intro _ _ | split) | split)

theorem execRot_inv (f : RRR) {s : State} (h : Inv s) : ∀ t, (execRot f s) = .next t → Inv t := by
  unfold execRot
  refine issue_inv _ h _ (fun c u k => ?_)
  try dsimp only
  repeat' (first | with_reducible assumption | with_reducible apply aluU_inv | with_reducible apply inv_foldl | with_reducible apply inv_foldl_snd | with_reducible intro _ _ _ | with_reducible intro _ _ | (with_reducible apply inv_mk; first | with_reducible assumption | with_reducible apply aluU_inv | with_reducible apply inv_foldl | with_reducible apply inv_foldl_snd | with_reducible intro _ _ _ | with_reducible intro _ _ | split) | split)

theorem execClz_inv (f : RRR) {s : State} (h : Inv s) : ∀ t, (execClz f s) = .next t → Inv t := by
  unfold execClz
  refine issue_inv _ h _ (fun c u k => ?_)
  try dsimp only
  repeat' (first | with_reducible assumption | with_reducible apply aluU_inv | with_reducible apply inv_foldl | with_reducible apply inv_foldl_snd | with_reducible intro _ _ _ | with_reducible intro _ _ | (with_reducible apply inv_mk; first | with_reducible assumption | with_reducible apply aluU_inv | with_reducible apply inv_foldl | with_reducible apply inv_foldl_snd | with_reducible intro _ _ _ | with_reducible intro _ _ | split) | split)

theorem execPopc_inv (f : RRR) {s : State} (h : Inv s) : ∀ t, (execPopc f s) = .next t → Inv t := by
  unfold execPopc
  refine issue_inv _ h _ (fun c u k => ?_)
  try dsimp only
  repeat' (first | with_reducible assumption | with_reducible apply aluU_inv | with_reducible apply inv_foldl | with_reducible apply inv_foldl_snd | with_reducible intro _ _ _ | with_reducible intro _ _ | (with_reducible apply inv_mk; first | with_reducible assumption | with_reducible apply aluU_inv | with_reducible apply inv_foldl | with_reducible apply inv_foldl_snd | with_reducible intro _ _ _ | with_reducible intro _ _ | split) | split)

theorem execBrev_inv (f : RRR) {s : State} (h : Inv s) : ∀ t, (execBrev f s) = .next t → Inv t := by
  unfold execBrev
  refine issue_inv _ h _ (fun c u k => ?_)
  try dsimp only
  repeat' (first | with_reducible assumption | with_reducible apply aluU_inv | with_reducible apply inv_foldl | with_reducible apply inv_foldl_snd | with_reducible intro _ _ _ | with_reducible intro _ _ | (with_reducible apply inv_mk; first | with_reducible assumption | with_reducible apply aluU_inv | with_reducible apply inv_foldl | with_reducible apply inv_foldl_snd | with_reducible intro _ _ _ | with_reducible intro _ _ | split) | split)

theorem execBfe_inv (f : RRR) {s : State} (h : Inv s) : ∀ t, (execBfe f s) = .next t → Inv t := by
  unfold execBfe
  refine issue_inv _ h _ (fun c u k => ?_)
  try dsimp only
  repeat' (first | with_reducible assumption | with_reducible apply advance_inv | with_reducible apply onGang_inv | with_reducible apply inv_foldl | with_reducible apply inv_foldl_snd | with_reducible intro _ _ _ | with_reducible intro _ _ | (with_reducible apply inv_mk; first | with_reducible assumption | with_reducible apply advance_inv | with_reducible apply onGang_inv | with_reducible apply inv_foldl | with_reducible apply inv_foldl_snd | with_reducible intro _ _ _ | with_reducible intro _ _ | split) | split)

theorem execBfi_inv (f : RRR) {s : State} (h : Inv s) : ∀ t, (execBfi f s) = .next t → Inv t := by
  unfold execBfi
  refine issue_inv _ h _ (fun c u k => ?_)
  try dsimp only
  repeat' (first | with_reducible assumption | with_reducible apply advance_inv | with_reducible apply onGang_inv | with_reducible apply inv_foldl | with_reducible apply inv_foldl_snd | with_reducible intro _ _ _ | with_reducible intro _ _ | (with_reducible apply inv_mk; first | with_reducible assumption | with_reducible apply advance_inv | with_reducible apply onGang_inv | with_reducible apply inv_foldl | with_reducible apply inv_foldl_snd | with_reducible intro _ _ _ | with_reducible intro _ _ | split) | split)

theorem execSel_inv (f : RRR) {s : State} (h : Inv s) : ∀ t, (execSel f s) = .next t → Inv t := by
  unfold execSel
  refine issue_inv _ h _ (fun c u k => ?_)
  try dsimp only
  repeat' (first | with_reducible assumption | with_reducible apply advance_inv | with_reducible apply onGang_inv | with_reducible apply inv_foldl | with_reducible apply inv_foldl_snd | with_reducible intro _ _ _ | with_reducible intro _ _ | (with_reducible apply inv_mk; first | with_reducible assumption | with_reducible apply advance_inv | with_reducible apply onGang_inv | with_reducible apply inv_foldl | with_reducible apply inv_foldl_snd | with_reducible intro _ _ _ | with_reducible intro _ _ | split) | split)

theorem execMov_inv (f : RRR) {s : State} (h : Inv s) : ∀ t, (execMov f s) = .next t → Inv t := by
  unfold execMov
  refine issue_inv _ h _ (fun c u k => ?_)
  try dsimp only
  repeat' (first | with_reducible assumption | with_reducible apply alu_inv | with_reducible apply inv_foldl | with_reducible apply inv_foldl_snd | with_reducible intro _ _ _ | with_reducible intro _ _ | (with_reducible apply inv_mk; first | with_reducible assumption | with_reducible apply alu_inv | with_reducible apply inv_foldl | with_reducible apply inv_foldl_snd | with_reducible intro _ _ _ | with_reducible intro _ _ | split) | split)

theorem execMkaddr_inv (f : RRR) {s : State} (h : Inv s) : ∀ t, (execMkaddr f s) = .next t → Inv t := by
  unfold execMkaddr
  refine issue_inv _ h _ (fun c u k => ?_)
  try dsimp only
  repeat' (first | with_reducible assumption | with_reducible apply advance_inv | with_reducible apply onGang_inv | with_reducible apply inv_foldl | with_reducible apply inv_foldl_snd | with_reducible intro _ _ _ | with_reducible intro _ _ | (with_reducible apply inv_mk; first | with_reducible assumption | with_reducible apply advance_inv | with_reducible apply onGang_inv | with_reducible apply inv_foldl | with_reducible apply inv_foldl_snd | with_reducible intro _ _ _ | with_reducible intro _ _ | split) | split)

theorem execAdda_inv (f : RRR) {s : State} (h : Inv s) : ∀ t, (execAdda f s) = .next t → Inv t := by
  unfold execAdda
  refine issue_inv _ h _ (fun c u k => ?_)
  try dsimp only
  repeat' (first | with_reducible assumption | with_reducible apply advance_inv | with_reducible apply onGang_inv | with_reducible apply inv_foldl | with_reducible apply inv_foldl_snd | with_reducible intro _ _ _ | with_reducible intro _ _ | (with_reducible apply inv_mk; first | with_reducible assumption | with_reducible apply advance_inv | with_reducible apply onGang_inv | with_reducible apply inv_foldl | with_reducible apply inv_foldl_snd | with_reducible intro _ _ _ | with_reducible intro _ _ | split) | split)

theorem execVrdi_inv (f : RRR) {s : State} (h : Inv s) : ∀ t, (execVrdi f s) = .next t → Inv t := by
  unfold execVrdi
  refine issue_inv _ h _ (fun c u k => ?_)
  try dsimp only
  repeat' (first | with_reducible assumption | with_reducible apply waitFor_inv | with_reducible apply settle_inv | with_reducible apply onGang_inv | with_reducible apply inv_foldl | with_reducible apply inv_foldl_snd | with_reducible intro _ _ _ | with_reducible intro _ _ | (with_reducible apply inv_mk; first | with_reducible assumption | with_reducible apply waitFor_inv | with_reducible apply settle_inv | with_reducible apply onGang_inv | with_reducible apply inv_foldl | with_reducible apply inv_foldl_snd | with_reducible intro _ _ _ | with_reducible intro _ _ | split) | split)

theorem execVwri_inv (f : RRR) {s : State} (h : Inv s) : ∀ t, (execVwri f s) = .next t → Inv t := by
  unfold execVwri
  refine issue_inv _ h _ (fun c u k => ?_)
  try dsimp only
  repeat' (first | with_reducible assumption | with_reducible apply waitFor_inv | with_reducible apply settle_inv | with_reducible apply onGang_inv | with_reducible apply inv_foldl | with_reducible apply inv_foldl_snd | with_reducible intro _ _ _ | with_reducible intro _ _ | (with_reducible apply inv_mk; first | with_reducible assumption | with_reducible apply waitFor_inv | with_reducible apply settle_inv | with_reducible apply onGang_inv | with_reducible apply inv_foldl | with_reducible apply inv_foldl_snd | with_reducible intro _ _ _ | with_reducible intro _ _ | split) | split)

theorem execMoviV_inv (f : RRI) {s : State} (h : Inv s) : ∀ t, (execMoviV f s) = .next t → Inv t := by
  unfold execMoviV
  refine issue_inv _ h _ (fun c u k => ?_)
  try dsimp only
  repeat' (first | with_reducible assumption | with_reducible apply aluImm_inv | with_reducible apply inv_foldl | with_reducible apply inv_foldl_snd | with_reducible intro _ _ _ | with_reducible intro _ _ | (with_reducible apply inv_mk; first | with_reducible assumption | with_reducible apply aluImm_inv | with_reducible apply inv_foldl | with_reducible apply inv_foldl_snd | with_reducible intro _ _ _ | with_reducible intro _ _ | split) | split)

theorem execMovhV_inv (f : RRI) {s : State} (h : Inv s) : ∀ t, (execMovhV f s) = .next t → Inv t := by
  unfold execMovhV
  refine issue_inv _ h _ (fun c u k => ?_)
  try dsimp only
  repeat' (first | with_reducible assumption | with_reducible apply advance_inv | with_reducible apply onGang_inv | with_reducible apply inv_foldl | with_reducible apply inv_foldl_snd | with_reducible intro _ _ _ | with_reducible intro _ _ | (with_reducible apply inv_mk; first | with_reducible assumption | with_reducible apply advance_inv | with_reducible apply onGang_inv | with_reducible apply inv_foldl | with_reducible apply inv_foldl_snd | with_reducible intro _ _ _ | with_reducible intro _ _ | split) | split)

theorem execAddImmV_inv (f : RRI) {s : State} (h : Inv s) : ∀ t, (execAddImmV f s) = .next t → Inv t := by
  unfold execAddImmV
  refine issue_inv _ h _ (fun c u k => ?_)
  try dsimp only
  repeat' (first | with_reducible assumption | with_reducible apply aluImm_inv | with_reducible apply inv_foldl | with_reducible apply inv_foldl_snd | with_reducible intro _ _ _ | with_reducible intro _ _ | (with_reducible apply inv_mk; first | with_reducible assumption | with_reducible apply aluImm_inv | with_reducible apply inv_foldl | with_reducible apply inv_foldl_snd | with_reducible intro _ _ _ | with_reducible intro _ _ | split) | split)

theorem execShlImmV_inv (f : RRI) {s : State} (h : Inv s) : ∀ t, (execShlImmV f s) = .next t → Inv t := by
  unfold execShlImmV
  refine issue_inv _ h _ (fun c u k => ?_)
  try dsimp only
  repeat' (first | with_reducible assumption | with_reducible apply aluImm_inv | with_reducible apply inv_foldl | with_reducible apply inv_foldl_snd | with_reducible intro _ _ _ | with_reducible intro _ _ | (with_reducible apply inv_mk; first | with_reducible assumption | with_reducible apply aluImm_inv | with_reducible apply inv_foldl | with_reducible apply inv_foldl_snd | with_reducible intro _ _ _ | with_reducible intro _ _ | split) | split)

theorem execShrImmV_inv (f : RRI) {s : State} (h : Inv s) : ∀ t, (execShrImmV f s) = .next t → Inv t := by
  unfold execShrImmV
  refine issue_inv _ h _ (fun c u k => ?_)
  try dsimp only
  repeat' (first | with_reducible assumption | with_reducible apply aluImm_inv | with_reducible apply inv_foldl | with_reducible apply inv_foldl_snd | with_reducible intro _ _ _ | with_reducible intro _ _ | (with_reducible apply inv_mk; first | with_reducible assumption | with_reducible apply aluImm_inv | with_reducible apply inv_foldl | with_reducible apply inv_foldl_snd | with_reducible intro _ _ _ | with_reducible intro _ _ | split) | split)

theorem execSarImmV_inv (f : RRI) {s : State} (h : Inv s) : ∀ t, (execSarImmV f s) = .next t → Inv t := by
  unfold execSarImmV
  refine issue_inv _ h _ (fun c u k => ?_)
  try dsimp only
  repeat' (first | with_reducible assumption | with_reducible apply aluImm_inv | with_reducible apply inv_foldl | with_reducible apply inv_foldl_snd | with_reducible intro _ _ _ | with_reducible intro _ _ | (with_reducible apply inv_mk; first | with_reducible assumption | with_reducible apply aluImm_inv | with_reducible apply inv_foldl | with_reducible apply inv_foldl_snd | with_reducible intro _ _ _ | with_reducible intro _ _ | split) | split)

theorem execAndImmV_inv (f : RRI) {s : State} (h : Inv s) : ∀ t, (execAndImmV f s) = .next t → Inv t := by
  unfold execAndImmV
  refine issue_inv _ h _ (fun c u k => ?_)
  try dsimp only
  repeat' (first | with_reducible assumption | with_reducible apply aluImm_inv | with_reducible apply inv_foldl | with_reducible apply inv_foldl_snd | with_reducible intro _ _ _ | with_reducible intro _ _ | (with_reducible apply inv_mk; first | with_reducible assumption | with_reducible apply aluImm_inv | with_reducible apply inv_foldl | with_reducible apply inv_foldl_snd | with_reducible intro _ _ _ | with_reducible intro _ _ | split) | split)

theorem execOrImmV_inv (f : RRI) {s : State} (h : Inv s) : ∀ t, (execOrImmV f s) = .next t → Inv t := by
  unfold execOrImmV
  refine issue_inv _ h _ (fun c u k => ?_)
  try dsimp only
  repeat' (first | with_reducible assumption | with_reducible apply aluImm_inv | with_reducible apply inv_foldl | with_reducible apply inv_foldl_snd | with_reducible intro _ _ _ | with_reducible intro _ _ | (with_reducible apply inv_mk; first | with_reducible assumption | with_reducible apply aluImm_inv | with_reducible apply inv_foldl | with_reducible apply inv_foldl_snd | with_reducible intro _ _ _ | with_reducible intro _ _ | split) | split)

theorem execMoviS_inv (f : RRI) {s : State} (h : Inv s) : ∀ t, (execMoviS f s) = .next t → Inv t := by
  unfold execMoviS
  refine issue_inv _ h _ (fun c u k => ?_)
  try dsimp only
  repeat' (first | with_reducible assumption | with_reducible apply aluImm_inv | with_reducible apply inv_foldl | with_reducible apply inv_foldl_snd | with_reducible intro _ _ _ | with_reducible intro _ _ | (with_reducible apply inv_mk; first | with_reducible assumption | with_reducible apply aluImm_inv | with_reducible apply inv_foldl | with_reducible apply inv_foldl_snd | with_reducible intro _ _ _ | with_reducible intro _ _ | split) | split)

theorem execMovhS_inv (f : RRI) {s : State} (h : Inv s) : ∀ t, (execMovhS f s) = .next t → Inv t := by
  unfold execMovhS
  refine issue_inv _ h _ (fun c u k => ?_)
  try dsimp only
  repeat' (first | with_reducible assumption | with_reducible apply advance_inv | with_reducible apply onGang_inv | with_reducible apply inv_foldl | with_reducible apply inv_foldl_snd | with_reducible intro _ _ _ | with_reducible intro _ _ | (with_reducible apply inv_mk; first | with_reducible assumption | with_reducible apply advance_inv | with_reducible apply onGang_inv | with_reducible apply inv_foldl | with_reducible apply inv_foldl_snd | with_reducible intro _ _ _ | with_reducible intro _ _ | split) | split)

theorem execAddImmS_inv (f : RRI) {s : State} (h : Inv s) : ∀ t, (execAddImmS f s) = .next t → Inv t := by
  unfold execAddImmS
  refine issue_inv _ h _ (fun c u k => ?_)
  try dsimp only
  repeat' (first | with_reducible assumption | with_reducible apply aluImm_inv | with_reducible apply inv_foldl | with_reducible apply inv_foldl_snd | with_reducible intro _ _ _ | with_reducible intro _ _ | (with_reducible apply inv_mk; first | with_reducible assumption | with_reducible apply aluImm_inv | with_reducible apply inv_foldl | with_reducible apply inv_foldl_snd | with_reducible intro _ _ _ | with_reducible intro _ _ | split) | split)

theorem execShlImmS_inv (f : RRI) {s : State} (h : Inv s) : ∀ t, (execShlImmS f s) = .next t → Inv t := by
  unfold execShlImmS
  refine issue_inv _ h _ (fun c u k => ?_)
  try dsimp only
  repeat' (first | with_reducible assumption | with_reducible apply aluImm_inv | with_reducible apply inv_foldl | with_reducible apply inv_foldl_snd | with_reducible intro _ _ _ | with_reducible intro _ _ | (with_reducible apply inv_mk; first | with_reducible assumption | with_reducible apply aluImm_inv | with_reducible apply inv_foldl | with_reducible apply inv_foldl_snd | with_reducible intro _ _ _ | with_reducible intro _ _ | split) | split)

theorem execShrImmS_inv (f : RRI) {s : State} (h : Inv s) : ∀ t, (execShrImmS f s) = .next t → Inv t := by
  unfold execShrImmS
  refine issue_inv _ h _ (fun c u k => ?_)
  try dsimp only
  repeat' (first | with_reducible assumption | with_reducible apply aluImm_inv | with_reducible apply inv_foldl | with_reducible apply inv_foldl_snd | with_reducible intro _ _ _ | with_reducible intro _ _ | (with_reducible apply inv_mk; first | with_reducible assumption | with_reducible apply aluImm_inv | with_reducible apply inv_foldl | with_reducible apply inv_foldl_snd | with_reducible intro _ _ _ | with_reducible intro _ _ | split) | split)

theorem execSarImmS_inv (f : RRI) {s : State} (h : Inv s) : ∀ t, (execSarImmS f s) = .next t → Inv t := by
  unfold execSarImmS
  refine issue_inv _ h _ (fun c u k => ?_)
  try dsimp only
  repeat' (first | with_reducible assumption | with_reducible apply aluImm_inv | with_reducible apply inv_foldl | with_reducible apply inv_foldl_snd | with_reducible intro _ _ _ | with_reducible intro _ _ | (with_reducible apply inv_mk; first | with_reducible assumption | with_reducible apply aluImm_inv | with_reducible apply inv_foldl | with_reducible apply inv_foldl_snd | with_reducible intro _ _ _ | with_reducible intro _ _ | split) | split)

theorem execAndImmS_inv (f : RRI) {s : State} (h : Inv s) : ∀ t, (execAndImmS f s) = .next t → Inv t := by
  unfold execAndImmS
  refine issue_inv _ h _ (fun c u k => ?_)
  try dsimp only
  repeat' (first | with_reducible assumption | with_reducible apply aluImm_inv | with_reducible apply inv_foldl | with_reducible apply inv_foldl_snd | with_reducible intro _ _ _ | with_reducible intro _ _ | (with_reducible apply inv_mk; first | with_reducible assumption | with_reducible apply aluImm_inv | with_reducible apply inv_foldl | with_reducible apply inv_foldl_snd | with_reducible intro _ _ _ | with_reducible intro _ _ | split) | split)

theorem execOrImmS_inv (f : RRI) {s : State} (h : Inv s) : ∀ t, (execOrImmS f s) = .next t → Inv t := by
  unfold execOrImmS
  refine issue_inv _ h _ (fun c u k => ?_)
  try dsimp only
  repeat' (first | with_reducible assumption | with_reducible apply aluImm_inv | with_reducible apply inv_foldl | with_reducible apply inv_foldl_snd | with_reducible intro _ _ _ | with_reducible intro _ _ | (with_reducible apply inv_mk; first | with_reducible assumption | with_reducible apply aluImm_inv | with_reducible apply inv_foldl | with_reducible apply inv_foldl_snd | with_reducible intro _ _ _ | with_reducible intro _ _ | split) | split)

theorem execVgrow_inv (f : RRI) {s : State} (h : Inv s) : ∀ t, (execVgrow f s) = .next t → Inv t := by
  unfold execVgrow
  refine issue_inv _ h _ (fun c u k => ?_)
  try dsimp only
  repeat' (first | with_reducible assumption | with_reducible apply trapAll_inv | with_reducible apply advance_inv | with_reducible apply onGang_inv | with_reducible apply waitFor_inv | with_reducible apply bumpCore_inv | with_reducible apply inv_foldl | with_reducible apply inv_foldl_snd | with_reducible intro _ _ _ | with_reducible intro _ _ | (with_reducible apply inv_mk; first | with_reducible assumption | with_reducible apply trapAll_inv | with_reducible apply advance_inv | with_reducible apply onGang_inv | with_reducible apply waitFor_inv | with_reducible apply bumpCore_inv | with_reducible apply inv_foldl | with_reducible apply inv_foldl_snd | with_reducible intro _ _ _ | with_reducible intro _ _ | split) | split)

theorem execLdV_inv (f : MEM) {s : State} (h : Inv s) : ∀ t, (execLdV f s) = .next t → Inv t := by
  unfold execLdV
  refine issue_inv _ h _ (fun c u k => ?_)
  try dsimp only
  repeat' (first | with_reducible assumption | with_reducible apply loadV_inv | with_reducible apply inv_foldl | with_reducible apply inv_foldl_snd | with_reducible intro _ _ _ | with_reducible intro _ _ | (with_reducible apply inv_mk; first | with_reducible assumption | with_reducible apply loadV_inv | with_reducible apply inv_foldl | with_reducible apply inv_foldl_snd | with_reducible intro _ _ _ | with_reducible intro _ _ | split) | split)

theorem execLdS_inv (f : MEM) {s : State} (h : Inv s) : ∀ t, (execLdS f s) = .next t → Inv t := by
  unfold execLdS
  refine issue_inv _ h _ (fun c u k => ?_)
  try dsimp only
  repeat' (first | with_reducible assumption | with_reducible apply loadV_inv | with_reducible apply inv_foldl | with_reducible apply inv_foldl_snd | with_reducible intro _ _ _ | with_reducible intro _ _ | (with_reducible apply inv_mk; first | with_reducible assumption | with_reducible apply loadV_inv | with_reducible apply inv_foldl | with_reducible apply inv_foldl_snd | with_reducible intro _ _ _ | with_reducible intro _ _ | split) | split)

theorem execLdc_inv (f : MEM) {s : State} (h : Inv s) : ∀ t, (execLdc f s) = .next t → Inv t := by
  unfold execLdc
  refine issue_inv _ h _ (fun c u k => ?_)
  try dsimp only
  repeat' (first | with_reducible assumption | with_reducible apply advance_inv | (have e := ‹peerWait _ _ _ _ _ _ = some _›; exact peerWait_inv (by assumption) _ _ _ _ _ _ e) | (intro _ e; exact peerWait_inv (by assumption) _ _ _ _ _ _ e) | with_reducible apply settle_inv | with_reducible apply dropAnswers_inv | with_reducible apply touch_inv | with_reducible apply relRead_inv | with_reducible apply addOp_inv | with_reducible apply inv_foldl | with_reducible apply inv_foldl_snd | with_reducible intro _ _ _ | with_reducible intro _ _ | (with_reducible apply inv_mk; first | with_reducible assumption | with_reducible apply advance_inv | (have e := ‹peerWait _ _ _ _ _ _ = some _›; exact peerWait_inv (by assumption) _ _ _ _ _ _ e) | (intro _ e; exact peerWait_inv (by assumption) _ _ _ _ _ _ e) | with_reducible apply settle_inv | with_reducible apply dropAnswers_inv | with_reducible apply touch_inv | with_reducible apply relRead_inv | with_reducible apply addOp_inv | with_reducible apply inv_foldl | with_reducible apply inv_foldl_snd | with_reducible intro _ _ _ | with_reducible intro _ _ | split) | split)

theorem execPrefV_inv (f : MEM) {s : State} (h : Inv s) : ∀ t, (execPrefV f s) = .next t → Inv t := by
  unfold execPrefV
  refine issue_inv _ h _ (fun c u k => ?_)
  try dsimp only
  repeat' (first | with_reducible assumption | with_reducible apply advance_inv | with_reducible apply inv_foldl | with_reducible apply inv_foldl_snd | with_reducible intro _ _ _ | with_reducible intro _ _ | (with_reducible apply inv_mk; first | with_reducible assumption | with_reducible apply advance_inv | with_reducible apply inv_foldl | with_reducible apply inv_foldl_snd | with_reducible intro _ _ _ | with_reducible intro _ _ | split) | split)

theorem execPrefS_inv (f : MEM) {s : State} (h : Inv s) : ∀ t, (execPrefS f s) = .next t → Inv t := by
  unfold execPrefS
  refine issue_inv _ h _ (fun c u k => ?_)
  try dsimp only
  repeat' (first | with_reducible assumption | with_reducible apply advance_inv | with_reducible apply inv_foldl | with_reducible apply inv_foldl_snd | with_reducible intro _ _ _ | with_reducible intro _ _ | (with_reducible apply inv_mk; first | with_reducible assumption | with_reducible apply advance_inv | with_reducible apply inv_foldl | with_reducible apply inv_foldl_snd | with_reducible intro _ _ _ | with_reducible intro _ _ | split) | split)

theorem execStV_inv (f : MEM) {s : State} (h : Inv s) : ∀ t, (execStV f s) = .next t → Inv t := by
  unfold execStV
  refine issue_inv _ h _ (fun c u k => ?_)
  try dsimp only
  repeat' (first | with_reducible assumption | with_reducible apply storeV_inv | with_reducible apply inv_foldl | with_reducible apply inv_foldl_snd | with_reducible intro _ _ _ | with_reducible intro _ _ | (with_reducible apply inv_mk; first | with_reducible assumption | with_reducible apply storeV_inv | with_reducible apply inv_foldl | with_reducible apply inv_foldl_snd | with_reducible intro _ _ _ | with_reducible intro _ _ | split) | split)

theorem execStS_inv (f : MEM) {s : State} (h : Inv s) : ∀ t, (execStS f s) = .next t → Inv t := by
  unfold execStS
  refine issue_inv _ h _ (fun c u k => ?_)
  try dsimp only
  repeat' (first | with_reducible assumption | with_reducible apply storeV_inv | with_reducible apply inv_foldl | with_reducible apply inv_foldl_snd | with_reducible intro _ _ _ | with_reducible intro _ _ | (with_reducible apply inv_mk; first | with_reducible assumption | with_reducible apply storeV_inv | with_reducible apply inv_foldl | with_reducible apply inv_foldl_snd | with_reducible intro _ _ _ | with_reducible intro _ _ | split) | split)

theorem execAadd_inv (f : MEM) {s : State} (h : Inv s) : ∀ t, (execAadd f s) = .next t → Inv t := by
  unfold execAadd
  refine issue_inv _ h _ (fun c u k => ?_)
  try dsimp only
  repeat' (first | with_reducible assumption | with_reducible apply atomic_inv | with_reducible apply inv_foldl | with_reducible apply inv_foldl_snd | with_reducible intro _ _ _ | with_reducible intro _ _ | (with_reducible apply inv_mk; first | with_reducible assumption | with_reducible apply atomic_inv | with_reducible apply inv_foldl | with_reducible apply inv_foldl_snd | with_reducible intro _ _ _ | with_reducible intro _ _ | split) | split)

theorem execAmin_inv (f : MEM) {s : State} (h : Inv s) : ∀ t, (execAmin f s) = .next t → Inv t := by
  unfold execAmin
  refine issue_inv _ h _ (fun c u k => ?_)
  try dsimp only
  repeat' (first | with_reducible assumption | with_reducible apply atomic_inv | with_reducible apply inv_foldl | with_reducible apply inv_foldl_snd | with_reducible intro _ _ _ | with_reducible intro _ _ | (with_reducible apply inv_mk; first | with_reducible assumption | with_reducible apply atomic_inv | with_reducible apply inv_foldl | with_reducible apply inv_foldl_snd | with_reducible intro _ _ _ | with_reducible intro _ _ | split) | split)

theorem execAmax_inv (f : MEM) {s : State} (h : Inv s) : ∀ t, (execAmax f s) = .next t → Inv t := by
  unfold execAmax
  refine issue_inv _ h _ (fun c u k => ?_)
  try dsimp only
  repeat' (first | with_reducible assumption | with_reducible apply atomic_inv | with_reducible apply inv_foldl | with_reducible apply inv_foldl_snd | with_reducible intro _ _ _ | with_reducible intro _ _ | (with_reducible apply inv_mk; first | with_reducible assumption | with_reducible apply atomic_inv | with_reducible apply inv_foldl | with_reducible apply inv_foldl_snd | with_reducible intro _ _ _ | with_reducible intro _ _ | split) | split)

theorem execAand_inv (f : MEM) {s : State} (h : Inv s) : ∀ t, (execAand f s) = .next t → Inv t := by
  unfold execAand
  refine issue_inv _ h _ (fun c u k => ?_)
  try dsimp only
  repeat' (first | with_reducible assumption | with_reducible apply atomic_inv | with_reducible apply inv_foldl | with_reducible apply inv_foldl_snd | with_reducible intro _ _ _ | with_reducible intro _ _ | (with_reducible apply inv_mk; first | with_reducible assumption | with_reducible apply atomic_inv | with_reducible apply inv_foldl | with_reducible apply inv_foldl_snd | with_reducible intro _ _ _ | with_reducible intro _ _ | split) | split)

theorem execAor_inv (f : MEM) {s : State} (h : Inv s) : ∀ t, (execAor f s) = .next t → Inv t := by
  unfold execAor
  refine issue_inv _ h _ (fun c u k => ?_)
  try dsimp only
  repeat' (first | with_reducible assumption | with_reducible apply atomic_inv | with_reducible apply inv_foldl | with_reducible apply inv_foldl_snd | with_reducible intro _ _ _ | with_reducible intro _ _ | (with_reducible apply inv_mk; first | with_reducible assumption | with_reducible apply atomic_inv | with_reducible apply inv_foldl | with_reducible apply inv_foldl_snd | with_reducible intro _ _ _ | with_reducible intro _ _ | split) | split)

theorem execAxor_inv (f : MEM) {s : State} (h : Inv s) : ∀ t, (execAxor f s) = .next t → Inv t := by
  unfold execAxor
  refine issue_inv _ h _ (fun c u k => ?_)
  try dsimp only
  repeat' (first | with_reducible assumption | with_reducible apply atomic_inv | with_reducible apply inv_foldl | with_reducible apply inv_foldl_snd | with_reducible intro _ _ _ | with_reducible intro _ _ | (with_reducible apply inv_mk; first | with_reducible assumption | with_reducible apply atomic_inv | with_reducible apply inv_foldl | with_reducible apply inv_foldl_snd | with_reducible intro _ _ _ | with_reducible intro _ _ | split) | split)

theorem execAxchg_inv (f : MEM) {s : State} (h : Inv s) : ∀ t, (execAxchg f s) = .next t → Inv t := by
  unfold execAxchg
  refine issue_inv _ h _ (fun c u k => ?_)
  try dsimp only
  repeat' (first | with_reducible assumption | with_reducible apply atomic_inv | with_reducible apply inv_foldl | with_reducible apply inv_foldl_snd | with_reducible intro _ _ _ | with_reducible intro _ _ | (with_reducible apply inv_mk; first | with_reducible assumption | with_reducible apply atomic_inv | with_reducible apply inv_foldl | with_reducible apply inv_foldl_snd | with_reducible intro _ _ _ | with_reducible intro _ _ | split) | split)

theorem execAcas_inv (f : MEM) {s : State} (h : Inv s) : ∀ t, (execAcas f s) = .next t → Inv t := by
  unfold execAcas
  refine issue_inv _ h _ (fun c u k => ?_)
  try dsimp only
  repeat' (first | with_reducible assumption | with_reducible apply atomic_inv | with_reducible apply inv_foldl | with_reducible apply inv_foldl_snd | with_reducible intro _ _ _ | with_reducible intro _ _ | (with_reducible apply inv_mk; first | with_reducible assumption | with_reducible apply atomic_inv | with_reducible apply inv_foldl | with_reducible apply inv_foldl_snd | with_reducible intro _ _ _ | with_reducible intro _ _ | split) | split)

theorem execAcas2_inv (f : MEM) {s : State} (h : Inv s) : ∀ t, (execAcas2 f s) = .next t → Inv t := by
  unfold execAcas2
  refine issue_inv _ h _ (fun c u k => ?_)
  try dsimp only
  repeat' (first | with_reducible assumption | with_reducible apply atomic_inv | with_reducible apply inv_foldl | with_reducible apply inv_foldl_snd | with_reducible intro _ _ _ | with_reducible intro _ _ | (with_reducible apply inv_mk; first | with_reducible assumption | with_reducible apply atomic_inv | with_reducible apply inv_foldl | with_reducible apply inv_foldl_snd | with_reducible intro _ _ _ | with_reducible intro _ _ | split) | split)

theorem execAfadd_inv (f : MEM) {s : State} (h : Inv s) : ∀ t, (execAfadd f s) = .next t → Inv t := by
  unfold execAfadd
  refine issue_inv _ h _ (fun c u k => ?_)
  try dsimp only
  repeat' (first | with_reducible assumption | with_reducible apply atomic_inv | with_reducible apply inv_foldl | with_reducible apply inv_foldl_snd | with_reducible intro _ _ _ | with_reducible intro _ _ | (with_reducible apply inv_mk; first | with_reducible assumption | with_reducible apply atomic_inv | with_reducible apply inv_foldl | with_reducible apply inv_foldl_snd | with_reducible intro _ _ _ | with_reducible intro _ _ | split) | split)

theorem execAmaxe_inv (f : MEM) {s : State} (h : Inv s) : ∀ t, (execAmaxe f s) = .next t → Inv t := by
  unfold execAmaxe
  refine issue_inv _ h _ (fun c u k => ?_)
  try dsimp only
  repeat' (first | with_reducible assumption | with_reducible apply atomic_inv | with_reducible apply inv_foldl | with_reducible apply inv_foldl_snd | with_reducible intro _ _ _ | with_reducible intro _ _ | (with_reducible apply inv_mk; first | with_reducible assumption | with_reducible apply atomic_inv | with_reducible apply inv_foldl | with_reducible apply inv_foldl_snd | with_reducible intro _ _ _ | with_reducible intro _ _ | split) | split)

theorem execFence_inv (f : MEM) {s : State} (h : Inv s) : ∀ t, (execFence f s) = .next t → Inv t := by
  unfold execFence
  refine issue_inv _ h _ (fun c u k => ?_)
  try dsimp only
  repeat' (first | with_reducible assumption | with_reducible apply advance_inv | with_reducible apply waitFor_inv | (have e := ‹releaseWait _ _ = some _›; exact releaseWait_inv (by assumption) _ _ e) | (intro _ e; exact releaseWait_inv (by assumption) _ _ e) | with_reducible apply acquire_inv | with_reducible apply onPath_inv | exact release_inv ‹_› ‹_› | with_reducible apply inv_foldl | with_reducible apply inv_foldl_snd | with_reducible intro _ _ _ | with_reducible intro _ _ | (with_reducible apply inv_mk; first | with_reducible assumption | with_reducible apply advance_inv | with_reducible apply waitFor_inv | (have e := ‹releaseWait _ _ = some _›; exact releaseWait_inv (by assumption) _ _ e) | (intro _ e; exact releaseWait_inv (by assumption) _ _ e) | with_reducible apply acquire_inv | with_reducible apply onPath_inv | exact release_inv ‹_› ‹_› | with_reducible apply inv_foldl | with_reducible apply inv_foldl_snd | with_reducible intro _ _ _ | with_reducible intro _ _ | split) | split)

theorem execBinit_inv (f : ENG) {s : State} (h : Inv s) : ∀ t, (execBinit f s) = .next t → Inv t := by
  unfold execBinit
  refine issue_inv _ h _ (fun c u k => ?_)
  try dsimp only
  repeat' (first | with_reducible assumption | with_reducible apply onBarrier_inv | with_reducible apply plainPut_inv | with_reducible apply advance_inv | with_reducible apply clearArrivals_inv | with_reducible apply putBar_inv | with_reducible apply inv_foldl | with_reducible apply inv_foldl_snd | with_reducible intro _ _ _ | with_reducible intro _ _ | (with_reducible apply inv_mk; first | with_reducible assumption | with_reducible apply onBarrier_inv | with_reducible apply plainPut_inv | with_reducible apply advance_inv | with_reducible apply clearArrivals_inv | with_reducible apply putBar_inv | with_reducible apply inv_foldl | with_reducible apply inv_foldl_snd | with_reducible intro _ _ _ | with_reducible intro _ _ | split) | split)

theorem execBjoin_inv (f : ENG) {s : State} (h : Inv s) : ∀ t, (execBjoin f s) = .next t → Inv t := by
  unfold execBjoin
  refine issue_inv _ h _ (fun c u k => ?_)
  try dsimp only
  repeat' (first | with_reducible assumption | with_reducible apply onBarrier_inv | with_reducible apply barUpdate_inv | with_reducible apply advance_inv | with_reducible apply inv_foldl | with_reducible apply inv_foldl_snd | with_reducible intro _ _ _ | with_reducible intro _ _ | (with_reducible apply inv_mk; first | with_reducible assumption | with_reducible apply onBarrier_inv | with_reducible apply barUpdate_inv | with_reducible apply advance_inv | with_reducible apply inv_foldl | with_reducible apply inv_foldl_snd | with_reducible intro _ _ _ | with_reducible intro _ _ | split) | split)

theorem execBleave_inv (f : ENG) {s : State} (h : Inv s) : ∀ t, (execBleave f s) = .next t → Inv t := by
  unfold execBleave
  refine issue_inv _ h _ (fun c u k => ?_)
  try dsimp only
  repeat' (first | with_reducible assumption | with_reducible apply onBarrier_inv | with_reducible apply waitFor_inv | with_reducible apply onGang_inv | with_reducible apply barUpdate_inv | with_reducible apply advance_inv | with_reducible apply inv_foldl | with_reducible apply inv_foldl_snd | with_reducible intro _ _ _ | with_reducible intro _ _ | (with_reducible apply inv_mk; first | with_reducible assumption | with_reducible apply onBarrier_inv | with_reducible apply waitFor_inv | with_reducible apply onGang_inv | with_reducible apply barUpdate_inv | with_reducible apply advance_inv | with_reducible apply inv_foldl | with_reducible apply inv_foldl_snd | with_reducible intro _ _ _ | with_reducible intro _ _ | split) | split)

theorem execBarv_inv (f : ENG) {s : State} (h : Inv s) : ∀ t, (execBarv f s) = .next t → Inv t := by
  unfold execBarv
  refine issue_inv _ h _ (fun c u k => ?_)
  try dsimp only
  repeat' (first | with_reducible assumption | with_reducible apply barArrive_inv | with_reducible apply advance_inv | with_reducible apply onGang_inv | with_reducible apply inv_foldl | with_reducible apply inv_foldl_snd | with_reducible intro _ _ _ | with_reducible intro _ _ | (with_reducible apply inv_mk; first | with_reducible assumption | with_reducible apply barArrive_inv | with_reducible apply advance_inv | with_reducible apply onGang_inv | with_reducible apply inv_foldl | with_reducible apply inv_foldl_snd | with_reducible intro _ _ _ | with_reducible intro _ _ | split) | split)

theorem execBarw_inv (f : ENG) {s : State} (h : Inv s) : ∀ t, (execBarw f s) = .next t → Inv t := by
  unfold execBarw
  refine issue_inv _ h _ (fun c u k => ?_)
  try dsimp only
  repeat' (first | with_reducible assumption | with_reducible apply onBarrier_inv | with_reducible apply barWait_inv | with_reducible apply advance_inv | with_reducible apply inv_foldl | with_reducible apply inv_foldl_snd | with_reducible intro _ _ _ | with_reducible intro _ _ | (with_reducible apply inv_mk; first | with_reducible assumption | with_reducible apply onBarrier_inv | with_reducible apply barWait_inv | with_reducible apply advance_inv | with_reducible apply inv_foldl | with_reducible apply inv_foldl_snd | with_reducible intro _ _ _ | with_reducible intro _ _ | split) | split)

theorem execBaraw_inv (f : ENG) {s : State} (h : Inv s) : ∀ t, (execBaraw f s) = .next t → Inv t := by
  unfold execBaraw
  refine issue_inv _ h _ (fun c u k => ?_)
  try dsimp only
  repeat' (first | with_reducible assumption | with_reducible apply barWait_inv | with_reducible apply advance_inv | with_reducible apply barArrive_inv | with_reducible apply onPath_inv | with_reducible apply inv_foldl | with_reducible apply inv_foldl_snd | with_reducible intro _ _ _ | with_reducible intro _ _ | (with_reducible apply inv_mk; first | with_reducible assumption | with_reducible apply barWait_inv | with_reducible apply advance_inv | with_reducible apply barArrive_inv | with_reducible apply onPath_inv | with_reducible apply inv_foldl | with_reducible apply inv_foldl_snd | with_reducible intro _ _ _ | with_reducible intro _ _ | split) | split)

theorem execBatch_inv (f : ENG) {s : State} (h : Inv s) : ∀ t, (execBatch f s) = .next t → Inv t := by
  unfold execBatch
  refine issue_inv _ h _ (fun c u k => ?_)
  try dsimp only
  repeat' (first | with_reducible assumption | with_reducible apply advance_inv | with_reducible apply waitFor_inv | with_reducible apply onGang_inv | with_reducible apply inv_foldl | with_reducible apply inv_foldl_snd | with_reducible intro _ _ _ | with_reducible intro _ _ | (with_reducible apply inv_mk; first | with_reducible assumption | with_reducible apply advance_inv | with_reducible apply waitFor_inv | with_reducible apply onGang_inv | with_reducible apply inv_foldl | with_reducible apply inv_foldl_snd | with_reducible intro _ _ _ | with_reducible intro _ _ | split) | split)

theorem execBwait_inv (f : ENG) {s : State} (h : Inv s) : ∀ t, (execBwait f s) = .next t → Inv t := by
  unfold execBwait
  refine issue_inv _ h _ (fun c u k => ?_)
  try dsimp only
  repeat' (first | with_reducible assumption | with_reducible apply advance_inv | with_reducible apply waitFor_inv | (have e := ‹releaseWait _ _ = some _›; exact releaseWait_inv (by assumption) _ _ e) | (intro _ e; exact releaseWait_inv (by assumption) _ _ e) | with_reducible apply onGang_inv | with_reducible apply inv_foldl | with_reducible apply inv_foldl_snd | with_reducible intro _ _ _ | with_reducible intro _ _ | (with_reducible apply inv_mk; first | with_reducible assumption | with_reducible apply advance_inv | with_reducible apply waitFor_inv | (have e := ‹releaseWait _ _ = some _›; exact releaseWait_inv (by assumption) _ _ e) | (intro _ e; exact releaseWait_inv (by assumption) _ _ e) | with_reducible apply onGang_inv | with_reducible apply inv_foldl | with_reducible apply inv_foldl_snd | with_reducible intro _ _ _ | with_reducible intro _ _ | split) | split)

theorem execPin_inv (f : RRR) {s : State} (h : Inv s) : ∀ t, (execPin f s) = .next t → Inv t := by
  unfold execPin
  refine issue_inv _ h _ (fun c u k => ?_)
  try dsimp only
  repeat' (first | with_reducible assumption | with_reducible apply advance_inv | with_reducible apply settle_inv | with_reducible apply waitFor_inv | with_reducible apply onGang_inv | with_reducible apply bumpCore_inv | with_reducible apply addOp_inv | with_reducible apply inv_foldl | with_reducible apply inv_foldl_snd | with_reducible intro _ _ _ | with_reducible intro _ _ | (with_reducible apply inv_mk; first | with_reducible assumption | with_reducible apply advance_inv | with_reducible apply settle_inv | with_reducible apply waitFor_inv | with_reducible apply onGang_inv | with_reducible apply bumpCore_inv | with_reducible apply addOp_inv | with_reducible apply inv_foldl | with_reducible apply inv_foldl_snd | with_reducible intro _ _ _ | with_reducible intro _ _ | split) | split)

theorem execUnpin_inv (f : RRR) {s : State} (h : Inv s) : ∀ t, (execUnpin f s) = .next t → Inv t := by
  unfold execUnpin
  refine issue_inv _ h _ (fun c u k => ?_)
  try dsimp only
  repeat' (first | with_reducible assumption | with_reducible apply advance_inv | with_reducible apply waitFor_inv | with_reducible apply settle_inv | with_reducible apply onGang_inv | with_reducible apply inv_foldl | with_reducible apply inv_foldl_snd | with_reducible intro _ _ _ | with_reducible intro _ _ | (with_reducible apply inv_mk; first | with_reducible assumption | with_reducible apply advance_inv | with_reducible apply waitFor_inv | with_reducible apply settle_inv | with_reducible apply onGang_inv | with_reducible apply inv_foldl | with_reducible apply inv_foldl_snd | with_reducible intro _ _ _ | with_reducible intro _ _ | split) | split)

theorem execReclaim_inv (f : ENG) {s : State} (h : Inv s) : ∀ t, (execReclaim f s) = .next t → Inv t := by
  unfold execReclaim
  refine issue_inv _ h _ (fun c u k => ?_)
  try dsimp only
  repeat' (first | with_reducible assumption | with_reducible apply waitFor_inv | with_reducible apply newEng_inv | (have e := ‹newEng _ _ _ _ _ = _›; have q := newEng_inv (by assumption) _ _ _ _; rw [e] at q; exact q) | with_reducible apply startReclaim_inv | with_reducible apply settle_inv | with_reducible apply inv_foldl | with_reducible apply inv_foldl_snd | with_reducible intro _ _ _ | with_reducible intro _ _ | (with_reducible apply inv_mk; first | with_reducible assumption | with_reducible apply waitFor_inv | with_reducible apply newEng_inv | (have e := ‹newEng _ _ _ _ _ = _›; have q := newEng_inv (by assumption) _ _ _ _; rw [e] at q; exact q) | with_reducible apply startReclaim_inv | with_reducible apply settle_inv | with_reducible apply inv_foldl | with_reducible apply inv_foldl_snd | with_reducible intro _ _ _ | with_reducible intro _ _ | split) | split)

theorem execReclaimSearch_inv (oid : Nat) {s : State} (h : Inv s) : ∀ t, (execReclaimSearch oid s) = .next t → Inv t
    := by
  unfold execReclaimSearch
  refine event_inv h _ (fun u k => ?_)
  try dsimp only
  repeat' (first | with_reducible assumption | with_reducible apply bumpDie_inv | with_reducible apply relink_inv | with_reducible apply endReclaims_inv | with_reducible apply inv_foldl | with_reducible apply inv_foldl_snd | with_reducible intro _ _ _ | with_reducible intro _ _ | (with_reducible apply inv_mk; first | with_reducible assumption | with_reducible apply bumpDie_inv | with_reducible apply relink_inv | with_reducible apply endReclaims_inv | with_reducible apply inv_foldl | with_reducible apply inv_foldl_snd | with_reducible intro _ _ _ | with_reducible intro _ _ | split) | split)

theorem execHarvest_inv (f : SYS) {s : State} (h : Inv s) : ∀ t, (execHarvest f s) = .next t → Inv t := by
  unfold execHarvest
  refine issue_inv _ h _ (fun c u k => ?_)
  try dsimp only
  repeat' (first | with_reducible assumption | with_reducible apply advance_inv | with_reducible apply waitFor_inv | with_reducible apply flushDirty_inv | with_reducible apply inv_foldl | with_reducible apply inv_foldl_snd | with_reducible intro _ _ _ | with_reducible intro _ _ | (with_reducible apply inv_mk; first | with_reducible assumption | with_reducible apply advance_inv | with_reducible apply waitFor_inv | with_reducible apply flushDirty_inv | with_reducible apply inv_foldl | with_reducible apply inv_foldl_snd | with_reducible intro _ _ _ | with_reducible intro _ _ | split) | split)

theorem execTlbinv_inv (f : SYS) {s : State} (h : Inv s) : ∀ t, (execTlbinv f s) = .next t → Inv t := by
  unfold execTlbinv
  refine issue_inv _ h _ (fun c u k => ?_)
  try dsimp only
  repeat' (first | with_reducible assumption | with_reducible apply advance_inv | with_reducible apply waitFor_inv | with_reducible apply inv_foldl | with_reducible apply inv_foldl_snd | with_reducible intro _ _ _ | with_reducible intro _ _ | (with_reducible apply inv_mk; first | with_reducible assumption | with_reducible apply advance_inv | with_reducible apply waitFor_inv | with_reducible apply inv_foldl | with_reducible apply inv_foldl_snd | with_reducible intro _ _ _ | with_reducible intro _ _ | split) | split)

theorem execHarvestComplete_inv (p : Nat) {s : State} (h : Inv s) : ∀ t, (execHarvestComplete p s) = .next t → Inv t
    := by
  unfold execHarvestComplete
  refine event_inv h _ (fun u k => ?_)
  try dsimp only
  repeat' (first | with_reducible assumption | with_reducible apply flushDirty_inv | with_reducible apply inv_foldl | with_reducible apply inv_foldl_snd | with_reducible intro _ _ _ | with_reducible intro _ _ | (with_reducible apply inv_mk; first | with_reducible assumption | with_reducible apply flushDirty_inv | with_reducible apply inv_foldl | with_reducible apply inv_foldl_snd | with_reducible intro _ _ _ | with_reducible intro _ _ | split) | split)

theorem execDirtyFlushTimeout_inv (oid : Nat) (page : Nat) {s : State} (h : Inv s) : ∀ t, (execDirtyFlushTimeout oid
    page s) = .next t → Inv t := by
  unfold execDirtyFlushTimeout
  refine event_inv h _ (fun u k => ?_)
  try dsimp only
  repeat' (first | with_reducible assumption | with_reducible apply flushDirty_inv | with_reducible apply inv_foldl | with_reducible apply inv_foldl_snd | with_reducible intro _ _ _ | with_reducible intro _ _ | (with_reducible apply inv_mk; first | with_reducible assumption | with_reducible apply flushDirty_inv | with_reducible apply inv_foldl | with_reducible apply inv_foldl_snd | with_reducible intro _ _ _ | with_reducible intro _ _ | split) | split)

theorem execShootdownComplete_inv (oid : Nat) {s : State} (h : Inv s) : ∀ t, (execShootdownComplete oid s) = .next t →
    Inv t := by
  unfold execShootdownComplete
  refine event_inv h _ (fun u k => ?_)
  try dsimp only
  repeat' (first | with_reducible assumption | with_reducible apply shootDown_inv | with_reducible apply freeObject_inv | with_reducible apply inv_foldl | with_reducible apply inv_foldl_snd | with_reducible intro _ _ _ | with_reducible intro _ _ | (with_reducible apply inv_mk; first | with_reducible assumption | with_reducible apply shootDown_inv | with_reducible apply freeObject_inv | with_reducible apply inv_foldl | with_reducible apply inv_foldl_snd | with_reducible intro _ _ _ | with_reducible intro _ _ | split) | split)

theorem execShootWrite_inv (v : BitVec 32) {s : State} (h : Inv s) : ∀ t, (execShootWrite v s) = .next t → Inv t := by
  unfold execShootWrite
  refine hostEvent_inv h _ (fun u k => ?_)
  try dsimp only
  repeat' (first | with_reducible assumption | with_reducible apply writeShoot_inv | with_reducible apply inv_foldl | with_reducible apply inv_foldl_snd | with_reducible intro _ _ _ | with_reducible intro _ _ | (with_reducible apply inv_mk; first | with_reducible assumption | with_reducible apply writeShoot_inv | with_reducible apply inv_foldl | with_reducible apply inv_foldl_snd | with_reducible intro _ _ _ | with_reducible intro _ _ | split) | split)

theorem execHostServiceRequest_inv {s : State} (h : Inv s) : ∀ t, (execHostServiceRequest s) = .next t → Inv t := by
  unfold execHostServiceRequest
  refine event_inv h _ (fun u k => ?_)
  split
  · exact k
  · refine inv_ite (fun _ => k) (fun _ => ?_)
    extract_lets a rec'
    exact inv_onMg (inv_host k (mapPut_wf k.2.2.1 a rec') _) _ (fun _ k => ok_of k rfl rfl rfl rfl rfl)

theorem execHsanswerWrite_inv (v : BitVec 64) {s : State} (h : Inv s) : ∀ t, (execHsanswerWrite v s) = .next t → Inv t
    := by
  unfold execHsanswerWrite
  refine hostEvent_inv h _ (fun u k => ?_)
  try dsimp only
  repeat' (first | with_reducible assumption | with_reducible apply writeHsanswer_inv | with_reducible apply inv_foldl | with_reducible apply inv_foldl_snd | with_reducible intro _ _ _ | with_reducible intro _ _ | (with_reducible apply inv_mk; first | with_reducible assumption | with_reducible apply writeHsanswer_inv | with_reducible apply inv_foldl | with_reducible apply inv_foldl_snd | with_reducible intro _ _ _ | with_reducible intro _ _ | split) | split)

theorem execPagerMap_inv (oid : Nat) (page : Nat) {s : State} (h : Inv s) : ∀ t, (execPagerMap oid page s) = .next t
    → Inv t := by
  unfold execPagerMap
  refine event_inv h _ (fun u k => ?_)
  split
  · exact k
  · refine inv_ite (fun _ => inv_ite (fun _ => k) (fun _ => inv_mk k)) (fun _ => ?_)
    split
    · exact k
    · have k2 := takeFrameNear_inv k _ _ ‹_›
      split
      · exact k
      · have k3 := mapObjPage_inv k2 _ _ _ _ ‹_›
        exact pumpDev_inv (dropBounce_inv (copyFrame_inv (flushDirty_inv k3 ..) ..) ..)

theorem execMigreqWrite_inv (data : List (BitVec 8)) {s : State} (h : Inv s) : ∀ t, (execMigreqWrite data s) = .next t
    → Inv t := by
  unfold execMigreqWrite
  refine hostEvent_inv h _ (fun u k => ?_)
  try dsimp only
  repeat' (first | with_reducible assumption | ((with_reducible apply inv_onMg); case k => exact fun _ k => ok_of k rfl rfl rfl rfl rfl) | with_reducible apply startMigr_inv | with_reducible apply inv_foldl | with_reducible apply inv_foldl_snd | with_reducible intro _ _ _ | with_reducible intro _ _ | (with_reducible apply inv_mk; first | with_reducible assumption | ((with_reducible apply inv_onMg); case k => exact fun _ k => ok_of k rfl rfl rfl rfl rfl) | with_reducible apply startMigr_inv | with_reducible apply inv_foldl | with_reducible apply inv_foldl_snd | with_reducible intro _ _ _ | with_reducible intro _ _ | split) | split)

theorem execMigrationEnd_inv (outcome : Nat) (bad : List Nat) {s : State} (h : Inv s) : ∀ t, (execMigrationEnd outcome
    bad s) = .next t → Inv t := by
  unfold execMigrationEnd
  refine event_inv h _ (fun u k => ?_)
  try dsimp only
  repeat' (first | with_reducible assumption | with_reducible apply nextMigr_inv | with_reducible apply abortMigr_inv | with_reducible apply copyFrame_inv | with_reducible apply shootDown_inv | with_reducible apply putExtList_inv | with_reducible apply giveFrames_inv | with_reducible apply migrStatus_inv | with_reducible apply setObjFlag_inv | with_reducible apply inv_foldl | with_reducible apply inv_foldl_snd | with_reducible intro _ _ _ | with_reducible intro _ _ | (with_reducible apply inv_mk; first | with_reducible assumption | with_reducible apply nextMigr_inv | with_reducible apply abortMigr_inv | with_reducible apply copyFrame_inv | with_reducible apply shootDown_inv | with_reducible apply putExtList_inv | with_reducible apply giveFrames_inv | with_reducible apply migrStatus_inv | with_reducible apply setObjFlag_inv | with_reducible apply inv_foldl | with_reducible apply inv_foldl_snd | with_reducible intro _ _ _ | with_reducible intro _ _ | split) | split)

theorem execGadde_inv (f : GR) {s : State} (h : Inv s) : ∀ t, (execGadde f s) = .next t → Inv t := by
  unfold execGadde
  refine issue_inv _ h _ (fun c u k => ?_)
  try dsimp only
  repeat' (first | with_reducible assumption | with_reducible apply mutation_inv | with_reducible apply inv_foldl | with_reducible apply inv_foldl_snd | with_reducible intro _ _ _ | with_reducible intro _ _ | (with_reducible apply inv_mk; first | with_reducible assumption | with_reducible apply mutation_inv | with_reducible apply inv_foldl | with_reducible apply inv_foldl_snd | with_reducible intro _ _ _ | with_reducible intro _ _ | split) | split)

theorem execGdele_inv (f : GR) {s : State} (h : Inv s) : ∀ t, (execGdele f s) = .next t → Inv t := by
  unfold execGdele
  refine issue_inv _ h _ (fun c u k => ?_)
  try dsimp only
  repeat' (first | with_reducible assumption | with_reducible apply mutation_inv | with_reducible apply inv_foldl | with_reducible apply inv_foldl_snd | with_reducible intro _ _ _ | with_reducible intro _ _ | (with_reducible apply inv_mk; first | with_reducible assumption | with_reducible apply mutation_inv | with_reducible apply inv_foldl | with_reducible apply inv_foldl_snd | with_reducible intro _ _ _ | with_reducible intro _ _ | split) | split)

theorem execGsete_inv (f : GR) {s : State} (h : Inv s) : ∀ t, (execGsete f s) = .next t → Inv t := by
  unfold execGsete
  refine issue_inv _ h _ (fun c u k => ?_)
  try dsimp only
  repeat' (first | with_reducible assumption | with_reducible apply mutation_inv | with_reducible apply inv_foldl | with_reducible apply inv_foldl_snd | with_reducible intro _ _ _ | with_reducible intro _ _ | (with_reducible apply inv_mk; first | with_reducible assumption | with_reducible apply mutation_inv | with_reducible apply inv_foldl | with_reducible apply inv_foldl_snd | with_reducible intro _ _ _ | with_reducible intro _ _ | split) | split)

theorem execGlde_inv (f : GR) {s : State} (h : Inv s) : ∀ t, (execGlde f s) = .next t → Inv t := by
  unfold execGlde
  refine issue_inv _ h _ (fun c u k => ?_)
  try dsimp only
  repeat' (first | with_reducible assumption | with_reducible apply strictGlde_inv | with_reducible apply graphRead_inv | with_reducible apply inv_foldl | with_reducible apply inv_foldl_snd | with_reducible intro _ _ _ | with_reducible intro _ _ | (with_reducible apply inv_mk; first | with_reducible assumption | with_reducible apply strictGlde_inv | with_reducible apply graphRead_inv | with_reducible apply inv_foldl | with_reducible apply inv_foldl_snd | with_reducible intro _ _ _ | with_reducible intro _ _ | split) | split)

theorem execGfind_inv (f : GR) {s : State} (h : Inv s) : ∀ t, (execGfind f s) = .next t → Inv t := by
  unfold execGfind
  refine issue_inv _ h _ (fun c u k => ?_)
  try dsimp only
  repeat' (first | with_reducible assumption | with_reducible apply graphRead_inv | with_reducible apply inv_foldl | with_reducible apply inv_foldl_snd | with_reducible intro _ _ _ | with_reducible intro _ _ | (with_reducible apply inv_mk; first | with_reducible assumption | with_reducible apply graphRead_inv | with_reducible apply inv_foldl | with_reducible apply inv_foldl_snd | with_reducible intro _ _ _ | with_reducible intro _ _ | split) | split)

theorem execGdeg_inv (f : GR) {s : State} (h : Inv s) : ∀ t, (execGdeg f s) = .next t → Inv t := by
  unfold execGdeg
  refine issue_inv _ h _ (fun c u k => ?_)
  try dsimp only
  repeat' (first | with_reducible assumption | with_reducible apply graphRead_inv | with_reducible apply inv_foldl | with_reducible apply inv_foldl_snd | with_reducible intro _ _ _ | with_reducible intro _ _ | (with_reducible apply inv_mk; first | with_reducible assumption | with_reducible apply graphRead_inv | with_reducible apply inv_foldl | with_reducible apply inv_foldl_snd | with_reducible intro _ _ _ | with_reducible intro _ _ | split) | split)

theorem execGver_inv (f : GR) {s : State} (h : Inv s) : ∀ t, (execGver f s) = .next t → Inv t := by
  unfold execGver
  refine issue_inv _ h _ (fun c u k => ?_)
  try dsimp only
  repeat' (first | with_reducible assumption | with_reducible apply graphRead_inv | with_reducible apply inv_foldl | with_reducible apply inv_foldl_snd | with_reducible intro _ _ _ | with_reducible intro _ _ | (with_reducible apply inv_mk; first | with_reducible assumption | with_reducible apply graphRead_inv | with_reducible apply inv_foldl | with_reducible apply inv_foldl_snd | with_reducible intro _ _ _ | with_reducible intro _ _ | split) | split)

theorem execGldv_inv (f : GR) {s : State} (h : Inv s) : ∀ t, (execGldv f s) = .next t → Inv t := by
  unfold execGldv
  refine issue_inv _ h _ (fun c u k => ?_)
  try dsimp only
  repeat' (first | with_reducible assumption | with_reducible apply waitFor_inv | with_reducible apply relRead_inv | with_reducible apply addOp_inv | with_reducible apply gSettle_inv | with_reducible apply inv_foldl | with_reducible apply inv_foldl_snd | with_reducible intro _ _ _ | with_reducible intro _ _ | (with_reducible apply inv_mk; first | with_reducible assumption | with_reducible apply waitFor_inv | with_reducible apply relRead_inv | with_reducible apply addOp_inv | with_reducible apply gSettle_inv | with_reducible apply inv_foldl | with_reducible apply inv_foldl_snd | with_reducible intro _ _ _ | with_reducible intro _ _ | split) | split)

theorem execGstv_inv (f : GR) {s : State} (h : Inv s) : ∀ t, (execGstv f s) = .next t → Inv t := by
  unfold execGstv
  refine issue_inv _ h _ (fun c u k => ?_)
  try dsimp only
  repeat' (first | with_reducible assumption | with_reducible apply waitFor_inv | (have e := ‹releaseWait _ _ = some _›; exact releaseWait_inv (by assumption) _ _ e) | (intro _ e; exact releaseWait_inv (by assumption) _ _ e) | with_reducible apply relWrite_inv | with_reducible apply gPut_inv | with_reducible apply useFree_inv | with_reducible apply addOp_inv | with_reducible apply gSettle_inv | exact release_inv ‹_› ‹_› | with_reducible apply inv_foldl | with_reducible apply inv_foldl_snd | with_reducible intro _ _ _ | with_reducible intro _ _ | (with_reducible apply inv_mk; first | with_reducible assumption | with_reducible apply waitFor_inv | (have e := ‹releaseWait _ _ = some _›; exact releaseWait_inv (by assumption) _ _ e) | (intro _ e; exact releaseWait_inv (by assumption) _ _ e) | with_reducible apply relWrite_inv | with_reducible apply gPut_inv | with_reducible apply useFree_inv | with_reducible apply addOp_inv | with_reducible apply gSettle_inv | exact release_inv ‹_› ‹_› | with_reducible apply inv_foldl | with_reducible apply inv_foldl_snd | with_reducible intro _ _ _ | with_reducible intro _ _ | split) | split)

theorem execGopen_inv (f : GR) {s : State} (h : Inv s) : ∀ t, (execGopen f s) = .next t → Inv t := by
  unfold execGopen
  refine issue_inv _ h _ (fun c u k => ?_)
  try dsimp only
  repeat' (first | with_reducible assumption | with_reducible apply waitFor_inv | with_reducible apply gSettle_inv | with_reducible apply addOpCur_inv | with_reducible apply bumpCore_inv | with_reducible apply relRead_inv | with_reducible apply onGang_inv | with_reducible apply inv_foldl | with_reducible apply inv_foldl_snd | with_reducible intro _ _ _ | with_reducible intro _ _ | (with_reducible apply inv_mk; first | with_reducible assumption | with_reducible apply waitFor_inv | with_reducible apply gSettle_inv | with_reducible apply addOpCur_inv | with_reducible apply bumpCore_inv | with_reducible apply relRead_inv | with_reducible apply onGang_inv | with_reducible apply inv_foldl | with_reducible apply inv_foldl_snd | with_reducible intro _ _ _ | with_reducible intro _ _ | split) | split)

theorem execGnext_inv (f : GR) {s : State} (h : Inv s) : ∀ t, (execGnext f s) = .next t → Inv t := by
  unfold execGnext
  refine issue_inv _ h _ (fun c u k => ?_)
  try dsimp only
  repeat' (first | with_reducible assumption | with_reducible apply cursorStep_inv | with_reducible apply inv_foldl | with_reducible apply inv_foldl_snd | with_reducible intro _ _ _ | with_reducible intro _ _ | (with_reducible apply inv_mk; first | with_reducible assumption | with_reducible apply cursorStep_inv | with_reducible apply inv_foldl | with_reducible apply inv_foldl_snd | with_reducible intro _ _ _ | with_reducible intro _ _ | split) | split)

theorem execGskip_inv (f : GR) {s : State} (h : Inv s) : ∀ t, (execGskip f s) = .next t → Inv t := by
  unfold execGskip
  refine issue_inv _ h _ (fun c u k => ?_)
  try dsimp only
  repeat' (first | with_reducible assumption | with_reducible apply cursorStep_inv | with_reducible apply inv_foldl | with_reducible apply inv_foldl_snd | with_reducible intro _ _ _ | with_reducible intro _ _ | (with_reducible apply inv_mk; first | with_reducible assumption | with_reducible apply cursorStep_inv | with_reducible apply inv_foldl | with_reducible apply inv_foldl_snd | with_reducible intro _ _ _ | with_reducible intro _ _ | split) | split)

theorem execGpos_inv (f : GR) {s : State} (h : Inv s) : ∀ t, (execGpos f s) = .next t → Inv t := by
  unfold execGpos
  refine issue_inv _ h _ (fun c u k => ?_)
  try dsimp only
  repeat' (first | with_reducible assumption | with_reducible apply waitFor_inv | with_reducible apply onGang_inv | with_reducible apply gSettle_inv | with_reducible apply inv_foldl | with_reducible apply inv_foldl_snd | with_reducible intro _ _ _ | with_reducible intro _ _ | (with_reducible apply inv_mk; first | with_reducible assumption | with_reducible apply waitFor_inv | with_reducible apply onGang_inv | with_reducible apply gSettle_inv | with_reducible apply inv_foldl | with_reducible apply inv_foldl_snd | with_reducible intro _ _ _ | with_reducible intro _ _ | split) | split)

theorem execGclose_inv (f : GR) {s : State} (h : Inv s) : ∀ t, (execGclose f s) = .next t → Inv t := by
  unfold execGclose
  refine issue_inv _ h _ (fun c u k => ?_)
  try dsimp only
  repeat' (first | with_reducible assumption | with_reducible apply waitFor_inv | with_reducible apply onGang_inv | with_reducible apply gSettle_inv | with_reducible apply inv_foldl | with_reducible apply inv_foldl_snd | with_reducible intro _ _ _ | with_reducible intro _ _ | (with_reducible apply inv_mk; first | with_reducible assumption | with_reducible apply waitFor_inv | with_reducible apply onGang_inv | with_reducible apply gSettle_inv | with_reducible apply inv_foldl | with_reducible apply inv_foldl_snd | with_reducible intro _ _ _ | with_reducible intro _ _ | split) | split)

theorem execGraphMutationCommit_inv (gk : Nat) (op : Nat) {s : State} (h : Inv s) : ∀ t, (execGraphMutationCommit gk
    op s) = .next t → Inv t := by
  unfold execGraphMutationCommit
  refine event_inv h _ (fun u k => ?_)
  try dsimp only
  repeat' (first | with_reducible assumption | with_reducible apply laneDone_inv | with_reducible apply mutate_inv | (have e := ‹mutate _ _ _ _ = _›; have q := mutate_inv (by assumption) _ _ _; rw [e] at q; exact q) | with_reducible apply relWrite_inv | with_reducible apply inv_foldl | with_reducible apply inv_foldl_snd | with_reducible intro _ _ _ | with_reducible intro _ _ | (with_reducible apply inv_mk; first | with_reducible assumption | with_reducible apply laneDone_inv | with_reducible apply mutate_inv | (have e := ‹mutate _ _ _ _ = _›; have q := mutate_inv (by assumption) _ _ _; rw [e] at q; exact q) | with_reducible apply relWrite_inv | with_reducible apply inv_foldl | with_reducible apply inv_foldl_snd | with_reducible intro _ _ _ | with_reducible intro _ _ | split) | split)

theorem execGraphOpComplete_inv (gk : Nat) (op : Nat) {s : State} (h : Inv s) : ∀ t, (execGraphOpComplete gk op s) =
    .next t → Inv t := by
  unfold execGraphOpComplete
  refine event_inv h _ (fun u k => ?_)
  try dsimp only
  repeat' (first | with_reducible assumption | with_reducible apply laneDone_inv | with_reducible apply bumpDie_inv | with_reducible apply noteSeen_inv | with_reducible apply inv_foldl | with_reducible apply inv_foldl_snd | with_reducible intro _ _ _ | with_reducible intro _ _ | (with_reducible apply inv_mk; first | with_reducible assumption | with_reducible apply laneDone_inv | with_reducible apply bumpDie_inv | with_reducible apply noteSeen_inv | with_reducible apply inv_foldl | with_reducible apply inv_foldl_snd | with_reducible intro _ _ _ | with_reducible intro _ _ | split) | split)

theorem execGraphSweep_inv (oid : Nat) {s : State} (h : Inv s) : ∀ t, (execGraphSweep oid s) = .next t → Inv t := by
  unfold execGraphSweep
  refine event_inv h _ (fun u k => ?_)
  try dsimp only
  repeat' (first | with_reducible assumption | with_reducible apply setNext_inv | with_reducible apply gPut_inv | with_reducible apply memPut_inv | with_reducible apply inv_foldl | with_reducible apply inv_foldl_snd | with_reducible intro _ _ _ | with_reducible intro _ _ | (with_reducible apply inv_mk; first | with_reducible assumption | with_reducible apply setNext_inv | with_reducible apply gPut_inv | with_reducible apply memPut_inv | with_reducible apply inv_foldl | with_reducible apply inv_foldl_snd | with_reducible intro _ _ _ | with_reducible intro _ _ | split) | split)

theorem execWindowFillComplete_inv (op : Nat) {s : State} (h : Inv s) : ∀ t, (execWindowFillComplete op s) = .next t →
    Inv t := by
  unfold execWindowFillComplete
  refine event_inv h _ (fun u k => ?_)
  try dsimp only
  repeat' (first | with_reducible assumption | with_reducible apply fillOrUnbind_inv | with_reducible apply inv_foldl | with_reducible apply inv_foldl_snd | with_reducible intro _ _ _ | with_reducible intro _ _ | (with_reducible apply inv_mk; first | with_reducible assumption | with_reducible apply fillOrUnbind_inv | with_reducible apply inv_foldl | with_reducible apply inv_foldl_snd | with_reducible intro _ _ _ | with_reducible intro _ _ | split) | split)

theorem execWindowScatterComplete_inv (op : Nat) {s : State} (h : Inv s) : ∀ t, (execWindowScatterComplete op s) =
    .next t → Inv t := by
  unfold execWindowScatterComplete
  refine event_inv h _ (fun u k => ?_)
  split
  · exact k
  · split
    · refine inv_ite (fun _ => ?_) (fun _ => k)
      dsimp only
      split
      · exact moved_stalled ‹_› (moveAll_inv k ..)
      · have k2 := moved_done ‹_› (moveAll_inv k ..)
        exact finishEng_inv (inv_ite (fun _ => inv_mk k2) (fun _ => k2)) ..
    · exact k

theorem execWbind_inv (f : ENG) {s : State} (h : Inv s) : ∀ t, (execWbind f s) = .next t → Inv t := by
  unfold execWbind
  refine issue_inv _ h _ (fun c u k => ?_)
  try dsimp only
  repeat' (first | with_reducible assumption | with_reducible apply advance_inv | with_reducible apply uniFault_inv | with_reducible apply trapAll_inv | with_reducible apply onGang_inv | with_reducible apply waitFor_inv | with_reducible apply newEng_inv | (have e := ‹newEng _ _ _ _ _ = _›; have q := newEng_inv (by assumption) _ _ _ _; rw [e] at q; exact q) | with_reducible apply regLocks_inv | with_reducible apply inv_foldl | with_reducible apply inv_foldl_snd | with_reducible intro _ _ _ | with_reducible intro _ _ | (with_reducible apply inv_mk; first | with_reducible assumption | with_reducible apply advance_inv | with_reducible apply uniFault_inv | with_reducible apply trapAll_inv | with_reducible apply onGang_inv | with_reducible apply waitFor_inv | with_reducible apply newEng_inv | (have e := ‹newEng _ _ _ _ _ = _›; have q := newEng_inv (by assumption) _ _ _ _; rw [e] at q; exact q) | with_reducible apply regLocks_inv | with_reducible apply inv_foldl | with_reducible apply inv_foldl_snd | with_reducible intro _ _ _ | with_reducible intro _ _ | split) | split)

theorem execWunbind_inv (f : ENG) {s : State} (h : Inv s) : ∀ t, (execWunbind f s) = .next t → Inv t := by
  unfold execWunbind
  refine issue_inv _ h _ (fun c u k => ?_)
  try dsimp only
  repeat' (first | with_reducible assumption | with_reducible apply advance_inv | with_reducible apply uniFault_inv | with_reducible apply waitFor_inv | with_reducible apply newEng_inv | (have e := ‹newEng _ _ _ _ _ = _›; have q := newEng_inv (by assumption) _ _ _ _; rw [e] at q; exact q) | with_reducible apply finishEng_inv | with_reducible apply regLocks_inv | with_reducible apply inv_foldl | with_reducible apply inv_foldl_snd | with_reducible intro _ _ _ | with_reducible intro _ _ | (with_reducible apply inv_mk; first | with_reducible assumption | with_reducible apply advance_inv | with_reducible apply uniFault_inv | with_reducible apply waitFor_inv | with_reducible apply newEng_inv | (have e := ‹newEng _ _ _ _ _ = _›; have q := newEng_inv (by assumption) _ _ _ _; rw [e] at q; exact q) | with_reducible apply finishEng_inv | with_reducible apply regLocks_inv | with_reducible apply inv_foldl | with_reducible apply inv_foldl_snd | with_reducible intro _ _ _ | with_reducible intro _ _ | split) | split)

theorem execCopyComplete_inv (op : Nat) {s : State} (h : Inv s) : ∀ t, (execCopyComplete op s) = .next t → Inv t := by
  unfold execCopyComplete
  refine event_inv h _ (fun u k => ?_)
  split
  · exact k
  · split
    · exact inv_ite (fun _ => runCopy_inv (inv_mk k) ..) (fun _ => inv_mk k)
    · exact inv_ite (fun _ => runDecode_inv k ..) (fun _ => k)
    · exact k

theorem execCpasync_inv (f : ENG) {s : State} (h : Inv s) : ∀ t, (execCpasync f s) = .next t → Inv t := by
  unfold execCpasync
  refine issue_inv _ h _ (fun c u k => ?_)
  try dsimp only
  repeat' (first | with_reducible assumption | with_reducible apply copyIssue_inv | with_reducible apply inv_foldl | with_reducible apply inv_foldl_snd | with_reducible intro _ _ _ | with_reducible intro _ _ | (with_reducible apply inv_mk; first | with_reducible assumption | with_reducible apply copyIssue_inv | with_reducible apply inv_foldl | with_reducible apply inv_foldl_snd | with_reducible intro _ _ _ | with_reducible intro _ _ | split) | split)

theorem execCpasyncDec_inv (f : ENG) {s : State} (h : Inv s) : ∀ t, (execCpasyncDec f s) = .next t → Inv t := by
  unfold execCpasyncDec
  refine issue_inv _ h _ (fun c u k => ?_)
  try dsimp only
  repeat' (first | with_reducible assumption | with_reducible apply copyIssue_inv | with_reducible apply inv_foldl | with_reducible apply inv_foldl_snd | with_reducible intro _ _ _ | with_reducible intro _ _ | (with_reducible apply inv_mk; first | with_reducible assumption | with_reducible apply copyIssue_inv | with_reducible apply inv_foldl | with_reducible apply inv_foldl_snd | with_reducible intro _ _ _ | with_reducible intro _ _ | split) | split)

theorem execRangeLockAcquire_inv (p : Nat) {s : State} (h : Inv s) : ∀ t, (execRangeLockAcquire p s) = .next t → Inv t
    := by
  unfold execRangeLockAcquire
  refine event_inv h _ (fun u k => ?_)
  try dsimp only
  repeat' (first | with_reducible assumption | with_reducible apply onPath_inv | with_reducible apply inv_foldl | with_reducible apply inv_foldl_snd | with_reducible intro _ _ _ | with_reducible intro _ _ | (with_reducible apply inv_mk; first | with_reducible assumption | with_reducible apply onPath_inv | with_reducible apply inv_foldl | with_reducible apply inv_foldl_snd | with_reducible intro _ _ _ | with_reducible intro _ _ | split) | split)

theorem execSysr_inv (f : SYS) {s : State} (h : Inv s) : ∀ t, (execSysr f s) = .next t → Inv t := by
  unfold execSysr
  refine issue_inv _ h _ (fun c u k => ?_)
  try dsimp only
  repeat' (first | with_reducible assumption | with_reducible apply advance_inv | with_reducible apply onGang_inv | with_reducible apply inv_foldl | with_reducible apply inv_foldl_snd | with_reducible intro _ _ _ | with_reducible intro _ _ | (with_reducible apply inv_mk; first | with_reducible assumption | with_reducible apply advance_inv | with_reducible apply onGang_inv | with_reducible apply inv_foldl | with_reducible apply inv_foldl_snd | with_reducible intro _ _ _ | with_reducible intro _ _ | split) | split)

theorem execSysw_inv (f : SYS) {s : State} (h : Inv s) : ∀ t, (execSysw f s) = .next t → Inv t := by
  unfold execSysw
  refine issue_inv _ h _ (fun c u k => ?_)
  try dsimp only
  repeat' (first | with_reducible assumption | with_reducible apply onGang_inv | with_reducible apply advance_inv | with_reducible apply inv_foldl | with_reducible apply inv_foldl_snd | with_reducible intro _ _ _ | with_reducible intro _ _ | (with_reducible apply inv_mk; first | with_reducible assumption | with_reducible apply onGang_inv | with_reducible apply advance_inv | with_reducible apply inv_foldl | with_reducible apply inv_foldl_snd | with_reducible intro _ _ _ | with_reducible intro _ _ | split) | split)

theorem execTrap_inv (f : SYS) {s : State} (h : Inv s) : ∀ t, (execTrap f s) = .next t → Inv t := by
  unfold execTrap
  refine issue_inv _ h _ (fun c u k => ?_)
  try dsimp only
  repeat' (first | with_reducible assumption | with_reducible apply advance_inv | with_reducible apply trapAll_inv | with_reducible apply inv_foldl | with_reducible apply inv_foldl_snd | with_reducible intro _ _ _ | with_reducible intro _ _ | (with_reducible apply inv_mk; first | with_reducible assumption | with_reducible apply advance_inv | with_reducible apply trapAll_inv | with_reducible apply inv_foldl | with_reducible apply inv_foldl_snd | with_reducible intro _ _ _ | with_reducible intro _ _ | split) | split)

theorem execBrk_inv (f : SYS) {s : State} (h : Inv s) : ∀ t, (execBrk f s) = .next t → Inv t := by
  unfold execBrk
  refine issue_inv _ h _ (fun c u k => ?_)
  try dsimp only
  repeat' (first | with_reducible assumption | with_reducible apply advance_inv | with_reducible apply trapAll_inv | with_reducible apply inv_foldl | with_reducible apply inv_foldl_snd | with_reducible intro _ _ _ | with_reducible intro _ _ | (with_reducible apply inv_mk; first | with_reducible assumption | with_reducible apply advance_inv | with_reducible apply trapAll_inv | with_reducible apply inv_foldl | with_reducible apply inv_foldl_snd | with_reducible intro _ _ _ | with_reducible intro _ _ | split) | split)

theorem execRett_inv (f : SYS) {s : State} (h : Inv s) : ∀ t, (execRett f s) = .next t → Inv t := by
  unfold execRett
  refine issue_inv _ h _ (fun c u k => ?_)
  try dsimp only
  repeat' (first | with_reducible assumption | with_reducible apply rettWith_inv | with_reducible apply inv_foldl | with_reducible apply inv_foldl_snd | with_reducible intro _ _ _ | with_reducible intro _ _ | (with_reducible apply inv_mk; first | with_reducible assumption | with_reducible apply rettWith_inv | with_reducible apply inv_foldl | with_reducible apply inv_foldl_snd | with_reducible intro _ _ _ | with_reducible intro _ _ | split) | split)

theorem execRettSkip_inv (f : SYS) {s : State} (h : Inv s) : ∀ t, (execRettSkip f s) = .next t → Inv t := by
  unfold execRettSkip
  refine issue_inv _ h _ (fun c u k => ?_)
  try dsimp only
  repeat' (first | with_reducible assumption | with_reducible apply rettWith_inv | with_reducible apply inv_foldl | with_reducible apply inv_foldl_snd | with_reducible intro _ _ _ | with_reducible intro _ _ | (with_reducible apply inv_mk; first | with_reducible assumption | with_reducible apply rettWith_inv | with_reducible apply inv_foldl | with_reducible apply inv_foldl_snd | with_reducible intro _ _ _ | with_reducible intro _ _ | split) | split)

theorem execRettKill_inv (f : SYS) {s : State} (h : Inv s) : ∀ t, (execRettKill f s) = .next t → Inv t := by
  unfold execRettKill
  refine issue_inv _ h _ (fun c u k => ?_)
  try dsimp only
  repeat' (first | with_reducible assumption | with_reducible apply rettWith_inv | with_reducible apply inv_foldl | with_reducible apply inv_foldl_snd | with_reducible intro _ _ _ | with_reducible intro _ _ | (with_reducible apply inv_mk; first | with_reducible assumption | with_reducible apply rettWith_inv | with_reducible apply inv_foldl | with_reducible apply inv_foldl_snd | with_reducible intro _ _ _ | with_reducible intro _ _ | split) | split)

theorem execRettKillg_inv (f : SYS) {s : State} (h : Inv s) : ∀ t, (execRettKillg f s) = .next t → Inv t := by
  unfold execRettKillg
  refine issue_inv _ h _ (fun c u k => ?_)
  try dsimp only
  repeat' (first | with_reducible assumption | with_reducible apply rettWith_inv | with_reducible apply inv_foldl | with_reducible apply inv_foldl_snd | with_reducible intro _ _ _ | with_reducible intro _ _ | (with_reducible apply inv_mk; first | with_reducible assumption | with_reducible apply rettWith_inv | with_reducible apply inv_foldl | with_reducible apply inv_foldl_snd | with_reducible intro _ _ _ | with_reducible intro _ _ | split) | split)

theorem execRettSel_inv (f : SYS) {s : State} (h : Inv s) : ∀ t, (execRettSel f s) = .next t → Inv t := by
  unfold execRettSel
  refine issue_inv _ h _ (fun c u k => ?_)
  try dsimp only
  repeat' (first | with_reducible assumption | with_reducible apply rettWith_inv | with_reducible apply inv_foldl | with_reducible apply inv_foldl_snd | with_reducible intro _ _ _ | with_reducible intro _ _ | (with_reducible apply inv_mk; first | with_reducible assumption | with_reducible apply rettWith_inv | with_reducible apply inv_foldl | with_reducible apply inv_foldl_snd | with_reducible intro _ _ _ | with_reducible intro _ _ | split) | split)

theorem execMappg_inv (f : SYS) {s : State} (h : Inv s) : ∀ t, (execMappg f s) = .next t → Inv t := by
  unfold execMappg
  refine issue_inv _ h _ (fun c u k => ?_)
  try dsimp only
  repeat' (first | with_reducible assumption | with_reducible apply waitFor_inv | with_reducible apply mapTouch_inv | (have e := ‹mapTouch _ _ _ = _›; have q := mapTouch_inv (by assumption) _ _; rw [e] at q; exact q) | with_reducible apply addOp_inv | with_reducible apply advance_inv | with_reducible apply inv_foldl | with_reducible apply inv_foldl_snd | with_reducible intro _ _ _ | with_reducible intro _ _ | (with_reducible apply inv_mk; first | with_reducible assumption | with_reducible apply waitFor_inv | with_reducible apply mapTouch_inv | (have e := ‹mapTouch _ _ _ = _›; have q := mapTouch_inv (by assumption) _ _; rw [e] at q; exact q) | with_reducible apply addOp_inv | with_reducible apply advance_inv | with_reducible apply inv_foldl | with_reducible apply inv_foldl_snd | with_reducible intro _ _ _ | with_reducible intro _ _ | split) | split)

theorem execObjnew_inv (f : SYS) {s : State} (h : Inv s) : ∀ t, (execObjnew f s) = .next t → Inv t := by
  unfold execObjnew
  refine issue_inv _ h _ (fun c u k => ?_)
  split
  · exact advance_inv k ..
  · dsimp only
    refine inv_ite (fun _ => waitFor_inv k ..) (fun _ => ?_)
    split
    · exact peerWait_inv k _ _ _ _ _ _ ‹_›
    · split
      · exact uniFault_inv (dropAnswers_inv k ..) ..
      · split
        · exact trapAll_inv (dropAnswers_inv (inv_foldl _ _ (fun t i k => touch_inv (relRead_inv k ..) ..) k) ..) ..
        · exact advance_inv (addOp_inv (newObject_inv (dropAnswers_inv (inv_foldl _ _ (fun t i k =>
            touch_inv (relRead_inv k ..) ..) k) ..) ..) ..) ..

theorem execObjsetSize_inv (f : SYS) {s : State} (h : Inv s) : ∀ t, (execObjsetSize f s) = .next t → Inv t := by
  unfold execObjsetSize
  refine issue_inv _ h _ (fun c u k => ?_)
  try dsimp only
  repeat' (first | with_reducible assumption | with_reducible apply objset_inv | with_reducible apply inv_foldl | with_reducible apply inv_foldl_snd | with_reducible intro _ _ _ | with_reducible intro _ _ | (with_reducible apply inv_mk; first | with_reducible assumption | with_reducible apply objset_inv | with_reducible apply inv_foldl | with_reducible apply inv_foldl_snd | with_reducible intro _ _ _ | with_reducible intro _ _ | split) | split)

theorem execObjsetPerm_inv (f : SYS) {s : State} (h : Inv s) : ∀ t, (execObjsetPerm f s) = .next t → Inv t := by
  unfold execObjsetPerm
  refine issue_inv _ h _ (fun c u k => ?_)
  try dsimp only
  repeat' (first | with_reducible assumption | with_reducible apply objset_inv | with_reducible apply inv_foldl | with_reducible apply inv_foldl_snd | with_reducible intro _ _ _ | with_reducible intro _ _ | (with_reducible apply inv_mk; first | with_reducible assumption | with_reducible apply objset_inv | with_reducible apply inv_foldl | with_reducible apply inv_foldl_snd | with_reducible intro _ _ _ | with_reducible intro _ _ | split) | split)

theorem execObjsetCtab_inv (f : SYS) {s : State} (h : Inv s) : ∀ t, (execObjsetCtab f s) = .next t → Inv t := by
  unfold execObjsetCtab
  refine issue_inv _ h _ (fun c u k => ?_)
  try dsimp only
  repeat' (first | with_reducible assumption | with_reducible apply objset_inv | with_reducible apply inv_foldl | with_reducible apply inv_foldl_snd | with_reducible intro _ _ _ | with_reducible intro _ _ | (with_reducible apply inv_mk; first | with_reducible assumption | with_reducible apply objset_inv | with_reducible apply inv_foldl | with_reducible apply inv_foldl_snd | with_reducible intro _ _ _ | with_reducible intro _ _ | split) | split)

theorem execObjsetUnpois_inv (f : SYS) {s : State} (h : Inv s) : ∀ t, (execObjsetUnpois f s) = .next t → Inv t := by
  unfold execObjsetUnpois
  refine issue_inv _ h _ (fun c u k => ?_)
  try dsimp only
  repeat' (first | with_reducible assumption | with_reducible apply objset_inv | with_reducible apply inv_foldl | with_reducible apply inv_foldl_snd | with_reducible intro _ _ _ | with_reducible intro _ _ | (with_reducible apply inv_mk; first | with_reducible assumption | with_reducible apply objset_inv | with_reducible apply inv_foldl | with_reducible apply inv_foldl_snd | with_reducible intro _ _ _ | with_reducible intro _ _ | split) | split)

theorem execObjsetDirty_inv (f : SYS) {s : State} (h : Inv s) : ∀ t, (execObjsetDirty f s) = .next t → Inv t := by
  unfold execObjsetDirty
  refine issue_inv _ h _ (fun c u k => ?_)
  try dsimp only
  repeat' (first | with_reducible assumption | with_reducible apply objset_inv | with_reducible apply inv_foldl | with_reducible apply inv_foldl_snd | with_reducible intro _ _ _ | with_reducible intro _ _ | (with_reducible apply inv_mk; first | with_reducible assumption | with_reducible apply objset_inv | with_reducible apply inv_foldl | with_reducible apply inv_foldl_snd | with_reducible intro _ _ _ | with_reducible intro _ _ | split) | split)

theorem execCtrrd_inv (f : SYS) {s : State} (h : Inv s) : ∀ t, (execCtrrd f s) = .next t → Inv t := by
  unfold execCtrrd
  refine issue_inv _ h _ (fun c u k => ?_)
  try dsimp only
  repeat' (first | with_reducible assumption | with_reducible apply advance_inv | with_reducible apply onGang_inv | with_reducible apply inv_foldl | with_reducible apply inv_foldl_snd | with_reducible intro _ _ _ | with_reducible intro _ _ | (with_reducible apply inv_mk; first | with_reducible assumption | with_reducible apply advance_inv | with_reducible apply onGang_inv | with_reducible apply inv_foldl | with_reducible apply inv_foldl_snd | with_reducible intro _ _ _ | with_reducible intro _ _ | split) | split)

theorem execBra_inv (f : BR) {s : State} (h : Inv s) : ∀ t, (execBra f s) = .next t → Inv t := by
  unfold execBra
  refine issue_inv _ h _ (fun c u k => ?_)
  try dsimp only
  repeat' (first | with_reducible assumption | with_reducible apply transferOr_inv | with_reducible apply inv_foldl | with_reducible apply inv_foldl_snd | with_reducible intro _ _ _ | with_reducible intro _ _ | (with_reducible apply inv_mk; first | with_reducible assumption | with_reducible apply transferOr_inv | with_reducible apply inv_foldl | with_reducible apply inv_foldl_snd | with_reducible intro _ _ _ | with_reducible intro _ _ | split) | split)

theorem execBrx_inv (f : RRR) {s : State} (h : Inv s) : ∀ t, (execBrx f s) = .next t → Inv t := by
  unfold execBrx
  refine issue_inv _ h _ (fun c u k => ?_)
  try dsimp only
  repeat' (first | with_reducible assumption | with_reducible apply transferVia_inv | with_reducible apply inv_foldl | with_reducible apply inv_foldl_snd | with_reducible intro _ _ _ | with_reducible intro _ _ | (with_reducible apply inv_mk; first | with_reducible assumption | with_reducible apply transferVia_inv | with_reducible apply inv_foldl | with_reducible apply inv_foldl_snd | with_reducible intro _ _ _ | with_reducible intro _ _ | split) | split)

theorem execCall_inv (f : BR) {s : State} (h : Inv s) : ∀ t, (execCall f s) = .next t → Inv t := by
  unfold execCall
  refine issue_inv _ h _ (fun c u k => ?_)
  try dsimp only
  repeat' (first | with_reducible assumption | with_reducible apply takeTrap_inv | (have e := ‹takeTrap _ _ _ = _›; have q := takeTrap_inv (by assumption) _ _; rw [e] at q; exact q) | with_reducible apply transfer_inv | with_reducible apply linkPair_inv | with_reducible apply transferOr_inv | with_reducible apply inv_foldl | with_reducible apply inv_foldl_snd | with_reducible intro _ _ _ | with_reducible intro _ _ | (with_reducible apply inv_mk; first | with_reducible assumption | with_reducible apply takeTrap_inv | (have e := ‹takeTrap _ _ _ = _›; have q := takeTrap_inv (by assumption) _ _; rw [e] at q; exact q) | with_reducible apply transfer_inv | with_reducible apply linkPair_inv | with_reducible apply transferOr_inv | with_reducible apply inv_foldl | with_reducible apply inv_foldl_snd | with_reducible intro _ _ _ | with_reducible intro _ _ | split) | split)

theorem execCallx_inv (f : RRR) {s : State} (h : Inv s) : ∀ t, (execCallx f s) = .next t → Inv t := by
  unfold execCallx
  refine issue_inv _ h _ (fun c u k => ?_)
  try dsimp only
  repeat' (first | with_reducible assumption | with_reducible apply takeTrap_inv | (have e := ‹takeTrap _ _ _ = _›; have q := takeTrap_inv (by assumption) _ _; rw [e] at q; exact q) | with_reducible apply transferVia_inv | with_reducible apply linkPair_inv | with_reducible apply inv_foldl | with_reducible apply inv_foldl_snd | with_reducible intro _ _ _ | with_reducible intro _ _ | (with_reducible apply inv_mk; first | with_reducible assumption | with_reducible apply takeTrap_inv | (have e := ‹takeTrap _ _ _ = _›; have q := takeTrap_inv (by assumption) _ _; rw [e] at q; exact q) | with_reducible apply transferVia_inv | with_reducible apply linkPair_inv | with_reducible apply inv_foldl | with_reducible apply inv_foldl_snd | with_reducible intro _ _ _ | with_reducible intro _ _ | split) | split)

theorem execRet_inv (f : BR) {s : State} (h : Inv s) : ∀ t, (execRet f s) = .next t → Inv t := by
  unfold execRet
  refine issue_inv _ h _ (fun c u k => ?_)
  try dsimp only
  repeat' (first | with_reducible assumption | with_reducible apply transferOr_inv | with_reducible apply inv_foldl | with_reducible apply inv_foldl_snd | with_reducible intro _ _ _ | with_reducible intro _ _ | (with_reducible apply inv_mk; first | with_reducible assumption | with_reducible apply transferOr_inv | with_reducible apply inv_foldl | with_reducible apply inv_foldl_snd | with_reducible intro _ _ _ | with_reducible intro _ _ | split) | split)

theorem execExit_inv (f : BR) {s : State} (h : Inv s) : ∀ t, (execExit f s) = .next t → Inv t := by
  unfold execExit
  refine issue_inv _ h _ (fun c u k => ?_)
  try dsimp only
  repeat' (first | with_reducible assumption | with_reducible apply leave_inv | with_reducible apply onPath_inv | with_reducible apply endClause_inv | with_reducible apply noteExit_inv | with_reducible apply inv_foldl | with_reducible apply inv_foldl_snd | with_reducible intro _ _ _ | with_reducible intro _ _ | (with_reducible apply inv_mk; first | with_reducible assumption | with_reducible apply leave_inv | with_reducible apply onPath_inv | with_reducible apply endClause_inv | with_reducible apply noteExit_inv | with_reducible apply inv_foldl | with_reducible apply inv_foldl_snd | with_reducible intro _ _ _ | with_reducible intro _ _ | split) | split)

theorem execWaitg_inv (f : XL) {s : State} (h : Inv s) : ∀ t, (execWaitg f s) = .next t → Inv t := by
  unfold execWaitg
  refine issue_inv _ h _ (fun c u k => ?_)
  try dsimp only
  repeat' (first | with_reducible assumption | with_reducible apply advance_inv | with_reducible apply inv_foldl | with_reducible apply inv_foldl_snd | with_reducible intro _ _ _ | with_reducible intro _ _ | (with_reducible apply inv_mk; first | with_reducible assumption | with_reducible apply advance_inv | with_reducible apply inv_foldl | with_reducible apply inv_foldl_snd | with_reducible intro _ _ _ | with_reducible intro _ _ | split) | split)

theorem execYieldp_inv (f : SYS) {s : State} (h : Inv s) : ∀ t, (execYieldp f s) = .next t → Inv t := by
  unfold execYieldp
  refine issue_inv _ h _ (fun c u k => ?_)
  try dsimp only
  repeat' (first | with_reducible assumption | with_reducible apply advance_inv | with_reducible apply setYield_inv | with_reducible apply inv_foldl | with_reducible apply inv_foldl_snd | with_reducible intro _ _ _ | with_reducible intro _ _ | (with_reducible apply inv_mk; first | with_reducible assumption | with_reducible apply advance_inv | with_reducible apply setYield_inv | with_reducible apply inv_foldl | with_reducible apply inv_foldl_snd | with_reducible intro _ _ _ | with_reducible intro _ _ | split) | split)

theorem execSleep_inv (f : SYS) {s : State} (h : Inv s) : ∀ t, (execSleep f s) = .next t → Inv t := by
  unfold execSleep
  refine issue_inv _ h _ (fun c u k => ?_)
  try dsimp only
  repeat' (first | with_reducible assumption | with_reducible apply advance_inv | with_reducible apply setYield_inv | with_reducible apply inv_foldl | with_reducible apply inv_foldl_snd | with_reducible intro _ _ _ | with_reducible intro _ _ | (with_reducible apply inv_mk; first | with_reducible assumption | with_reducible apply advance_inv | with_reducible apply setYield_inv | with_reducible apply inv_foldl | with_reducible apply inv_foldl_snd | with_reducible intro _ _ _ | with_reducible intro _ _ | split) | split)

theorem execMark_inv (f : SYS) {s : State} (h : Inv s) : ∀ t, (execMark f s) = .next t → Inv t := by
  unfold execMark
  refine issue_inv _ h _ (fun c u k => ?_)
  try dsimp only
  repeat' (first | with_reducible assumption | with_reducible apply markRecord_inv | with_reducible apply advance_inv | with_reducible apply inv_foldl | with_reducible apply inv_foldl_snd | with_reducible intro _ _ _ | with_reducible intro _ _ | (with_reducible apply inv_mk; first | with_reducible assumption | with_reducible apply markRecord_inv | with_reducible apply advance_inv | with_reducible apply inv_foldl | with_reducible apply inv_foldl_snd | with_reducible intro _ _ _ | with_reducible intro _ _ | split) | split)

theorem execLoopd_inv (f : RRR) {s : State} (h : Inv s) : ∀ t, (execLoopd f s) = .next t → Inv t := by
  unfold execLoopd
  refine issue_inv _ h _ (fun c u k => ?_)
  try dsimp only
  repeat' (first | with_reducible assumption | with_reducible apply advance_inv | with_reducible apply onGang_inv | with_reducible apply inv_foldl | with_reducible apply inv_foldl_snd | with_reducible intro _ _ _ | with_reducible intro _ _ | (with_reducible apply inv_mk; first | with_reducible assumption | with_reducible apply advance_inv | with_reducible apply onGang_inv | with_reducible apply inv_foldl | with_reducible apply inv_foldl_snd | with_reducible intro _ _ _ | with_reducible intro _ _ | split) | split)

theorem execNop_inv (f : RRR) {s : State} (h : Inv s) : ∀ t, (execNop f s) = .next t → Inv t := by
  unfold execNop
  refine issue_inv _ h _ (fun c u k => ?_)
  try dsimp only
  repeat' (first | with_reducible assumption | with_reducible apply advance_inv | with_reducible apply inv_foldl | with_reducible apply inv_foldl_snd | with_reducible intro _ _ _ | with_reducible intro _ _ | (with_reducible apply inv_mk; first | with_reducible assumption | with_reducible apply advance_inv | with_reducible apply inv_foldl | with_reducible apply inv_foldl_snd | with_reducible intro _ _ _ | with_reducible intro _ _ | split) | split)

theorem execLaunchPortWrite_inv (off : Nat) (data : List (BitVec 8)) {s : State} (h : Inv s) : ∀ t,
    (execLaunchPortWrite off data s) = .next t → Inv t := by
  unfold execLaunchPortWrite
  refine always_inv h _ (fun u k => ?_)
  try dsimp only
  repeat' (first | with_reducible assumption | with_reducible apply portTake_inv | ((with_reducible apply inv_onMg); case k => exact fun _ k => ok_of k rfl rfl rfl rfl rfl) | with_reducible apply inv_foldl | with_reducible apply inv_foldl_snd | with_reducible intro _ _ _ | with_reducible intro _ _ | (with_reducible apply inv_mk; first | with_reducible assumption | with_reducible apply portTake_inv | ((with_reducible apply inv_onMg); case k => exact fun _ k => ok_of k rfl rfl rfl rfl rfl) | with_reducible apply inv_foldl | with_reducible apply inv_foldl_snd | with_reducible intro _ _ _ | with_reducible intro _ _ | split) | split)

theorem execLaunchAccept_inv (port : Nat) {s : State} (h : Inv s) : ∀ t, (execLaunchAccept port s) = .next t → Inv t
    := by
  unfold execLaunchAccept
  refine event_inv h _ (fun u k => ?_)
  try dsimp only
  repeat' (first | with_reducible assumption | (have e := ‹popPort _ _ = some _›; exact popPort_inv (by assumption) _ _ e) | (intro _ e; exact popPort_inv (by assumption) _ _ e) | with_reducible apply unstall_inv | with_reducible apply acceptRecord_inv | with_reducible apply inv_foldl | with_reducible apply inv_foldl_snd | with_reducible intro _ _ _ | with_reducible intro _ _ | (with_reducible apply inv_mk; first | with_reducible assumption | (have e := ‹popPort _ _ = some _›; exact popPort_inv (by assumption) _ _ e) | (intro _ e; exact popPort_inv (by assumption) _ _ e) | with_reducible apply unstall_inv | with_reducible apply acceptRecord_inv | with_reducible apply inv_foldl | with_reducible apply inv_foldl_snd | with_reducible intro _ _ _ | with_reducible intro _ _ | split) | split)

theorem execWaitCountPoll_inv  {s : State} (h : Inv s) : ∀ t, (execWaitCountPoll s) = .next t → Inv t := by
  unfold execWaitCountPoll
  refine event_inv h _ (fun u k => ?_)
  try dsimp only
  repeat' (first | with_reducible assumption | with_reducible apply pollWaits_inv | with_reducible apply inv_foldl | with_reducible apply inv_foldl_snd | with_reducible intro _ _ _ | with_reducible intro _ _ | (with_reducible apply inv_mk; first | with_reducible assumption | with_reducible apply pollWaits_inv | with_reducible apply inv_foldl | with_reducible apply inv_foldl_snd | with_reducible intro _ _ _ | with_reducible intro _ _ | split) | split)

theorem execSvcfullTimeout_inv  {s : State} (h : Inv s) : ∀ t, (execSvcfullTimeout s) = .next t → Inv t := by
  unfold execSvcfullTimeout
  refine event_inv h _ (fun u k => ?_)
  try dsimp only
  repeat' (first | with_reducible assumption | with_reducible apply serviceFull_inv | with_reducible apply inv_foldl | with_reducible apply inv_foldl_snd | with_reducible intro _ _ _ | with_reducible intro _ _ | (with_reducible apply inv_mk; first | with_reducible assumption | with_reducible apply serviceFull_inv | with_reducible apply inv_foldl | with_reducible apply inv_foldl_snd | with_reducible intro _ _ _ | with_reducible intro _ _ | split) | split)

theorem execLaunch_inv (f : ENG) {s : State} (h : Inv s) : ∀ t, (execLaunch f s) = .next t → Inv t := by
  unfold execLaunch
  refine issue_inv _ h _ (fun c u k => ?_)
  try dsimp only
  repeat' (first | with_reducible assumption | with_reducible apply advance_inv | (have e := ‹peerWait _ _ _ _ _ _ = some _›; exact peerWait_inv (by assumption) _ _ _ _ _ _ e) | (intro _ e; exact peerWait_inv (by assumption) _ _ _ _ _ _ e) | with_reducible apply uniFault_inv | with_reducible apply dropAnswers_inv | with_reducible apply waitFor_inv | with_reducible apply touch_inv | with_reducible apply relRead_inv | with_reducible apply portTake_inv | with_reducible apply inv_foldl | with_reducible apply inv_foldl_snd | with_reducible intro _ _ _ | with_reducible intro _ _ | (with_reducible apply inv_mk; first | with_reducible assumption | with_reducible apply advance_inv | (have e := ‹peerWait _ _ _ _ _ _ = some _›; exact peerWait_inv (by assumption) _ _ _ _ _ _ e) | (intro _ e; exact peerWait_inv (by assumption) _ _ _ _ _ _ e) | with_reducible apply uniFault_inv | with_reducible apply dropAnswers_inv | with_reducible apply waitFor_inv | with_reducible apply touch_inv | with_reducible apply relRead_inv | with_reducible apply portTake_inv | with_reducible apply inv_foldl | with_reducible apply inv_foldl_snd | with_reducible intro _ _ _ | with_reducible intro _ _ | split) | split)

theorem execCrewPlace_inv  {s : State} (h : Inv s) : ∀ t, (execCrewPlace s) = .next t → Inv t := by
  unfold execCrewPlace
  refine event_inv h _ (fun u k => ?_)
  try dsimp only
  repeat' (first | with_reducible assumption | with_reducible apply placeAll_inv | with_reducible apply inv_foldl | with_reducible apply inv_foldl_snd | with_reducible intro _ _ _ | with_reducible intro _ _ | (with_reducible apply inv_mk; first | with_reducible assumption | with_reducible apply placeAll_inv | with_reducible apply inv_foldl | with_reducible apply inv_foldl_snd | with_reducible intro _ _ _ | with_reducible intro _ _ | split) | split)

theorem execGangRetire_inv (g : Nat) {s : State} (h : Inv s) : ∀ t, (execGangRetire g s) = .next t → Inv t := by
  unfold execGangRetire
  refine event_inv h _ (fun u k => ?_)
  try dsimp only
  repeat' (first | with_reducible assumption | with_reducible apply retireGang_inv | with_reducible apply inv_foldl | with_reducible apply inv_foldl_snd | with_reducible intro _ _ _ | with_reducible intro _ _ | (with_reducible apply inv_mk; first | with_reducible assumption | with_reducible apply retireGang_inv | with_reducible apply inv_foldl | with_reducible apply inv_foldl_snd | with_reducible intro _ _ _ | with_reducible intro _ _ | split) | split)

theorem execCrewSlotRelease_inv (c : Nat) {s : State} (h : Inv s) : ∀ t, (execCrewSlotRelease c s) = .next t → Inv t
    := by
  unfold execCrewSlotRelease
  refine event_inv h _ (fun u k => ?_)
  try dsimp only
  repeat' (first | with_reducible assumption | with_reducible apply crewRetired_inv | with_reducible apply inv_foldl | with_reducible apply inv_foldl_snd | with_reducible intro _ _ _ | with_reducible intro _ _ | (with_reducible apply inv_mk; first | with_reducible assumption | with_reducible apply crewRetired_inv | with_reducible apply inv_foldl | with_reducible apply inv_foldl_snd | with_reducible intro _ _ _ | with_reducible intro _ _ | split) | split)

theorem execDrainComplete_inv (c : Nat) {s : State} (h : Inv s) : ∀ t, (execDrainComplete c s) = .next t → Inv t := by
  unfold execDrainComplete
  refine event_inv h _ (fun u k => ?_)
  try dsimp only
  repeat' (first | with_reducible assumption | with_reducible apply saveCrew_inv | with_reducible apply inv_foldl | with_reducible apply inv_foldl_snd | with_reducible intro _ _ _ | with_reducible intro _ _ | (with_reducible apply inv_mk; first | with_reducible assumption | with_reducible apply saveCrew_inv | with_reducible apply inv_foldl | with_reducible apply inv_foldl_snd | with_reducible intro _ _ _ | with_reducible intro _ _ | split) | split)

theorem execCrewResume_inv (k : Nat) {s : State} (h : Inv s) : ∀ t, (execCrewResume k s) = .next t → Inv t := by
  unfold execCrewResume
  refine event_inv h _ (fun u k => ?_)
  try dsimp only
  repeat' (first | with_reducible assumption | with_reducible apply resumeOn_inv | with_reducible apply inv_foldl | with_reducible apply inv_foldl_snd | with_reducible intro _ _ _ | with_reducible intro _ _ | (with_reducible apply inv_mk; first | with_reducible assumption | with_reducible apply resumeOn_inv | with_reducible apply inv_foldl | with_reducible apply inv_foldl_snd | with_reducible intro _ _ _ | with_reducible intro _ _ | split) | split)

theorem execSavepoolWrite_inv (v : BitVec 32) {s : State} (h : Inv s) : ∀ t, (execSavepoolWrite v s) = .next t → Inv t
    := by
  unfold execSavepoolWrite
  refine regEvent_inv h _ (fun u k => ?_)
  try dsimp only
  repeat' (first | with_reducible assumption | with_reducible apply writeSavepool_inv | with_reducible apply inv_foldl | with_reducible apply inv_foldl_snd | with_reducible intro _ _ _ | with_reducible intro _ _ | (with_reducible apply inv_mk; first | with_reducible assumption | with_reducible apply writeSavepool_inv | with_reducible apply inv_foldl | with_reducible apply inv_foldl_snd | with_reducible intro _ _ _ | with_reducible intro _ _ | split) | split)

theorem execVgrowGrant_inv (g : Nat) {s : State} (h : Inv s) : ∀ t, (execVgrowGrant g s) = .next t → Inv t := by
  unfold execVgrowGrant
  refine event_inv h _ (fun u k => ?_)
  try dsimp only
  repeat' (first | with_reducible assumption | with_reducible apply growthGrant_inv | with_reducible apply inv_foldl | with_reducible apply inv_foldl_snd | with_reducible intro _ _ _ | with_reducible intro _ _ | (with_reducible apply inv_mk; first | with_reducible assumption | with_reducible apply growthGrant_inv | with_reducible apply inv_foldl | with_reducible apply inv_foldl_snd | with_reducible intro _ _ _ | with_reducible intro _ _ | split) | split)

theorem execGrowthDeadlockBreak_inv (core : Nat) {s : State} (h : Inv s) : ∀ t, (execGrowthDeadlockBreak core s) =
    .next t → Inv t := by
  unfold execGrowthDeadlockBreak
  refine event_inv h _ (fun u k => ?_)
  try dsimp only
  repeat' (first | with_reducible assumption | with_reducible apply growthGrant_inv | (have e := ‹beginDrains _ _ = some _›; exact beginDrains_inv (by assumption) _ _ e) | (intro _ e; exact beginDrains_inv (by assumption) _ _ e) | exact inv_getD ‹_› (fun _ e => beginDrains_inv ‹_› _ _ e) | with_reducible apply inv_foldl | with_reducible apply inv_foldl_snd | with_reducible intro _ _ _ | with_reducible intro _ _ | (with_reducible apply inv_mk; first | with_reducible assumption | with_reducible apply growthGrant_inv | (have e := ‹beginDrains _ _ = some _›; exact beginDrains_inv (by assumption) _ _ e) | (intro _ e; exact beginDrains_inv (by assumption) _ _ e) | exact inv_getD ‹_› (fun _ e => beginDrains_inv ‹_› _ _ e) | with_reducible apply inv_foldl | with_reducible apply inv_foldl_snd | with_reducible intro _ _ _ | with_reducible intro _ _ | split) | split)

theorem execPriorityPreempt_inv  {s : State} (h : Inv s) : ∀ t, (execPriorityPreempt s) = .next t → Inv t := by
  unfold execPriorityPreempt
  refine event_inv h _ (fun u k => ?_)
  try dsimp only
  repeat' (first | with_reducible assumption | (have e := ‹beginDrains _ _ = some _›; exact beginDrains_inv (by assumption) _ _ e) | (intro _ e; exact beginDrains_inv (by assumption) _ _ e) | exact inv_getD ‹_› (fun _ e => beginDrains_inv ‹_› _ _ e) | with_reducible apply inv_foldl | with_reducible apply inv_foldl_snd | with_reducible intro _ _ _ | with_reducible intro _ _ | (with_reducible apply inv_mk; first | with_reducible assumption | (have e := ‹beginDrains _ _ = some _›; exact beginDrains_inv (by assumption) _ _ e) | (intro _ e; exact beginDrains_inv (by assumption) _ _ e) | exact inv_getD ‹_› (fun _ e => beginDrains_inv ‹_› _ _ e) | with_reducible apply inv_foldl | with_reducible apply inv_foldl_snd | with_reducible intro _ _ _ | with_reducible intro _ _ | split) | split)

theorem execXformCopy2d_inv (f : ENG) {s : State} (h : Inv s) : ∀ t, (execXformCopy2d f s) = .next t → Inv t := by
  unfold execXformCopy2d
  refine issue_inv _ h _ (fun c u k => ?_)
  try dsimp only
  repeat' (first | with_reducible assumption | with_reducible apply xform_inv | with_reducible apply inv_foldl | with_reducible apply inv_foldl_snd | with_reducible intro _ _ _ | with_reducible intro _ _ | (with_reducible apply inv_mk; first | with_reducible assumption | with_reducible apply xform_inv | with_reducible apply inv_foldl | with_reducible apply inv_foldl_snd | with_reducible intro _ _ _ | with_reducible intro _ _ | split) | split)

theorem execXformTranspose_inv (f : ENG) {s : State} (h : Inv s) : ∀ t, (execXformTranspose f s) = .next t → Inv t :=
    by
  unfold execXformTranspose
  refine issue_inv _ h _ (fun c u k => ?_)
  try dsimp only
  repeat' (first | with_reducible assumption | with_reducible apply xform_inv | with_reducible apply inv_foldl | with_reducible apply inv_foldl_snd | with_reducible intro _ _ _ | with_reducible intro _ _ | (with_reducible apply inv_mk; first | with_reducible assumption | with_reducible apply xform_inv | with_reducible apply inv_foldl | with_reducible apply inv_foldl_snd | with_reducible intro _ _ _ | with_reducible intro _ _ | split) | split)

theorem execXformConvert_inv (f : ENG) {s : State} (h : Inv s) : ∀ t, (execXformConvert f s) = .next t → Inv t := by
  unfold execXformConvert
  refine issue_inv _ h _ (fun c u k => ?_)
  try dsimp only
  repeat' (first | with_reducible assumption | with_reducible apply xform_inv | with_reducible apply inv_foldl | with_reducible apply inv_foldl_snd | with_reducible intro _ _ _ | with_reducible intro _ _ | (with_reducible apply inv_mk; first | with_reducible assumption | with_reducible apply xform_inv | with_reducible apply inv_foldl | with_reducible apply inv_foldl_snd | with_reducible intro _ _ _ | with_reducible intro _ _ | split) | split)

theorem execXformExpand_inv (f : ENG) {s : State} (h : Inv s) : ∀ t, (execXformExpand f s) = .next t → Inv t := by
  unfold execXformExpand
  refine issue_inv _ h _ (fun c u k => ?_)
  try dsimp only
  repeat' (first | with_reducible assumption | with_reducible apply xform_inv | with_reducible apply inv_foldl | with_reducible apply inv_foldl_snd | with_reducible intro _ _ _ | with_reducible intro _ _ | (with_reducible apply inv_mk; first | with_reducible assumption | with_reducible apply xform_inv | with_reducible apply inv_foldl | with_reducible apply inv_foldl_snd | with_reducible intro _ _ _ | with_reducible intro _ _ | split) | split)

theorem execXformCsr2spr_inv (f : ENG) {s : State} (h : Inv s) : ∀ t, (execXformCsr2spr f s) = .next t → Inv t := by
  unfold execXformCsr2spr
  refine issue_inv _ h _ (fun c u k => ?_)
  try dsimp only
  repeat' (first | with_reducible assumption | with_reducible apply xform_inv | with_reducible apply inv_foldl | with_reducible apply inv_foldl_snd | with_reducible intro _ _ _ | with_reducible intro _ _ | (with_reducible apply inv_mk; first | with_reducible assumption | with_reducible apply xform_inv | with_reducible apply inv_foldl | with_reducible apply inv_foldl_snd | with_reducible intro _ _ _ | with_reducible intro _ _ | split) | split)

theorem execXformCrc_inv (f : ENG) {s : State} (h : Inv s) : ∀ t, (execXformCrc f s) = .next t → Inv t := by
  unfold execXformCrc
  refine issue_inv _ h _ (fun c u k => ?_)
  try dsimp only
  repeat' (first | with_reducible assumption | with_reducible apply xform_inv | with_reducible apply inv_foldl | with_reducible apply inv_foldl_snd | with_reducible intro _ _ _ | with_reducible intro _ _ | (with_reducible apply inv_mk; first | with_reducible assumption | with_reducible apply xform_inv | with_reducible apply inv_foldl | with_reducible apply inv_foldl_snd | with_reducible intro _ _ _ | with_reducible intro _ _ | split) | split)

theorem execPrismTransformComplete_inv (cluster : Nat) {s : State} (h : Inv s) : ∀ t, (execPrismTransformComplete
    cluster s) = .next t → Inv t := by
  unfold execPrismTransformComplete
  refine event_inv h _ (fun u k => ?_)
  try dsimp only
  repeat' (first | with_reducible assumption | with_reducible apply xform_inv | with_reducible apply runXform_inv | with_reducible apply inv_foldl | with_reducible apply inv_foldl_snd | with_reducible intro _ _ _ | with_reducible intro _ _ | (with_reducible apply inv_mk; first | with_reducible assumption | with_reducible apply xform_inv | with_reducible apply runXform_inv | with_reducible apply inv_foldl | with_reducible apply inv_foldl_snd | with_reducible intro _ _ _ | with_reducible intro _ _ | split) | split)

theorem execMatrixGrant_inv (cluster : Nat) {s : State} (h : Inv s) : ∀ t, (execMatrixGrant cluster s) = .next t → Inv
    t := by
  unfold execMatrixGrant
  refine event_inv h _ (fun u k => ?_)
  try dsimp only
  repeat' (first | with_reducible assumption | with_reducible apply bumpCore_inv | with_reducible apply inv_foldl | with_reducible apply inv_foldl_snd | with_reducible intro _ _ _ | with_reducible intro _ _ | (with_reducible apply inv_mk; first | with_reducible assumption | with_reducible apply bumpCore_inv | with_reducible apply inv_foldl | with_reducible apply inv_foldl_snd | with_reducible intro _ _ _ | with_reducible intro _ _ | split) | split)

theorem execPassComplete_inv (op : Nat) {s : State} (h : Inv s) : ∀ t, (execPassComplete op s) = .next t → Inv t := by
  unfold execPassComplete
  refine event_inv h _ (fun u k => ?_)
  try dsimp only
  repeat' (first | with_reducible assumption | with_reducible apply passChain_inv | (have e := ‹passChain _ _ _ _ _ _ _ = _›; have q := passChain_inv (by assumption) _ _ _ _ _ _; rw [e] at q; exact q) | with_reducible apply useFree_inv | with_reducible apply cancelDrains_inv | with_reducible apply popTile_inv | with_reducible apply finishEng_inv | with_reducible apply inv_foldl | with_reducible apply inv_foldl_snd | with_reducible intro _ _ _ | with_reducible intro _ _ | (with_reducible apply inv_mk; first | with_reducible assumption | with_reducible apply passChain_inv | (have e := ‹passChain _ _ _ _ _ _ _ = _›; have q := passChain_inv (by assumption) _ _ _ _ _ _; rw [e] at q; exact q) | with_reducible apply useFree_inv | with_reducible apply cancelDrains_inv | with_reducible apply popTile_inv | with_reducible apply finishEng_inv | with_reducible apply inv_foldl | with_reducible apply inv_foldl_snd | with_reducible intro _ _ _ | with_reducible intro _ _ | split) | split)

theorem execMquery_inv (f : ENG) {s : State} (h : Inv s) : ∀ t, (execMquery f s) = .next t → Inv t := by
  unfold execMquery
  refine issue_inv _ h _ (fun c u k => ?_)
  try dsimp only
  repeat' (first | with_reducible assumption | with_reducible apply advance_inv | with_reducible apply onGang_inv | with_reducible apply inv_foldl | with_reducible apply inv_foldl_snd | with_reducible intro _ _ _ | with_reducible intro _ _ | (with_reducible apply inv_mk; first | with_reducible assumption | with_reducible apply advance_inv | with_reducible apply onGang_inv | with_reducible apply inv_foldl | with_reducible apply inv_foldl_snd | with_reducible intro _ _ _ | with_reducible intro _ _ | split) | split)

theorem execMpass_inv (f : ENG) {s : State} (h : Inv s) : ∀ t, (execMpass f s) = .next t → Inv t := by
  unfold execMpass
  refine issue_inv _ h _ (fun c u k => ?_)
  try dsimp only
  repeat' (first | with_reducible assumption | with_reducible apply waitFor_inv | with_reducible apply postPass_inv | with_reducible apply trapAll_inv | with_reducible apply advance_inv | with_reducible apply uniFault_inv | with_reducible apply newEng_inv | (have e := ‹newEng _ _ _ _ _ = _›; have q := newEng_inv (by assumption) _ _ _ _; rw [e] at q; exact q) | with_reducible apply regLocks_inv | with_reducible apply onPath_inv | with_reducible apply inv_foldl | with_reducible apply inv_foldl_snd | with_reducible intro _ _ _ | with_reducible intro _ _ | (with_reducible apply inv_mk; first | with_reducible assumption | with_reducible apply waitFor_inv | with_reducible apply postPass_inv | with_reducible apply trapAll_inv | with_reducible apply advance_inv | with_reducible apply uniFault_inv | with_reducible apply newEng_inv | (have e := ‹newEng _ _ _ _ _ = _›; have q := newEng_inv (by assumption) _ _ _ _; rw [e] at q; exact q) | with_reducible apply regLocks_inv | with_reducible apply onPath_inv | with_reducible apply inv_foldl | with_reducible apply inv_foldl_snd | with_reducible intro _ _ _ | with_reducible intro _ _ | split) | split)

theorem execAzero_inv (f : ENG) {s : State} (h : Inv s) : ∀ t, (execAzero f s) = .next t → Inv t := by
  unfold execAzero
  refine issue_inv _ h _ (fun c u k => ?_)
  try dsimp only
  repeat' (first | with_reducible assumption | with_reducible apply advance_inv | with_reducible apply newEng_inv | (have e := ‹newEng _ _ _ _ _ = _›; have q := newEng_inv (by assumption) _ _ _ _; rw [e] at q; exact q) | with_reducible apply reachTile_inv | with_reducible apply inv_foldl | with_reducible apply inv_foldl_snd | with_reducible intro _ _ _ | with_reducible intro _ _ | (with_reducible apply inv_mk; first | with_reducible assumption | with_reducible apply advance_inv | with_reducible apply newEng_inv | (have e := ‹newEng _ _ _ _ _ = _›; have q := newEng_inv (by assumption) _ _ _ _; rw [e] at q; exact q) | with_reducible apply reachTile_inv | with_reducible apply inv_foldl | with_reducible apply inv_foldl_snd | with_reducible intro _ _ _ | with_reducible intro _ _ | split) | split)

theorem execAdrainT_inv (f : ENG) {s : State} (h : Inv s) : ∀ t, (execAdrainT f s) = .next t → Inv t := by
  unfold execAdrainT
  refine issue_inv _ h _ (fun c u k => ?_)
  try dsimp only
  repeat' (first | with_reducible assumption | with_reducible apply trapAll_inv | with_reducible apply advance_inv | with_reducible apply waitFor_inv | with_reducible apply newEng_inv | (have e := ‹newEng _ _ _ _ _ = _›; have q := newEng_inv (by assumption) _ _ _ _; rw [e] at q; exact q) | with_reducible apply onGang_inv | with_reducible apply reachTile_inv | with_reducible apply inv_foldl | with_reducible apply inv_foldl_snd | with_reducible intro _ _ _ | with_reducible intro _ _ | (with_reducible apply inv_mk; first | with_reducible assumption | with_reducible apply trapAll_inv | with_reducible apply advance_inv | with_reducible apply waitFor_inv | with_reducible apply newEng_inv | (have e := ‹newEng _ _ _ _ _ = _›; have q := newEng_inv (by assumption) _ _ _ _; rw [e] at q; exact q) | with_reducible apply onGang_inv | with_reducible apply reachTile_inv | with_reducible apply inv_foldl | with_reducible apply inv_foldl_snd | with_reducible intro _ _ _ | with_reducible intro _ _ | split) | split)

theorem execAfillT_inv (f : ENG) {s : State} (h : Inv s) : ∀ t, (execAfillT f s) = .next t → Inv t := by
  unfold execAfillT
  refine issue_inv _ h _ (fun c u k => ?_)
  try dsimp only
  repeat' (first | with_reducible assumption | with_reducible apply trapAll_inv | with_reducible apply advance_inv | with_reducible apply waitFor_inv | with_reducible apply newEng_inv | (have e := ‹newEng _ _ _ _ _ = _›; have q := newEng_inv (by assumption) _ _ _ _; rw [e] at q; exact q) | with_reducible apply reachTile_inv | with_reducible apply inv_foldl | with_reducible apply inv_foldl_snd | with_reducible intro _ _ _ | with_reducible intro _ _ | (with_reducible apply inv_mk; first | with_reducible assumption | with_reducible apply trapAll_inv | with_reducible apply advance_inv | with_reducible apply waitFor_inv | with_reducible apply newEng_inv | (have e := ‹newEng _ _ _ _ _ = _›; have q := newEng_inv (by assumption) _ _ _ _; rw [e] at q; exact q) | with_reducible apply reachTile_inv | with_reducible apply inv_foldl | with_reducible apply inv_foldl_snd | with_reducible intro _ _ _ | with_reducible intro _ _ | split) | split)

theorem execAdrainPlain_inv (f : ENG) {s : State} (h : Inv s) : ∀ t, (execAdrainPlain f s) = .next t → Inv t := by
  unfold execAdrainPlain
  refine issue_inv _ h _ (fun c u k => ?_)
  try dsimp only
  repeat' (first | with_reducible assumption | with_reducible apply tilePlain_inv | with_reducible apply inv_foldl | with_reducible apply inv_foldl_snd | with_reducible intro _ _ _ | with_reducible intro _ _ | (with_reducible apply inv_mk; first | with_reducible assumption | with_reducible apply tilePlain_inv | with_reducible apply inv_foldl | with_reducible apply inv_foldl_snd | with_reducible intro _ _ _ | with_reducible intro _ _ | split) | split)

theorem execAfillPlain_inv (f : ENG) {s : State} (h : Inv s) : ∀ t, (execAfillPlain f s) = .next t → Inv t := by
  unfold execAfillPlain
  refine issue_inv _ h _ (fun c u k => ?_)
  try dsimp only
  repeat' (first | with_reducible assumption | with_reducible apply tilePlain_inv | with_reducible apply inv_foldl | with_reducible apply inv_foldl_snd | with_reducible intro _ _ _ | with_reducible intro _ _ | (with_reducible apply inv_mk; first | with_reducible assumption | with_reducible apply tilePlain_inv | with_reducible apply inv_foldl | with_reducible apply inv_foldl_snd | with_reducible intro _ _ _ | with_reducible intro _ _ | split) | split)

theorem execTxv_inv (f : ENG) {s : State} (h : Inv s) : ∀ t, (execTxv f s) = .next t → Inv t := by
  unfold execTxv
  refine issue_inv _ h _ (fun c u k => ?_)
  try dsimp only
  repeat' (first | with_reducible assumption | with_reducible apply advance_inv | with_reducible apply waitFor_inv | with_reducible apply trapAll_inv | with_reducible apply onGang_inv | with_reducible apply inv_foldl | with_reducible apply inv_foldl_snd | with_reducible intro _ _ _ | with_reducible intro _ _ | (with_reducible apply inv_mk; first | with_reducible assumption | with_reducible apply advance_inv | with_reducible apply waitFor_inv | with_reducible apply trapAll_inv | with_reducible apply onGang_inv | with_reducible apply inv_foldl | with_reducible apply inv_foldl_snd | with_reducible intro _ _ _ | with_reducible intro _ _ | split) | split)

theorem execVxt_inv (f : ENG) {s : State} (h : Inv s) : ∀ t, (execVxt f s) = .next t → Inv t := by
  unfold execVxt
  refine issue_inv _ h _ (fun c u k => ?_)
  try dsimp only
  repeat' (first | with_reducible assumption | with_reducible apply advance_inv | with_reducible apply waitFor_inv | with_reducible apply onGang_inv | with_reducible apply inv_foldl | with_reducible apply inv_foldl_snd | with_reducible intro _ _ _ | with_reducible intro _ _ | (with_reducible apply inv_mk; first | with_reducible assumption | with_reducible apply advance_inv | with_reducible apply waitFor_inv | with_reducible apply onGang_inv | with_reducible apply inv_foldl | with_reducible apply inv_foldl_snd | with_reducible intro _ _ _ | with_reducible intro _ _ | split) | split)

theorem execTileOpPerform_inv (core : Nat) (tile : Nat) {s : State} (h : Inv s) : ∀ t, (execTileOpPerform core tile s)
    = .next t → Inv t := by
  unfold execTileOpPerform
  refine event_inv h _ (fun u k => ?_)
  try dsimp only
  repeat' (first | with_reducible assumption | with_reducible apply popTile_inv | with_reducible apply performTile_inv | with_reducible apply inv_foldl | with_reducible apply inv_foldl_snd | with_reducible intro _ _ _ | with_reducible intro _ _ | (with_reducible apply inv_mk; first | with_reducible assumption | with_reducible apply popTile_inv | with_reducible apply performTile_inv | with_reducible apply inv_foldl | with_reducible apply inv_foldl_snd | with_reducible intro _ _ _ | with_reducible intro _ _ | split) | split)

theorem execActiveSetSwap_inv (q : Nat) {s : State} (h : Inv s) : ∀ t, (execActiveSetSwap q s) = .next t → Inv t := by
  unfold execActiveSetSwap
  refine event_inv h _ (fun u k => ?_)
  try dsimp only
  repeat' (first | with_reducible assumption | with_reducible apply swapIn_inv | with_reducible apply inv_foldl | with_reducible apply inv_foldl_snd | with_reducible intro _ _ _ | with_reducible intro _ _ | (with_reducible apply inv_mk; first | with_reducible assumption | with_reducible apply swapIn_inv | with_reducible apply inv_foldl | with_reducible apply inv_foldl_snd | with_reducible intro _ _ _ | with_reducible intro _ _ | split) | split)

theorem execPathUrgent_inv (p : Nat) {s : State} (h : Inv s) : ∀ t, (execPathUrgent p s) = .next t → Inv t := by
  unfold execPathUrgent
  refine event_inv h _ (fun u k => ?_)
  try dsimp only
  repeat' (first | with_reducible assumption | with_reducible apply setPath_inv | with_reducible apply swapIn_inv | with_reducible apply onPath_inv | with_reducible apply inv_foldl | with_reducible apply inv_foldl_snd | with_reducible intro _ _ _ | with_reducible intro _ _ | (with_reducible apply inv_mk; first | with_reducible assumption | with_reducible apply setPath_inv | with_reducible apply swapIn_inv | with_reducible apply onPath_inv | with_reducible apply inv_foldl | with_reducible apply inv_foldl_snd | with_reducible intro _ _ _ | with_reducible intro _ _ | split) | split)

theorem execSleepExpire_inv (p : Nat) {s : State} (h : Inv s) : ∀ t, (execSleepExpire p s) = .next t → Inv t := by
  unfold execSleepExpire
  refine event_inv h _ (fun u k => ?_)
  try dsimp only
  repeat' (first | with_reducible assumption | with_reducible apply onPath_inv | with_reducible apply inv_foldl | with_reducible apply inv_foldl_snd | with_reducible intro _ _ _ | with_reducible intro _ _ | (with_reducible apply inv_mk; first | with_reducible assumption | with_reducible apply onPath_inv | with_reducible apply inv_foldl | with_reducible apply inv_foldl_snd | with_reducible intro _ _ _ | with_reducible intro _ _ | split) | split)

theorem execLensSample_inv (q : Nat) (slot : Nat) (reload : Nat) {s : State} (h : Inv s) : ∀ t, (execLensSample q slot
    reload s) = .next t → Inv t := by
  unfold execLensSample
  refine event_inv h _ (fun u k => ?_)
  try dsimp only
  repeat' (first | with_reducible assumption | with_reducible apply lensRecord_inv | with_reducible apply inv_foldl | with_reducible apply inv_foldl_snd | with_reducible intro _ _ _ | with_reducible intro _ _ | (with_reducible apply inv_mk; first | with_reducible assumption | with_reducible apply lensRecord_inv | with_reducible apply inv_foldl | with_reducible apply inv_foldl_snd | with_reducible intro _ _ _ | with_reducible intro _ _ | split) | split)

theorem execClauseFetch_inv (p : Nat) {s : State} (h : Inv s) : ∀ t, (execClauseFetch p s) = .next t → Inv t := by
  unfold execClauseFetch
  refine event_inv h _ (fun u k => ?_)
  try dsimp only
  repeat' (first | with_reducible assumption | with_reducible apply setPath_inv | with_reducible apply lensRecord_inv | with_reducible apply onPath_inv | with_reducible apply mergeSide_inv | with_reducible apply mergeAll_inv | (have e := ‹mergeAll _ _ _ = _›; have q := mergeAll_inv (by assumption) _ _; rw [e] at q; exact q) | with_reducible apply beginClause_inv | with_reducible apply inv_foldl | with_reducible apply inv_foldl_snd | with_reducible intro _ _ _ | with_reducible intro _ _ | (with_reducible apply inv_mk; first | with_reducible assumption | with_reducible apply setPath_inv | with_reducible apply lensRecord_inv | with_reducible apply onPath_inv | with_reducible apply mergeSide_inv | with_reducible apply mergeAll_inv | (have e := ‹mergeAll _ _ _ = _›; have q := mergeAll_inv (by assumption) _ _; rw [e] at q; exact q) | with_reducible apply beginClause_inv | with_reducible apply inv_foldl | with_reducible apply inv_foldl_snd | with_reducible intro _ _ _ | with_reducible intro _ _ | split) | split)

theorem execHandlerVector_inv (p : Nat) {s : State} (h : Inv s) : ∀ t, (execHandlerVector p s) = .next t → Inv t := by
  unfold execHandlerVector
  refine event_inv h _ (fun u k => ?_)
  try dsimp only
  repeat' (first | with_reducible assumption | with_reducible apply onPath_inv | with_reducible apply inv_foldl | with_reducible apply inv_foldl_snd | with_reducible intro _ _ _ | with_reducible intro _ _ | (with_reducible apply inv_mk; first | with_reducible assumption | with_reducible apply onPath_inv | with_reducible apply inv_foldl | with_reducible apply inv_foldl_snd | with_reducible intro _ _ _ | with_reducible intro _ _ | split) | split)

theorem execLongLatencyComplete_inv (g : Nat) (op : Nat) {s : State} (h : Inv s) : ∀ t, (execLongLatencyComplete g op
    s) = .next t → Inv t := by
  unfold execLongLatencyComplete
  refine event_inv h _ (fun u k => ?_)
  try dsimp only
  repeat' (first | with_reducible assumption | with_reducible apply onGang_inv | with_reducible apply retest_inv | with_reducible apply inv_foldl | with_reducible apply inv_foldl_snd | with_reducible intro _ _ _ | with_reducible intro _ _ | (with_reducible apply inv_mk; first | with_reducible assumption | with_reducible apply onGang_inv | with_reducible apply retest_inv | with_reducible apply inv_foldl | with_reducible apply inv_foldl_snd | with_reducible intro _ _ _ | with_reducible intro _ _ | split) | split)

theorem execClockStepChange_inv {s : State} (h : Inv s) : ∀ t, (execClockStepChange s) = .next t → Inv t := by
  unfold execClockStepChange
  refine event_inv h _ (fun u k => ?_)
  have ht : topDemand u ≤ 6 := by
    obtain ⟨-, -, -, ⟨-, a, b, c, -⟩, -⟩ := k
    exact Nat.max_le.mpr ⟨Nat.max_le.mpr ⟨a, b⟩, Nat.max_le.mpr ⟨c, by unfold serviceDemand; split <;> decide⟩⟩
  refine inv_onMg k _ (fun m o => ⟨?_, o.2⟩)
  have := o.1
  dsimp only
  split
  · omega
  · split <;> omega

theorem execClkceilWrite_inv (v : BitVec 32) {s : State} (h : Inv s) : ∀ t, (execClkceilWrite v s) = .next t → Inv t
    := by
  unfold execClkceilWrite
  refine regEvent_inv h _ (fun u k => ?_)
  try dsimp only
  repeat' (first | with_reducible assumption | with_reducible apply writeClkceil_inv | with_reducible apply inv_foldl | with_reducible apply inv_foldl_snd | with_reducible intro _ _ _ | with_reducible intro _ _ | (with_reducible apply inv_mk; first | with_reducible assumption | with_reducible apply writeClkceil_inv | with_reducible apply inv_foldl | with_reducible apply inv_foldl_snd | with_reducible intro _ _ _ | with_reducible intro _ _ | split) | split)

theorem execPwrcapWrite_inv (v : BitVec 32) {s : State} (h : Inv s) : ∀ t, (execPwrcapWrite v s) = .next t → Inv t :=
    by
  unfold execPwrcapWrite
  refine regEvent_inv h _ (fun u k => ?_)
  try dsimp only
  repeat' (first | with_reducible assumption | with_reducible apply writePwrcap_inv | with_reducible apply inv_foldl | with_reducible apply inv_foldl_snd | with_reducible intro _ _ _ | with_reducible intro _ _ | (with_reducible apply inv_mk; first | with_reducible assumption | with_reducible apply writePwrcap_inv | with_reducible apply inv_foldl | with_reducible apply inv_foldl_snd | with_reducible intro _ _ _ | with_reducible intro _ _ | split) | split)

theorem execThermalDemandRise_inv (degc : Nat) (die : Nat) {s : State} (h : Inv s) : ∀ t, (execThermalDemandRise
    degc die s) = .next t → Inv t := by
  refine event_inv h _ (fun u k => ?_)
  refine inv_ite (fun _ => inv_onMg (reading_inv k ..) _ (fun m q => ?_)) (fun _ => reading_inv k ..)
  obtain ⟨a, b, c, d, e, f⟩ := q
  exact ⟨a, Nat.min_le_left _ _, c, d, e, f⟩

theorem execThermalDemandFall_inv (degc : Nat) (die : Nat) {s : State} (h : Inv s) : ∀ t, (execThermalDemandFall
    degc die s) = .next t → Inv t := by
  refine event_inv h _ (fun u k => ?_)
  refine inv_ite (fun _ => inv_onMg (reading_inv k ..) _ (fun m q => ?_)) (fun _ => reading_inv k ..)
  obtain ⟨a, b, c, d, e, f⟩ := q
  exact ⟨a, Nat.le_trans (Nat.sub_le _ _) b, c, d, e, f⟩

theorem execPowerDemandRise_inv (watts : Nat) {s : State} (h : Inv s) : ∀ t, (execPowerDemandRise watts s) = .next t
    → Inv t := by
  refine event_inv h _ (fun u k => ?_)
  refine inv_ite (fun _ => inv_onMg k _ (fun m q => ?_)) (fun _ => k)
  obtain ⟨a, b, c, d, e, f⟩ := q
  exact ⟨a, b, Nat.min_le_left _ _, d, e, f⟩

theorem execPowerDemandFall_inv (watts : Nat) {s : State} (h : Inv s) : ∀ t, (execPowerDemandFall watts s) = .next t
    → Inv t := by
  refine event_inv h _ (fun u k => ?_)
  refine inv_ite (fun _ => inv_onMg k _ (fun m q => ?_)) (fun _ => k)
  obtain ⟨a, b, c, d, e, f⟩ := q
  exact ⟨a, b, Nat.le_trans (Nat.sub_le _ _) c, d, e, f⟩

theorem execThermalTrip_inv (degc : Nat) (die : Nat) {s : State} (h : Inv s) : ∀ t, (execThermalTrip degc die s) =
    .next t → Inv t := by
  unfold execThermalTrip
  refine event_inv h _ (fun u k => ?_)
  try dsimp only
  repeat' (first | with_reducible assumption | ((with_reducible apply inv_onMg); case k => exact fun _ k => ok_of k rfl rfl rfl rfl rfl) | with_reducible apply reading_inv | with_reducible apply stopCores_inv | with_reducible apply lastWrites_inv | with_reducible apply abortRuns_inv | with_reducible apply dropLink_inv | with_reducible apply signal_inv | with_reducible apply inv_foldl | with_reducible apply inv_foldl_snd | with_reducible intro _ _ _ | with_reducible intro _ _ | (with_reducible apply inv_mk; first | with_reducible assumption | ((with_reducible apply inv_onMg); case k => exact fun _ k => ok_of k rfl rfl rfl rfl rfl) | with_reducible apply reading_inv | with_reducible apply stopCores_inv | with_reducible apply lastWrites_inv | with_reducible apply abortRuns_inv | with_reducible apply dropLink_inv | with_reducible apply signal_inv | with_reducible apply inv_foldl | with_reducible apply inv_foldl_snd | with_reducible intro _ _ _ | with_reducible intro _ _ | split) | split)

theorem execHostReset_inv  {s : State} (h : Inv s) : ∀ t, (execHostReset s) = .next t → Inv t := by
  unfold execHostReset
  refine always_inv h _ (fun u k => ?_)
  try dsimp only
  repeat' (first | with_reducible assumption | with_reducible apply resetKeep_inv | with_reducible apply lastWrites_inv | with_reducible apply abortRuns_inv | with_reducible apply inv_foldl | with_reducible apply inv_foldl_snd | with_reducible intro _ _ _ | with_reducible intro _ _ | (with_reducible apply inv_mk; first | with_reducible assumption | with_reducible apply resetKeep_inv | with_reducible apply lastWrites_inv | with_reducible apply abortRuns_inv | with_reducible apply inv_foldl | with_reducible apply inv_foldl_snd | with_reducible intro _ _ _ | with_reducible intro _ _ | split) | split)

theorem execColdReset_inv  {s : State} (h : Inv s) : ∀ t, (execColdReset s) = .next t → Inv t := by
  unfold execColdReset
  refine always_inv h _ (fun u k => ?_)
  try dsimp only
  repeat' (first | with_reducible assumption | with_reducible apply resetKeep_inv | with_reducible apply inv_foldl | with_reducible apply inv_foldl_snd | with_reducible intro _ _ _ | with_reducible intro _ _ | (with_reducible apply inv_mk; first | with_reducible assumption | with_reducible apply resetKeep_inv | with_reducible apply inv_foldl | with_reducible apply inv_foldl_snd | with_reducible intro _ _ _ | with_reducible intro _ _ | split) | split)

theorem execRailsGood_inv  {s : State} (h : Inv s) : ∀ t, (execRailsGood s) = .next t → Inv t := by
  unfold execRailsGood
  refine always_inv h _ (fun u k => ?_)
  try dsimp only
  repeat' (first | with_reducible assumption | ((with_reducible apply inv_onMg); case k => exact fun _ k => ok_of k rfl rfl rfl rfl rfl) | with_reducible apply inv_foldl | with_reducible apply inv_foldl_snd | with_reducible intro _ _ _ | with_reducible intro _ _ | (with_reducible apply inv_mk; first | with_reducible assumption | ((with_reducible apply inv_onMg); case k => exact fun _ k => ok_of k rfl rfl rfl rfl rfl) | with_reducible apply inv_foldl | with_reducible apply inv_foldl_snd | with_reducible intro _ _ _ | with_reducible intro _ _ | split) | split)

theorem execRailRemoved_inv (rail : Nat) {s : State} (h : Inv s) : ∀ t, (execRailRemoved rail s) = .next t → Inv t :=
    by
  unfold execRailRemoved
  refine always_inv h _ (fun u k => ?_)
  try dsimp only
  repeat' (first | with_reducible assumption | ((with_reducible apply inv_onMg); case k => exact fun _ k => ok_of k rfl rfl rfl rfl rfl) | with_reducible apply resetKeep_inv | with_reducible apply inv_foldl | with_reducible apply inv_foldl_snd | with_reducible intro _ _ _ | with_reducible intro _ _ | (with_reducible apply inv_mk; first | with_reducible assumption | ((with_reducible apply inv_onMg); case k => exact fun _ k => ok_of k rfl rfl rfl rfl rfl) | with_reducible apply resetKeep_inv | with_reducible apply inv_foldl | with_reducible apply inv_foldl_snd | with_reducible intro _ _ _ | with_reducible intro _ _ | split) | split)

theorem execBootImageCheck_inv (reason : Nat) (svn : BitVec 32) {s : State} (h : Inv s) : ∀ t, (execBootImageCheck
    reason svn s) = .next t → Inv t := by
  unfold execBootImageCheck
  refine event_inv h _ (fun u k => ?_)
  try dsimp only
  repeat' (first | with_reducible assumption | ((with_reducible apply inv_onMg); case k => exact fun _ k => ok_of k rfl rfl rfl rfl rfl) | with_reducible apply fwStart_inv | with_reducible apply fwGoes_inv | with_reducible apply inv_foldl | with_reducible apply inv_foldl_snd | with_reducible intro _ _ _ | with_reducible intro _ _ | (with_reducible apply inv_mk; first | with_reducible assumption | ((with_reducible apply inv_onMg); case k => exact fun _ k => ok_of k rfl rfl rfl rfl rfl) | with_reducible apply fwStart_inv | with_reducible apply fwGoes_inv | with_reducible apply inv_foldl | with_reducible apply inv_foldl_snd | with_reducible intro _ _ _ | with_reducible intro _ _ | split) | split)

theorem execFwloadCheckStart_inv  {s : State} (h : Inv s) : ∀ t, (execFwloadCheckStart s) = .next t → Inv t := by
  unfold execFwloadCheckStart
  refine hostEvent_inv h _ (fun u k => ?_)
  try dsimp only
  repeat' (first | with_reducible assumption | with_reducible apply writeFwload_inv | with_reducible apply inv_foldl | with_reducible apply inv_foldl_snd | with_reducible intro _ _ _ | with_reducible intro _ _ | (with_reducible apply inv_mk; first | with_reducible assumption | with_reducible apply writeFwload_inv | with_reducible apply inv_foldl | with_reducible apply inv_foldl_snd | with_reducible intro _ _ _ | with_reducible intro _ _ | split) | split)

theorem execFwloadCheckWriteStart_inv  {s : State} (h : Inv s) : ∀ t, (execFwloadCheckWriteStart s) = .next t → Inv t
    := by
  unfold execFwloadCheckWriteStart
  refine hostEvent_inv h _ (fun u k => ?_)
  try dsimp only
  repeat' (first | with_reducible assumption | with_reducible apply writeFwload_inv | with_reducible apply inv_foldl | with_reducible apply inv_foldl_snd | with_reducible intro _ _ _ | with_reducible intro _ _ | (with_reducible apply inv_mk; first | with_reducible assumption | with_reducible apply writeFwload_inv | with_reducible apply inv_foldl | with_reducible apply inv_foldl_snd | with_reducible intro _ _ _ | with_reducible intro _ _ | split) | split)

theorem flashAfter_wf {s : State} (h : Inv s) (img : Map Byte) (w : Memory.wf img = true) (failed : Bool) :
    Memory.wf (flashAfter s img failed) = true := by
  obtain ⟨-, -, -, ⟨-, -, -, -, -, -, -, a, -⟩, -⟩ := h
  unfold flashAfter
  split
  · exact foldl_wf _ _ (fun m e w => Map.wfD_setD _ _ w) a
  · exact w

theorem execFwCheckDone_inv (reason : Nat) (svn : BitVec 32) {s : State} (h : Inv s) : ∀ t, (execFwCheckDone reason svn s) = .next t
    → Inv t := by
  unfold execFwCheckDone
  refine event_inv h _ (fun u k => inv_ite (fun _ => ?_) (fun _ => inv_ite (fun _ => ?_) (fun _ => k)))
  · refine inv_ite (fun _ => fwGoes_inv k ..) (fun _ => inv_ite (fun _ => k) (fun _ => inv_ite (fun _ => ?_) (fun _ => fwStart_inv k ..)))
    refine fwGoes_inv (inv_onMg k _ (fun m o => ?_)) ..
    obtain ⟨a, b, c, d, e, f, g, i, -⟩ := o
    exact ⟨a, b, c, d, e, f, g, i, g⟩
  · have w : ∀ b, Memory.wf (flashAfter u u.mg.fwCopy b) = true := by
      have ok := k.2.2.2.1
      obtain ⟨-, -, -, -, -, -, -, -, w⟩ := ok
      exact flashAfter_wf k _ w
    refine fwStart_inv (inv_onMg k (fun m => { m with flash := flashAfter u u.mg.fwCopy (reason == 6) }) (fun m o => ?_)) ..
    obtain ⟨a, b, c, d, e, f, g, -, j⟩ := o
    exact ⟨a, b, c, d, e, f, g, w _, j⟩

theorem execPerstDeassert_inv  {s : State} (h : Inv s) : ∀ t, (execPerstDeassert s) = .next t → Inv t := by
  unfold execPerstDeassert
  refine event_inv h _ (fun u k => ?_)
  try dsimp only
  repeat' (first | with_reducible assumption | ((with_reducible apply inv_onMg); case k => exact fun _ k => ok_of k rfl rfl rfl rfl rfl) | with_reducible apply inv_foldl | with_reducible apply inv_foldl_snd | with_reducible intro _ _ _ | with_reducible intro _ _ | (with_reducible apply inv_mk; first | with_reducible assumption | ((with_reducible apply inv_onMg); case k => exact fun _ k => ok_of k rfl rfl rfl rfl rfl) | with_reducible apply inv_foldl | with_reducible apply inv_foldl_snd | with_reducible intro _ _ _ | with_reducible intro _ _ | split) | split)

theorem execDieTrained_inv (d : Nat) {s : State} (h : Inv s) : ∀ t, (execDieTrained d s) = .next t → Inv t := by
  unfold execDieTrained
  refine event_inv h _ (fun u k => ?_)
  try dsimp only
  repeat' (first | with_reducible assumption | with_reducible apply firstDeal_inv | ((with_reducible apply inv_onMg); case k => exact fun _ k => ok_of k rfl rfl rfl rfl rfl) | with_reducible apply inv_foldl | with_reducible apply inv_foldl_snd | with_reducible intro _ _ _ | with_reducible intro _ _ | (with_reducible apply inv_mk; first | with_reducible assumption | with_reducible apply firstDeal_inv | ((with_reducible apply inv_onMg); case k => exact fun _ k => ok_of k rfl rfl rfl rfl rfl) | with_reducible apply inv_foldl | with_reducible apply inv_foldl_snd | with_reducible intro _ _ _ | with_reducible intro _ _ | split) | split)

theorem execDieTrainFail_inv (d : Nat) {s : State} (h : Inv s) : ∀ t, (execDieTrainFail d s) = .next t → Inv t := by
  unfold execDieTrainFail
  refine event_inv h _ (fun u k => ?_)
  try dsimp only
  repeat' (first | with_reducible assumption | with_reducible apply firstDeal_inv | ((with_reducible apply inv_onMg); case k => exact fun _ k => ok_of k rfl rfl rfl rfl rfl) | with_reducible apply redeal_inv | with_reducible apply inv_foldl | with_reducible apply inv_foldl_snd | with_reducible intro _ _ _ | with_reducible intro _ _ | (with_reducible apply inv_mk; first | with_reducible assumption | with_reducible apply firstDeal_inv | ((with_reducible apply inv_onMg); case k => exact fun _ k => ok_of k rfl rfl rfl rfl rfl) | with_reducible apply redeal_inv | with_reducible apply inv_foldl | with_reducible apply inv_foldl_snd | with_reducible intro _ _ _ | with_reducible intro _ _ | split) | split)

theorem execFeataccWrite_inv (n : Nat) (v : BitVec 32) {s : State} (h : Inv s) : ∀ t, (execFeataccWrite n v s) = .next
    t → Inv t := by
  unfold execFeataccWrite
  refine regEvent_inv h _ (fun u k => ?_)
  try dsimp only
  repeat' (first | with_reducible assumption | with_reducible apply writeFeatacc_inv | with_reducible apply inv_foldl | with_reducible apply inv_foldl_snd | with_reducible intro _ _ _ | with_reducible intro _ _ | (with_reducible apply inv_mk; first | with_reducible assumption | with_reducible apply writeFeatacc_inv | with_reducible apply inv_foldl | with_reducible apply inv_foldl_snd | with_reducible intro _ _ _ | with_reducible intro _ _ | split) | split)

theorem execHandlerInstallWrite_inv (n : Nat) (v : BitVec 64) {s : State} (h : Inv s) : ∀ t, (execHandlerInstallWrite
    n v s) = .next t → Inv t := by
  unfold execHandlerInstallWrite
  refine hostEvent_inv h _ (fun u k => ?_)
  try dsimp only
  repeat' (first | with_reducible assumption | with_reducible apply writeHandler_inv | with_reducible apply inv_foldl | with_reducible apply inv_foldl_snd | with_reducible intro _ _ _ | with_reducible intro _ _ | (with_reducible apply inv_mk; first | with_reducible assumption | with_reducible apply writeHandler_inv | with_reducible apply inv_foldl | with_reducible apply inv_foldl_snd | with_reducible intro _ _ _ | with_reducible intro _ _ | split) | split)

theorem execLaunchenWrite_inv (v : BitVec 32) {s : State} (h : Inv s) : ∀ t, (execLaunchenWrite v s) = .next t → Inv t
    := by
  unfold execLaunchenWrite
  refine regEvent_inv h _ (fun u k => ?_)
  try dsimp only
  repeat' (first | with_reducible assumption | with_reducible apply writeLaunchen_inv | with_reducible apply inv_foldl | with_reducible apply inv_foldl_snd | with_reducible intro _ _ _ | with_reducible intro _ _ | (with_reducible apply inv_mk; first | with_reducible assumption | with_reducible apply writeLaunchen_inv | with_reducible apply inv_foldl | with_reducible apply inv_foldl_snd | with_reducible intro _ _ _ | with_reducible intro _ _ | split) | split)

theorem execObjtbaseWrite_inv (v : BitVec 32) {s : State} (h : Inv s) : ∀ t, (execObjtbaseWrite v s) = .next t → Inv t
    := by
  unfold execObjtbaseWrite
  refine regEvent_inv h _ (fun u k => ?_)
  try dsimp only
  repeat' (first | with_reducible assumption | with_reducible apply writeObjtbase_inv | with_reducible apply inv_foldl | with_reducible apply inv_foldl_snd | with_reducible intro _ _ _ | with_reducible intro _ _ | (with_reducible apply inv_mk; first | with_reducible assumption | with_reducible apply writeObjtbase_inv | with_reducible apply inv_foldl | with_reducible apply inv_foldl_snd | with_reducible intro _ _ _ | with_reducible intro _ _ | split) | split)

theorem execObjtcntWrite_inv (v : BitVec 32) {s : State} (h : Inv s) : ∀ t, (execObjtcntWrite v s) = .next t → Inv t
    := by
  unfold execObjtcntWrite
  refine regEvent_inv h _ (fun u k => ?_)
  try dsimp only
  repeat' (first | with_reducible assumption | with_reducible apply writeObjtcnt_inv | with_reducible apply inv_foldl | with_reducible apply inv_foldl_snd | with_reducible intro _ _ _ | with_reducible intro _ _ | (with_reducible apply inv_mk; first | with_reducible assumption | with_reducible apply writeObjtcnt_inv | with_reducible apply inv_foldl | with_reducible apply inv_foldl_snd | with_reducible intro _ _ _ | with_reducible intro _ _ | split) | split)

theorem execPinovfWrite_inv (v : BitVec 32) {s : State} (h : Inv s) : ∀ t, (execPinovfWrite v s) = .next t → Inv t :=
    by
  unfold execPinovfWrite
  refine regEvent_inv h _ (fun u k => ?_)
  try dsimp only
  repeat' (first | with_reducible assumption | with_reducible apply writePinovf_inv | with_reducible apply inv_foldl | with_reducible apply inv_foldl_snd | with_reducible intro _ _ _ | with_reducible intro _ _ | (with_reducible apply inv_mk; first | with_reducible assumption | with_reducible apply writePinovf_inv | with_reducible apply inv_foldl | with_reducible apply inv_foldl_snd | with_reducible intro _ _ _ | with_reducible intro _ _ | split) | split)

theorem execAttreqWrite_inv (v : BitVec 32) {s : State} (h : Inv s) : ∀ t, (execAttreqWrite v s) = .next t → Inv t :=
    by
  unfold execAttreqWrite
  refine regEvent_inv h _ (fun u k => ?_)
  try dsimp only
  repeat' (first | with_reducible assumption | with_reducible apply writeAttreq_inv | with_reducible apply inv_foldl | with_reducible apply inv_foldl_snd | with_reducible intro _ _ _ | with_reducible intro _ _ | (with_reducible apply inv_mk; first | with_reducible assumption | with_reducible apply writeAttreq_inv | with_reducible apply inv_foldl | with_reducible apply inv_foldl_snd | with_reducible intro _ _ _ | with_reducible intro _ _ | split) | split)

theorem execAttestReportDone_inv  {s : State} (h : Inv s) : ∀ t, (execAttestReportDone s) = .next t → Inv t := by
  unfold execAttestReportDone
  refine event_inv h _ (fun u k => ?_)
  try dsimp only
  repeat' (first | with_reducible assumption | ((with_reducible apply inv_onMg); case k => exact fun _ k => ok_of k rfl rfl rfl rfl rfl) | with_reducible apply inv_foldl | with_reducible apply inv_foldl_snd | with_reducible intro _ _ _ | with_reducible intro _ _ | (with_reducible apply inv_mk; first | with_reducible assumption | ((with_reducible apply inv_onMg); case k => exact fun _ k => ok_of k rfl rfl rfl rfl rfl) | with_reducible apply inv_foldl | with_reducible apply inv_foldl_snd | with_reducible intro _ _ _ | with_reducible intro _ _ | split) | split)

theorem execScanTestStart_inv (core : Nat) {s : State} (h : Inv s) : ∀ t, (execScanTestStart core s) = .next t → Inv t
    := by
  unfold execScanTestStart
  refine event_inv h _ (fun u k => ?_)
  try dsimp only
  repeat' (first | with_reducible assumption | with_reducible apply inv_foldl | with_reducible apply inv_foldl_snd | with_reducible intro _ _ _ | with_reducible intro _ _ | (with_reducible apply inv_mk; first | with_reducible assumption | with_reducible apply inv_foldl | with_reducible apply inv_foldl_snd | with_reducible intro _ _ _ | with_reducible intro _ _ | split) | split)

theorem execScanTestDone_inv (core : Nat) (sig : Nat) (ok : Bool) {s : State} (h : Inv s) : ∀ t, (execScanTestDone
    core sig ok s) = .next t → Inv t := by
  unfold execScanTestDone
  refine event_inv h _ (fun u k => ?_)
  try dsimp only
  repeat' (first | with_reducible assumption | ((with_reducible apply inv_onMg); case k => exact fun _ k => ok_of k rfl rfl rfl rfl rfl) | with_reducible apply redeal_inv | with_reducible apply signal_inv | with_reducible apply inv_foldl | with_reducible apply inv_foldl_snd | with_reducible intro _ _ _ | with_reducible intro _ _ | (with_reducible apply inv_mk; first | with_reducible assumption | ((with_reducible apply inv_onMg); case k => exact fun _ k => ok_of k rfl rfl rfl rfl rfl) | with_reducible apply redeal_inv | with_reducible apply signal_inv | with_reducible apply inv_foldl | with_reducible apply inv_foldl_snd | with_reducible intro _ _ _ | with_reducible intro _ _ | split) | split)

theorem execUncorrectableError_inv (src : Nat) (loc : Nat) (sect : Nat) {s : State} (h : Inv s) : ∀ t,
    (execUncorrectableError src loc sect s) = .next t → Inv t := by
  unfold execUncorrectableError
  refine event_inv h _ (fun u k => ?_)
  try dsimp only
  repeat' (first | with_reducible assumption | with_reducible apply setObjFlag_inv | with_reducible apply bumpDie_inv | ((with_reducible apply inv_onMg); case k => exact fun _ k => ok_of k rfl rfl rfl rfl rfl) | with_reducible apply inv_foldl | with_reducible apply inv_foldl_snd | with_reducible intro _ _ _ | with_reducible intro _ _ | (with_reducible apply inv_mk; first | with_reducible assumption | with_reducible apply setObjFlag_inv | with_reducible apply bumpDie_inv | ((with_reducible apply inv_onMg); case k => exact fun _ k => ok_of k rfl rfl rfl rfl rfl) | with_reducible apply inv_foldl | with_reducible apply inv_foldl_snd | with_reducible intro _ _ _ | with_reducible intro _ _ | split) | split)

theorem execCorrectableError_inv (die : Nat) (src : Nat) {s : State} (h : Inv s) : ∀ t, (execCorrectableError die src
    s) = .next t → Inv t := by
  unfold execCorrectableError
  refine event_inv h _ (fun u k => ?_)
  try dsimp only
  repeat' (first | with_reducible assumption | with_reducible apply bumpDie_inv | with_reducible apply inv_foldl | with_reducible apply inv_foldl_snd | with_reducible intro _ _ _ | with_reducible intro _ _ | (with_reducible apply inv_mk; first | with_reducible assumption | with_reducible apply bumpDie_inv | with_reducible apply inv_foldl | with_reducible apply inv_foldl_snd | with_reducible intro _ _ _ | with_reducible intro _ _ | split) | split)

theorem execCheckpointSaveGo_inv (v : BitVec 32) {s : State} (h : Inv s) : ∀ t, (execCheckpointSaveGo v s) = .next t →
    Inv t := by
  unfold execCheckpointSaveGo
  refine regEvent_inv h _ (fun u k => ?_)
  try dsimp only
  repeat' (first | with_reducible assumption | with_reducible apply writeCkptctl_inv | with_reducible apply inv_foldl | with_reducible apply inv_foldl_snd | with_reducible intro _ _ _ | with_reducible intro _ _ | (with_reducible apply inv_mk; first | with_reducible assumption | with_reducible apply writeCkptctl_inv | with_reducible apply inv_foldl | with_reducible apply inv_foldl_snd | with_reducible intro _ _ _ | with_reducible intro _ _ | split) | split)

theorem execCheckpointSaveDone_inv  {s : State} (h : Inv s) : ∀ t, (execCheckpointSaveDone s) = .next t → Inv t := by
  unfold execCheckpointSaveDone
  refine always_inv h _ (fun u k => ?_)
  try dsimp only
  repeat' (first | with_reducible assumption | with_reducible apply writeImage_inv | with_reducible apply resumeAll_inv | with_reducible apply signal_inv | ((with_reducible apply inv_onMg); case k => exact fun _ k => ok_of k rfl rfl rfl rfl rfl) | with_reducible apply inv_foldl | with_reducible apply inv_foldl_snd | with_reducible intro _ _ _ | with_reducible intro _ _ | (with_reducible apply inv_mk; first | with_reducible assumption | with_reducible apply writeImage_inv | with_reducible apply resumeAll_inv | with_reducible apply signal_inv | ((with_reducible apply inv_onMg); case k => exact fun _ k => ok_of k rfl rfl rfl rfl rfl) | with_reducible apply inv_foldl | with_reducible apply inv_foldl_snd | with_reducible intro _ _ _ | with_reducible intro _ _ | split) | split)

theorem execCheckpointTargetStopped_inv  {s : State} (h : Inv s) : ∀ t, (execCheckpointTargetStopped s) = .next t →
    Inv t := by
  unfold execCheckpointTargetStopped
  refine always_inv h _ (fun u k => ?_)
  try dsimp only
  repeat' (first | with_reducible assumption | with_reducible apply saveFails_inv | with_reducible apply inv_foldl | with_reducible apply inv_foldl_snd | with_reducible intro _ _ _ | with_reducible intro _ _ | (with_reducible apply inv_mk; first | with_reducible assumption | with_reducible apply saveFails_inv | with_reducible apply inv_foldl | with_reducible apply inv_foldl_snd | with_reducible intro _ _ _ | with_reducible intro _ _ | split) | split)

theorem execCheckpointRestoreGo_inv (v : BitVec 32) {s : State} (h : Inv s) : ∀ t, (execCheckpointRestoreGo v s) =
    .next t → Inv t := by
  unfold execCheckpointRestoreGo
  refine regEvent_inv h _ (fun u k => ?_)
  try dsimp only
  repeat' (first | with_reducible assumption | with_reducible apply writeCkptctl_inv | with_reducible apply inv_foldl | with_reducible apply inv_foldl_snd | with_reducible intro _ _ _ | with_reducible intro _ _ | (with_reducible apply inv_mk; first | with_reducible assumption | with_reducible apply writeCkptctl_inv | with_reducible apply inv_foldl | with_reducible apply inv_foldl_snd | with_reducible intro _ _ _ | with_reducible intro _ _ | split) | split)

theorem execCheckpointRestoreDone_inv {s : State} (h : Inv s) : ∀ t, (execCheckpointRestoreDone s) = .next t → Inv t := by
  unfold execCheckpointRestoreDone
  refine event_inv h _ (fun u k => ?_)
  refine inv_ite (fun _ => k) (fun _ => ?_)
  extract_lets n dies t0 t1 nrun first t2 pre stamps t3
  refine signal_inv (inv_onMg (pollWaits_inv ?_) _ ?_) _
  · refine inv_mk (s := t2) ?_
    refine inv_mk (s := t1) ?_
    exact inv_onMg (restoreFrames_inv k ..) _ (fun _ k => ok_of k rfl rfl rfl rfl rfl)
  · exact fun _ k => ok_of k rfl rfl rfl rfl rfl

theorem execFadd_inv (f : RRR) {s : State} (h : Inv s) : ∀ t, (execFadd f s) = .next t → Inv t := by
  unfold execFadd
  refine issue_inv _ h _ (fun c u k => ?_)
  try dsimp only
  repeat' (first | with_reducible assumption | with_reducible apply fltExact_inv | with_reducible apply inv_foldl | with_reducible apply inv_foldl_snd | with_reducible intro _ _ _ | with_reducible intro _ _ | (with_reducible apply inv_mk; first | with_reducible assumption | with_reducible apply fltExact_inv | with_reducible apply inv_foldl | with_reducible apply inv_foldl_snd | with_reducible intro _ _ _ | with_reducible intro _ _ | split) | split)

theorem execFsub_inv (f : RRR) {s : State} (h : Inv s) : ∀ t, (execFsub f s) = .next t → Inv t := by
  unfold execFsub
  refine issue_inv _ h _ (fun c u k => ?_)
  try dsimp only
  repeat' (first | with_reducible assumption | with_reducible apply fltExact_inv | with_reducible apply inv_foldl | with_reducible apply inv_foldl_snd | with_reducible intro _ _ _ | with_reducible intro _ _ | (with_reducible apply inv_mk; first | with_reducible assumption | with_reducible apply fltExact_inv | with_reducible apply inv_foldl | with_reducible apply inv_foldl_snd | with_reducible intro _ _ _ | with_reducible intro _ _ | split) | split)

theorem execFmul_inv (f : RRR) {s : State} (h : Inv s) : ∀ t, (execFmul f s) = .next t → Inv t := by
  unfold execFmul
  refine issue_inv _ h _ (fun c u k => ?_)
  try dsimp only
  repeat' (first | with_reducible assumption | with_reducible apply fltExact_inv | with_reducible apply inv_foldl | with_reducible apply inv_foldl_snd | with_reducible intro _ _ _ | with_reducible intro _ _ | (with_reducible apply inv_mk; first | with_reducible assumption | with_reducible apply fltExact_inv | with_reducible apply inv_foldl | with_reducible apply inv_foldl_snd | with_reducible intro _ _ _ | with_reducible intro _ _ | split) | split)

theorem execFmulz_inv (f : RRR) {s : State} (h : Inv s) : ∀ t, (execFmulz f s) = .next t → Inv t := by
  unfold execFmulz
  refine issue_inv _ h _ (fun c u k => ?_)
  try dsimp only
  repeat' (first | with_reducible assumption | with_reducible apply fltOp_inv | with_reducible apply inv_foldl | with_reducible apply inv_foldl_snd | with_reducible intro _ _ _ | with_reducible intro _ _ | (with_reducible apply inv_mk; first | with_reducible assumption | with_reducible apply fltOp_inv | with_reducible apply inv_foldl | with_reducible apply inv_foldl_snd | with_reducible intro _ _ _ | with_reducible intro _ _ | split) | split)

theorem execFmin_inv (f : RRR) {s : State} (h : Inv s) : ∀ t, (execFmin f s) = .next t → Inv t := by
  unfold execFmin
  refine issue_inv _ h _ (fun c u k => ?_)
  try dsimp only
  repeat' (first | with_reducible assumption | with_reducible apply fltPlain_inv | with_reducible apply inv_foldl | with_reducible apply inv_foldl_snd | with_reducible intro _ _ _ | with_reducible intro _ _ | (with_reducible apply inv_mk; first | with_reducible assumption | with_reducible apply fltPlain_inv | with_reducible apply inv_foldl | with_reducible apply inv_foldl_snd | with_reducible intro _ _ _ | with_reducible intro _ _ | split) | split)

theorem execFfma_inv (f : RRR) {s : State} (h : Inv s) : ∀ t, (execFfma f s) = .next t → Inv t := by
  unfold execFfma
  refine issue_inv _ h _ (fun c u k => ?_)
  try dsimp only
  repeat' (first | with_reducible assumption | with_reducible apply fltExact_inv | with_reducible apply inv_foldl | with_reducible apply inv_foldl_snd | with_reducible intro _ _ _ | with_reducible intro _ _ | (with_reducible apply inv_mk; first | with_reducible assumption | with_reducible apply fltExact_inv | with_reducible apply inv_foldl | with_reducible apply inv_foldl_snd | with_reducible intro _ _ _ | with_reducible intro _ _ | split) | split)

theorem execFmax_inv (f : RRR) {s : State} (h : Inv s) : ∀ t, (execFmax f s) = .next t → Inv t := by
  unfold execFmax
  refine issue_inv _ h _ (fun c u k => ?_)
  try dsimp only
  repeat' (first | with_reducible assumption | with_reducible apply fltPlain_inv | with_reducible apply inv_foldl | with_reducible apply inv_foldl_snd | with_reducible intro _ _ _ | with_reducible intro _ _ | (with_reducible apply inv_mk; first | with_reducible assumption | with_reducible apply fltPlain_inv | with_reducible apply inv_foldl | with_reducible apply inv_foldl_snd | with_reducible intro _ _ _ | with_reducible intro _ _ | split) | split)

theorem execFdiv_inv (f : RRR) {s : State} (h : Inv s) : ∀ t, (execFdiv f s) = .next t → Inv t := by
  unfold execFdiv
  refine issue_inv _ h _ (fun c u k => ?_)
  try dsimp only
  repeat' (first | with_reducible assumption | with_reducible apply fltExact_inv | with_reducible apply inv_foldl | with_reducible apply inv_foldl_snd | with_reducible intro _ _ _ | with_reducible intro _ _ | (with_reducible apply inv_mk; first | with_reducible assumption | with_reducible apply fltExact_inv | with_reducible apply inv_foldl | with_reducible apply inv_foldl_snd | with_reducible intro _ _ _ | with_reducible intro _ _ | split) | split)

theorem execFsqrt_inv (f : RRR) {s : State} (h : Inv s) : ∀ t, (execFsqrt f s) = .next t → Inv t := by
  unfold execFsqrt
  refine issue_inv _ h _ (fun c u k => ?_)
  try dsimp only
  repeat' (first | with_reducible assumption | with_reducible apply fltExact_inv | with_reducible apply inv_foldl | with_reducible apply inv_foldl_snd | with_reducible intro _ _ _ | with_reducible intro _ _ | (with_reducible apply inv_mk; first | with_reducible assumption | with_reducible apply fltExact_inv | with_reducible apply inv_foldl | with_reducible apply inv_foldl_snd | with_reducible intro _ _ _ | with_reducible intro _ _ | split) | split)

theorem execFrcp_inv (f : RRR) {s : State} (h : Inv s) : ∀ t, (execFrcp f s) = .next t → Inv t := by
  unfold execFrcp
  refine issue_inv _ h _ (fun c u k => ?_)
  try dsimp only
  repeat' (first | with_reducible assumption | with_reducible apply fltExact_inv | with_reducible apply inv_foldl | with_reducible apply inv_foldl_snd | with_reducible intro _ _ _ | with_reducible intro _ _ | (with_reducible apply inv_mk; first | with_reducible assumption | with_reducible apply fltExact_inv | with_reducible apply inv_foldl | with_reducible apply inv_foldl_snd | with_reducible intro _ _ _ | with_reducible intro _ _ | split) | split)

theorem execFrsq_inv (f : RRR) {s : State} (h : Inv s) : ∀ t, (execFrsq f s) = .next t → Inv t := by
  unfold execFrsq
  refine issue_inv _ h _ (fun c u k => ?_)
  try dsimp only
  repeat' (first | with_reducible assumption | with_reducible apply fltExact_inv | with_reducible apply inv_foldl | with_reducible apply inv_foldl_snd | with_reducible intro _ _ _ | with_reducible intro _ _ | (with_reducible apply inv_mk; first | with_reducible assumption | with_reducible apply fltExact_inv | with_reducible apply inv_foldl | with_reducible apply inv_foldl_snd | with_reducible intro _ _ _ | with_reducible intro _ _ | split) | split)

theorem execFexp2_inv (f : RRR) {s : State} (h : Inv s) : ∀ t, (execFexp2 f s) = .next t → Inv t := by
  unfold execFexp2
  refine issue_inv _ h _ (fun c u k => ?_)
  try dsimp only
  repeat' (first | with_reducible assumption | with_reducible apply fltPlain_inv | with_reducible apply inv_foldl | with_reducible apply inv_foldl_snd | with_reducible intro _ _ _ | with_reducible intro _ _ | (with_reducible apply inv_mk; first | with_reducible assumption | with_reducible apply fltPlain_inv | with_reducible apply inv_foldl | with_reducible apply inv_foldl_snd | with_reducible intro _ _ _ | with_reducible intro _ _ | split) | split)

theorem execFlog2_inv (f : RRR) {s : State} (h : Inv s) : ∀ t, (execFlog2 f s) = .next t → Inv t := by
  unfold execFlog2
  refine issue_inv _ h _ (fun c u k => ?_)
  try dsimp only
  repeat' (first | with_reducible assumption | with_reducible apply fltPlain_inv | with_reducible apply inv_foldl | with_reducible apply inv_foldl_snd | with_reducible intro _ _ _ | with_reducible intro _ _ | (with_reducible apply inv_mk; first | with_reducible assumption | with_reducible apply fltPlain_inv | with_reducible apply inv_foldl | with_reducible apply inv_foldl_snd | with_reducible intro _ _ _ | with_reducible intro _ _ | split) | split)

theorem execFrnd_inv (f : RRR) {s : State} (h : Inv s) : ∀ t, (execFrnd f s) = .next t → Inv t := by
  unfold execFrnd
  refine issue_inv _ h _ (fun c u k => ?_)
  try dsimp only
  repeat' (first | with_reducible assumption | with_reducible apply fltPlain_inv | with_reducible apply inv_foldl | with_reducible apply inv_foldl_snd | with_reducible intro _ _ _ | with_reducible intro _ _ | (with_reducible apply inv_mk; first | with_reducible assumption | with_reducible apply fltPlain_inv | with_reducible apply inv_foldl | with_reducible apply inv_foldl_snd | with_reducible intro _ _ _ | with_reducible intro _ _ | split) | split)

theorem execFclass_inv (f : RRR) {s : State} (h : Inv s) : ∀ t, (execFclass f s) = .next t → Inv t := by
  unfold execFclass
  refine issue_inv _ h _ (fun c u k => ?_)
  try dsimp only
  repeat' (first | with_reducible assumption | with_reducible apply advance_inv | with_reducible apply onGang_inv | with_reducible apply inv_foldl | with_reducible apply inv_foldl_snd | with_reducible intro _ _ _ | with_reducible intro _ _ | (with_reducible apply inv_mk; first | with_reducible assumption | with_reducible apply advance_inv | with_reducible apply onGang_inv | with_reducible apply inv_foldl | with_reducible apply inv_foldl_snd | with_reducible intro _ _ _ | with_reducible intro _ _ | split) | split)

theorem execFcmp_inv (f : RRR) {s : State} (h : Inv s) : ∀ t, (execFcmp f s) = .next t → Inv t := by
  unfold execFcmp
  refine issue_inv _ h _ (fun c u k => ?_)
  try dsimp only
  repeat' (first | with_reducible assumption | with_reducible apply finishF_inv | with_reducible apply inv_foldl | with_reducible apply inv_foldl_snd | with_reducible intro _ _ _ | with_reducible intro _ _ | (with_reducible apply inv_mk; first | with_reducible assumption | with_reducible apply finishF_inv | with_reducible apply inv_foldl | with_reducible apply inv_foldl_snd | with_reducible intro _ _ _ | with_reducible intro _ _ | split) | split)

theorem execFaddx_inv (f : RRR) {s : State} (h : Inv s) : ∀ t, (execFaddx f s) = .next t → Inv t := by
  unfold execFaddx
  refine issue_inv _ h _ (fun c u k => ?_)
  try dsimp only
  repeat' (first | with_reducible assumption | with_reducible apply pairOp_inv | with_reducible apply inv_foldl | with_reducible apply inv_foldl_snd | with_reducible intro _ _ _ | with_reducible intro _ _ | (with_reducible apply inv_mk; first | with_reducible assumption | with_reducible apply pairOp_inv | with_reducible apply inv_foldl | with_reducible apply inv_foldl_snd | with_reducible intro _ _ _ | with_reducible intro _ _ | split) | split)

theorem execFsubx_inv (f : RRR) {s : State} (h : Inv s) : ∀ t, (execFsubx f s) = .next t → Inv t := by
  unfold execFsubx
  refine issue_inv _ h _ (fun c u k => ?_)
  try dsimp only
  repeat' (first | with_reducible assumption | with_reducible apply pairOp_inv | with_reducible apply inv_foldl | with_reducible apply inv_foldl_snd | with_reducible intro _ _ _ | with_reducible intro _ _ | (with_reducible apply inv_mk; first | with_reducible assumption | with_reducible apply pairOp_inv | with_reducible apply inv_foldl | with_reducible apply inv_foldl_snd | with_reducible intro _ _ _ | with_reducible intro _ _ | split) | split)

theorem execFmulx_inv (f : RRR) {s : State} (h : Inv s) : ∀ t, (execFmulx f s) = .next t → Inv t := by
  unfold execFmulx
  refine issue_inv _ h _ (fun c u k => ?_)
  try dsimp only
  repeat' (first | with_reducible assumption | with_reducible apply pairOp_inv | with_reducible apply inv_foldl | with_reducible apply inv_foldl_snd | with_reducible intro _ _ _ | with_reducible intro _ _ | (with_reducible apply inv_mk; first | with_reducible assumption | with_reducible apply pairOp_inv | with_reducible apply inv_foldl | with_reducible apply inv_foldl_snd | with_reducible intro _ _ _ | with_reducible intro _ _ | split) | split)

theorem execDwadd_inv (f : RRR) {s : State} (h : Inv s) : ∀ t, (execDwadd f s) = .next t → Inv t := by
  unfold execDwadd
  refine issue_inv _ h _ (fun c u k => ?_)
  try dsimp only
  repeat' (first | with_reducible assumption | with_reducible apply pairOp_inv | with_reducible apply inv_foldl | with_reducible apply inv_foldl_snd | with_reducible intro _ _ _ | with_reducible intro _ _ | (with_reducible apply inv_mk; first | with_reducible assumption | with_reducible apply pairOp_inv | with_reducible apply inv_foldl | with_reducible apply inv_foldl_snd | with_reducible intro _ _ _ | with_reducible intro _ _ | split) | split)

theorem execDwmul_inv (f : RRR) {s : State} (h : Inv s) : ∀ t, (execDwmul f s) = .next t → Inv t := by
  unfold execDwmul
  refine issue_inv _ h _ (fun c u k => ?_)
  try dsimp only
  repeat' (first | with_reducible assumption | with_reducible apply pairOp_inv | with_reducible apply inv_foldl | with_reducible apply inv_foldl_snd | with_reducible intro _ _ _ | with_reducible intro _ _ | (with_reducible apply inv_mk; first | with_reducible assumption | with_reducible apply pairOp_inv | with_reducible apply inv_foldl | with_reducible apply inv_foldl_snd | with_reducible intro _ _ _ | with_reducible intro _ _ | split) | split)

theorem execDwrnd_inv (f : RRR) {s : State} (h : Inv s) : ∀ t, (execDwrnd f s) = .next t → Inv t := by
  unfold execDwrnd
  refine issue_inv _ h _ (fun c u k => ?_)
  try dsimp only
  repeat' (first | with_reducible assumption | with_reducible apply finishF_inv | with_reducible apply inv_foldl | with_reducible apply inv_foldl_snd | with_reducible intro _ _ _ | with_reducible intro _ _ | (with_reducible apply inv_mk; first | with_reducible assumption | with_reducible apply finishF_inv | with_reducible apply inv_foldl | with_reducible apply inv_foldl_snd | with_reducible intro _ _ _ | with_reducible intro _ _ | split) | split)

theorem execCvt_inv (f : RRR) {s : State} (h : Inv s) : ∀ t, (execCvt f s) = .next t → Inv t := by
  unfold execCvt
  refine issue_inv _ h _ (fun c u k => ?_)
  try dsimp only
  repeat' (first | with_reducible assumption | with_reducible apply finishF_inv | with_reducible apply inv_foldl | with_reducible apply inv_foldl_snd | with_reducible intro _ _ _ | with_reducible intro _ _ | (with_reducible apply inv_mk; first | with_reducible assumption | with_reducible apply finishF_inv | with_reducible apply inv_foldl | with_reducible apply inv_foldl_snd | with_reducible intro _ _ _ | with_reducible intro _ _ | split) | split)

theorem execPack_inv (f : RRR) {s : State} (h : Inv s) : ∀ t, (execPack f s) = .next t → Inv t := by
  unfold execPack
  refine issue_inv _ h _ (fun c u k => ?_)
  try dsimp only
  repeat' (first | with_reducible assumption | with_reducible apply finishF_inv | with_reducible apply inv_foldl | with_reducible apply inv_foldl_snd | with_reducible intro _ _ _ | with_reducible intro _ _ | (with_reducible apply inv_mk; first | with_reducible assumption | with_reducible apply finishF_inv | with_reducible apply inv_foldl | with_reducible apply inv_foldl_snd | with_reducible intro _ _ _ | with_reducible intro _ _ | split) | split)

theorem execUnpack_inv (f : RRR) {s : State} (h : Inv s) : ∀ t, (execUnpack f s) = .next t → Inv t := by
  unfold execUnpack
  refine issue_inv _ h _ (fun c u k => ?_)
  try dsimp only
  repeat' (first | with_reducible assumption | with_reducible apply finishF_inv | with_reducible apply inv_foldl | with_reducible apply inv_foldl_snd | with_reducible intro _ _ _ | with_reducible intro _ _ | (with_reducible apply inv_mk; first | with_reducible assumption | with_reducible apply finishF_inv | with_reducible apply inv_foldl | with_reducible apply inv_foldl_snd | with_reducible intro _ _ _ | with_reducible intro _ _ | split) | split)

theorem execScaleq_inv (f : RRR) {s : State} (h : Inv s) : ∀ t, (execScaleq f s) = .next t → Inv t := by
  unfold execScaleq
  refine issue_inv _ h _ (fun c u k => ?_)
  try dsimp only
  repeat' (first | with_reducible assumption | with_reducible apply alu_inv | with_reducible apply inv_foldl | with_reducible apply inv_foldl_snd | with_reducible intro _ _ _ | with_reducible intro _ _ | (with_reducible apply inv_mk; first | with_reducible assumption | with_reducible apply alu_inv | with_reducible apply inv_foldl | with_reducible apply inv_foldl_snd | with_reducible intro _ _ _ | with_reducible intro _ _ | split) | split)

theorem execDot4_inv (f : RRR) {s : State} (h : Inv s) : ∀ t, (execDot4 f s) = .next t → Inv t := by
  unfold execDot4
  refine issue_inv _ h _ (fun c u k => ?_)
  try dsimp only
  repeat' (first | with_reducible assumption | with_reducible apply alu_inv | with_reducible apply inv_foldl | with_reducible apply inv_foldl_snd | with_reducible intro _ _ _ | with_reducible intro _ _ | (with_reducible apply inv_mk; first | with_reducible assumption | with_reducible apply alu_inv | with_reducible apply inv_foldl | with_reducible apply inv_foldl_snd | with_reducible intro _ _ _ | with_reducible intro _ _ | split) | split)

theorem execDot8_inv (f : RRR) {s : State} (h : Inv s) : ∀ t, (execDot8 f s) = .next t → Inv t := by
  unfold execDot8
  refine issue_inv _ h _ (fun c u k => ?_)
  try dsimp only
  repeat' (first | with_reducible assumption | with_reducible apply alu_inv | with_reducible apply inv_foldl | with_reducible apply inv_foldl_snd | with_reducible intro _ _ _ | with_reducible intro _ _ | (with_reducible apply inv_mk; first | with_reducible assumption | with_reducible apply alu_inv | with_reducible apply inv_foldl | with_reducible apply inv_foldl_snd | with_reducible intro _ _ _ | with_reducible intro _ _ | split) | split)

theorem execDotf8_inv (f : RRR) {s : State} (h : Inv s) : ∀ t, (execDotf8 f s) = .next t → Inv t := by
  unfold execDotf8
  refine issue_inv _ h _ (fun c u k => ?_)
  try dsimp only
  repeat' (first | with_reducible assumption | with_reducible apply finishF_inv | with_reducible apply inv_foldl | with_reducible apply inv_foldl_snd | with_reducible intro _ _ _ | with_reducible intro _ _ | (with_reducible apply inv_mk; first | with_reducible assumption | with_reducible apply finishF_inv | with_reducible apply inv_foldl | with_reducible apply inv_foldl_snd | with_reducible intro _ _ _ | with_reducible intro _ _ | split) | split)

theorem execXsect_inv (f : RRR) {s : State} (h : Inv s) : ∀ t, (execXsect f s) = .next t → Inv t := by
  unfold execXsect
  refine issue_inv _ h _ (fun c u k => ?_)
  try dsimp only
  repeat' (first | with_reducible assumption | with_reducible apply advance_inv | with_reducible apply onGang_inv | with_reducible apply inv_foldl | with_reducible apply inv_foldl_snd | with_reducible intro _ _ _ | with_reducible intro _ _ | (with_reducible apply inv_mk; first | with_reducible assumption | with_reducible apply advance_inv | with_reducible apply onGang_inv | with_reducible apply inv_foldl | with_reducible apply inv_foldl_snd | with_reducible intro _ _ _ | with_reducible intro _ _ | split) | split)

theorem execZalakFlitReceive_inv (port : Nat) (flit : List (BitVec 8)) {s : State} (h : Inv s) : ∀ t,
    (execZalakFlitReceive port flit s) = .next t → Inv t := by
  unfold execZalakFlitReceive
  refine event_inv h _ (fun u k => ?_)
  try dsimp only
  repeat' (first | with_reducible assumption | with_reducible apply bumpDie_inv | with_reducible apply pumpDev_inv | with_reducible apply acceptFlit_inv | with_reducible apply sendFlit_inv | with_reducible apply onPort_inv | with_reducible apply inv_foldl | with_reducible apply inv_foldl_snd | with_reducible intro _ _ _ | with_reducible intro _ _ | (with_reducible apply inv_mk; first | with_reducible assumption | with_reducible apply bumpDie_inv | with_reducible apply pumpDev_inv | with_reducible apply acceptFlit_inv | with_reducible apply sendFlit_inv | with_reducible apply onPort_inv | with_reducible apply inv_foldl | with_reducible apply inv_foldl_snd | with_reducible intro _ _ _ | with_reducible intro _ _ | split) | split)

theorem execZalakReplay_inv (port : Nat) (seq : Nat) {s : State} (h : Inv s) : ∀ t, (execZalakReplay port seq s) =
    .next t → Inv t := by
  unfold execZalakReplay
  refine event_inv h _ (fun u k => ?_)
  try dsimp only
  repeat' (first | with_reducible assumption | with_reducible apply bumpDie_inv | with_reducible apply onPort_inv | with_reducible apply inv_foldl | with_reducible apply inv_foldl_snd | with_reducible intro _ _ _ | with_reducible intro _ _ | (with_reducible apply inv_mk; first | with_reducible assumption | with_reducible apply bumpDie_inv | with_reducible apply onPort_inv | with_reducible apply inv_foldl | with_reducible apply inv_foldl_snd | with_reducible intro _ _ _ | with_reducible intro _ _ | split) | split)

theorem execLinkLost_inv (port : Nat) {s : State} (h : Inv s) : ∀ t, (execLinkLost port s) = .next t → Inv t := by
  unfold execLinkLost
  refine event_inv h _ (fun u k => ?_)
  try dsimp only
  repeat' (first | with_reducible assumption | with_reducible apply loseLink_inv | with_reducible apply inv_foldl | with_reducible apply inv_foldl_snd | with_reducible intro _ _ _ | with_reducible intro _ _ | (with_reducible apply inv_mk; first | with_reducible assumption | with_reducible apply loseLink_inv | with_reducible apply inv_foldl | with_reducible apply inv_foldl_snd | with_reducible intro _ _ _ | with_reducible intro _ _ | split) | split)

theorem execAckTimeout_inv (port : Nat) {s : State} (h : Inv s) : ∀ t, (execAckTimeout port s) = .next t → Inv t := by
  unfold execAckTimeout
  refine event_inv h _ (fun u k => ?_)
  try dsimp only
  repeat' (first | with_reducible assumption | with_reducible apply loseLink_inv | with_reducible apply inv_foldl | with_reducible apply inv_foldl_snd | with_reducible intro _ _ _ | with_reducible intro _ _ | (with_reducible apply inv_mk; first | with_reducible assumption | with_reducible apply loseLink_inv | with_reducible apply inv_foldl | with_reducible apply inv_foldl_snd | with_reducible intro _ _ _ | with_reducible intro _ _ | split) | split)

theorem execPortTrainRetry_inv (_port : Nat) {s : State} (h : Inv s) : ∀ t, (execPortTrainRetry _port s) = .next t →
    Inv t := by
  unfold execPortTrainRetry
  refine event_inv h _ (fun u k => ?_)
  try dsimp only
  repeat' (first | with_reducible assumption | with_reducible apply inv_foldl | with_reducible apply inv_foldl_snd | with_reducible intro _ _ _ | with_reducible intro _ _ | (with_reducible apply inv_mk; first | with_reducible assumption | with_reducible apply inv_foldl | with_reducible apply inv_foldl_snd | with_reducible intro _ _ _ | with_reducible intro _ _ | split) | split)

theorem execPortTrained_inv (port : Nat) (cap : Bool) {s : State} (h : Inv s) : ∀ t, (execPortTrained port cap s) =
    .next t → Inv t := by
  unfold execPortTrained
  refine event_inv h _ (fun u k => ?_)
  try dsimp only
  repeat' (first | with_reducible assumption | with_reducible apply onPort_inv | with_reducible apply inv_foldl | with_reducible apply inv_foldl_snd | with_reducible intro _ _ _ | with_reducible intro _ _ | (with_reducible apply inv_mk; first | with_reducible assumption | with_reducible apply onPort_inv | with_reducible apply inv_foldl | with_reducible apply inv_foldl_snd | with_reducible intro _ _ _ | with_reducible intro _ _ | split) | split)

theorem execZalakReadRequest_inv (port : Nat) {s : State} (h : Inv s) : ∀ t, (execZalakReadRequest port s) = .next t →
    Inv t := by
  unfold execZalakReadRequest
  refine event_inv h _ (fun u k => ?_)
  try dsimp only
  repeat' (first | with_reducible assumption | with_reducible apply onRequest_inv | with_reducible apply serveStream_inv | with_reducible apply serveRead_inv | with_reducible apply answerMsg_inv | with_reducible apply inv_foldl | with_reducible apply inv_foldl_snd | with_reducible intro _ _ _ | with_reducible intro _ _ | (with_reducible apply inv_mk; first | with_reducible assumption | with_reducible apply onRequest_inv | with_reducible apply serveStream_inv | with_reducible apply serveRead_inv | with_reducible apply answerMsg_inv | with_reducible apply inv_foldl | with_reducible apply inv_foldl_snd | with_reducible intro _ _ _ | with_reducible intro _ _ | split) | split)

theorem execZalakGatherRequest_inv (port : Nat) {s : State} (h : Inv s) : ∀ t, (execZalakGatherRequest port s) = .next
    t → Inv t := by
  unfold execZalakGatherRequest
  refine event_inv h _ (fun u k => ?_)
  try dsimp only
  repeat' (first | with_reducible assumption | with_reducible apply onRequest_inv | with_reducible apply serveRead_inv | with_reducible apply answerMsg_inv | with_reducible apply inv_foldl | with_reducible apply inv_foldl_snd | with_reducible intro _ _ _ | with_reducible intro _ _ | (with_reducible apply inv_mk; first | with_reducible assumption | with_reducible apply onRequest_inv | with_reducible apply serveRead_inv | with_reducible apply answerMsg_inv | with_reducible apply inv_foldl | with_reducible apply inv_foldl_snd | with_reducible intro _ _ _ | with_reducible intro _ _ | split) | split)

theorem execZalakWriteRequest_inv (port : Nat) {s : State} (h : Inv s) : ∀ t, (execZalakWriteRequest port s) = .next t
    → Inv t := by
  unfold execZalakWriteRequest
  refine event_inv h _ (fun u k => ?_)
  try dsimp only
  repeat' (first | with_reducible assumption | with_reducible apply onRequest_inv | with_reducible apply serveWrite_inv | with_reducible apply inv_foldl | with_reducible apply inv_foldl_snd | with_reducible intro _ _ _ | with_reducible intro _ _ | (with_reducible apply inv_mk; first | with_reducible assumption | with_reducible apply onRequest_inv | with_reducible apply serveWrite_inv | with_reducible apply inv_foldl | with_reducible apply inv_foldl_snd | with_reducible intro _ _ _ | with_reducible intro _ _ | split) | split)

theorem execZalakAtomicRequest_inv (port : Nat) {s : State} (h : Inv s) : ∀ t, (execZalakAtomicRequest port s) = .next
    t → Inv t := by
  unfold execZalakAtomicRequest
  refine event_inv h _ (fun u k => ?_)
  try dsimp only
  repeat' (first | with_reducible assumption | with_reducible apply onRequest_inv | with_reducible apply serveAtomic_inv | with_reducible apply inv_foldl | with_reducible apply inv_foldl_snd | with_reducible intro _ _ _ | with_reducible intro _ _ | (with_reducible apply inv_mk; first | with_reducible assumption | with_reducible apply onRequest_inv | with_reducible apply serveAtomic_inv | with_reducible apply inv_foldl | with_reducible apply inv_foldl_snd | with_reducible intro _ _ _ | with_reducible intro _ _ | split) | split)

theorem execZalakReadData_inv (port : Nat) {s : State} (h : Inv s) : ∀ t, (execZalakReadData port s) = .next t → Inv t
    := by
  unfold execZalakReadData
  refine event_inv h _ (fun u k => ?_)
  try dsimp only
  repeat' (first | with_reducible assumption | with_reducible apply onAnswer_inv | with_reducible apply inv_foldl | with_reducible apply inv_foldl_snd | with_reducible intro _ _ _ | with_reducible intro _ _ | (with_reducible apply inv_mk; first | with_reducible assumption | with_reducible apply onAnswer_inv | with_reducible apply inv_foldl | with_reducible apply inv_foldl_snd | with_reducible intro _ _ _ | with_reducible intro _ _ | split) | split)

theorem execZalakWriteAck_inv (port : Nat) {s : State} (h : Inv s) : ∀ t, (execZalakWriteAck port s) = .next t → Inv t
    := by
  unfold execZalakWriteAck
  refine event_inv h _ (fun u k => ?_)
  try dsimp only
  repeat' (first | with_reducible assumption | with_reducible apply onAnswer_inv | with_reducible apply inv_foldl | with_reducible apply inv_foldl_snd | with_reducible intro _ _ _ | with_reducible intro _ _ | (with_reducible apply inv_mk; first | with_reducible assumption | with_reducible apply onAnswer_inv | with_reducible apply inv_foldl | with_reducible apply inv_foldl_snd | with_reducible intro _ _ _ | with_reducible intro _ _ | split) | split)

theorem execZalakAtomicResult_inv (port : Nat) {s : State} (h : Inv s) : ∀ t, (execZalakAtomicResult port s) = .next t
    → Inv t := by
  unfold execZalakAtomicResult
  refine event_inv h _ (fun u k => ?_)
  try dsimp only
  repeat' (first | with_reducible assumption | with_reducible apply onAnswer_inv | with_reducible apply inv_foldl | with_reducible apply inv_foldl_snd | with_reducible intro _ _ _ | with_reducible intro _ _ | (with_reducible apply inv_mk; first | with_reducible assumption | with_reducible apply onAnswer_inv | with_reducible apply inv_foldl | with_reducible apply inv_foldl_snd | with_reducible intro _ _ _ | with_reducible intro _ _ | split) | split)

theorem execZalakErrorResponse_inv (port : Nat) {s : State} (h : Inv s) : ∀ t, (execZalakErrorResponse port s) = .next
    t → Inv t := by
  unfold execZalakErrorResponse
  refine event_inv h _ (fun u k => ?_)
  try dsimp only
  repeat' (first | with_reducible assumption | with_reducible apply onAnswer_inv | with_reducible apply inv_foldl | with_reducible apply inv_foldl_snd | with_reducible intro _ _ _ | with_reducible intro _ _ | (with_reducible apply inv_mk; first | with_reducible assumption | with_reducible apply onAnswer_inv | with_reducible apply inv_foldl | with_reducible apply inv_foldl_snd | with_reducible intro _ _ _ | with_reducible intro _ _ | split) | split)

theorem execZalakStreamBlock_inv (port : Nat) {s : State} (h : Inv s) : ∀ t, (execZalakStreamBlock port s) = .next t →
    Inv t := by
  unfold execZalakStreamBlock
  refine event_inv h _ (fun u k => ?_)
  try dsimp only
  repeat' (first | with_reducible assumption | with_reducible apply pumpDev_inv | with_reducible apply takeAnswer_inv | with_reducible apply onPort_inv | with_reducible apply onRequest_inv | with_reducible apply serveWrite_inv | with_reducible apply countBlock_inv | with_reducible apply inv_foldl | with_reducible apply inv_foldl_snd | with_reducible intro _ _ _ | with_reducible intro _ _ | (with_reducible apply inv_mk; first | with_reducible assumption | with_reducible apply pumpDev_inv | with_reducible apply takeAnswer_inv | with_reducible apply onPort_inv | with_reducible apply onRequest_inv | with_reducible apply serveWrite_inv | with_reducible apply countBlock_inv | with_reducible apply inv_foldl | with_reducible apply inv_foldl_snd | with_reducible intro _ _ _ | with_reducible intro _ _ | split) | split)

theorem execCmp_inv (f : RRR) {s : State} (h : Inv s) : ∀ t, (execCmp f s) = .next t → Inv t := by
  unfold execCmp
  refine issue_inv _ h _ (fun c u k => ?_)
  try dsimp only
  repeat' (first | with_reducible assumption | with_reducible apply advance_inv | with_reducible apply onGang_inv | with_reducible apply inv_foldl | with_reducible apply inv_foldl_snd | with_reducible intro _ _ _ | with_reducible intro _ _ | (with_reducible apply inv_mk; first | with_reducible assumption | with_reducible apply advance_inv | with_reducible apply onGang_inv | with_reducible apply inv_foldl | with_reducible apply inv_foldl_snd | with_reducible intro _ _ _ | with_reducible intro _ _ | split) | split)

theorem execPand_inv (f : RRR) {s : State} (h : Inv s) : ∀ t, (execPand f s) = .next t → Inv t := by
  unfold execPand
  refine issue_inv _ h _ (fun c u k => ?_)
  try dsimp only
  repeat' (first | with_reducible assumption | with_reducible apply predOp_inv | with_reducible apply inv_foldl | with_reducible apply inv_foldl_snd | with_reducible intro _ _ _ | with_reducible intro _ _ | (with_reducible apply inv_mk; first | with_reducible assumption | with_reducible apply predOp_inv | with_reducible apply inv_foldl | with_reducible apply inv_foldl_snd | with_reducible intro _ _ _ | with_reducible intro _ _ | split) | split)

theorem execPor_inv (f : RRR) {s : State} (h : Inv s) : ∀ t, (execPor f s) = .next t → Inv t := by
  unfold execPor
  refine issue_inv _ h _ (fun c u k => ?_)
  try dsimp only
  repeat' (first | with_reducible assumption | with_reducible apply predOp_inv | with_reducible apply inv_foldl | with_reducible apply inv_foldl_snd | with_reducible intro _ _ _ | with_reducible intro _ _ | (with_reducible apply inv_mk; first | with_reducible assumption | with_reducible apply predOp_inv | with_reducible apply inv_foldl | with_reducible apply inv_foldl_snd | with_reducible intro _ _ _ | with_reducible intro _ _ | split) | split)

theorem execPxor_inv (f : RRR) {s : State} (h : Inv s) : ∀ t, (execPxor f s) = .next t → Inv t := by
  unfold execPxor
  refine issue_inv _ h _ (fun c u k => ?_)
  try dsimp only
  repeat' (first | with_reducible assumption | with_reducible apply predOp_inv | with_reducible apply inv_foldl | with_reducible apply inv_foldl_snd | with_reducible intro _ _ _ | with_reducible intro _ _ | (with_reducible apply inv_mk; first | with_reducible assumption | with_reducible apply predOp_inv | with_reducible apply inv_foldl | with_reducible apply inv_foldl_snd | with_reducible intro _ _ _ | with_reducible intro _ _ | split) | split)

theorem execPnot_inv (f : RRR) {s : State} (h : Inv s) : ∀ t, (execPnot f s) = .next t → Inv t := by
  unfold execPnot
  refine issue_inv _ h _ (fun c u k => ?_)
  try dsimp only
  repeat' (first | with_reducible assumption | with_reducible apply predOp_inv | with_reducible apply inv_foldl | with_reducible apply inv_foldl_snd | with_reducible intro _ _ _ | with_reducible intro _ _ | (with_reducible apply inv_mk; first | with_reducible assumption | with_reducible apply predOp_inv | with_reducible apply inv_foldl | with_reducible apply inv_foldl_snd | with_reducible intro _ _ _ | with_reducible intro _ _ | split) | split)

theorem execPmov_inv (f : RRR) {s : State} (h : Inv s) : ∀ t, (execPmov f s) = .next t → Inv t := by
  unfold execPmov
  refine issue_inv _ h _ (fun c u k => ?_)
  try dsimp only
  repeat' (first | with_reducible assumption | with_reducible apply advance_inv | with_reducible apply onGang_inv | with_reducible apply inv_foldl | with_reducible apply inv_foldl_snd | with_reducible intro _ _ _ | with_reducible intro _ _ | (with_reducible apply inv_mk; first | with_reducible assumption | with_reducible apply advance_inv | with_reducible apply onGang_inv | with_reducible apply inv_foldl | with_reducible apply inv_foldl_snd | with_reducible intro _ _ _ | with_reducible intro _ _ | split) | split)

theorem execScmp_inv (f : RRR) {s : State} (h : Inv s) : ∀ t, (execScmp f s) = .next t → Inv t := by
  unfold execScmp
  refine issue_inv _ h _ (fun c u k => ?_)
  try dsimp only
  repeat' (first | with_reducible assumption | with_reducible apply alu_inv | with_reducible apply inv_foldl | with_reducible apply inv_foldl_snd | with_reducible intro _ _ _ | with_reducible intro _ _ | (with_reducible apply inv_mk; first | with_reducible assumption | with_reducible apply alu_inv | with_reducible apply inv_foldl | with_reducible apply inv_foldl_snd | with_reducible intro _ _ _ | with_reducible intro _ _ | split) | split)

theorem execSeqb_inv (f : RRR) {s : State} (h : Inv s) : ∀ t, (execSeqb f s) = .next t → Inv t := by
  unfold execSeqb
  refine issue_inv _ h _ (fun c u k => ?_)
  try dsimp only
  repeat' (first | with_reducible assumption | with_reducible apply alu_inv | with_reducible apply inv_foldl | with_reducible apply inv_foldl_snd | with_reducible intro _ _ _ | with_reducible intro _ _ | (with_reducible apply inv_mk; first | with_reducible assumption | with_reducible apply alu_inv | with_reducible apply inv_foldl | with_reducible apply inv_foldl_snd | with_reducible intro _ _ _ | with_reducible intro _ _ | split) | split)

theorem execSfind_inv (f : RRR) {s : State} (h : Inv s) : ∀ t, (execSfind f s) = .next t → Inv t := by
  unfold execSfind
  refine issue_inv _ h _ (fun c u k => ?_)
  try dsimp only
  repeat' (first | with_reducible assumption | with_reducible apply alu_inv | with_reducible apply inv_foldl | with_reducible apply inv_foldl_snd | with_reducible intro _ _ _ | with_reducible intro _ _ | (with_reducible apply inv_mk; first | with_reducible assumption | with_reducible apply alu_inv | with_reducible apply inv_foldl | with_reducible apply inv_foldl_snd | with_reducible intro _ _ _ | with_reducible intro _ _ | split) | split)

theorem execCrc_inv (f : RRR) {s : State} (h : Inv s) : ∀ t, (execCrc f s) = .next t → Inv t := by
  unfold execCrc
  refine issue_inv _ h _ (fun c u k => ?_)
  try dsimp only
  repeat' (first | with_reducible assumption | with_reducible apply alu_inv | with_reducible apply inv_foldl | with_reducible apply inv_foldl_snd | with_reducible intro _ _ _ | with_reducible intro _ _ | (with_reducible apply inv_mk; first | with_reducible assumption | with_reducible apply alu_inv | with_reducible apply inv_foldl | with_reducible apply inv_foldl_snd | with_reducible intro _ _ _ | with_reducible intro _ _ | split) | split)

theorem execHmix_inv (f : RRR) {s : State} (h : Inv s) : ∀ t, (execHmix f s) = .next t → Inv t := by
  unfold execHmix
  refine issue_inv _ h _ (fun c u k => ?_)
  try dsimp only
  repeat' (first | with_reducible assumption | with_reducible apply alu_inv | with_reducible apply inv_foldl | with_reducible apply inv_foldl_snd | with_reducible intro _ _ _ | with_reducible intro _ _ | (with_reducible apply inv_mk; first | with_reducible assumption | with_reducible apply alu_inv | with_reducible apply inv_foldl | with_reducible apply inv_foldl_snd | with_reducible intro _ _ _ | with_reducible intro _ _ | split) | split)

theorem execBswap_inv (f : RRR) {s : State} (h : Inv s) : ∀ t, (execBswap f s) = .next t → Inv t := by
  unfold execBswap
  refine issue_inv _ h _ (fun c u k => ?_)
  try dsimp only
  repeat' (first | with_reducible assumption | with_reducible apply aluU_inv | with_reducible apply inv_foldl | with_reducible apply inv_foldl_snd | with_reducible intro _ _ _ | with_reducible intro _ _ | (with_reducible apply inv_mk; first | with_reducible assumption | with_reducible apply aluU_inv | with_reducible apply inv_foldl | with_reducible apply inv_foldl_snd | with_reducible intro _ _ _ | with_reducible intro _ _ | split) | split)

theorem execTracectlWrite_inv (v : BitVec 64) {s : State} (h : Inv s) : ∀ t, (execTracectlWrite v s) = .next t → Inv t
    := by
  unfold execTracectlWrite
  refine regEvent_inv h _ (fun u k => ?_)
  try dsimp only
  repeat' (first | with_reducible assumption | with_reducible apply writeTracectl_inv | with_reducible apply inv_foldl | with_reducible apply inv_foldl_snd | with_reducible intro _ _ _ | with_reducible intro _ _ | (with_reducible apply inv_mk; first | with_reducible assumption | with_reducible apply writeTracectl_inv | with_reducible apply inv_foldl | with_reducible apply inv_foldl_snd | with_reducible intro _ _ _ | with_reducible intro _ _ | split) | split)

theorem execBkptRelease_inv (n : Nat) (v : BitVec 32) {s : State} (h : Inv s) : ∀ t, (execBkptRelease n v s) = .next t
    → Inv t := by
  unfold execBkptRelease
  refine regEvent_inv h _ (fun u k => ?_)
  try dsimp only
  repeat' (first | with_reducible assumption | with_reducible apply writeBkptctl_inv | with_reducible apply inv_foldl | with_reducible apply inv_foldl_snd | with_reducible intro _ _ _ | with_reducible intro _ _ | (with_reducible apply inv_mk; first | with_reducible assumption | with_reducible apply writeBkptctl_inv | with_reducible apply inv_foldl | with_reducible apply inv_foldl_snd | with_reducible intro _ _ _ | with_reducible intro _ _ | split) | split)

theorem execWatchpointWrite_inv (n : Nat) (hi : Bool) (v : BitVec 64) {s : State} (h : Inv s) : ∀ t,
    (execWatchpointWrite n hi v s) = .next t → Inv t := by
  unfold execWatchpointWrite
  refine regEvent_inv h _ (fun u k => ?_)
  try dsimp only
  repeat' (first | with_reducible assumption | with_reducible apply writeWatchctl_inv | with_reducible apply writeWatchaddr_inv | with_reducible apply inv_foldl | with_reducible apply inv_foldl_snd | with_reducible intro _ _ _ | with_reducible intro _ _ | (with_reducible apply inv_mk; first | with_reducible assumption | with_reducible apply writeWatchctl_inv | with_reducible apply writeWatchaddr_inv | with_reducible apply inv_foldl | with_reducible apply inv_foldl_snd | with_reducible intro _ _ _ | with_reducible intro _ _ | split) | split)

theorem execRegisterWrite_inv (off : Nat) (v : BitVec 64) {s : State} (h : Inv s) : ∀ t, (execRegisterWrite off v s) =
    .next t → Inv t := by
  unfold execRegisterWrite
  refine regEvent_inv h _ (fun u k => ?_)
  try dsimp only
  repeat' (first | with_reducible assumption | with_reducible apply writeReg_inv | with_reducible apply inv_foldl | with_reducible apply inv_foldl_snd | with_reducible intro _ _ _ | with_reducible intro _ _ | (with_reducible apply inv_mk; first | with_reducible assumption | with_reducible apply writeReg_inv | with_reducible apply inv_foldl | with_reducible apply inv_foldl_snd | with_reducible intro _ _ _ | with_reducible intro _ _ | split) | split)

theorem execApertureRead_inv (off : Nat) (len : Nat) {s : State} (h : Inv s) : ∀ t, (execApertureRead off len s) =
    .next t → Inv t := by
  unfold execApertureRead
  refine regEvent_inv h _ (fun u k => ?_)
  try dsimp only
  repeat' (first | with_reducible assumption | with_reducible apply hostOnes_inv | with_reducible apply hostReadPeer_inv | with_reducible apply touch_inv | with_reducible apply hostGets_inv | with_reducible apply inv_foldl | with_reducible apply inv_foldl_snd | with_reducible intro _ _ _ | with_reducible intro _ _ | (with_reducible apply inv_mk; first | with_reducible assumption | with_reducible apply hostOnes_inv | with_reducible apply hostReadPeer_inv | with_reducible apply touch_inv | with_reducible apply hostGets_inv | with_reducible apply inv_foldl | with_reducible apply inv_foldl_snd | with_reducible intro _ _ _ | with_reducible intro _ _ | split) | split)

theorem execApertureWrite_inv (off : Nat) (data : List (BitVec 8)) {s : State} (h : Inv s) : ∀ t, (execApertureWrite off data s) = .next t
    → Inv t := by
  unfold execApertureWrite
  refine regEvent_inv h _ (fun u k => ?_)
  split
  · exact apErr_inv k
  · refine inv_ite (fun _ => apErr_inv k) (fun _ => ?_)
    split
    · exact inv_ite (fun _ => apErr_inv k) (fun _ => inv_getD k (fun _ e => hostSends_inv k _ _ _ e))
    · split
      · exact inv_foldl _ _ (fun t b q => touch_inv q ..) (storeBytes_inv (engPages_inv k _ _ _ _ ‹_›) ..)
      · exact k

theorem execVote_inv (f : XL) {s : State} (h : Inv s) : ∀ t, (execVote f s) = .next t → Inv t := by
  unfold execVote
  refine issue_inv _ h _ (fun c u k => ?_)
  try dsimp only
  repeat' (first | with_reducible assumption | with_reducible apply xlDone_inv | with_reducible apply inv_foldl | with_reducible apply inv_foldl_snd | with_reducible intro _ _ _ | with_reducible intro _ _ | (with_reducible apply inv_mk; first | with_reducible assumption | with_reducible apply xlDone_inv | with_reducible apply inv_foldl | with_reducible apply inv_foldl_snd | with_reducible intro _ _ _ | with_reducible intro _ _ | split) | split)

theorem execShfl_inv (f : XL) {s : State} (h : Inv s) : ∀ t, (execShfl f s) = .next t → Inv t := by
  unfold execShfl
  refine issue_inv _ h _ (fun c u k => ?_)
  try dsimp only
  repeat' (first | with_reducible assumption | with_reducible apply xlDone_inv | with_reducible apply inv_foldl | with_reducible apply inv_foldl_snd | with_reducible intro _ _ _ | with_reducible intro _ _ | (with_reducible apply inv_mk; first | with_reducible assumption | with_reducible apply xlDone_inv | with_reducible apply inv_foldl | with_reducible apply inv_foldl_snd | with_reducible intro _ _ _ | with_reducible intro _ _ | split) | split)

theorem execMatchKey_inv (f : XL) {s : State} (h : Inv s) : ∀ t, (execMatchKey f s) = .next t → Inv t := by
  unfold execMatchKey
  refine issue_inv _ h _ (fun c u k => ?_)
  try dsimp only
  repeat' (first | with_reducible assumption | with_reducible apply xlDone_inv | with_reducible apply inv_foldl | with_reducible apply inv_foldl_snd | with_reducible intro _ _ _ | with_reducible intro _ _ | (with_reducible apply inv_mk; first | with_reducible assumption | with_reducible apply xlDone_inv | with_reducible apply inv_foldl | with_reducible apply inv_foldl_snd | with_reducible intro _ _ _ | with_reducible intro _ _ | split) | split)

theorem execScan_inv (f : XL) {s : State} (h : Inv s) : ∀ t, (execScan f s) = .next t → Inv t := by
  unfold execScan
  refine issue_inv _ h _ (fun c u k => ?_)
  try dsimp only
  repeat' (first | with_reducible assumption | with_reducible apply xlDone_inv | with_reducible apply inv_foldl | with_reducible apply inv_foldl_snd | with_reducible intro _ _ _ | with_reducible intro _ _ | (with_reducible apply inv_mk; first | with_reducible assumption | with_reducible apply xlDone_inv | with_reducible apply inv_foldl | with_reducible apply inv_foldl_snd | with_reducible intro _ _ _ | with_reducible intro _ _ | split) | split)

theorem execRedi_inv (f : XL) {s : State} (h : Inv s) : ∀ t, (execRedi f s) = .next t → Inv t := by
  unfold execRedi
  refine issue_inv _ h _ (fun c u k => ?_)
  try dsimp only
  repeat' (first | with_reducible assumption | with_reducible apply xlDone_inv | with_reducible apply inv_foldl | with_reducible apply inv_foldl_snd | with_reducible intro _ _ _ | with_reducible intro _ _ | (with_reducible apply inv_mk; first | with_reducible assumption | with_reducible apply xlDone_inv | with_reducible apply inv_foldl | with_reducible apply inv_foldl_snd | with_reducible intro _ _ _ | with_reducible intro _ _ | split) | split)

theorem execRedf_inv (f : XL) {s : State} (h : Inv s) : ∀ t, (execRedf f s) = .next t → Inv t := by
  unfold execRedf
  refine issue_inv _ h _ (fun c u k => ?_)
  try dsimp only
  repeat' (first | with_reducible assumption | with_reducible apply redDone_inv | with_reducible apply inv_foldl | with_reducible apply inv_foldl_snd | with_reducible intro _ _ _ | with_reducible intro _ _ | (with_reducible apply inv_mk; first | with_reducible assumption | with_reducible apply redDone_inv | with_reducible apply inv_foldl | with_reducible apply inv_foldl_snd | with_reducible intro _ _ _ | with_reducible intro _ _ | split) | split)

theorem execRedx_inv (f : XL) {s : State} (h : Inv s) : ∀ t, (execRedx f s) = .next t → Inv t := by
  unfold execRedx
  refine issue_inv _ h _ (fun c u k => ?_)
  try dsimp only
  repeat' (first | with_reducible assumption | with_reducible apply redDone_inv | with_reducible apply inv_foldl | with_reducible apply inv_foldl_snd | with_reducible intro _ _ _ | with_reducible intro _ _ | (with_reducible apply inv_mk; first | with_reducible assumption | with_reducible apply redDone_inv | with_reducible apply inv_foldl | with_reducible apply inv_foldl_snd | with_reducible intro _ _ _ | with_reducible intro _ _ | split) | split)

theorem execSegred_inv (f : XL) {s : State} (h : Inv s) : ∀ t, (execSegred f s) = .next t → Inv t := by
  unfold execSegred
  refine issue_inv _ h _ (fun c u k => ?_)
  try dsimp only
  repeat' (first | with_reducible assumption | with_reducible apply advance_inv | with_reducible apply onGang_inv | with_reducible apply redDone_inv | with_reducible apply inv_foldl | with_reducible apply inv_foldl_snd | with_reducible intro _ _ _ | with_reducible intro _ _ | (with_reducible apply inv_mk; first | with_reducible assumption | with_reducible apply advance_inv | with_reducible apply onGang_inv | with_reducible apply redDone_inv | with_reducible apply inv_foldl | with_reducible apply inv_foldl_snd | with_reducible intro _ _ _ | with_reducible intro _ _ | split) | split)

end Sys2Proof.Machine
end

