-- ==== Sys2Proof/Laws/Meaning.lean ====
section
/-! SUPPORT. Every word instruction's meaning is a body under `issue`: what `issue` does before a body runs is said once
for all of them. -/

set_option Elab.async false

namespace Sys2Proof.Machine

theorem execBra_issue (f) (s : State) : ∃ b, exec (.bra f) s = issue (shapeOf (.bra f)) s b := by
  unfold exec execBra; exact ⟨_, rfl⟩
theorem execBrx_issue (f) (s : State) : ∃ b, exec (.brx f) s = issue (shapeOf (.brx f)) s b := by
  unfold exec execBrx; exact ⟨_, rfl⟩
theorem execCall_issue (f) (s : State) : ∃ b, exec (.call f) s = issue (shapeOf (.call f)) s b := by
  unfold exec execCall; exact ⟨_, rfl⟩
theorem execCallx_issue (f) (s : State) : ∃ b, exec (.callx f) s = issue (shapeOf (.callx f)) s b := by
  unfold exec execCallx; exact ⟨_, rfl⟩
/-- RET at depth 0 traps before any other check of its operands (R274); elsewhere it is issued as every other word. -/
theorem execRet_issue (f) (s : State) (h : (pathAt s s.cur).depth ≠ 0) : ∃ b, exec (.ret f) s = issue (shapeOf (.ret f)) s b := by
  have e : retShape f s = shapeOf (.ret f) := by
    have hd : ((pathAt s s.cur).depth != 0) = true := bne_iff_ne.mpr h
    simp only [retShape, hd, Bool.and_true]
  show ∃ b, execRet f s = _
  unfold execRet; rw [e]; exact ⟨_, rfl⟩
theorem execExit_issue (f) (s : State) : ∃ b, exec (.exit f) s = issue (shapeOf (.exit f)) s b := by
  unfold exec execExit; exact ⟨_, rfl⟩
theorem execWaitg_issue (f) (s : State) : ∃ b, exec (.waitg f) s = issue (shapeOf (.waitg f)) s b := by
  unfold exec execWaitg; exact ⟨_, rfl⟩
theorem execYieldp_issue (f) (s : State) : ∃ b, exec (.yieldp f) s = issue (shapeOf (.yieldp f)) s b := by
  unfold exec execYieldp; exact ⟨_, rfl⟩
theorem execMark_issue (f) (s : State) : ∃ b, exec (.mark f) s = issue (shapeOf (.mark f)) s b := by
  unfold exec execMark; exact ⟨_, rfl⟩
theorem execSleep_issue (f) (s : State) : ∃ b, exec (.sleep f) s = issue (shapeOf (.sleep f)) s b := by
  unfold exec execSleep; exact ⟨_, rfl⟩
theorem execLoopd_issue (f) (s : State) : ∃ b, exec (.loopd f) s = issue (shapeOf (.loopd f)) s b := by
  unfold exec execLoopd; exact ⟨_, rfl⟩
theorem execNop_issue (f) (s : State) : ∃ b, exec (.nop f) s = issue (shapeOf (.nop f)) s b := by
  unfold exec execNop; exact ⟨_, rfl⟩
theorem execAdd_issue (f) (s : State) : ∃ b, exec (.add f) s = issue (shapeOf (.add f)) s b := by
  unfold exec execAdd; exact ⟨_, rfl⟩
theorem execSub_issue (f) (s : State) : ∃ b, exec (.sub f) s = issue (shapeOf (.sub f)) s b := by
  unfold exec execSub; exact ⟨_, rfl⟩
theorem execAddc_issue (f) (s : State) : ∃ b, exec (.addc f) s = issue (shapeOf (.addc f)) s b := by
  unfold exec execAddc; exact ⟨_, rfl⟩
theorem execSubb_issue (f) (s : State) : ∃ b, exec (.subb f) s = issue (shapeOf (.subb f)) s b := by
  unfold exec execSubb; exact ⟨_, rfl⟩
theorem execMul_issue (f) (s : State) : ∃ b, exec (.mul f) s = issue (shapeOf (.mul f)) s b := by
  unfold exec execMul; exact ⟨_, rfl⟩
theorem execMulh_issue (f) (s : State) : ∃ b, exec (.mulh f) s = issue (shapeOf (.mulh f)) s b := by
  unfold exec execMulh; exact ⟨_, rfl⟩
theorem execMulw_issue (f) (s : State) : ∃ b, exec (.mulw f) s = issue (shapeOf (.mulw f)) s b := by
  unfold exec execMulw; exact ⟨_, rfl⟩
theorem execMad_issue (f) (s : State) : ∃ b, exec (.mad f) s = issue (shapeOf (.mad f)) s b := by
  unfold exec execMad; exact ⟨_, rfl⟩
theorem execDiv_issue (f) (s : State) : ∃ b, exec (.div f) s = issue (shapeOf (.div f)) s b := by
  unfold exec execDiv; exact ⟨_, rfl⟩
theorem execRem_issue (f) (s : State) : ∃ b, exec (.rem f) s = issue (shapeOf (.rem f)) s b := by
  unfold exec execRem; exact ⟨_, rfl⟩
theorem execMin_issue (f) (s : State) : ∃ b, exec (.min f) s = issue (shapeOf (.min f)) s b := by
  unfold exec execMin; exact ⟨_, rfl⟩
theorem execMax_issue (f) (s : State) : ∃ b, exec (.max f) s = issue (shapeOf (.max f)) s b := by
  unfold exec execMax; exact ⟨_, rfl⟩
theorem execAbs_issue (f) (s : State) : ∃ b, exec (.abs f) s = issue (shapeOf (.abs f)) s b := by
  unfold exec execAbs; exact ⟨_, rfl⟩
theorem execNeg_issue (f) (s : State) : ∃ b, exec (.neg f) s = issue (shapeOf (.neg f)) s b := by
  unfold exec execNeg; exact ⟨_, rfl⟩
theorem execAndr_issue (f) (s : State) : ∃ b, exec (.andr f) s = issue (shapeOf (.andr f)) s b := by
  unfold exec execAndr; exact ⟨_, rfl⟩
theorem execOrr_issue (f) (s : State) : ∃ b, exec (.orr f) s = issue (shapeOf (.orr f)) s b := by
  unfold exec execOrr; exact ⟨_, rfl⟩
theorem execXorr_issue (f) (s : State) : ∃ b, exec (.xorr f) s = issue (shapeOf (.xorr f)) s b := by
  unfold exec execXorr; exact ⟨_, rfl⟩
theorem execAndn_issue (f) (s : State) : ∃ b, exec (.andn f) s = issue (shapeOf (.andn f)) s b := by
  unfold exec execAndn; exact ⟨_, rfl⟩
theorem execNotr_issue (f) (s : State) : ∃ b, exec (.notr f) s = issue (shapeOf (.notr f)) s b := by
  unfold exec execNotr; exact ⟨_, rfl⟩
theorem execShl_issue (f) (s : State) : ∃ b, exec (.shl f) s = issue (shapeOf (.shl f)) s b := by
  unfold exec execShl; exact ⟨_, rfl⟩
theorem execShr_issue (f) (s : State) : ∃ b, exec (.shr f) s = issue (shapeOf (.shr f)) s b := by
  unfold exec execShr; exact ⟨_, rfl⟩
theorem execSar_issue (f) (s : State) : ∃ b, exec (.sar f) s = issue (shapeOf (.sar f)) s b := by
  unfold exec execSar; exact ⟨_, rfl⟩
theorem execRot_issue (f) (s : State) : ∃ b, exec (.rot f) s = issue (shapeOf (.rot f)) s b := by
  unfold exec execRot; exact ⟨_, rfl⟩
theorem execClz_issue (f) (s : State) : ∃ b, exec (.clz f) s = issue (shapeOf (.clz f)) s b := by
  unfold exec execClz; exact ⟨_, rfl⟩
theorem execPopc_issue (f) (s : State) : ∃ b, exec (.popc f) s = issue (shapeOf (.popc f)) s b := by
  unfold exec execPopc; exact ⟨_, rfl⟩
theorem execBrev_issue (f) (s : State) : ∃ b, exec (.brev f) s = issue (shapeOf (.brev f)) s b := by
  unfold exec execBrev; exact ⟨_, rfl⟩
theorem execBfe_issue (f) (s : State) : ∃ b, exec (.bfe f) s = issue (shapeOf (.bfe f)) s b := by
  unfold exec execBfe; exact ⟨_, rfl⟩
theorem execBfi_issue (f) (s : State) : ∃ b, exec (.bfi f) s = issue (shapeOf (.bfi f)) s b := by
  unfold exec execBfi; exact ⟨_, rfl⟩
theorem execSel_issue (f) (s : State) : ∃ b, exec (.sel f) s = issue (shapeOf (.sel f)) s b := by
  unfold exec execSel; exact ⟨_, rfl⟩
theorem execMov_issue (f) (s : State) : ∃ b, exec (.mov f) s = issue (shapeOf (.mov f)) s b := by
  unfold exec execMov; exact ⟨_, rfl⟩
theorem execMkaddr_issue (f) (s : State) : ∃ b, exec (.mkaddr f) s = issue (shapeOf (.mkaddr f)) s b := by
  unfold exec execMkaddr; exact ⟨_, rfl⟩
theorem execAdda_issue (f) (s : State) : ∃ b, exec (.adda f) s = issue (shapeOf (.adda f)) s b := by
  unfold exec execAdda; exact ⟨_, rfl⟩
theorem execVrdi_issue (f) (s : State) : ∃ b, exec (.vrdi f) s = issue (shapeOf (.vrdi f)) s b := by
  unfold exec execVrdi; exact ⟨_, rfl⟩
theorem execVwri_issue (f) (s : State) : ∃ b, exec (.vwri f) s = issue (shapeOf (.vwri f)) s b := by
  unfold exec execVwri; exact ⟨_, rfl⟩
theorem execVgrow_issue (f) (s : State) : ∃ b, exec (.vgrow f) s = issue (shapeOf (.vgrow f)) s b := by
  unfold exec execVgrow; exact ⟨_, rfl⟩
theorem execMoviV_issue (f) (s : State) : ∃ b, exec (.moviV f) s = issue (shapeOf (.moviV f)) s b := by
  unfold exec execMoviV; exact ⟨_, rfl⟩
theorem execMoviS_issue (f) (s : State) : ∃ b, exec (.moviS f) s = issue (shapeOf (.moviS f)) s b := by
  unfold exec execMoviS; exact ⟨_, rfl⟩
theorem execMovhV_issue (f) (s : State) : ∃ b, exec (.movhV f) s = issue (shapeOf (.movhV f)) s b := by
  unfold exec execMovhV; exact ⟨_, rfl⟩
theorem execMovhS_issue (f) (s : State) : ∃ b, exec (.movhS f) s = issue (shapeOf (.movhS f)) s b := by
  unfold exec execMovhS; exact ⟨_, rfl⟩
theorem execAddImmV_issue (f) (s : State) : ∃ b, exec (.addImmV f) s = issue (shapeOf (.addImmV f)) s b := by
  unfold exec execAddImmV; exact ⟨_, rfl⟩
theorem execAddImmS_issue (f) (s : State) : ∃ b, exec (.addImmS f) s = issue (shapeOf (.addImmS f)) s b := by
  unfold exec execAddImmS; exact ⟨_, rfl⟩
theorem execShlImmV_issue (f) (s : State) : ∃ b, exec (.shlImmV f) s = issue (shapeOf (.shlImmV f)) s b := by
  unfold exec execShlImmV; exact ⟨_, rfl⟩
theorem execShlImmS_issue (f) (s : State) : ∃ b, exec (.shlImmS f) s = issue (shapeOf (.shlImmS f)) s b := by
  unfold exec execShlImmS; exact ⟨_, rfl⟩
theorem execShrImmV_issue (f) (s : State) : ∃ b, exec (.shrImmV f) s = issue (shapeOf (.shrImmV f)) s b := by
  unfold exec execShrImmV; exact ⟨_, rfl⟩
theorem execShrImmS_issue (f) (s : State) : ∃ b, exec (.shrImmS f) s = issue (shapeOf (.shrImmS f)) s b := by
  unfold exec execShrImmS; exact ⟨_, rfl⟩
theorem execSarImmV_issue (f) (s : State) : ∃ b, exec (.sarImmV f) s = issue (shapeOf (.sarImmV f)) s b := by
  unfold exec execSarImmV; exact ⟨_, rfl⟩
theorem execSarImmS_issue (f) (s : State) : ∃ b, exec (.sarImmS f) s = issue (shapeOf (.sarImmS f)) s b := by
  unfold exec execSarImmS; exact ⟨_, rfl⟩
theorem execAndImmV_issue (f) (s : State) : ∃ b, exec (.andImmV f) s = issue (shapeOf (.andImmV f)) s b := by
  unfold exec execAndImmV; exact ⟨_, rfl⟩
theorem execAndImmS_issue (f) (s : State) : ∃ b, exec (.andImmS f) s = issue (shapeOf (.andImmS f)) s b := by
  unfold exec execAndImmS; exact ⟨_, rfl⟩
theorem execOrImmV_issue (f) (s : State) : ∃ b, exec (.orImmV f) s = issue (shapeOf (.orImmV f)) s b := by
  unfold exec execOrImmV; exact ⟨_, rfl⟩
theorem execOrImmS_issue (f) (s : State) : ∃ b, exec (.orImmS f) s = issue (shapeOf (.orImmS f)) s b := by
  unfold exec execOrImmS; exact ⟨_, rfl⟩
theorem execCmp_issue (f) (s : State) : ∃ b, exec (.cmp f) s = issue (shapeOf (.cmp f)) s b := by
  unfold exec execCmp; exact ⟨_, rfl⟩
theorem execFcmp_issue (f) (s : State) : ∃ b, exec (.fcmp f) s = issue (shapeOf (.fcmp f)) s b := by
  unfold exec execFcmp; exact ⟨_, rfl⟩
theorem execPand_issue (f) (s : State) : ∃ b, exec (.pand f) s = issue (shapeOf (.pand f)) s b := by
  unfold exec execPand; exact ⟨_, rfl⟩
theorem execPor_issue (f) (s : State) : ∃ b, exec (.por f) s = issue (shapeOf (.por f)) s b := by
  unfold exec execPor; exact ⟨_, rfl⟩
theorem execPxor_issue (f) (s : State) : ∃ b, exec (.pxor f) s = issue (shapeOf (.pxor f)) s b := by
  unfold exec execPxor; exact ⟨_, rfl⟩
theorem execPnot_issue (f) (s : State) : ∃ b, exec (.pnot f) s = issue (shapeOf (.pnot f)) s b := by
  unfold exec execPnot; exact ⟨_, rfl⟩
theorem execPmov_issue (f) (s : State) : ∃ b, exec (.pmov f) s = issue (shapeOf (.pmov f)) s b := by
  unfold exec execPmov; exact ⟨_, rfl⟩
theorem execFadd_issue (f) (s : State) : ∃ b, exec (.fadd f) s = issue (shapeOf (.fadd f)) s b := by
  unfold exec execFadd; exact ⟨_, rfl⟩
theorem execFsub_issue (f) (s : State) : ∃ b, exec (.fsub f) s = issue (shapeOf (.fsub f)) s b := by
  unfold exec execFsub; exact ⟨_, rfl⟩
theorem execFmul_issue (f) (s : State) : ∃ b, exec (.fmul f) s = issue (shapeOf (.fmul f)) s b := by
  unfold exec execFmul; exact ⟨_, rfl⟩
theorem execFmulz_issue (f) (s : State) : ∃ b, exec (.fmulz f) s = issue (shapeOf (.fmulz f)) s b := by
  unfold exec execFmulz; exact ⟨_, rfl⟩
theorem execFmin_issue (f) (s : State) : ∃ b, exec (.fmin f) s = issue (shapeOf (.fmin f)) s b := by
  unfold exec execFmin; exact ⟨_, rfl⟩
theorem execFfma_issue (f) (s : State) : ∃ b, exec (.ffma f) s = issue (shapeOf (.ffma f)) s b := by
  unfold exec execFfma; exact ⟨_, rfl⟩
theorem execFmax_issue (f) (s : State) : ∃ b, exec (.fmax f) s = issue (shapeOf (.fmax f)) s b := by
  unfold exec execFmax; exact ⟨_, rfl⟩
theorem execFdiv_issue (f) (s : State) : ∃ b, exec (.fdiv f) s = issue (shapeOf (.fdiv f)) s b := by
  unfold exec execFdiv; exact ⟨_, rfl⟩
theorem execFsqrt_issue (f) (s : State) : ∃ b, exec (.fsqrt f) s = issue (shapeOf (.fsqrt f)) s b := by
  unfold exec execFsqrt; exact ⟨_, rfl⟩
theorem execFrcp_issue (f) (s : State) : ∃ b, exec (.frcp f) s = issue (shapeOf (.frcp f)) s b := by
  unfold exec execFrcp; exact ⟨_, rfl⟩
theorem execFrsq_issue (f) (s : State) : ∃ b, exec (.frsq f) s = issue (shapeOf (.frsq f)) s b := by
  unfold exec execFrsq; exact ⟨_, rfl⟩
theorem execFexp2_issue (f) (s : State) : ∃ b, exec (.fexp2 f) s = issue (shapeOf (.fexp2 f)) s b := by
  unfold exec execFexp2; exact ⟨_, rfl⟩
theorem execFlog2_issue (f) (s : State) : ∃ b, exec (.flog2 f) s = issue (shapeOf (.flog2 f)) s b := by
  unfold exec execFlog2; exact ⟨_, rfl⟩
theorem execFrnd_issue (f) (s : State) : ∃ b, exec (.frnd f) s = issue (shapeOf (.frnd f)) s b := by
  unfold exec execFrnd; exact ⟨_, rfl⟩
theorem execFclass_issue (f) (s : State) : ∃ b, exec (.fclass f) s = issue (shapeOf (.fclass f)) s b := by
  unfold exec execFclass; exact ⟨_, rfl⟩
theorem execFaddx_issue (f) (s : State) : ∃ b, exec (.faddx f) s = issue (shapeOf (.faddx f)) s b := by
  unfold exec execFaddx; exact ⟨_, rfl⟩
theorem execFsubx_issue (f) (s : State) : ∃ b, exec (.fsubx f) s = issue (shapeOf (.fsubx f)) s b := by
  unfold exec execFsubx; exact ⟨_, rfl⟩
theorem execFmulx_issue (f) (s : State) : ∃ b, exec (.fmulx f) s = issue (shapeOf (.fmulx f)) s b := by
  unfold exec execFmulx; exact ⟨_, rfl⟩
theorem execDwadd_issue (f) (s : State) : ∃ b, exec (.dwadd f) s = issue (shapeOf (.dwadd f)) s b := by
  unfold exec execDwadd; exact ⟨_, rfl⟩
theorem execDwmul_issue (f) (s : State) : ∃ b, exec (.dwmul f) s = issue (shapeOf (.dwmul f)) s b := by
  unfold exec execDwmul; exact ⟨_, rfl⟩
theorem execDwrnd_issue (f) (s : State) : ∃ b, exec (.dwrnd f) s = issue (shapeOf (.dwrnd f)) s b := by
  unfold exec execDwrnd; exact ⟨_, rfl⟩
theorem execCvt_issue (f) (s : State) : ∃ b, exec (.cvt f) s = issue (shapeOf (.cvt f)) s b := by
  unfold exec execCvt; exact ⟨_, rfl⟩
theorem execPack_issue (f) (s : State) : ∃ b, exec (.pack f) s = issue (shapeOf (.pack f)) s b := by
  unfold exec execPack; exact ⟨_, rfl⟩
theorem execUnpack_issue (f) (s : State) : ∃ b, exec (.unpack f) s = issue (shapeOf (.unpack f)) s b := by
  unfold exec execUnpack; exact ⟨_, rfl⟩
theorem execScaleq_issue (f) (s : State) : ∃ b, exec (.scaleq f) s = issue (shapeOf (.scaleq f)) s b := by
  unfold exec execScaleq; exact ⟨_, rfl⟩
theorem execDot4_issue (f) (s : State) : ∃ b, exec (.dot4 f) s = issue (shapeOf (.dot4 f)) s b := by
  unfold exec execDot4; exact ⟨_, rfl⟩
theorem execDot8_issue (f) (s : State) : ∃ b, exec (.dot8 f) s = issue (shapeOf (.dot8 f)) s b := by
  unfold exec execDot8; exact ⟨_, rfl⟩
theorem execDotf8_issue (f) (s : State) : ∃ b, exec (.dotf8 f) s = issue (shapeOf (.dotf8 f)) s b := by
  unfold exec execDotf8; exact ⟨_, rfl⟩
theorem execXsect_issue (f) (s : State) : ∃ b, exec (.xsect f) s = issue (shapeOf (.xsect f)) s b := by
  unfold exec execXsect; exact ⟨_, rfl⟩
theorem execScmp_issue (f) (s : State) : ∃ b, exec (.scmp f) s = issue (shapeOf (.scmp f)) s b := by
  unfold exec execScmp; exact ⟨_, rfl⟩
theorem execSeqb_issue (f) (s : State) : ∃ b, exec (.seqb f) s = issue (shapeOf (.seqb f)) s b := by
  unfold exec execSeqb; exact ⟨_, rfl⟩
theorem execSfind_issue (f) (s : State) : ∃ b, exec (.sfind f) s = issue (shapeOf (.sfind f)) s b := by
  unfold exec execSfind; exact ⟨_, rfl⟩
theorem execCrc_issue (f) (s : State) : ∃ b, exec (.crc f) s = issue (shapeOf (.crc f)) s b := by
  unfold exec execCrc; exact ⟨_, rfl⟩
theorem execHmix_issue (f) (s : State) : ∃ b, exec (.hmix f) s = issue (shapeOf (.hmix f)) s b := by
  unfold exec execHmix; exact ⟨_, rfl⟩
theorem execBswap_issue (f) (s : State) : ∃ b, exec (.bswap f) s = issue (shapeOf (.bswap f)) s b := by
  unfold exec execBswap; exact ⟨_, rfl⟩
theorem execLdV_issue (f) (s : State) : ∃ b, exec (.ldV f) s = issue (shapeOf (.ldV f)) s b := by
  unfold exec execLdV; exact ⟨_, rfl⟩
theorem execLdS_issue (f) (s : State) : ∃ b, exec (.ldS f) s = issue (shapeOf (.ldS f)) s b := by
  unfold exec execLdS; exact ⟨_, rfl⟩
theorem execStV_issue (f) (s : State) : ∃ b, exec (.stV f) s = issue (shapeOf (.stV f)) s b := by
  unfold exec execStV; exact ⟨_, rfl⟩
theorem execStS_issue (f) (s : State) : ∃ b, exec (.stS f) s = issue (shapeOf (.stS f)) s b := by
  unfold exec execStS; exact ⟨_, rfl⟩
theorem execLdc_issue (f) (s : State) : ∃ b, exec (.ldc f) s = issue (shapeOf (.ldc f)) s b := by
  unfold exec execLdc; exact ⟨_, rfl⟩
theorem execPrefV_issue (f) (s : State) : ∃ b, exec (.prefV f) s = issue (shapeOf (.prefV f)) s b := by
  unfold exec execPrefV; exact ⟨_, rfl⟩
theorem execPrefS_issue (f) (s : State) : ∃ b, exec (.prefS f) s = issue (shapeOf (.prefS f)) s b := by
  unfold exec execPrefS; exact ⟨_, rfl⟩
theorem execAadd_issue (f) (s : State) : ∃ b, exec (.aadd f) s = issue (shapeOf (.aadd f)) s b := by
  unfold exec execAadd; exact ⟨_, rfl⟩
theorem execAmin_issue (f) (s : State) : ∃ b, exec (.amin f) s = issue (shapeOf (.amin f)) s b := by
  unfold exec execAmin; exact ⟨_, rfl⟩
theorem execAmax_issue (f) (s : State) : ∃ b, exec (.amax f) s = issue (shapeOf (.amax f)) s b := by
  unfold exec execAmax; exact ⟨_, rfl⟩
theorem execAand_issue (f) (s : State) : ∃ b, exec (.aand f) s = issue (shapeOf (.aand f)) s b := by
  unfold exec execAand; exact ⟨_, rfl⟩
theorem execAor_issue (f) (s : State) : ∃ b, exec (.aor f) s = issue (shapeOf (.aor f)) s b := by
  unfold exec execAor; exact ⟨_, rfl⟩
theorem execAxor_issue (f) (s : State) : ∃ b, exec (.axor f) s = issue (shapeOf (.axor f)) s b := by
  unfold exec execAxor; exact ⟨_, rfl⟩
theorem execAxchg_issue (f) (s : State) : ∃ b, exec (.axchg f) s = issue (shapeOf (.axchg f)) s b := by
  unfold exec execAxchg; exact ⟨_, rfl⟩
theorem execAcas_issue (f) (s : State) : ∃ b, exec (.acas f) s = issue (shapeOf (.acas f)) s b := by
  unfold exec execAcas; exact ⟨_, rfl⟩
theorem execAcas2_issue (f) (s : State) : ∃ b, exec (.acas2 f) s = issue (shapeOf (.acas2 f)) s b := by
  unfold exec execAcas2; exact ⟨_, rfl⟩
theorem execAfadd_issue (f) (s : State) : ∃ b, exec (.afadd f) s = issue (shapeOf (.afadd f)) s b := by
  unfold exec execAfadd; exact ⟨_, rfl⟩
theorem execAmaxe_issue (f) (s : State) : ∃ b, exec (.amaxe f) s = issue (shapeOf (.amaxe f)) s b := by
  unfold exec execAmaxe; exact ⟨_, rfl⟩
theorem execFence_issue (f) (s : State) : ∃ b, exec (.fence f) s = issue (shapeOf (.fence f)) s b := by
  unfold exec execFence; exact ⟨_, rfl⟩
theorem execPin_issue (f) (s : State) : ∃ b, exec (.pin f) s = issue (shapeOf (.pin f)) s b := by
  unfold exec execPin; exact ⟨_, rfl⟩
theorem execUnpin_issue (f) (s : State) : ∃ b, exec (.unpin f) s = issue (shapeOf (.unpin f)) s b := by
  unfold exec execUnpin; exact ⟨_, rfl⟩
theorem execReclaim_issue (f) (s : State) : ∃ b, exec (.reclaim f) s = issue (shapeOf (.reclaim f)) s b := by
  unfold exec execReclaim; exact ⟨_, rfl⟩
theorem execHarvest_issue (f) (s : State) : ∃ b, exec (.harvest f) s = issue (shapeOf (.harvest f)) s b := by
  unfold exec execHarvest; exact ⟨_, rfl⟩
theorem execTlbinv_issue (f) (s : State) : ∃ b, exec (.tlbinv f) s = issue (shapeOf (.tlbinv f)) s b := by
  unfold exec execTlbinv; exact ⟨_, rfl⟩
theorem execVote_issue (f) (s : State) : ∃ b, exec (.vote f) s = issue (shapeOf (.vote f)) s b := by
  unfold exec execVote; exact ⟨_, rfl⟩
theorem execShfl_issue (f) (s : State) : ∃ b, exec (.shfl f) s = issue (shapeOf (.shfl f)) s b := by
  unfold exec execShfl; exact ⟨_, rfl⟩
theorem execMatchKey_issue (f) (s : State) : ∃ b, exec (.matchKey f) s = issue (shapeOf (.matchKey f)) s b := by
  unfold exec execMatchKey; exact ⟨_, rfl⟩
theorem execScan_issue (f) (s : State) : ∃ b, exec (.scan f) s = issue (shapeOf (.scan f)) s b := by
  unfold exec execScan; exact ⟨_, rfl⟩
theorem execRedi_issue (f) (s : State) : ∃ b, exec (.redi f) s = issue (shapeOf (.redi f)) s b := by
  unfold exec execRedi; exact ⟨_, rfl⟩
theorem execRedf_issue (f) (s : State) : ∃ b, exec (.redf f) s = issue (shapeOf (.redf f)) s b := by
  unfold exec execRedf; exact ⟨_, rfl⟩
theorem execRedx_issue (f) (s : State) : ∃ b, exec (.redx f) s = issue (shapeOf (.redx f)) s b := by
  unfold exec execRedx; exact ⟨_, rfl⟩
theorem execSegred_issue (f) (s : State) : ∃ b, exec (.segred f) s = issue (shapeOf (.segred f)) s b := by
  unfold exec execSegred; exact ⟨_, rfl⟩
theorem execBinit_issue (f) (s : State) : ∃ b, exec (.binit f) s = issue (shapeOf (.binit f)) s b := by
  unfold exec execBinit; exact ⟨_, rfl⟩
theorem execBjoin_issue (f) (s : State) : ∃ b, exec (.bjoin f) s = issue (shapeOf (.bjoin f)) s b := by
  unfold exec execBjoin; exact ⟨_, rfl⟩
theorem execBleave_issue (f) (s : State) : ∃ b, exec (.bleave f) s = issue (shapeOf (.bleave f)) s b := by
  unfold exec execBleave; exact ⟨_, rfl⟩
theorem execBarv_issue (f) (s : State) : ∃ b, exec (.barv f) s = issue (shapeOf (.barv f)) s b := by
  unfold exec execBarv; exact ⟨_, rfl⟩
theorem execBarw_issue (f) (s : State) : ∃ b, exec (.barw f) s = issue (shapeOf (.barw f)) s b := by
  unfold exec execBarw; exact ⟨_, rfl⟩
theorem execBaraw_issue (f) (s : State) : ∃ b, exec (.baraw f) s = issue (shapeOf (.baraw f)) s b := by
  unfold exec execBaraw; exact ⟨_, rfl⟩
theorem execBatch_issue (f) (s : State) : ∃ b, exec (.batch f) s = issue (shapeOf (.batch f)) s b := by
  unfold exec execBatch; exact ⟨_, rfl⟩
theorem execBwait_issue (f) (s : State) : ∃ b, exec (.bwait f) s = issue (shapeOf (.bwait f)) s b := by
  unfold exec execBwait; exact ⟨_, rfl⟩
theorem execGadde_issue (f) (s : State) : ∃ b, exec (.gadde f) s = issue (shapeOf (.gadde f)) s b := by
  unfold exec execGadde; exact ⟨_, rfl⟩
theorem execGdele_issue (f) (s : State) : ∃ b, exec (.gdele f) s = issue (shapeOf (.gdele f)) s b := by
  unfold exec execGdele; exact ⟨_, rfl⟩
theorem execGsete_issue (f) (s : State) : ∃ b, exec (.gsete f) s = issue (shapeOf (.gsete f)) s b := by
  unfold exec execGsete; exact ⟨_, rfl⟩
theorem execGlde_issue (f) (s : State) : ∃ b, exec (.glde f) s = issue (shapeOf (.glde f)) s b := by
  unfold exec execGlde; exact ⟨_, rfl⟩
theorem execGfind_issue (f) (s : State) : ∃ b, exec (.gfind f) s = issue (shapeOf (.gfind f)) s b := by
  unfold exec execGfind; exact ⟨_, rfl⟩
theorem execGdeg_issue (f) (s : State) : ∃ b, exec (.gdeg f) s = issue (shapeOf (.gdeg f)) s b := by
  unfold exec execGdeg; exact ⟨_, rfl⟩
theorem execGver_issue (f) (s : State) : ∃ b, exec (.gver f) s = issue (shapeOf (.gver f)) s b := by
  unfold exec execGver; exact ⟨_, rfl⟩
theorem execGldv_issue (f) (s : State) : ∃ b, exec (.gldv f) s = issue (shapeOf (.gldv f)) s b := by
  unfold exec execGldv; exact ⟨_, rfl⟩
theorem execGstv_issue (f) (s : State) : ∃ b, exec (.gstv f) s = issue (shapeOf (.gstv f)) s b := by
  unfold exec execGstv; exact ⟨_, rfl⟩
theorem execGopen_issue (f) (s : State) : ∃ b, exec (.gopen f) s = issue (shapeOf (.gopen f)) s b := by
  unfold exec execGopen; exact ⟨_, rfl⟩
theorem execGnext_issue (f) (s : State) : ∃ b, exec (.gnext f) s = issue (shapeOf (.gnext f)) s b := by
  unfold exec execGnext; exact ⟨_, rfl⟩
theorem execGskip_issue (f) (s : State) : ∃ b, exec (.gskip f) s = issue (shapeOf (.gskip f)) s b := by
  unfold exec execGskip; exact ⟨_, rfl⟩
theorem execGpos_issue (f) (s : State) : ∃ b, exec (.gpos f) s = issue (shapeOf (.gpos f)) s b := by
  unfold exec execGpos; exact ⟨_, rfl⟩
theorem execGclose_issue (f) (s : State) : ∃ b, exec (.gclose f) s = issue (shapeOf (.gclose f)) s b := by
  unfold exec execGclose; exact ⟨_, rfl⟩
theorem execCpasync_issue (f) (s : State) : ∃ b, exec (.cpasync f) s = issue (shapeOf (.cpasync f)) s b := by
  unfold exec execCpasync; exact ⟨_, rfl⟩
theorem execCpasyncDec_issue (f) (s : State) : ∃ b, exec (.cpasyncDec f) s = issue (shapeOf (.cpasyncDec f)) s b := by
  unfold exec execCpasyncDec; exact ⟨_, rfl⟩
theorem execWbind_issue (f) (s : State) : ∃ b, exec (.wbind f) s = issue (shapeOf (.wbind f)) s b := by
  unfold exec execWbind; exact ⟨_, rfl⟩
theorem execWunbind_issue (f) (s : State) : ∃ b, exec (.wunbind f) s = issue (shapeOf (.wunbind f)) s b := by
  unfold exec execWunbind; exact ⟨_, rfl⟩
theorem execXformCopy2d_issue (f) (s : State) : ∃ b, exec (.xformCopy2d f) s = issue (shapeOf (.xformCopy2d f)) s b := by
  unfold exec execXformCopy2d; exact ⟨_, rfl⟩
theorem execXformTranspose_issue (f) (s : State) : ∃ b, exec (.xformTranspose f) s = issue (shapeOf (.xformTranspose f)) s b := by
  unfold exec execXformTranspose; exact ⟨_, rfl⟩
theorem execXformConvert_issue (f) (s : State) : ∃ b, exec (.xformConvert f) s = issue (shapeOf (.xformConvert f)) s b := by
  unfold exec execXformConvert; exact ⟨_, rfl⟩
theorem execXformExpand_issue (f) (s : State) : ∃ b, exec (.xformExpand f) s = issue (shapeOf (.xformExpand f)) s b := by
  unfold exec execXformExpand; exact ⟨_, rfl⟩
theorem execXformCsr2spr_issue (f) (s : State) : ∃ b, exec (.xformCsr2spr f) s = issue (shapeOf (.xformCsr2spr f)) s b := by
  unfold exec execXformCsr2spr; exact ⟨_, rfl⟩
theorem execXformCrc_issue (f) (s : State) : ∃ b, exec (.xformCrc f) s = issue (shapeOf (.xformCrc f)) s b := by
  unfold exec execXformCrc; exact ⟨_, rfl⟩
theorem execMpass_issue (f) (s : State) : ∃ b, exec (.mpass f) s = issue (shapeOf (.mpass f)) s b := by
  unfold exec execMpass; exact ⟨_, rfl⟩
theorem execMquery_issue (f) (s : State) : ∃ b, exec (.mquery f) s = issue (shapeOf (.mquery f)) s b := by
  unfold exec execMquery; exact ⟨_, rfl⟩
theorem execAzero_issue (f) (s : State) : ∃ b, exec (.azero f) s = issue (shapeOf (.azero f)) s b := by
  unfold exec execAzero; exact ⟨_, rfl⟩
theorem execAdrainT_issue (f) (s : State) : ∃ b, exec (.adrainT f) s = issue (shapeOf (.adrainT f)) s b := by
  unfold exec execAdrainT; exact ⟨_, rfl⟩
theorem execAdrainPlain_issue (f) (s : State) : ∃ b, exec (.adrainPlain f) s = issue (shapeOf (.adrainPlain f)) s b := by
  unfold exec execAdrainPlain; exact ⟨_, rfl⟩
theorem execAfillT_issue (f) (s : State) : ∃ b, exec (.afillT f) s = issue (shapeOf (.afillT f)) s b := by
  unfold exec execAfillT; exact ⟨_, rfl⟩
theorem execAfillPlain_issue (f) (s : State) : ∃ b, exec (.afillPlain f) s = issue (shapeOf (.afillPlain f)) s b := by
  unfold exec execAfillPlain; exact ⟨_, rfl⟩
theorem execTxv_issue (f) (s : State) : ∃ b, exec (.txv f) s = issue (shapeOf (.txv f)) s b := by
  unfold exec execTxv; exact ⟨_, rfl⟩
theorem execVxt_issue (f) (s : State) : ∃ b, exec (.vxt f) s = issue (shapeOf (.vxt f)) s b := by
  unfold exec execVxt; exact ⟨_, rfl⟩
theorem execLaunch_issue (f) (s : State) : ∃ b, exec (.launch f) s = issue (shapeOf (.launch f)) s b := by
  unfold exec execLaunch; exact ⟨_, rfl⟩
theorem execSysr_issue (f) (s : State) : ∃ b, exec (.sysr f) s = issue (shapeOf (.sysr f)) s b := by
  unfold exec execSysr; exact ⟨_, rfl⟩
theorem execSysw_issue (f) (s : State) : ∃ b, exec (.sysw f) s = issue (shapeOf (.sysw f)) s b := by
  unfold exec execSysw; exact ⟨_, rfl⟩
theorem execTrap_issue (f) (s : State) : ∃ b, exec (.trap f) s = issue (shapeOf (.trap f)) s b := by
  unfold exec execTrap; exact ⟨_, rfl⟩
theorem execBrk_issue (f) (s : State) : ∃ b, exec (.brk f) s = issue (shapeOf (.brk f)) s b := by
  unfold exec execBrk; exact ⟨_, rfl⟩
theorem execRett_issue (f) (s : State) : ∃ b, exec (.rett f) s = issue (shapeOf (.rett f)) s b := by
  unfold exec execRett; exact ⟨_, rfl⟩
theorem execRettSkip_issue (f) (s : State) : ∃ b, exec (.rettSkip f) s = issue (shapeOf (.rettSkip f)) s b := by
  unfold exec execRettSkip; exact ⟨_, rfl⟩
theorem execRettKill_issue (f) (s : State) : ∃ b, exec (.rettKill f) s = issue (shapeOf (.rettKill f)) s b := by
  unfold exec execRettKill; exact ⟨_, rfl⟩
theorem execRettKillg_issue (f) (s : State) : ∃ b, exec (.rettKillg f) s = issue (shapeOf (.rettKillg f)) s b := by
  unfold exec execRettKillg; exact ⟨_, rfl⟩
theorem execRettSel_issue (f) (s : State) : ∃ b, exec (.rettSel f) s = issue (shapeOf (.rettSel f)) s b := by
  unfold exec execRettSel; exact ⟨_, rfl⟩
theorem execMappg_issue (f) (s : State) : ∃ b, exec (.mappg f) s = issue (shapeOf (.mappg f)) s b := by
  unfold exec execMappg; exact ⟨_, rfl⟩
theorem execObjnew_issue (f) (s : State) : ∃ b, exec (.objnew f) s = issue (shapeOf (.objnew f)) s b := by
  unfold exec execObjnew; exact ⟨_, rfl⟩
theorem execObjsetSize_issue (f) (s : State) : ∃ b, exec (.objsetSize f) s = issue (shapeOf (.objsetSize f)) s b := by
  unfold exec execObjsetSize; exact ⟨_, rfl⟩
theorem execObjsetPerm_issue (f) (s : State) : ∃ b, exec (.objsetPerm f) s = issue (shapeOf (.objsetPerm f)) s b := by
  unfold exec execObjsetPerm; exact ⟨_, rfl⟩
theorem execObjsetCtab_issue (f) (s : State) : ∃ b, exec (.objsetCtab f) s = issue (shapeOf (.objsetCtab f)) s b := by
  unfold exec execObjsetCtab; exact ⟨_, rfl⟩
theorem execObjsetUnpois_issue (f) (s : State) : ∃ b, exec (.objsetUnpois f) s = issue (shapeOf (.objsetUnpois f)) s b := by
  unfold exec execObjsetUnpois; exact ⟨_, rfl⟩
theorem execObjsetDirty_issue (f) (s : State) : ∃ b, exec (.objsetDirty f) s = issue (shapeOf (.objsetDirty f)) s b := by
  unfold exec execObjsetDirty; exact ⟨_, rfl⟩
theorem execCtrrd_issue (f) (s : State) : ∃ b, exec (.ctrrd f) s = issue (shapeOf (.ctrrd f)) s b := by
  unfold exec execCtrrd; exact ⟨_, rfl⟩

/-- Every instruction that a word encodes runs its body under `issue`. -/
theorem exec_issue (i : Instr) (s : State) (h : encode i ≠ none) (hr : ∀ f, i = .ret f → (pathAt s s.cur).depth ≠ 0) : ∃ b, exec i s = issue (shapeOf i) s b := by
  cases i with
  | bra f => exact execBra_issue f s
  | brx f => exact execBrx_issue f s
  | call f => exact execCall_issue f s
  | callx f => exact execCallx_issue f s
  | ret f => exact execRet_issue f s (hr f rfl)
  | exit f => exact execExit_issue f s
  | waitg f => exact execWaitg_issue f s
  | yieldp f => exact execYieldp_issue f s
  | mark f => exact execMark_issue f s
  | sleep f => exact execSleep_issue f s
  | loopd f => exact execLoopd_issue f s
  | nop f => exact execNop_issue f s
  | add f => exact execAdd_issue f s
  | sub f => exact execSub_issue f s
  | addc f => exact execAddc_issue f s
  | subb f => exact execSubb_issue f s
  | mul f => exact execMul_issue f s
  | mulh f => exact execMulh_issue f s
  | mulw f => exact execMulw_issue f s
  | mad f => exact execMad_issue f s
  | div f => exact execDiv_issue f s
  | rem f => exact execRem_issue f s
  | min f => exact execMin_issue f s
  | max f => exact execMax_issue f s
  | abs f => exact execAbs_issue f s
  | neg f => exact execNeg_issue f s
  | andr f => exact execAndr_issue f s
  | orr f => exact execOrr_issue f s
  | xorr f => exact execXorr_issue f s
  | andn f => exact execAndn_issue f s
  | notr f => exact execNotr_issue f s
  | shl f => exact execShl_issue f s
  | shr f => exact execShr_issue f s
  | sar f => exact execSar_issue f s
  | rot f => exact execRot_issue f s
  | clz f => exact execClz_issue f s
  | popc f => exact execPopc_issue f s
  | brev f => exact execBrev_issue f s
  | bfe f => exact execBfe_issue f s
  | bfi f => exact execBfi_issue f s
  | sel f => exact execSel_issue f s
  | mov f => exact execMov_issue f s
  | mkaddr f => exact execMkaddr_issue f s
  | adda f => exact execAdda_issue f s
  | vrdi f => exact execVrdi_issue f s
  | vwri f => exact execVwri_issue f s
  | vgrow f => exact execVgrow_issue f s
  | moviV f => exact execMoviV_issue f s
  | moviS f => exact execMoviS_issue f s
  | movhV f => exact execMovhV_issue f s
  | movhS f => exact execMovhS_issue f s
  | addImmV f => exact execAddImmV_issue f s
  | addImmS f => exact execAddImmS_issue f s
  | shlImmV f => exact execShlImmV_issue f s
  | shlImmS f => exact execShlImmS_issue f s
  | shrImmV f => exact execShrImmV_issue f s
  | shrImmS f => exact execShrImmS_issue f s
  | sarImmV f => exact execSarImmV_issue f s
  | sarImmS f => exact execSarImmS_issue f s
  | andImmV f => exact execAndImmV_issue f s
  | andImmS f => exact execAndImmS_issue f s
  | orImmV f => exact execOrImmV_issue f s
  | orImmS f => exact execOrImmS_issue f s
  | cmp f => exact execCmp_issue f s
  | fcmp f => exact execFcmp_issue f s
  | pand f => exact execPand_issue f s
  | por f => exact execPor_issue f s
  | pxor f => exact execPxor_issue f s
  | pnot f => exact execPnot_issue f s
  | pmov f => exact execPmov_issue f s
  | fadd f => exact execFadd_issue f s
  | fsub f => exact execFsub_issue f s
  | fmul f => exact execFmul_issue f s
  | fmulz f => exact execFmulz_issue f s
  | fmin f => exact execFmin_issue f s
  | ffma f => exact execFfma_issue f s
  | fmax f => exact execFmax_issue f s
  | fdiv f => exact execFdiv_issue f s
  | fsqrt f => exact execFsqrt_issue f s
  | frcp f => exact execFrcp_issue f s
  | frsq f => exact execFrsq_issue f s
  | fexp2 f => exact execFexp2_issue f s
  | flog2 f => exact execFlog2_issue f s
  | frnd f => exact execFrnd_issue f s
  | fclass f => exact execFclass_issue f s
  | faddx f => exact execFaddx_issue f s
  | fsubx f => exact execFsubx_issue f s
  | fmulx f => exact execFmulx_issue f s
  | dwadd f => exact execDwadd_issue f s
  | dwmul f => exact execDwmul_issue f s
  | dwrnd f => exact execDwrnd_issue f s
  | cvt f => exact execCvt_issue f s
  | pack f => exact execPack_issue f s
  | unpack f => exact execUnpack_issue f s
  | scaleq f => exact execScaleq_issue f s
  | dot4 f => exact execDot4_issue f s
  | dot8 f => exact execDot8_issue f s
  | dotf8 f => exact execDotf8_issue f s
  | xsect f => exact execXsect_issue f s
  | scmp f => exact execScmp_issue f s
  | seqb f => exact execSeqb_issue f s
  | sfind f => exact execSfind_issue f s
  | crc f => exact execCrc_issue f s
  | hmix f => exact execHmix_issue f s
  | bswap f => exact execBswap_issue f s
  | ldV f => exact execLdV_issue f s
  | ldS f => exact execLdS_issue f s
  | stV f => exact execStV_issue f s
  | stS f => exact execStS_issue f s
  | ldc f => exact execLdc_issue f s
  | prefV f => exact execPrefV_issue f s
  | prefS f => exact execPrefS_issue f s
  | aadd f => exact execAadd_issue f s
  | amin f => exact execAmin_issue f s
  | amax f => exact execAmax_issue f s
  | aand f => exact execAand_issue f s
  | aor f => exact execAor_issue f s
  | axor f => exact execAxor_issue f s
  | axchg f => exact execAxchg_issue f s
  | acas f => exact execAcas_issue f s
  | acas2 f => exact execAcas2_issue f s
  | afadd f => exact execAfadd_issue f s
  | amaxe f => exact execAmaxe_issue f s
  | fence f => exact execFence_issue f s
  | pin f => exact execPin_issue f s
  | unpin f => exact execUnpin_issue f s
  | reclaim f => exact execReclaim_issue f s
  | harvest f => exact execHarvest_issue f s
  | tlbinv f => exact execTlbinv_issue f s
  | vote f => exact execVote_issue f s
  | shfl f => exact execShfl_issue f s
  | matchKey f => exact execMatchKey_issue f s
  | scan f => exact execScan_issue f s
  | redi f => exact execRedi_issue f s
  | redf f => exact execRedf_issue f s
  | redx f => exact execRedx_issue f s
  | segred f => exact execSegred_issue f s
  | binit f => exact execBinit_issue f s
  | bjoin f => exact execBjoin_issue f s
  | bleave f => exact execBleave_issue f s
  | barv f => exact execBarv_issue f s
  | barw f => exact execBarw_issue f s
  | baraw f => exact execBaraw_issue f s
  | batch f => exact execBatch_issue f s
  | bwait f => exact execBwait_issue f s
  | gadde f => exact execGadde_issue f s
  | gdele f => exact execGdele_issue f s
  | gsete f => exact execGsete_issue f s
  | glde f => exact execGlde_issue f s
  | gfind f => exact execGfind_issue f s
  | gdeg f => exact execGdeg_issue f s
  | gver f => exact execGver_issue f s
  | gldv f => exact execGldv_issue f s
  | gstv f => exact execGstv_issue f s
  | gopen f => exact execGopen_issue f s
  | gnext f => exact execGnext_issue f s
  | gskip f => exact execGskip_issue f s
  | gpos f => exact execGpos_issue f s
  | gclose f => exact execGclose_issue f s
  | cpasync f => exact execCpasync_issue f s
  | cpasyncDec f => exact execCpasyncDec_issue f s
  | wbind f => exact execWbind_issue f s
  | wunbind f => exact execWunbind_issue f s
  | xformCopy2d f => exact execXformCopy2d_issue f s
  | xformTranspose f => exact execXformTranspose_issue f s
  | xformConvert f => exact execXformConvert_issue f s
  | xformExpand f => exact execXformExpand_issue f s
  | xformCsr2spr f => exact execXformCsr2spr_issue f s
  | xformCrc f => exact execXformCrc_issue f s
  | mpass f => exact execMpass_issue f s
  | mquery f => exact execMquery_issue f s
  | azero f => exact execAzero_issue f s
  | adrainT f => exact execAdrainT_issue f s
  | adrainPlain f => exact execAdrainPlain_issue f s
  | afillT f => exact execAfillT_issue f s
  | afillPlain f => exact execAfillPlain_issue f s
  | txv f => exact execTxv_issue f s
  | vxt f => exact execVxt_issue f s
  | launch f => exact execLaunch_issue f s
  | sysr f => exact execSysr_issue f s
  | sysw f => exact execSysw_issue f s
  | trap f => exact execTrap_issue f s
  | brk f => exact execBrk_issue f s
  | rett f => exact execRett_issue f s
  | rettSkip f => exact execRettSkip_issue f s
  | rettKill f => exact execRettKill_issue f s
  | rettKillg f => exact execRettKillg_issue f s
  | rettSel f => exact execRettSel_issue f s
  | mappg f => exact execMappg_issue f s
  | objnew f => exact execObjnew_issue f s
  | objsetSize f => exact execObjsetSize_issue f s
  | objsetPerm f => exact execObjsetPerm_issue f s
  | objsetCtab f => exact execObjsetCtab_issue f s
  | objsetUnpois f => exact execObjsetUnpois_issue f s
  | objsetDirty f => exact execObjsetDirty_issue f s
  | ctrrd f => exact execCtrrd_issue f s
  | clauseFetch f => exact absurd rfl h
  | handlerVector f => exact absurd rfl h
  | hostServiceRequest => exact absurd rfl h
  | activeSetSwap f => exact absurd rfl h
  | pathUrgent f => exact absurd rfl h
  | sleepExpire f => exact absurd rfl h
  | lensSample f => exact absurd rfl h
  | longLatencyComplete f => exact absurd rfl h
  | graphOpComplete f => exact absurd rfl h
  | graphMutationCommit f => exact absurd rfl h
  | graphSweep f => exact absurd rfl h
  | gangRetire f => exact absurd rfl h
  | crewSlotRelease f => exact absurd rfl h
  | vgrowGrant f => exact absurd rfl h
  | growthDeadlockBreak f => exact absurd rfl h
  | priorityPreempt => exact absurd rfl h
  | drainComplete f => exact absurd rfl h
  | crewPlace => exact absurd rfl h
  | crewResume f => exact absurd rfl h
  | launchPortWrite f => exact absurd rfl h
  | launchAccept f => exact absurd rfl h
  | waitCountPoll => exact absurd rfl h
  | svcfullTimeout => exact absurd rfl h
  | rangeLockAcquire f => exact absurd rfl h
  | copyComplete f => exact absurd rfl h
  | windowFillComplete f => exact absurd rfl h
  | windowScatterComplete f => exact absurd rfl h
  | prismTransformComplete f => exact absurd rfl h
  | matrixGrant f => exact absurd rfl h
  | passComplete f => exact absurd rfl h
  | tileOpPerform f => exact absurd rfl h
  | reclaimSearch f => exact absurd rfl h
  | dirtyFlushTimeout f => exact absurd rfl h
  | shootdownComplete f => exact absurd rfl h
  | harvestComplete f => exact absurd rfl h
  | pagerMap f => exact absurd rfl h
  | migrationEnd f => exact absurd rfl h
  | migreqWrite f => exact absurd rfl h
  | hsanswerWrite f => exact absurd rfl h
  | shootWrite f => exact absurd rfl h
  | objtbaseWrite f => exact absurd rfl h
  | objtcntWrite f => exact absurd rfl h
  | pinovfWrite f => exact absurd rfl h
  | savepoolWrite f => exact absurd rfl h
  | feataccWrite f => exact absurd rfl h
  | launchenWrite f => exact absurd rfl h
  | handlerInstallWrite f => exact absurd rfl h
  | clkceilWrite f => exact absurd rfl h
  | pwrcapWrite f => exact absurd rfl h
  | clockStepChange => exact absurd rfl h
  | thermalDemandRise f => exact absurd rfl h
  | thermalDemandFall f => exact absurd rfl h
  | powerDemandRise f => exact absurd rfl h
  | powerDemandFall f => exact absurd rfl h
  | thermalTrip f => exact absurd rfl h
  | railsGood => exact absurd rfl h
  | bootImageCheck f => exact absurd rfl h
  | fwloadCheckStart => exact absurd rfl h
  | fwloadCheckWriteStart => exact absurd rfl h
  | fwCheckDone f => exact absurd rfl h
  | perstDeassert => exact absurd rfl h
  | dieTrained f => exact absurd rfl h
  | dieTrainFail f => exact absurd rfl h
  | hostReset => exact absurd rfl h
  | coldReset => exact absurd rfl h
  | attreqWrite f => exact absurd rfl h
  | attestReportDone => exact absurd rfl h
  | checkpointSaveGo f => exact absurd rfl h
  | checkpointSaveDone => exact absurd rfl h
  | checkpointRestoreGo f => exact absurd rfl h
  | checkpointRestoreDone => exact absurd rfl h
  | scanTestStart f => exact absurd rfl h
  | scanTestDone f => exact absurd rfl h
  | uncorrectableError f => exact absurd rfl h
  | correctableError f => exact absurd rfl h
  | tracectlWrite f => exact absurd rfl h
  | bkptRelease f => exact absurd rfl h
  | watchpointWrite f => exact absurd rfl h
  | apertureRead f => exact absurd rfl h
  | apertureWrite f => exact absurd rfl h
  | registerWrite f => exact absurd rfl h
  | zalakFlitReceive f => exact absurd rfl h
  | zalakReplay f => exact absurd rfl h
  | linkLost f => exact absurd rfl h
  | ackTimeout f => exact absurd rfl h
  | portTrainRetry f => exact absurd rfl h
  | portTrained f => exact absurd rfl h
  | zalakReadRequest f => exact absurd rfl h
  | zalakReadData f => exact absurd rfl h
  | zalakWriteRequest f => exact absurd rfl h
  | zalakWriteAck f => exact absurd rfl h
  | zalakAtomicRequest f => exact absurd rfl h
  | zalakAtomicResult f => exact absurd rfl h
  | zalakStreamBlock f => exact absurd rfl h
  | zalakGatherRequest f => exact absurd rfl h
  | zalakErrorResponse f => exact absurd rfl h
  | railRemoved f => exact absurd rfl h
  | checkpointTargetStopped => exact absurd rfl h

end Sys2Proof.Machine
end

