-- ==== Sys2Proof/Laws/PerInstr.lean ====
section
/-! SUPPORT. One lemma per instruction: the decoder reads an instruction's word as that instruction. -/

set_option Elab.async false

namespace Sys2Proof.Laws.RoundTrip

/-- The word of `i`, if it has one and its member code is the constructor's own, decodes to `i` with every field. -/
def Statement (i : Instr) : Prop := ∀ w, memberOk i = true → encode i = some w → decode w = some i

theorem bra (f : BR) : Statement (.bra f) := by
  intro w m h
  cases h
  rw [dec_BR]
  rfl
theorem brx (f : RRR) : Statement (.brx f) := by
  intro w m h
  cases h
  rw [dec_RRR]
  rfl
theorem call (f : BR) : Statement (.call f) := by
  intro w m h
  cases h
  rw [dec_BR]
  rfl
theorem callx (f : RRR) : Statement (.callx f) := by
  intro w m h
  cases h
  rw [dec_RRR]
  rfl
theorem ret (f : BR) : Statement (.ret f) := by
  intro w m h
  cases h
  rw [dec_BR]
  rfl
theorem exit (f : BR) : Statement (.exit f) := by
  intro w m h
  cases h
  rw [dec_BR]
  rfl
theorem waitg (f : XL) : Statement (.waitg f) := by
  intro w m h
  cases h
  rw [dec_XL]
  rfl
theorem yieldp (f : SYS) : Statement (.yieldp f) := by
  intro w m h
  cases h
  rw [dec_SYS]
  rfl
theorem mark (f : SYS) : Statement (.mark f) := by
  intro w m h
  cases h
  rw [dec_SYS]
  rfl
theorem sleep (f : SYS) : Statement (.sleep f) := by
  intro w m h
  cases h
  rw [dec_SYS]
  rfl
theorem loopd (f : RRR) : Statement (.loopd f) := by
  intro w m h
  cases h
  rw [dec_RRR]
  rfl
theorem nop (f : RRR) : Statement (.nop f) := by
  intro w m h
  cases h
  rw [dec_RRR]
  rfl
theorem add (f : RRR) : Statement (.add f) := by
  intro w m h
  cases h
  rw [dec_RRR]
  have e : f.func = 0#5 := BitVec.eq_of_toNat_eq (beq_iff_eq.mp m)
  cases f
  cases e
  rfl
theorem sub (f : RRR) : Statement (.sub f) := by
  intro w m h
  cases h
  rw [dec_RRR]
  have e : f.func = 1#5 := BitVec.eq_of_toNat_eq (beq_iff_eq.mp m)
  cases f
  cases e
  rfl
theorem addc (f : RRR) : Statement (.addc f) := by
  intro w m h
  cases h
  rw [dec_RRR]
  have e : f.func = 2#5 := BitVec.eq_of_toNat_eq (beq_iff_eq.mp m)
  cases f
  cases e
  rfl
theorem subb (f : RRR) : Statement (.subb f) := by
  intro w m h
  cases h
  rw [dec_RRR]
  have e : f.func = 3#5 := BitVec.eq_of_toNat_eq (beq_iff_eq.mp m)
  cases f
  cases e
  rfl
theorem mul (f : RRR) : Statement (.mul f) := by
  intro w m h
  cases h
  rw [dec_RRR]
  have e : f.func = 0#5 := BitVec.eq_of_toNat_eq (beq_iff_eq.mp m)
  cases f
  cases e
  rfl
theorem mulh (f : RRR) : Statement (.mulh f) := by
  intro w m h
  cases h
  rw [dec_RRR]
  have e : f.func = 1#5 := BitVec.eq_of_toNat_eq (beq_iff_eq.mp m)
  cases f
  cases e
  rfl
theorem mulw (f : RRR) : Statement (.mulw f) := by
  intro w m h
  cases h
  rw [dec_RRR]
  have e : f.func = 2#5 := BitVec.eq_of_toNat_eq (beq_iff_eq.mp m)
  cases f
  cases e
  rfl
theorem mad (f : RRR) : Statement (.mad f) := by
  intro w m h
  cases h
  rw [dec_RRR]
  have e : f.func = 3#5 := BitVec.eq_of_toNat_eq (beq_iff_eq.mp m)
  cases f
  cases e
  rfl
theorem div (f : RRR) : Statement (.div f) := by
  intro w m h
  cases h
  rw [dec_RRR]
  have e : f.func = 0#5 := BitVec.eq_of_toNat_eq (beq_iff_eq.mp m)
  cases f
  cases e
  rfl
theorem rem (f : RRR) : Statement (.rem f) := by
  intro w m h
  cases h
  rw [dec_RRR]
  have e : f.func = 1#5 := BitVec.eq_of_toNat_eq (beq_iff_eq.mp m)
  cases f
  cases e
  rfl
theorem min (f : RRR) : Statement (.min f) := by
  intro w m h
  cases h
  rw [dec_RRR]
  have e : f.func = 0#5 := BitVec.eq_of_toNat_eq (beq_iff_eq.mp m)
  cases f
  cases e
  rfl
theorem max (f : RRR) : Statement (.max f) := by
  intro w m h
  cases h
  rw [dec_RRR]
  have e : f.func = 1#5 := BitVec.eq_of_toNat_eq (beq_iff_eq.mp m)
  cases f
  cases e
  rfl
theorem abs (f : RRR) : Statement (.abs f) := by
  intro w m h
  cases h
  rw [dec_RRR]
  have e : f.func = 2#5 := BitVec.eq_of_toNat_eq (beq_iff_eq.mp m)
  cases f
  cases e
  rfl
theorem neg (f : RRR) : Statement (.neg f) := by
  intro w m h
  cases h
  rw [dec_RRR]
  have e : f.func = 3#5 := BitVec.eq_of_toNat_eq (beq_iff_eq.mp m)
  cases f
  cases e
  rfl
theorem andr (f : RRR) : Statement (.andr f) := by
  intro w m h
  cases h
  rw [dec_RRR]
  have e : f.func = 0#5 := BitVec.eq_of_toNat_eq (beq_iff_eq.mp m)
  cases f
  cases e
  rfl
theorem orr (f : RRR) : Statement (.orr f) := by
  intro w m h
  cases h
  rw [dec_RRR]
  have e : f.func = 1#5 := BitVec.eq_of_toNat_eq (beq_iff_eq.mp m)
  cases f
  cases e
  rfl
theorem xorr (f : RRR) : Statement (.xorr f) := by
  intro w m h
  cases h
  rw [dec_RRR]
  have e : f.func = 2#5 := BitVec.eq_of_toNat_eq (beq_iff_eq.mp m)
  cases f
  cases e
  rfl
theorem andn (f : RRR) : Statement (.andn f) := by
  intro w m h
  cases h
  rw [dec_RRR]
  have e : f.func = 3#5 := BitVec.eq_of_toNat_eq (beq_iff_eq.mp m)
  cases f
  cases e
  rfl
theorem notr (f : RRR) : Statement (.notr f) := by
  intro w m h
  cases h
  rw [dec_RRR]
  have e : f.func = 4#5 := BitVec.eq_of_toNat_eq (beq_iff_eq.mp m)
  cases f
  cases e
  rfl
theorem shl (f : RRR) : Statement (.shl f) := by
  intro w m h
  cases h
  rw [dec_RRR]
  have e : f.func = 0#5 := BitVec.eq_of_toNat_eq (beq_iff_eq.mp m)
  cases f
  cases e
  rfl
theorem shr (f : RRR) : Statement (.shr f) := by
  intro w m h
  cases h
  rw [dec_RRR]
  have e : f.func = 1#5 := BitVec.eq_of_toNat_eq (beq_iff_eq.mp m)
  cases f
  cases e
  rfl
theorem sar (f : RRR) : Statement (.sar f) := by
  intro w m h
  cases h
  rw [dec_RRR]
  have e : f.func = 2#5 := BitVec.eq_of_toNat_eq (beq_iff_eq.mp m)
  cases f
  cases e
  rfl
theorem rot (f : RRR) : Statement (.rot f) := by
  intro w m h
  cases h
  rw [dec_RRR]
  have e : f.func = 3#5 := BitVec.eq_of_toNat_eq (beq_iff_eq.mp m)
  cases f
  cases e
  rfl
theorem clz (f : RRR) : Statement (.clz f) := by
  intro w m h
  cases h
  rw [dec_RRR]
  have e : f.func = 0#5 := BitVec.eq_of_toNat_eq (beq_iff_eq.mp m)
  cases f
  cases e
  rfl
theorem popc (f : RRR) : Statement (.popc f) := by
  intro w m h
  cases h
  rw [dec_RRR]
  have e : f.func = 1#5 := BitVec.eq_of_toNat_eq (beq_iff_eq.mp m)
  cases f
  cases e
  rfl
theorem brev (f : RRR) : Statement (.brev f) := by
  intro w m h
  cases h
  rw [dec_RRR]
  have e : f.func = 2#5 := BitVec.eq_of_toNat_eq (beq_iff_eq.mp m)
  cases f
  cases e
  rfl
theorem bfe (f : RRR) : Statement (.bfe f) := by
  intro w m h
  cases h
  rw [dec_RRR]
  have e : f.func = 0#5 := BitVec.eq_of_toNat_eq (beq_iff_eq.mp m)
  cases f
  cases e
  rfl
theorem bfi (f : RRR) : Statement (.bfi f) := by
  intro w m h
  cases h
  rw [dec_RRR]
  have e : f.func = 1#5 := BitVec.eq_of_toNat_eq (beq_iff_eq.mp m)
  cases f
  cases e
  rfl
theorem sel (f : RRR) : Statement (.sel f) := by
  intro w m h
  cases h
  rw [dec_RRR]
  rfl
theorem mov (f : RRR) : Statement (.mov f) := by
  intro w m h
  cases h
  rw [dec_RRR]
  rfl
theorem mkaddr (f : RRR) : Statement (.mkaddr f) := by
  intro w m h
  cases h
  rw [dec_RRR]
  rfl
theorem adda (f : RRR) : Statement (.adda f) := by
  intro w m h
  cases h
  rw [dec_RRR]
  rfl
theorem vrdi (f : RRR) : Statement (.vrdi f) := by
  intro w m h
  cases h
  rw [dec_RRR]
  rfl
theorem vwri (f : RRR) : Statement (.vwri f) := by
  intro w m h
  cases h
  rw [dec_RRR]
  rfl
theorem vgrow (f : RRI) : Statement (.vgrow f) := by
  intro w m h
  cases h
  rw [dec_RRI]
  rfl
theorem moviV (f : RRI) : Statement (.moviV f) := by
  intro w m h
  cases h
  rw [dec_RRI]
  rfl
theorem moviS (f : RRI) : Statement (.moviS f) := by
  intro w m h
  cases h
  rw [dec_RRI]
  rfl
theorem movhV (f : RRI) : Statement (.movhV f) := by
  intro w m h
  cases h
  rw [dec_RRI]
  rfl
theorem movhS (f : RRI) : Statement (.movhS f) := by
  intro w m h
  cases h
  rw [dec_RRI]
  rfl
theorem addImmV (f : RRI) : Statement (.addImmV f) := by
  intro w m h
  cases h
  rw [dec_RRI]
  rfl
theorem addImmS (f : RRI) : Statement (.addImmS f) := by
  intro w m h
  cases h
  rw [dec_RRI]
  rfl
theorem shlImmV (f : RRI) : Statement (.shlImmV f) := by
  intro w m h
  cases h
  rw [dec_RRI]
  rfl
theorem shlImmS (f : RRI) : Statement (.shlImmS f) := by
  intro w m h
  cases h
  rw [dec_RRI]
  rfl
theorem shrImmV (f : RRI) : Statement (.shrImmV f) := by
  intro w m h
  cases h
  rw [dec_RRI]
  rfl
theorem shrImmS (f : RRI) : Statement (.shrImmS f) := by
  intro w m h
  cases h
  rw [dec_RRI]
  rfl
theorem sarImmV (f : RRI) : Statement (.sarImmV f) := by
  intro w m h
  cases h
  rw [dec_RRI]
  rfl
theorem sarImmS (f : RRI) : Statement (.sarImmS f) := by
  intro w m h
  cases h
  rw [dec_RRI]
  rfl
theorem andImmV (f : RRI) : Statement (.andImmV f) := by
  intro w m h
  cases h
  rw [dec_RRI]
  rfl
theorem andImmS (f : RRI) : Statement (.andImmS f) := by
  intro w m h
  cases h
  rw [dec_RRI]
  rfl
theorem orImmV (f : RRI) : Statement (.orImmV f) := by
  intro w m h
  cases h
  rw [dec_RRI]
  rfl
theorem orImmS (f : RRI) : Statement (.orImmS f) := by
  intro w m h
  cases h
  rw [dec_RRI]
  rfl
theorem cmp (f : RRR) : Statement (.cmp f) := by
  intro w m h
  cases h
  rw [dec_RRR]
  rfl
theorem fcmp (f : RRR) : Statement (.fcmp f) := by
  intro w m h
  cases h
  rw [dec_RRR]
  rfl
theorem pand (f : RRR) : Statement (.pand f) := by
  intro w m h
  cases h
  rw [dec_RRR]
  rfl
theorem por (f : RRR) : Statement (.por f) := by
  intro w m h
  cases h
  rw [dec_RRR]
  rfl
theorem pxor (f : RRR) : Statement (.pxor f) := by
  intro w m h
  cases h
  rw [dec_RRR]
  rfl
theorem pnot (f : RRR) : Statement (.pnot f) := by
  intro w m h
  cases h
  rw [dec_RRR]
  rfl
theorem pmov (f : RRR) : Statement (.pmov f) := by
  intro w m h
  cases h
  rw [dec_RRR]
  rfl
theorem fadd (f : RRR) : Statement (.fadd f) := by
  intro w m h
  cases h
  rw [dec_RRR]
  rfl
theorem fsub (f : RRR) : Statement (.fsub f) := by
  intro w m h
  cases h
  rw [dec_RRR]
  rfl
theorem fmul (f : RRR) : Statement (.fmul f) := by
  intro w m h
  cases h
  rw [dec_RRR]
  rfl
theorem fmulz (f : RRR) : Statement (.fmulz f) := by
  intro w m h
  cases h
  rw [dec_RRR]
  rfl
theorem fmin (f : RRR) : Statement (.fmin f) := by
  intro w m h
  cases h
  rw [dec_RRR]
  rfl
theorem ffma (f : RRR) : Statement (.ffma f) := by
  intro w m h
  cases h
  rw [dec_RRR]
  rfl
theorem fmax (f : RRR) : Statement (.fmax f) := by
  intro w m h
  cases h
  rw [dec_RRR]
  rfl
theorem fdiv (f : RRR) : Statement (.fdiv f) := by
  intro w m h
  cases h
  rw [dec_RRR]
  rfl
theorem fsqrt (f : RRR) : Statement (.fsqrt f) := by
  intro w m h
  cases h
  rw [dec_RRR]
  rfl
theorem frcp (f : RRR) : Statement (.frcp f) := by
  intro w m h
  cases h
  rw [dec_RRR]
  rfl
theorem frsq (f : RRR) : Statement (.frsq f) := by
  intro w m h
  cases h
  rw [dec_RRR]
  rfl
theorem fexp2 (f : RRR) : Statement (.fexp2 f) := by
  intro w m h
  cases h
  rw [dec_RRR]
  rfl
theorem flog2 (f : RRR) : Statement (.flog2 f) := by
  intro w m h
  cases h
  rw [dec_RRR]
  rfl
theorem frnd (f : RRR) : Statement (.frnd f) := by
  intro w m h
  cases h
  rw [dec_RRR]
  rfl
theorem fclass (f : RRR) : Statement (.fclass f) := by
  intro w m h
  cases h
  rw [dec_RRR]
  rfl
theorem faddx (f : RRR) : Statement (.faddx f) := by
  intro w m h
  cases h
  rw [dec_RRR]
  rfl
theorem fsubx (f : RRR) : Statement (.fsubx f) := by
  intro w m h
  cases h
  rw [dec_RRR]
  rfl
theorem fmulx (f : RRR) : Statement (.fmulx f) := by
  intro w m h
  cases h
  rw [dec_RRR]
  rfl
theorem dwadd (f : RRR) : Statement (.dwadd f) := by
  intro w m h
  cases h
  rw [dec_RRR]
  rfl
theorem dwmul (f : RRR) : Statement (.dwmul f) := by
  intro w m h
  cases h
  rw [dec_RRR]
  rfl
theorem dwrnd (f : RRR) : Statement (.dwrnd f) := by
  intro w m h
  cases h
  rw [dec_RRR]
  rfl
theorem cvt (f : RRR) : Statement (.cvt f) := by
  intro w m h
  cases h
  rw [dec_RRR]
  rfl
theorem pack (f : RRR) : Statement (.pack f) := by
  intro w m h
  cases h
  rw [dec_RRR]
  rfl
theorem unpack (f : RRR) : Statement (.unpack f) := by
  intro w m h
  cases h
  rw [dec_RRR]
  rfl
theorem scaleq (f : RRR) : Statement (.scaleq f) := by
  intro w m h
  cases h
  rw [dec_RRR]
  rfl
theorem dot4 (f : RRR) : Statement (.dot4 f) := by
  intro w m h
  cases h
  rw [dec_RRR]
  rfl
theorem dot8 (f : RRR) : Statement (.dot8 f) := by
  intro w m h
  cases h
  rw [dec_RRR]
  rfl
theorem dotf8 (f : RRR) : Statement (.dotf8 f) := by
  intro w m h
  cases h
  rw [dec_RRR]
  rfl
theorem xsect (f : RRR) : Statement (.xsect f) := by
  intro w m h
  cases h
  rw [dec_RRR]
  rfl
theorem scmp (f : RRR) : Statement (.scmp f) := by
  intro w m h
  cases h
  rw [dec_RRR]
  rfl
theorem seqb (f : RRR) : Statement (.seqb f) := by
  intro w m h
  cases h
  rw [dec_RRR]
  rfl
theorem sfind (f : RRR) : Statement (.sfind f) := by
  intro w m h
  cases h
  rw [dec_RRR]
  rfl
theorem crc (f : RRR) : Statement (.crc f) := by
  intro w m h
  cases h
  rw [dec_RRR]
  rfl
theorem hmix (f : RRR) : Statement (.hmix f) := by
  intro w m h
  cases h
  rw [dec_RRR]
  rfl
theorem bswap (f : RRR) : Statement (.bswap f) := by
  intro w m h
  cases h
  rw [dec_RRR]
  rfl
theorem ldV (f : MEM) : Statement (.ldV f) := by
  intro w m h
  cases h
  rw [dec_MEM]
  rfl
theorem ldS (f : MEM) : Statement (.ldS f) := by
  intro w m h
  cases h
  rw [dec_MEM]
  rfl
theorem stV (f : MEM) : Statement (.stV f) := by
  intro w m h
  cases h
  rw [dec_MEM]
  rfl
theorem stS (f : MEM) : Statement (.stS f) := by
  intro w m h
  cases h
  rw [dec_MEM]
  rfl
theorem ldc (f : MEM) : Statement (.ldc f) := by
  intro w m h
  cases h
  rw [dec_MEM]
  rfl
theorem prefV (f : MEM) : Statement (.prefV f) := by
  intro w m h
  cases h
  rw [dec_MEM]
  rfl
theorem prefS (f : MEM) : Statement (.prefS f) := by
  intro w m h
  cases h
  rw [dec_MEM]
  rfl
theorem aadd (f : MEM) : Statement (.aadd f) := by
  intro w m h
  cases h
  rw [dec_MEM]
  rfl
theorem amin (f : MEM) : Statement (.amin f) := by
  intro w m h
  cases h
  rw [dec_MEM]
  rfl
theorem amax (f : MEM) : Statement (.amax f) := by
  intro w m h
  cases h
  rw [dec_MEM]
  rfl
theorem aand (f : MEM) : Statement (.aand f) := by
  intro w m h
  cases h
  rw [dec_MEM]
  rfl
theorem aor (f : MEM) : Statement (.aor f) := by
  intro w m h
  cases h
  rw [dec_MEM]
  rfl
theorem axor (f : MEM) : Statement (.axor f) := by
  intro w m h
  cases h
  rw [dec_MEM]
  rfl
theorem axchg (f : MEM) : Statement (.axchg f) := by
  intro w m h
  cases h
  rw [dec_MEM]
  rfl
theorem acas (f : MEM) : Statement (.acas f) := by
  intro w m h
  cases h
  rw [dec_MEM]
  rfl
theorem acas2 (f : MEM) : Statement (.acas2 f) := by
  intro w m h
  cases h
  rw [dec_MEM]
  rfl
theorem afadd (f : MEM) : Statement (.afadd f) := by
  intro w m h
  cases h
  rw [dec_MEM]
  rfl
theorem amaxe (f : MEM) : Statement (.amaxe f) := by
  intro w m h
  cases h
  rw [dec_MEM]
  rfl
theorem fence (f : MEM) : Statement (.fence f) := by
  intro w m h
  cases h
  rw [dec_MEM]
  rfl
theorem pin (f : RRR) : Statement (.pin f) := by
  intro w m h
  cases h
  rw [dec_RRR]
  rfl
theorem unpin (f : RRR) : Statement (.unpin f) := by
  intro w m h
  cases h
  rw [dec_RRR]
  rfl
theorem reclaim (f : ENG) : Statement (.reclaim f) := by
  intro w m h
  cases h
  rw [dec_ENG]
  rfl
theorem harvest (f : SYS) : Statement (.harvest f) := by
  intro w m h
  cases h
  rw [dec_SYS]
  rfl
theorem tlbinv (f : SYS) : Statement (.tlbinv f) := by
  intro w m h
  cases h
  rw [dec_SYS]
  rfl
theorem vote (f : XL) : Statement (.vote f) := by
  intro w m h
  cases h
  rw [dec_XL]
  rfl
theorem shfl (f : XL) : Statement (.shfl f) := by
  intro w m h
  cases h
  rw [dec_XL]
  rfl
theorem matchKey (f : XL) : Statement (.matchKey f) := by
  intro w m h
  cases h
  rw [dec_XL]
  rfl
theorem scan (f : XL) : Statement (.scan f) := by
  intro w m h
  cases h
  rw [dec_XL]
  rfl
theorem redi (f : XL) : Statement (.redi f) := by
  intro w m h
  cases h
  rw [dec_XL]
  rfl
theorem redf (f : XL) : Statement (.redf f) := by
  intro w m h
  cases h
  rw [dec_XL]
  rfl
theorem redx (f : XL) : Statement (.redx f) := by
  intro w m h
  cases h
  rw [dec_XL]
  rfl
theorem segred (f : XL) : Statement (.segred f) := by
  intro w m h
  cases h
  rw [dec_XL]
  rfl
theorem binit (f : ENG) : Statement (.binit f) := by
  intro w m h
  cases h
  rw [dec_ENG]
  rfl
theorem bjoin (f : ENG) : Statement (.bjoin f) := by
  intro w m h
  cases h
  rw [dec_ENG]
  rfl
theorem bleave (f : ENG) : Statement (.bleave f) := by
  intro w m h
  cases h
  rw [dec_ENG]
  rfl
theorem barv (f : ENG) : Statement (.barv f) := by
  intro w m h
  cases h
  rw [dec_ENG]
  rfl
theorem barw (f : ENG) : Statement (.barw f) := by
  intro w m h
  cases h
  rw [dec_ENG]
  rfl
theorem baraw (f : ENG) : Statement (.baraw f) := by
  intro w m h
  cases h
  rw [dec_ENG]
  rfl
theorem batch (f : ENG) : Statement (.batch f) := by
  intro w m h
  cases h
  rw [dec_ENG]
  rfl
theorem bwait (f : ENG) : Statement (.bwait f) := by
  intro w m h
  cases h
  rw [dec_ENG]
  rfl
theorem gadde (f : GR) : Statement (.gadde f) := by
  intro w m h
  cases h
  rw [dec_GR]
  rfl
theorem gdele (f : GR) : Statement (.gdele f) := by
  intro w m h
  cases h
  rw [dec_GR]
  rfl
theorem gsete (f : GR) : Statement (.gsete f) := by
  intro w m h
  cases h
  rw [dec_GR]
  rfl
theorem glde (f : GR) : Statement (.glde f) := by
  intro w m h
  cases h
  rw [dec_GR]
  rfl
theorem gfind (f : GR) : Statement (.gfind f) := by
  intro w m h
  cases h
  rw [dec_GR]
  rfl
theorem gdeg (f : GR) : Statement (.gdeg f) := by
  intro w m h
  cases h
  rw [dec_GR]
  rfl
theorem gver (f : GR) : Statement (.gver f) := by
  intro w m h
  cases h
  rw [dec_GR]
  rfl
theorem gldv (f : GR) : Statement (.gldv f) := by
  intro w m h
  cases h
  rw [dec_GR]
  rfl
theorem gstv (f : GR) : Statement (.gstv f) := by
  intro w m h
  cases h
  rw [dec_GR]
  rfl
theorem gopen (f : GR) : Statement (.gopen f) := by
  intro w m h
  cases h
  rw [dec_GR]
  rfl
theorem gnext (f : GR) : Statement (.gnext f) := by
  intro w m h
  cases h
  rw [dec_GR]
  rfl
theorem gskip (f : GR) : Statement (.gskip f) := by
  intro w m h
  cases h
  rw [dec_GR]
  rfl
theorem gpos (f : GR) : Statement (.gpos f) := by
  intro w m h
  cases h
  rw [dec_GR]
  rfl
theorem gclose (f : GR) : Statement (.gclose f) := by
  intro w m h
  cases h
  rw [dec_GR]
  rfl
theorem cpasync (f : ENG) : Statement (.cpasync f) := by
  intro w m h
  cases h
  rw [dec_ENG]
  have e : f.dec = false := by simpa using (show (!f.dec) = true from m)
  cases f
  cases e
  rfl
theorem cpasyncDec (f : ENG) : Statement (.cpasyncDec f) := by
  intro w m h
  cases h
  rw [dec_ENG]
  have e : f.dec = true := by simpa using (show (f.dec) = true from m)
  cases f
  cases e
  rfl
theorem wbind (f : ENG) : Statement (.wbind f) := by
  intro w m h
  cases h
  rw [dec_ENG]
  rfl
theorem wunbind (f : ENG) : Statement (.wunbind f) := by
  intro w m h
  cases h
  rw [dec_ENG]
  rfl
theorem xformCopy2d (f : ENG) : Statement (.xformCopy2d f) := by
  intro w m h
  cases h
  rw [dec_ENG]
  have e : f.tile = 0#6 := BitVec.eq_of_toNat_eq (beq_iff_eq.mp m)
  cases f
  cases e
  rfl
theorem xformTranspose (f : ENG) : Statement (.xformTranspose f) := by
  intro w m h
  cases h
  rw [dec_ENG]
  have e : f.tile = 1#6 := BitVec.eq_of_toNat_eq (beq_iff_eq.mp m)
  cases f
  cases e
  rfl
theorem xformConvert (f : ENG) : Statement (.xformConvert f) := by
  intro w m h
  cases h
  rw [dec_ENG]
  have e : f.tile = 2#6 := BitVec.eq_of_toNat_eq (beq_iff_eq.mp m)
  cases f
  cases e
  rfl
theorem xformExpand (f : ENG) : Statement (.xformExpand f) := by
  intro w m h
  cases h
  rw [dec_ENG]
  have e : f.tile = 3#6 := BitVec.eq_of_toNat_eq (beq_iff_eq.mp m)
  cases f
  cases e
  rfl
theorem xformCsr2spr (f : ENG) : Statement (.xformCsr2spr f) := by
  intro w m h
  cases h
  rw [dec_ENG]
  have e : f.tile = 4#6 := BitVec.eq_of_toNat_eq (beq_iff_eq.mp m)
  cases f
  cases e
  rfl
theorem xformCrc (f : ENG) : Statement (.xformCrc f) := by
  intro w m h
  cases h
  rw [dec_ENG]
  have e : f.tile = 5#6 := BitVec.eq_of_toNat_eq (beq_iff_eq.mp m)
  cases f
  cases e
  rfl
theorem mpass (f : ENG) : Statement (.mpass f) := by
  intro w m h
  cases h
  rw [dec_ENG]
  rfl
theorem mquery (f : ENG) : Statement (.mquery f) := by
  intro w m h
  cases h
  rw [dec_ENG]
  rfl
theorem azero (f : ENG) : Statement (.azero f) := by
  intro w m h
  cases h
  rw [dec_ENG]
  rfl
theorem adrainT (f : ENG) : Statement (.adrainT f) := by
  intro w m h
  cases h
  rw [dec_ENG]
  have e : f.sd = false := by simpa using (show (!f.sd) = true from m)
  cases f
  cases e
  rfl
theorem adrainPlain (f : ENG) : Statement (.adrainPlain f) := by
  intro w m h
  cases h
  rw [dec_ENG]
  have e : f.sd = true := m
  cases f
  cases e
  rfl
theorem afillT (f : ENG) : Statement (.afillT f) := by
  intro w m h
  cases h
  rw [dec_ENG]
  have e : f.sd = false := by simpa using (show (!f.sd) = true from m)
  cases f
  cases e
  rfl
theorem afillPlain (f : ENG) : Statement (.afillPlain f) := by
  intro w m h
  cases h
  rw [dec_ENG]
  have e : f.sd = true := m
  cases f
  cases e
  rfl
theorem txv (f : ENG) : Statement (.txv f) := by
  intro w m h
  cases h
  rw [dec_ENG]
  rfl
theorem vxt (f : ENG) : Statement (.vxt f) := by
  intro w m h
  cases h
  rw [dec_ENG]
  rfl
theorem launch (f : ENG) : Statement (.launch f) := by
  intro w m h
  cases h
  rw [dec_ENG]
  rfl
theorem sysr (f : SYS) : Statement (.sysr f) := by
  intro w m h
  cases h
  rw [dec_SYS]
  rfl
theorem sysw (f : SYS) : Statement (.sysw f) := by
  intro w m h
  cases h
  rw [dec_SYS]
  rfl
theorem trap (f : SYS) : Statement (.trap f) := by
  intro w m h
  cases h
  rw [dec_SYS]
  rfl
theorem brk (f : SYS) : Statement (.brk f) := by
  intro w m h
  cases h
  rw [dec_SYS]
  rfl
theorem rett (f : SYS) : Statement (.rett f) := by
  intro w m h
  cases h
  rw [dec_SYS]
  have e : f.sel = 0#6 := BitVec.eq_of_toNat_eq (beq_iff_eq.mp m)
  cases f
  cases e
  rfl
theorem rettSkip (f : SYS) : Statement (.rettSkip f) := by
  intro w m h
  cases h
  rw [dec_SYS]
  have e : f.sel = 1#6 := BitVec.eq_of_toNat_eq (beq_iff_eq.mp m)
  cases f
  cases e
  rfl
theorem rettKill (f : SYS) : Statement (.rettKill f) := by
  intro w m h
  cases h
  rw [dec_SYS]
  have e : f.sel = 2#6 := BitVec.eq_of_toNat_eq (beq_iff_eq.mp m)
  cases f
  cases e
  rfl
theorem rettKillg (f : SYS) : Statement (.rettKillg f) := by
  intro w m h
  cases h
  rw [dec_SYS]
  have e : f.sel = 3#6 := BitVec.eq_of_toNat_eq (beq_iff_eq.mp m)
  cases f
  cases e
  rfl
theorem rettSel (f : SYS) : Statement (.rettSel f) := by
  intro w m h
  cases h
  rw [dec_SYS]
  have e : f.sel = 4#6 := BitVec.eq_of_toNat_eq (beq_iff_eq.mp m)
  cases f
  cases e
  rfl
theorem mappg (f : SYS) : Statement (.mappg f) := by
  intro w m h
  cases h
  rw [dec_SYS]
  rfl
theorem objnew (f : SYS) : Statement (.objnew f) := by
  intro w m h
  cases h
  rw [dec_SYS]
  rfl
theorem objsetSize (f : SYS) : Statement (.objsetSize f) := by
  intro w m h
  cases h
  rw [dec_SYS]
  have e : f.sel = 0#6 := BitVec.eq_of_toNat_eq (beq_iff_eq.mp m)
  cases f
  cases e
  rfl
theorem objsetPerm (f : SYS) : Statement (.objsetPerm f) := by
  intro w m h
  cases h
  rw [dec_SYS]
  have e : f.sel = 1#6 := BitVec.eq_of_toNat_eq (beq_iff_eq.mp m)
  cases f
  cases e
  rfl
theorem objsetCtab (f : SYS) : Statement (.objsetCtab f) := by
  intro w m h
  cases h
  rw [dec_SYS]
  have e : f.sel = 2#6 := BitVec.eq_of_toNat_eq (beq_iff_eq.mp m)
  cases f
  cases e
  rfl
theorem objsetUnpois (f : SYS) : Statement (.objsetUnpois f) := by
  intro w m h
  cases h
  rw [dec_SYS]
  have e : f.sel = 3#6 := BitVec.eq_of_toNat_eq (beq_iff_eq.mp m)
  cases f
  cases e
  rfl
theorem objsetDirty (f : SYS) : Statement (.objsetDirty f) := by
  intro w m h
  cases h
  rw [dec_SYS]
  have e : f.sel = 4#6 := BitVec.eq_of_toNat_eq (beq_iff_eq.mp m)
  cases f
  cases e
  rfl
theorem ctrrd (f : SYS) : Statement (.ctrrd f) := by
  intro w m h
  cases h
  rw [dec_SYS]
  rfl
theorem clauseFetch (p : Nat) : Statement (.clauseFetch p) := by
  intro w m h
  cases h
theorem handlerVector (p : Nat) : Statement (.handlerVector p) := by
  intro w m h
  cases h
theorem hostServiceRequest : Statement (.hostServiceRequest) := by
  intro w m h
  cases h
theorem activeSetSwap (q : Nat) : Statement (.activeSetSwap q) := by
  intro w m h
  cases h
theorem pathUrgent (p : Nat) : Statement (.pathUrgent p) := by
  intro w m h
  cases h
theorem sleepExpire (p : Nat) : Statement (.sleepExpire p) := by
  intro w m h
  cases h
theorem lensSample (q : Nat) (slot : Nat) (reload : Nat) : Statement (.lensSample q slot reload) := by
  intro w m h
  cases h
theorem longLatencyComplete (g : Nat) (op : Nat) : Statement (.longLatencyComplete g op) := by
  intro w m h
  cases h
theorem graphOpComplete (g : Nat) (op : Nat) : Statement (.graphOpComplete g op) := by
  intro w m h
  cases h
theorem graphMutationCommit (g : Nat) (op : Nat) : Statement (.graphMutationCommit g op) := by
  intro w m h
  cases h
theorem graphSweep (oid : Nat) : Statement (.graphSweep oid) := by
  intro w m h
  cases h
theorem gangRetire (g : Nat) : Statement (.gangRetire g) := by
  intro w m h
  cases h
theorem crewSlotRelease (c : Nat) : Statement (.crewSlotRelease c) := by
  intro w m h
  cases h
theorem vgrowGrant (g : Nat) : Statement (.vgrowGrant g) := by
  intro w m h
  cases h
theorem growthDeadlockBreak (core : Nat) : Statement (.growthDeadlockBreak core) := by
  intro w m h
  cases h
theorem priorityPreempt : Statement (.priorityPreempt) := by
  intro w m h
  cases h
theorem drainComplete (c : Nat) : Statement (.drainComplete c) := by
  intro w m h
  cases h
theorem crewPlace : Statement (.crewPlace) := by
  intro w m h
  cases h
theorem crewResume (k : Nat) : Statement (.crewResume k) := by
  intro w m h
  cases h
theorem launchPortWrite (off : Nat) (data : List (BitVec 8)) : Statement (.launchPortWrite off data) := by
  intro w m h
  cases h
theorem launchAccept (port : Nat) : Statement (.launchAccept port) := by
  intro w m h
  cases h
theorem waitCountPoll : Statement (.waitCountPoll) := by
  intro w m h
  cases h
theorem svcfullTimeout : Statement (.svcfullTimeout) := by
  intro w m h
  cases h
theorem rangeLockAcquire (p : Nat) : Statement (.rangeLockAcquire p) := by
  intro w m h
  cases h
theorem copyComplete (op : Nat) : Statement (.copyComplete op) := by
  intro w m h
  cases h
theorem windowFillComplete (op : Nat) : Statement (.windowFillComplete op) := by
  intro w m h
  cases h
theorem windowScatterComplete (op : Nat) : Statement (.windowScatterComplete op) := by
  intro w m h
  cases h
theorem prismTransformComplete (cluster : Nat) : Statement (.prismTransformComplete cluster) := by
  intro w m h
  cases h
theorem matrixGrant (cluster : Nat) : Statement (.matrixGrant cluster) := by
  intro w m h
  cases h
theorem passComplete (op : Nat) : Statement (.passComplete op) := by
  intro w m h
  cases h
theorem tileOpPerform (core : Nat) (tile : Nat) : Statement (.tileOpPerform core tile) := by
  intro w m h
  cases h
theorem reclaimSearch (oid : Nat) : Statement (.reclaimSearch oid) := by
  intro w m h
  cases h
theorem dirtyFlushTimeout (oid : Nat) (page : Nat) : Statement (.dirtyFlushTimeout oid page) := by
  intro w m h
  cases h
theorem shootdownComplete (oid : Nat) : Statement (.shootdownComplete oid) := by
  intro w m h
  cases h
theorem harvestComplete (p : Nat) : Statement (.harvestComplete p) := by
  intro w m h
  cases h
theorem pagerMap (oid : Nat) (page : Nat) : Statement (.pagerMap oid page) := by
  intro w m h
  cases h
theorem migrationEnd (outcome : Nat) (bad : List Nat) : Statement (.migrationEnd outcome bad) := by
  intro w m h
  cases h
theorem migreqWrite (data : List (BitVec 8)) : Statement (.migreqWrite data) := by
  intro w m h
  cases h
theorem hsanswerWrite (v : BitVec 64) : Statement (.hsanswerWrite v) := by
  intro w m h
  cases h
theorem shootWrite (v : BitVec 32) : Statement (.shootWrite v) := by
  intro w m h
  cases h
theorem objtbaseWrite (v : BitVec 32) : Statement (.objtbaseWrite v) := by
  intro w m h
  cases h
theorem objtcntWrite (v : BitVec 32) : Statement (.objtcntWrite v) := by
  intro w m h
  cases h
theorem pinovfWrite (v : BitVec 32) : Statement (.pinovfWrite v) := by
  intro w m h
  cases h
theorem savepoolWrite (v : BitVec 32) : Statement (.savepoolWrite v) := by
  intro w m h
  cases h
theorem feataccWrite (n : Nat) (v : BitVec 32) : Statement (.feataccWrite n v) := by
  intro w m h
  cases h
theorem launchenWrite (v : BitVec 32) : Statement (.launchenWrite v) := by
  intro w m h
  cases h
theorem handlerInstallWrite (n : Nat) (v : BitVec 64) : Statement (.handlerInstallWrite n v) := by
  intro w m h
  cases h
theorem clkceilWrite (v : BitVec 32) : Statement (.clkceilWrite v) := by
  intro w m h
  cases h
theorem pwrcapWrite (v : BitVec 32) : Statement (.pwrcapWrite v) := by
  intro w m h
  cases h
theorem clockStepChange : Statement (.clockStepChange) := by
  intro w m h
  cases h
theorem thermalDemandRise (degc : Nat) (die : Nat) : Statement (.thermalDemandRise degc die) := by
  intro w m h
  cases h
theorem thermalDemandFall (degc : Nat) (die : Nat) : Statement (.thermalDemandFall degc die) := by
  intro w m h
  cases h
theorem powerDemandRise (watts : Nat) : Statement (.powerDemandRise watts) := by
  intro w m h
  cases h
theorem powerDemandFall (watts : Nat) : Statement (.powerDemandFall watts) := by
  intro w m h
  cases h
theorem thermalTrip (degc : Nat) (die : Nat) : Statement (.thermalTrip degc die) := by
  intro w m h
  cases h
theorem railsGood : Statement (.railsGood) := by
  intro w m h
  cases h
theorem bootImageCheck (reason : Nat) (svn : BitVec 32) : Statement (.bootImageCheck reason svn) := by
  intro w m h
  cases h
theorem fwloadCheckStart : Statement (.fwloadCheckStart) := by
  intro w m h
  cases h
theorem fwloadCheckWriteStart : Statement (.fwloadCheckWriteStart) := by
  intro w m h
  cases h
theorem fwCheckDone (reason : Nat) (svn : BitVec 32) : Statement (.fwCheckDone reason svn) := by
  intro w m h
  cases h
theorem perstDeassert : Statement (.perstDeassert) := by
  intro w m h
  cases h
theorem dieTrained (d : Nat) : Statement (.dieTrained d) := by
  intro w m h
  cases h
theorem dieTrainFail (d : Nat) : Statement (.dieTrainFail d) := by
  intro w m h
  cases h
theorem hostReset : Statement (.hostReset) := by
  intro w m h
  cases h
theorem coldReset : Statement (.coldReset) := by
  intro w m h
  cases h
theorem attreqWrite (v : BitVec 32) : Statement (.attreqWrite v) := by
  intro w m h
  cases h
theorem attestReportDone : Statement (.attestReportDone) := by
  intro w m h
  cases h
theorem checkpointSaveGo (v : BitVec 32) : Statement (.checkpointSaveGo v) := by
  intro w m h
  cases h
theorem checkpointSaveDone : Statement (.checkpointSaveDone) := by
  intro w m h
  cases h
theorem checkpointRestoreGo (v : BitVec 32) : Statement (.checkpointRestoreGo v) := by
  intro w m h
  cases h
theorem checkpointRestoreDone : Statement (.checkpointRestoreDone) := by
  intro w m h
  cases h
theorem scanTestStart (core : Nat) : Statement (.scanTestStart core) := by
  intro w m h
  cases h
theorem scanTestDone (core : Nat) (sig : Nat) (ok : Bool) : Statement (.scanTestDone core sig ok) := by
  intro w m h
  cases h
theorem uncorrectableError (src : Nat) (loc : Nat) (sect : Nat) : Statement (.uncorrectableError src loc sect) := by
  intro w m h
  cases h
theorem correctableError (die : Nat) (src : Nat) : Statement (.correctableError die src) := by
  intro w m h
  cases h
theorem tracectlWrite (v : BitVec 64) : Statement (.tracectlWrite v) := by
  intro w m h
  cases h
theorem bkptRelease (n : Nat) (v : BitVec 32) : Statement (.bkptRelease n v) := by
  intro w m h
  cases h
theorem watchpointWrite (n : Nat) (hi : Bool) (v : BitVec 64) : Statement (.watchpointWrite n hi v) := by
  intro w m h
  cases h
theorem apertureRead (off : Nat) (len : Nat) : Statement (.apertureRead off len) := by
  intro w m h
  cases h
theorem apertureWrite (off : Nat) (data : List (BitVec 8)) : Statement (.apertureWrite off data) := by
  intro w m h
  cases h
theorem registerWrite (off : Nat) (v : BitVec 64) : Statement (.registerWrite off v) := by
  intro w m h
  cases h
theorem zalakFlitReceive (port : Nat) (flit : List (BitVec 8)) : Statement (.zalakFlitReceive port flit) := by
  intro w m h
  cases h
theorem zalakReplay (port : Nat) (seq : Nat) : Statement (.zalakReplay port seq) := by
  intro w m h
  cases h
theorem linkLost (port : Nat) : Statement (.linkLost port) := by
  intro w m h
  cases h
theorem ackTimeout (port : Nat) : Statement (.ackTimeout port) := by
  intro w m h
  cases h
theorem portTrainRetry (port : Nat) : Statement (.portTrainRetry port) := by
  intro w m h
  cases h
theorem portTrained (port : Nat) (cap : Bool) : Statement (.portTrained port cap) := by
  intro w m h
  cases h
theorem zalakReadRequest (port : Nat) : Statement (.zalakReadRequest port) := by
  intro w m h
  cases h
theorem zalakReadData (port : Nat) : Statement (.zalakReadData port) := by
  intro w m h
  cases h
theorem zalakWriteRequest (port : Nat) : Statement (.zalakWriteRequest port) := by
  intro w m h
  cases h
theorem zalakWriteAck (port : Nat) : Statement (.zalakWriteAck port) := by
  intro w m h
  cases h
theorem zalakAtomicRequest (port : Nat) : Statement (.zalakAtomicRequest port) := by
  intro w m h
  cases h
theorem zalakAtomicResult (port : Nat) : Statement (.zalakAtomicResult port) := by
  intro w m h
  cases h
theorem zalakStreamBlock (port : Nat) : Statement (.zalakStreamBlock port) := by
  intro w m h
  cases h
theorem zalakGatherRequest (port : Nat) : Statement (.zalakGatherRequest port) := by
  intro w m h
  cases h
theorem zalakErrorResponse (port : Nat) : Statement (.zalakErrorResponse port) := by
  intro w m h
  cases h
theorem railRemoved (rail : Nat) : Statement (.railRemoved rail) := by
  intro w m h
  cases h
theorem checkpointTargetStopped : Statement (.checkpointTargetStopped) := by
  intro w m h
  cases h

end Sys2Proof.Laws.RoundTrip
end

