-- ==== Sys2Proof/WellFormed.lean ====
section
/-! DEFINITION. Well-formed instructions: those that pass every test of rows 2 to 5 of R269 that depends on the word alone. -/

namespace Sys2Proof

/-- The guard is legal (R16), the fields hold admitted values (R23, R258 to R265) and the member code is the
constructor's own (R268). -/
def wellFormed (i : Instr) : Bool :=
  Machine.guardOk (Machine.shapeOf i).guard && (Machine.shapeOf i).ok && memberOk i

end Sys2Proof
end

