-- ==== Sys2Proof/Tests/Slice0.lean ====
section
/-! SUPPORT. Tests: decoding against words written from the spec, the smoke test of WellFormed, examples the spec works out,
and for every statement with hypotheses a witness that meets them. -/

set_option Elab.async false

open Sys2Proof Sys2Proof.Machine

namespace Sys2Proof.Tests

def noGuard : Guard := { gp := 15, gn := false }
def noRRR : RRR := { g := noGuard, d := 0, a := 0, b := 0, c := 0, type := 0, rnd := 0, sat := false, sa := false, sb := false,
                     sc := false, func := 0, sd := false }
def noRRI : RRI := { g := noGuard, d := 0, a := 0, imm := 0 }
def noMEM : MEM := { g := noGuard, d := 0, a := 0, b := 0, size := 0, ord := 0, scope := 0, off := 0 }
def noBR : BR := { g := noGuard, d := 0, a := 0, off := 0 }
def noXL : XL := { g := noGuard, d := 0, a := 0, b := 0, px := 0, type := 0, rnd := 0, gw := false, sa := false, sb := false,
                   sd := false, rsv := 0, fn := 0 }
def noENG : ENG := { g := noGuard, d := 0, a := 0, b := 0, c := 0, tile := 0, rsv := 0, sa := false, sb := false, sc := false,
                     sd := false, scope := 0, dec := false }
def noGR : GR := { g := noGuard, d := 0, a := 0, b := 0, c := 0, cur := 0, dir := false, px := 0, strict := false, sb := false,
                   ord := 0, scope := 0, rsv := false }
def noSYS : SYS := { g := noGuard, d := 0, a := 0, sel := 0, sa := false, sd := false, imm := 0 }

/-- Every word decodes to its instruction. -/
def decodesTo (xs : List (DWord × Instr)) : Bool := xs.all (fun p => decide (decode p.1 = some p.2))

/-- The state in which a word is the path's next instruction. -/
def ready (w : DWord) : State := State.reset.withFetchWord 64 w.toNat

/-- A trap record of code USER at the path's own clause. -/
def someTrap (p : Path) : TrapRec :=
  { code := .user, cslot := 0, fmask := p.mask, pc := (p.clause.map (·.hdr)).getD p.pc, rmask := 0, lcode := [], extra := [7, 0, 0], laddr := [],
    clause := p.clause, hdr := (p.clause.map (·.hdr)).getD p.pc, stray := false, met := true }

/-- `s` with path 0 in a handler. -/
def asHandler (k : PathKind) (s : State) : State := onPath s 0 (fun p => { p with kind := k, trap := some (someTrap p) })
def asSup (s : State) : State := asHandler .sup s

/-- The conditions of `Runs`. -/
def runsB (i : Instr) (s : State) : Bool :=
  match ctxOf s (shapeOf i).guard with
  | none => false
  | some c =>
    (precheck s (shapeOf i) c).isNone && (!(shapeOf i).gw || c.p.kind != .ordinary || c.p.again || c.p.mask == c.g.live) &&
      !uniformBad (shapeOf i) c && !wawPending (shapeOf i) c

theorem runs_of_runsB {i : Instr} {s : State} (h : runsB i s = true) : ∃ c, Runs i s c := by
  unfold runsB at h
  split at h
  · cases h
  · rename_i c hc
    simp only [Bool.and_eq_true, Option.isNone_iff_eq_none, Bool.or_eq_true, Bool.not_eq_eq_eq_not,
      Bool.not_true, bne_iff_ne, beq_iff_eq, ne_eq] at h
    exact ⟨c, hc, h.1.1.1, fun a b d => by simp_all, h.1.2, h.2⟩

/-- The word's instruction is well-formed and runs in some state; a privileged one in a supervisor handler. -/
def readyFor (w : DWord) (i : Instr) : Bool :=
  wellFormed i && runsB i (if (shapeOf i).sup then asSup (ready w) else ready w)

/-- `i` runs in `s` and the context of the path satisfies `h`. -/
def meets (i : Instr) (s : State) (h : Ctx → Bool) : Bool := runsB i s && (ctxOf s (shapeOf i).guard).any h

theorem of_meets {i : Instr} {s : State} {h : Ctx → Bool} (w : meets i s h = true) : ∃ c, Runs i s c ∧ h c = true := by
  obtain ⟨hr, ha⟩ := Bool.and_eq_true_iff.mp w
  obtain ⟨c, hc⟩ := runs_of_runsB hr
  rw [hc.stands] at ha
  exact ⟨c, hc, ha⟩

/-- The path stands in a context that satisfies `h`, whether or not its instruction passes the checks. -/
def stands (i : Instr) (s : State) (h : Ctx → Bool) : Bool := (ctxOf s (shapeOf i).guard).any h

/-- Every instruction of a list of words runs somewhere. -/
theorem runs_of_ready {xs : List (DWord × Instr)} (h : xs.all (fun p => readyFor p.1 p.2) = true) :
    ∀ p ∈ xs, ∃ s c, Runs p.2 s c := by
  intro p hp
  have := List.all_eq_true.mp h p hp
  obtain ⟨c, hc⟩ := runs_of_runsB (Bool.and_eq_true_iff.mp this).2
  exact ⟨_, c, hc⟩

def onG (s : State) (f : Gang → Gang) : State := onGang s 0 f
def onP (s : State) (f : Path → Path) : State := onPath s 0 f
/-- Registers of the gang: S and V registers (the latter in every lane). -/
def withS (s : State) (n x : Nat) : State := onG s (fun g => wsw g n 2 x)
def withV (s : State) (n x : Nat) : State := onG s (fun g => (List.range 32).foldl (fun g l => wvw g n l 2 x) g)
def wordReady : State := ready 0x00010006040A0F10

/-- Words of the family, written from R257 to R264 and the opcode map. -/
def controlWords : List (DWord × Instr) :=
  [(0x0000000900006F01, .bra { noBR with off := 9 }),
   (0x0100000603000F02, .brx { noRRR with a := 3, b := 6, sb := true }),
   (0x0000000C00146F03, .call { noBR with d := 20, off := 12 }),
   (0x0100000603140F04, .callx { noRRR with d := 20, a := 3, b := 6, sb := true }),
   (0x0000000014006F05, .ret { noBR with a := 20 }),
   (0x0000000000006F06, .exit noBR),
   (0x0000000000008F07, .waitg noXL),
   (0x000000000000EF08, .yieldp noSYS),
   (0x001234000000EF09, .mark { noSYS with imm := 4660 }),
   (0x000005000000EF0A, .sleep { noSYS with imm := 5 }),
   (0x0800000000030F0B, .loopd { noRRR with d := 3, func := 2 }),
   (0x0000000000000F0F, .nop noRRR)]
theorem test_decode_control : decodesTo controlWords = true := by decide
theorem test_ready_control : controlWords.all (fun p => readyFor p.1 p.2) = true := by decide

/-- Words of the family, written from R257 to R264 and the opcode map. -/
def integerWords : List (DWord × Instr) :=
  [(0x00010006040A0F10, .add { noRRR with d := 10, a := 4, b := 6, type := 1 }),
   (0x04000006040A0F10, .sub { noRRR with d := 10, a := 4, b := 6, func := 1 }),
   (0x08010306040A0F10, .addc { noRRR with d := 10, a := 4, b := 6, c := 3, type := 1, func := 2 }),
   (0x0C010306040A0F10, .subb { noRRR with d := 10, a := 4, b := 6, c := 3, type := 1, func := 3 }),
   (0x00010006040A0F11, .mul { noRRR with d := 10, a := 4, b := 6, type := 1 }),
   (0x04000006040A0F11, .mulh { noRRR with d := 10, a := 4, b := 6, func := 1 }),
   (0x08000006040A0F11, .mulw { noRRR with d := 10, a := 4, b := 6, func := 2 }),
   (0x0C000806040A0F11, .mad { noRRR with d := 10, a := 4, b := 6, c := 8, func := 3 }),
   (0x00000006040A0F12, .div { noRRR with d := 10, a := 4, b := 6 }),
   (0x04000006040A0F12, .rem { noRRR with d := 10, a := 4, b := 6, func := 1 }),
   (0x00010006040A0F13, .min { noRRR with d := 10, a := 4, b := 6, type := 1 }),
   (0x04010006040A0F13, .max { noRRR with d := 10, a := 4, b := 6, type := 1, func := 1 }),
   (0x08000000040A0F13, .abs { noRRR with d := 10, a := 4, func := 2 }),
   (0x0C000000040A0F13, .neg { noRRR with d := 10, a := 4, func := 3 }),
   (0x00000006040A0F14, .andr { noRRR with d := 10, a := 4, b := 6 }),
   (0x04000006040A0F14, .orr { noRRR with d := 10, a := 4, b := 6, func := 1 }),
   (0x08000006040A0F14, .xorr { noRRR with d := 10, a := 4, b := 6, func := 2 }),
   (0x0C000006040A0F14, .andn { noRRR with d := 10, a := 4, b := 6, func := 3 }),
   (0x10000000040A0F14, .notr { noRRR with d := 10, a := 4, func := 4 }),
   (0x00000006040A0F15, .shl { noRRR with d := 10, a := 4, b := 6 }),
   (0x04000006040A0F15, .shr { noRRR with d := 10, a := 4, b := 6, func := 1 }),
   (0x08000006040A0F15, .sar { noRRR with d := 10, a := 4, b := 6, func := 2 }),
   (0x0C000006040A0F15, .rot { noRRR with d := 10, a := 4, b := 6, func := 3 }),
   (0x00000000040A0F16, .clz { noRRR with d := 10, a := 4 }),
   (0x04000000040A0F16, .popc { noRRR with d := 10, a := 4, func := 1 }),
   (0x08000000040A0F16, .brev { noRRR with d := 10, a := 4, func := 2 }),
   (0x00000006040A0F17, .bfe { noRRR with d := 10, a := 4, b := 6 }),
   (0x04000806040A0F17, .bfi { noRRR with d := 10, a := 4, b := 6, c := 8, func := 1 })]
theorem test_decode_integer : decodesTo integerWords = true := by decide
theorem test_ready_integer : integerWords.all (fun p => readyFor p.1 p.2) = true := by decide

/-- Words of the family, written from R257 to R264 and the opcode map. -/
def movesWords : List (DWord × Instr) :=
  [(0x1C000006040A0F18, .sel { noRRR with d := 10, a := 4, b := 6, func := 7 }),
   (0x00030000040A0F19, .mov { noRRR with d := 10, a := 4, type := 3 }),
   (0x00000806040A0F1A, .mkaddr { noRRR with d := 10, a := 4, b := 6, c := 8 }),
   (0x00020006040A0F1B, .adda { noRRR with d := 10, a := 4, b := 6, type := 2 }),
   (0x00000000040A0F1C, .vrdi { noRRR with d := 10, a := 4 }),
   (0x0000000604000F1D, .vwri { noRRR with a := 4, b := 6 }),
   (0x0000004000002F1E, .vgrow { noRRI with imm := 64 }),
   (0x12345678000A2F20, .moviV { noRRI with d := 10, imm := 305419896 }),
   (0x12345678000A2F21, .moviS { noRRI with d := 10, imm := 305419896 }),
   (0x00009ABC000A2F22, .movhV { noRRI with d := 10, imm := 39612 }),
   (0x00009ABC000A2F23, .movhS { noRRI with d := 10, imm := 39612 }),
   (0x80000001040A2F24, .addImmV { noRRI with d := 10, a := 4, imm := 2147483649 }),
   (0x80000001040A2F25, .addImmS { noRRI with d := 10, a := 4, imm := 2147483649 }),
   (0x0000001F040A2F26, .shlImmV { noRRI with d := 10, a := 4, imm := 31 }),
   (0x0000001F040A2F27, .shlImmS { noRRI with d := 10, a := 4, imm := 31 }),
   (0x0000001F040A2F28, .shrImmV { noRRI with d := 10, a := 4, imm := 31 }),
   (0x0000001F040A2F29, .shrImmS { noRRI with d := 10, a := 4, imm := 31 }),
   (0x0000001F040A2F2A, .sarImmV { noRRI with d := 10, a := 4, imm := 31 }),
   (0x0000001F040A2F2B, .sarImmS { noRRI with d := 10, a := 4, imm := 31 }),
   (0x80000001040A2F2C, .andImmV { noRRI with d := 10, a := 4, imm := 2147483649 }),
   (0x80000001040A2F2D, .andImmS { noRRI with d := 10, a := 4, imm := 2147483649 }),
   (0x80000001040A2F2E, .orImmV { noRRI with d := 10, a := 4, imm := 2147483649 }),
   (0x80000001040A2F2F, .orImmS { noRRI with d := 10, a := 4, imm := 2147483649 })]
theorem test_decode_moves : decodesTo movesWords = true := by decide
theorem test_ready_moves : movesWords.all (fun p => readyFor p.1 p.2) = true := by decide

/-- Words of the family, written from R257 to R264 and the opcode map. -/
def predicateWords : List (DWord × Instr) :=
  [(0x1400000604010F30, .cmp { noRRR with d := 1, a := 4, b := 6, func := 5 }),
   (0x1800000604010F31, .fcmp { noRRR with d := 1, a := 4, b := 6, func := 6 }),
   (0x0C00000302010F32, .pand { noRRR with d := 1, a := 2, b := 3, func := 3 }),
   (0x0C00000302010F33, .por { noRRR with d := 1, a := 2, b := 3, func := 3 }),
   (0x0C00000302010F34, .pxor { noRRR with d := 1, a := 2, b := 3, func := 3 }),
   (0x0000000002010F35, .pnot { noRRR with d := 1, a := 2 }),
   (0x0000000002010F36, .pmov { noRRR with d := 1, a := 2 })]
theorem test_decode_predicate : decodesTo predicateWords = true := by decide
theorem test_ready_predicate : predicateWords.all (fun p => readyFor p.1 p.2) = true := by decide

/-- Words of the family, written from R257 to R264 and the opcode map. -/
def floatWords : List (DWord × Instr) :=
  [(0x00200006040A0F40, .fadd { noRRR with d := 10, a := 4, b := 6, rnd := 2 }),
   (0x00000006040A0F41, .fsub { noRRR with d := 10, a := 4, b := 6 }),
   (0x00000006040A0F42, .fmul { noRRR with d := 10, a := 4, b := 6 }),
   (0x00000006040A0F43, .fmulz { noRRR with d := 10, a := 4, b := 6 }),
   (0x00000006040A0F44, .fmin { noRRR with d := 10, a := 4, b := 6 }),
   (0x00010806040A0F45, .ffma { noRRR with d := 10, a := 4, b := 6, c := 8, type := 1 }),
   (0x00000006040A0F46, .fmax { noRRR with d := 10, a := 4, b := 6 }),
   (0x00200006040A0F47, .fdiv { noRRR with d := 10, a := 4, b := 6, rnd := 2 }),
   (0x00200000040A0F48, .fsqrt { noRRR with d := 10, a := 4, rnd := 2 }),
   (0x00000000040A0F49, .frcp { noRRR with d := 10, a := 4 }),
   (0x00000000040A0F4A, .frsq { noRRR with d := 10, a := 4 }),
   (0x00000000040A0F4B, .fexp2 { noRRR with d := 10, a := 4 }),
   (0x00000000040A0F4C, .flog2 { noRRR with d := 10, a := 4 }),
   (0x00200000040A0F4D, .frnd { noRRR with d := 10, a := 4, rnd := 2 }),
   (0x00000000040A0F4E, .fclass { noRRR with d := 10, a := 4 }),
   (0x00000006040A0F50, .faddx { noRRR with d := 10, a := 4, b := 6 }),
   (0x00000006040A0F51, .fsubx { noRRR with d := 10, a := 4, b := 6 }),
   (0x00000006040A0F52, .fmulx { noRRR with d := 10, a := 4, b := 6 }),
   (0x00000006040A0F53, .dwadd { noRRR with d := 10, a := 4, b := 6 }),
   (0x00000006040A0F54, .dwmul { noRRR with d := 10, a := 4, b := 6 }),
   (0x00000000040A0F55, .dwrnd { noRRR with d := 10, a := 4 })]
theorem test_decode_float : decodesTo floatWords = true := by decide
theorem test_ready_float : floatWords.all (fun p => readyFor p.1 p.2) = true := by decide

/-- Words of the family, written from R257 to R264 and the opcode map. -/
def narrowWords : List (DWord × Instr) :=
  [(0x04080000040A0F60, .cvt { noRRR with d := 10, a := 4, type := 8, func := 1 }),
   (0x0C040006040A0F61, .pack { noRRR with d := 10, a := 4, b := 6, type := 4, func := 3 }),
   (0x0C040006040A0F62, .unpack { noRRR with d := 10, a := 4, b := 6, type := 4, func := 3 }),
   (0x00050000040A0F63, .scaleq { noRRR with d := 10, a := 4, type := 5 }),
   (0x00460806040A0F64, .dot4 { noRRR with d := 10, a := 4, b := 6, c := 8, type := 6, sat := true }),
   (0x00090806040A0F65, .dot8 { noRRR with d := 10, a := 4, b := 6, c := 8, type := 9 }),
   (0x00040806040A0F66, .dotf8 { noRRR with d := 10, a := 4, b := 6, c := 8, type := 4 }),
   (0x00072006040A0F67, .xsect { noRRR with d := 10, a := 4, b := 6, c := 32, type := 7 }),
   (0x00000806040A0F70, .scmp { noRRR with d := 10, a := 4, b := 6, c := 8 }),
   (0x00000006040A0F71, .seqb { noRRR with d := 10, a := 4, b := 6 }),
   (0x00000006040A0F72, .sfind { noRRR with d := 10, a := 4, b := 6 }),
   (0x00050006040A0F73, .crc { noRRR with d := 10, a := 4, b := 6, type := 5 }),
   (0x00030006040A0F74, .hmix { noRRR with d := 10, a := 4, b := 6, type := 3 }),
   (0x00020000040A0F75, .bswap { noRRR with d := 10, a := 4, type := 2 })]
theorem test_decode_narrow : decodesTo narrowWords = true := by decide
theorem test_ready_narrow : narrowWords.all (fun p => readyFor p.1 p.2) = true := by decide

/-- Words of the family, written from R257 to R264 and the opcode map. -/
def memoryWords : List (DWord × Instr) :=
  [(0xFFFE6C00040C4F80, .ldV { noMEM with d := 12, a := 4, size := 4, ord := 1, scope := 3, off := 65534 }),
   (0x00050300040A4F81, .ldS { noMEM with d := 10, a := 4, size := 3, off := 5 }),
   (0x0002340C04004F82, .stV { noMEM with a := 4, b := 12, size := 4, ord := 2, scope := 1, off := 2 }),
   (0x0003020604004F83, .stS { noMEM with a := 4, b := 6, size := 2, off := 3 }),
   (0x00070300040A4F84, .ldc { noMEM with d := 10, a := 4, size := 3, off := 7 }),
   (0x0001020004004F85, .prefV { noMEM with a := 4, size := 2, off := 1 }),
   (0x0001020004004F86, .prefS { noMEM with a := 4, size := 2, off := 1 }),
   (0x00019B06040A4F90, .aadd { noMEM with d := 10, a := 4, b := 6, size := 3, ord := 3, scope := 4, off := 1 }),
   (0x00019B06040A4F91, .amin { noMEM with d := 10, a := 4, b := 6, size := 3, ord := 3, scope := 4, off := 1 }),
   (0x00019B06040A4F92, .amax { noMEM with d := 10, a := 4, b := 6, size := 3, ord := 3, scope := 4, off := 1 }),
   (0x00019B06040A4F93, .aand { noMEM with d := 10, a := 4, b := 6, size := 3, ord := 3, scope := 4, off := 1 }),
   (0x00019B06040A4F94, .aor { noMEM with d := 10, a := 4, b := 6, size := 3, ord := 3, scope := 4, off := 1 }),
   (0x00019B06040A4F95, .axor { noMEM with d := 10, a := 4, b := 6, size := 3, ord := 3, scope := 4, off := 1 }),
   (0x00019B06040A4F96, .axchg { noMEM with d := 10, a := 4, b := 6, size := 3, ord := 3, scope := 4, off := 1 }),
   (0x00019B06040A4F97, .acas { noMEM with d := 10, a := 4, b := 6, size := 3, ord := 3, scope := 4, off := 1 }),
   (0x00009C08040C4F98, .acas2 { noMEM with d := 12, a := 4, b := 8, size := 4, ord := 3, scope := 4 }),
   (0x00019B06040A4F99, .afadd { noMEM with d := 10, a := 4, b := 6, size := 3, ord := 3, scope := 4, off := 1 }),
   (0x00019B06040A4F9A, .amaxe { noMEM with d := 10, a := 4, b := 6, size := 3, ord := 3, scope := 4, off := 1 }),
   (0x0000B80000004FA0, .fence { noMEM with ord := 3, scope := 5 }),
   (0x0000000304010FA1, .pin { noRRR with d := 1, a := 4, b := 3 }),
   (0x0000000300000FA2, .unpin { noRRR with b := 3 }),
   (0x420100060400AFA3, .reclaim { noENG with a := 4, b := 6, tile := 1, sb := true, scope := 4 }),
   (0x000000400600EFA4, .harvest { noSYS with a := 6, sa := true }),
   (0x000000400600EFA5, .tlbinv { noSYS with a := 6, sa := true })]
theorem test_decode_memory : decodesTo memoryWords = true := by decide
theorem test_ready_memory : memoryWords.all (fun p => readyFor p.1 p.2) = true := by decide

/-- Words of the family, written from R257 to R264 and the opcode map. -/
def crosslaneWords : List (DWord × Instr) :=
  [(0x01000F00040A8FB0, .vote { noXL with d := 10, a := 4, px := 15, fn := 1 }),
   (0x05002206040A8FB1, .shfl { noXL with d := 10, a := 4, b := 6, px := 2, type := 2, fn := 5 }),
   (0x03001300040A8FB2, .matchKey { noXL with d := 10, a := 4, px := 3, type := 1, fn := 3 }),
   (0x09002000040A8FB3, .scan { noXL with d := 10, a := 4, type := 2, fn := 9 }),
   (0x05003000040A8FB4, .redi { noXL with d := 10, a := 4, type := 3, fn := 5 }),
   (0x00031000040A8FB5, .redf { noXL with d := 10, a := 4, type := 1, rnd := 3 }),
   (0x00000000040A8FB6, .redx { noXL with d := 10, a := 4 }),
   (0x02000400040A8FB7, .segred { noXL with d := 10, a := 4, px := 4, fn := 2 }),
   (0x230000060400AFC0, .binit { noENG with a := 4, b := 6, sa := true, sb := true, scope := 2 }),
   (0x210000000400AFC1, .bjoin { noENG with a := 4, sa := true, scope := 2 }),
   (0x210000000400AFC2, .bleave { noENG with a := 4, sa := true, scope := 2 }),
   (0x21000000040AAFC3, .barv { noENG with d := 10, a := 4, sa := true, scope := 2 }),
   (0x210000060400AFC4, .barw { noENG with a := 4, b := 6, sa := true, scope := 2 }),
   (0x210000000400AFC5, .baraw { noENG with a := 4, sa := true, scope := 2 }),
   (0x20000000000AAFC6, .batch { noENG with d := 10, scope := 2 }),
   (0x210000000400AFC7, .bwait { noENG with a := 4, sa := true, scope := 2 })]
theorem test_decode_crosslane : decodesTo crosslaneWords = true := by decide
theorem test_ready_crosslane : crosslaneWords.all (fun p => readyFor p.1 p.2) = true := by decide

/-- Words of the family, written from R257 to R264 and the opcode map. -/
def graphWords : List (DWord × Instr) :=
  [(0x00300802040ACFD0, .gadde { noGR with d := 10, a := 4, b := 2, c := 8, px := 3 }),
   (0x00300002040ACFD1, .gdele { noGR with d := 10, a := 4, b := 2, px := 3 }),
   (0x00300802040ACFD2, .gsete { noGR with d := 10, a := 4, b := 2, c := 8, px := 3 }),
   (0x01380806040ACFD3, .glde { noGR with d := 10, a := 4, b := 6, c := 8, dir := true, px := 3, strict := true }),
   (0x00380806040ACFD4, .gfind { noGR with d := 10, a := 4, b := 6, c := 8, dir := true, px := 3 }),
   (0x00080006040ACFD5, .gdeg { noGR with d := 10, a := 4, b := 6, dir := true }),
   (0x00080006040ACFD6, .gver { noGR with d := 10, a := 4, b := 6, dir := true }),
   (0x44000006040ACFD7, .gldv { noGR with d := 10, a := 4, b := 6, ord := 1, scope := 4 }),
   (0x580008060400CFD8, .gstv { noGR with a := 4, b := 6, c := 8, ord := 2, scope := 5 }),
   (0x003D00060400CFD9, .gopen { noGR with a := 4, b := 6, cur := 5, dir := true, px := 3 }),
   (0x00350000000ACFDA, .gnext { noGR with d := 10, cur := 5, px := 3 }),
   (0x000500060000CFDB, .gskip { noGR with b := 6, cur := 5 }),
   (0x00350000000ACFDC, .gpos { noGR with d := 10, cur := 5, px := 3 }),
   (0x000500000000CFDD, .gclose { noGR with cur := 5 })]
theorem test_decode_graph : decodesTo graphWords = true := by decide
theorem test_ready_graph : graphWords.all (fun p => readyFor p.1 p.2) = true := by decide

/-- Words of the family, written from R257 to R264 and the opcode map. -/
def engineWords : List (DWord × Instr) :=
  [(0x300000080406AFE0, .cpasync { noENG with d := 6, a := 4, b := 8, scope := 3 }),
   (0xB00000080406AFE0, .cpasyncDec { noENG with d := 6, a := 4, b := 8, scope := 3, dec := true }),
   (0x230000060403AFE1, .wbind { noENG with d := 3, a := 4, b := 6, sa := true, sb := true, scope := 2 }),
   (0x210000000400AFE2, .wunbind { noENG with a := 4, sa := true, scope := 2 }),
   (0x230000060400AFE3, .xformCopy2d { noENG with a := 4, b := 6, sa := true, sb := true, scope := 2 }),
   (0x230100060400AFE3, .xformTranspose { noENG with a := 4, b := 6, tile := 1, sa := true, sb := true, scope := 2 }),
   (0x230200060400AFE3, .xformConvert { noENG with a := 4, b := 6, tile := 2, sa := true, sb := true, scope := 2 }),
   (0x230300060400AFE3, .xformExpand { noENG with a := 4, b := 6, tile := 3, sa := true, sb := true, scope := 2 }),
   (0x230400060400AFE3, .xformCsr2spr { noENG with a := 4, b := 6, tile := 4, sa := true, sb := true, scope := 2 }),
   (0x230500060400AFE3, .xformCrc { noENG with a := 4, b := 6, tile := 5, sa := true, sb := true, scope := 2 }),
   (0x3F090A08060CAFE4, .mpass { noENG with d := 12, a := 6, b := 8, c := 10, tile := 9, sa := true, sb := true, sc := true, sd := true, scope := 3 }),
   (0x20000000000AAFE5, .mquery { noENG with d := 10, scope := 2 }),
   (0x203F00000000AFE6, .azero { noENG with tile := 63, scope := 2 }),
   (0x232100060407AFE7, .adrainT { noENG with d := 7, a := 4, b := 6, tile := 33, sa := true, sb := true, scope := 2 }),
   (0x232100060407AFE8, .afillT { noENG with d := 7, a := 4, b := 6, tile := 33, sa := true, sb := true, scope := 2 }),
   (0x3B2100060408AFE7, .adrainPlain { noENG with d := 8, a := 4, b := 6, tile := 33, sa := true, sb := true, sd := true, scope := 3 }),
   (0x3B2100060408AFE8, .afillPlain { noENG with d := 8, a := 4, b := 6, tile := 33, sa := true, sb := true, sd := true, scope := 3 }),
   (0x200500000010AFE9, .txv { noENG with d := 16, tile := 5, scope := 2 }),
   (0x200500001000AFEA, .vxt { noENG with a := 16, tile := 5, scope := 2 }),
   (0x210000000400AFEB, .launch { noENG with a := 4, sa := true, scope := 2 })]
theorem test_decode_engine : decodesTo engineWords = true := by decide
theorem test_ready_engine : engineWords.all (fun p => readyFor p.1 p.2) = true := by decide

/-- Words of the family, written from R257 to R264 and the opcode map. -/
def systemWords : List (DWord × Instr) :=
  [(0x000000830003EFF0, .sysr { noSYS with d := 3, sel := 3, sd := true }),
   (0x000000300400EFF1, .sysw { noSYS with a := 4, sel := 48 }),
   (0x000042000000EFF2, .trap { noSYS with imm := 66 }),
   (0x000007000000EFF3, .brk { noSYS with imm := 7 }),
   (0x000000000000EFF4, .rett noSYS),
   (0x000000010000EFF4, .rettSkip { noSYS with sel := 1 }),
   (0x000000020000EFF4, .rettKill { noSYS with sel := 2 }),
   (0x000000030000EFF4, .rettKillg { noSYS with sel := 3 }),
   (0x000000040400EFF4, .rettSel { noSYS with a := 4, sel := 4 }),
   (0x00000000040AEFF5, .mappg { noSYS with d := 10, a := 4 }),
   (0x00000000040AEFF6, .objnew { noSYS with d := 10, a := 4 }),
   (0x00000000040AEFF7, .objsetSize { noSYS with d := 10, a := 4 }),
   (0x00000001040AEFF7, .objsetPerm { noSYS with d := 10, a := 4, sel := 1 }),
   (0x00000002040AEFF7, .objsetCtab { noSYS with d := 10, a := 4, sel := 2 }),
   (0x000000030400EFF7, .objsetUnpois { noSYS with a := 4, sel := 3 }),
   (0x00000004040AEFF7, .objsetDirty { noSYS with d := 10, a := 4, sel := 4 }),
   (0x00004A00000AEFF8, .ctrrd { noSYS with d := 10, imm := 74 })]
theorem test_decode_system : decodesTo systemWords = true := by decide
theorem test_ready_system : systemWords.all (fun p => readyFor p.1 p.2) = true := by decide

/-- Encodings written out in the spec as worked examples. -/
def exampleWords1 : List (DWord × Instr) :=
  [(0x2B00000F0406AFE0, .cpasync { noENG with d := 6, a := 4, b := 15, sa := true, sb := true, sd := true, scope := 2 }),
   (0x2303000A0800AFE3, .xformExpand { noENG with a := 8, b := 10, tile := 3, sa := true, sb := true, scope := 2 }),
   (0x2F020C0A080EAFE4, .mpass { noENG with d := 14, a := 8, b := 10, c := 12, tile := 2, sa := true, sb := true, sc := true, sd := true, scope := 2 }),
   (0x200100000010AFE9, .txv { noENG with d := 16, tile := 1, scope := 2 }),
   (0x000000830003EFF0, .sysr { noSYS with d := 3, sel := 3, sd := true }),
   (0x000000300400EFF1, .sysw { noSYS with a := 4, sel := 48 }),
   (0x000042000000EFF2, .trap { noSYS with imm := 66 }),
   (0x000000040400EFF4, .rettSel { noSYS with a := 4, sel := 4 }),
   (0x000000000404EFF5, .mappg { noSYS with d := 4, a := 4 }),
   (0x00004A000006EFF8, .ctrrd { noSYS with d := 6, imm := 74 }),
   (0x0000000000042F21, .moviS { noRRI with d := 4 }),
   (0x000000020E0F2F27, .shlImmS { noRRI with d := 15, a := 14, imm := 2 }),
   (0x008000000B130F19, .mov { noRRR with d := 19, a := 11, sa := true })]
/-- Encodings written out in the spec as worked examples. -/
def exampleWords2 : List (DWord × Instr) :=
  [(0x0800000706050F14, .xorr { noRRR with d := 5, a := 6, b := 7, func := 2 }),
   (0x0000000000006106, .exit { noBR with g := { gp := 1, gn := false } }),
   (0x00008A00061D4F84, .ldc { noMEM with d := 29, a := 6, size := 2, ord := 1, scope := 4 }),
   (0x00020200080E4F84, .ldc { noMEM with d := 14, a := 8, size := 2, off := 2 }),
   (0x0000030812004F82, .stV { noMEM with a := 18, b := 8, size := 3 }),
   (0x00108A0004034F81, .ldS { noMEM with d := 3, a := 4, size := 2, ord := 1, scope := 4, off := 16 }),
   (0x00009C0C02084F98, .acas2 { noMEM with d := 8, a := 2, b := 12, size := 4, ord := 3, scope := 4 }),
   (0x0000980000004FA0, .fence { noMEM with ord := 3, scope := 4 }),
   (0x0000000304050FA1, .pin { noRRR with d := 5, a := 4, b := 3 }),
   (0x0000000300000FA2, .unpin { noRRR with b := 3 }),
   (0x420100080400AFA3, .reclaim { noENG with a := 4, b := 8, tile := 1, sb := true, scope := 4 }),
   (0x000000400600EFA5, .tlbinv { noSYS with a := 6, sa := true }),
   (0x0001920506044A90, .aadd { noMEM with g := { gp := 10, gn := false }, d := 4, a := 6, b := 5, size := 2, ord := 2, scope := 4, off := 1 })]
/-- Encodings written out in the spec as worked examples. -/
def exampleWords3 : List (DWord × Instr) :=
  [(0x0000000C00146F03, .call { noBR with d := 20, off := 12 }),
   (0x0000000014006F05, .ret { noBR with a := 20 }),
   (0x0100000603000F02, .brx { noRRR with a := 3, b := 6, sb := true }),
   (0x0800000000030F0B, .loopd { noRRR with d := 3, func := 2 }),
   (0x1501000E00010F30, .cmp { noRRR with d := 1, b := 14, type := 1, sb := true, func := 5 }),
   (0x0040000706050F10, .add { noRRR with d := 5, a := 6, b := 7, sat := true }),
   (0x0001000A09090F73, .crc { noRRR with d := 9, a := 9, b := 10, type := 1 }),
   (0x00003F8000022F22, .movhV { noRRI with d := 2, imm := 16256 }),
   (0x0000000000008F07, .waitg noXL),
   (0x001234000000EF09, .mark { noSYS with imm := 4660 }),
   (0x0100000C02040F52, .fmulx { noRRR with d := 4, a := 2, b := 12, sb := true }),
   (0x0000050D02060F45, .ffma { noRRR with d := 6, a := 2, b := 13, c := 5 }),
   (0x4000050302060F45, .ffma { noRRR with d := 6, a := 2, b := 3, c := 5, func := 16 })]
/-- Encodings written out in the spec as worked examples. -/
def exampleWords4 : List (DWord × Instr) :=
  [(0x00000006040A0F53, .dwadd { noRRR with d := 10, a := 4, b := 6 }),
   (0x0018000009080F60, .cvt { noRRR with d := 8, a := 9, type := 8, rnd := 1 }),
   (0x09040014040C0F61, .pack { noRRR with d := 12, a := 4, b := 20, type := 4, sb := true, func := 2 }),
   (0x0006010302010F64, .dot4 { noRRR with d := 1, a := 2, b := 3, c := 1, type := 6 }),
   (0x0007200402140F67, .xsect { noRRR with d := 20, a := 2, b := 4, c := 32, type := 7 }),
   (0x280000000003AFC6, .batch { noENG with d := 3, sd := true, scope := 2 }),
   (0x210000000300AFC7, .bwait { noENG with a := 3, sa := true, scope := 2 }),
   (0x210100000307AFC7, .bwait { noENG with d := 7, a := 3, tile := 1, sa := true, scope := 2 }),
   (0x210000000809AFC3, .barv { noENG with d := 9, a := 8, sa := true, scope := 2 }),
   (0x00040000040A8FB6, .redx { noXL with d := 10, a := 4, gw := true }),
   (0x0210040205068FB1, .shfl { noXL with d := 6, a := 5, b := 2, px := 4, sb := true, fn := 2 }),
   (0x0000000900007201, .bra { noBR with g := { gp := 2, gn := true }, off := 9 }),
   (0x0000020010024F80, .ldV { noMEM with d := 2, a := 16, size := 2 })]
/-- Encodings written out in the spec as worked examples. -/
def exampleWords5 : List (DWord × Instr) :=
  [(0x00F00402060ACFD0, .gadde { noGR with d := 10, a := 6, b := 2, c := 4, px := 15 }),
   (0x011003020604CFD3, .glde { noGR with d := 4, a := 6, b := 2, c := 3, px := 1, strict := true }),
   (0x005900020600CFD9, .gopen { noGR with a := 6, b := 2, cur := 1, dir := true, px := 5 }),
   (0x006100000008CFDA, .gnext { noGR with d := 8, cur := 1, px := 6 }),
   (0x440000020609CFD7, .gldv { noGR with d := 9, a := 6, b := 2, ord := 1, scope := 4 }),
   (0x480007020600CFD8, .gstv { noGR with a := 6, b := 2, c := 7, ord := 2, scope := 4 }),
   (0x000100000000CFDD, .gclose { noGR with cur := 1 })]
theorem test_decode_examples : decodesTo (exampleWords1 ++ exampleWords2 ++ exampleWords3 ++ exampleWords4 ++ exampleWords5) = true := by decide
/-- Opcode 0x21 with class bits 0: the word the spec says decodes to no instruction. -/
theorem test_decode_none : decode 0x0000000000040F21 = none := by decide

/-- R16: no guard P12. -/
theorem test_wellFormed_guard : wellFormed (.add { noRRR with g := { gp := 12, gn := false } }) = false := by decide
/-- R261: a size code that is reserved. -/
theorem test_wellFormed_fields : wellFormed (.ldV { noMEM with size := 7 }) = false := by decide
/-- R268: a member code that is not the constructor's. -/
theorem test_wellFormed_member : wellFormed (.andr { noRRR with func := 5 }) = false := by decide
theorem test_wellFormed_good : wellFormed (.add noRRR) && wellFormed (.ldV { noMEM with size := 4 }) && wellFormed (.orr { noRRR with func := 1 }) = true := by decide

/-! Small states: object-table entries and extents in device memory. -/
/-- An entry of `size` bytes with `n` extents from device address `ext` on. -/
def entBytes (size kind perm home flags ext n : Nat) : List Byte :=
  leBytes 8 size ++ [BitVec.ofNat 8 kind, BitVec.ofNat 8 perm, BitVec.ofNat 8 home, BitVec.ofNat 8 flags] ++
    leBytes 12 0 ++ leBytes 8 ext ++ leBytes 4 n ++ leBytes 4 n ++ leBytes 24 0
def withEnt (s : State) (id size kind perm home flags ext n : Nat) : State :=
  { s with mem := mapPut s.mem (64 * id) (entBytes size kind perm home flags ext n), mg := { s.mg with objtCnt := 64 } }
/-- One extent record at device address `ext`: pages from `first` on, resident in frames from `frame` on. -/
def withExt (s : State) (ext first n frame : Nat) : State :=
  { s with mem := mapPut s.mem ext (leBytes 4 first ++ leBytes 4 n ++ leBytes 8 (2 ^ 63 + frame)) }
/-- A readable and writable object of one resident page. -/
def withObj (s : State) (id kind frame : Nat) : State := withExt (withEnt s id 65536 kind 3 0 0 (0x10000 + 16 * id) 1) (0x10000 + 16 * id) 0 1 frame
def oneOp (b : OpBody) : LaneOp :=
  { id := 0, path := 0, mask := -1, uid := 0, sets := [], body := b, dv := [10], ds := [], dp := [], store := false, after := [], cur := none }
/-- A gang whose launch names a handler. -/
def withHandler (s : State) : State := onRun s 0 (fun r => { r with lr := { r.lr with handler := 0x100 } })
def theSite : Site := { pk := 0, pc := 64, cslot := 0, clause := none, hdr := 56, akind := 0, extra := [], xfer := false }
def align0 : List LaneFault := [{ lane := 0, code := .align, addr := 5 }]
/-- A path table without a free entry. -/
def fullTable (s : State) : State :=
  { s with paths := (List.range 512).map (fun k => (k, if k = 0 then pathAt s 0 else Path.at 0 0 0 0 k)) }
theorem find?_map_keys {α : Type} (f : Nat → α) (k : Nat) (xs : List Nat) :
    Map.find? (xs.map (fun j => (j, f j))) k = if k ∈ xs then some (f k) else none := by
  induction xs with
  | nil => rfl
  | cons a t ih =>
    simp only [List.map_cons, Map.find?, ih, List.mem_cons]
    by_cases h : a = k
    · subst h; simp
    · simp [h, Ne.symm h]
theorem lowestFree_none (m : Map Path) (n : Nat) : ∀ k, (∀ j, k ≤ j → j < k + n → (Map.find? m j).isSome = true) → Map.lowestFree m k n = none := by
  induction n with
  | zero => intro k _; rfl
  | succ n ih =>
    intro k h
    obtain ⟨x, hx⟩ := Option.isSome_iff_exists.mp (h k (Nat.le_refl k) (by omega))
    simp only [Map.lowestFree, hx]
    exact ih _ (fun j a b => h j (by omega) (by omega))
def oneSide : Side :=
  { pc := 0, mask := 1, depth := 0, clause := none, wait := .none, kind := .ordinary, parked := none, trap := none, stray := false,
    arrived := none, prog := Prog.fresh 1, again := false }
def someParked : Parked := { pc := 0, mask := 1, depth := 0, clause := none, xfer := false, stray := false, prog := Prog.fresh 1 }
theorem freePaths_full (s : State) : freePaths (fullTable s) 0 = 0 := by
  have : inRange (fullTable s).paths (0 * 512) (0 * 512 + 512) = (fullTable s).paths := by
    unfold inRange
    refine List.filter_eq_self.mpr (fun e he => ?_)
    simp only [fullTable, List.mem_map, List.mem_range] at he
    obtain ⟨k, hk, rfl⟩ := he
    simp [hk]
  unfold freePaths
  rw [this]
  simp [fullTable, Config.pathEntries]
theorem pathAt_full (s : State) : pathAt (fullTable s) 0 = pathAt s 0 := by simp [pathAt, fullTable, find?_map_keys]
theorem splitFits_full (s : State) (n : Nat) : splitFits (fullTable s) 0 n = decide (n ≤ 1 + (2 - (pathAt s 0).defer.length)) := by
  simp [splitFits, freePaths_full, pathAt_full]
/-- The path and its gang narrowed to one lane. -/
def oneLane (s : State) : State := onP (onG s (fun g => { g with live := 1 })) (fun p => { p with mask := 1 })
def plainA (o : Nat) : Nat := addrOf plainId o
def aliasA (o : Nat) : Nat := addrOf aliasId o
/-- `f` of the context and the counted state. -/
def meetsU (i : Instr) (s : State) (h : State → Ctx → Bool) : Bool := meets i s (fun c => h (counted s c) c)
def busyOps (s : State) : State := onG s (fun g => { g with ops := [oneOp (.writes [])] })
/-- A graph object of two resident pages with `cap` vertices. -/
def withGraph (s : State) (id frame cap : Nat) : State :=
  let s := withExt (withEnt s id 131072 2 3 0 0 (0x10000 + 16 * id) 1) (0x10000 + 16 * id) 0 2 frame
  { s with mem := mapPut s.mem (frame * 65536) (leBytes 4 cap ++ leBytes 8 0 ++ leBytes 4 1024) }
/-- The graph with the edge 0 → 1 of payload 7. -/
def withEdge (s : State) (id : Nat) : State := (mutate s .gadde id { lane := 0, u := 0, v := 1, p := 7 }).2
def withPin (s : State) (n id : Nat) : State := onG s (fun g => { g with pins := Map.put g.pins n { oid := id, min := 0xFFFFFFFF } })
def aCursor (id st rank : Nat) : Cursor :=
  { oid := id, st := st, dir := 0, slot := 0, vtx := 0, snap := 1, ver := 1, rank := rank, deg := 1, root := 1 }
def withCursor (s : State) (n : Nat) (c : Cursor) : State := onG s (fun g => putCursor g n 0 c)
def withBar (s : State) (off : Nat) (b : Bar) : State := putBar s 0 off b
/-- Bytes at the start of the Plain, where the crew's alias begins. -/
def template (s : State) (bs : List Byte) : State := { s with plain := mapPut s.plain 0 bs }
/-- The part in service: die 0 trained, two cores dealt, every feature accepted. -/
def inService (s : State) : State :=
  { s with deal := [0, 1], mg := { s.mg with svcRed := true, dieTrained := 1, hostReady := true, launchEn := true, featAcc0 := 0x7FF } }
/-- A CODE object of one page whose first words are a header and a NOP. -/
def withCode (s : State) (hdr : Nat) : State :=
  let s := withObj (withEnt s 16 65536 4 4 0 0 0x10100 1) 16 4 5
  { s with mem := mapPut (mapPut s.mem (5 * 65536) (leBytes 8 hdr ++ leBytes 8 0x0F0F)) (64 * 16 + 9) [4] }
/-- A crew in the save area. -/
def preCrew : PreCrew :=
  { run := 0, no := 0, gran := 0, size := 49, core := 0, sameCore := false, ng := 1, nvs := [8], npaths := 1, tiles := [], scratch := [],
    bars := [], gone := [], released := [], hidG := [], hidP := [], saved := false, rels := [] }
/-! ### Witnesses: for every statement with hypotheses, states and operands that meet them -/

theorem witness_DecodeOfEncode :
    controlWords.all (fun p => memberOk p.2 && encode p.2 == some p.1) = true ∧
    systemWords.all (fun p => memberOk p.2 && encode p.2 == some p.1) = true := by decide
theorem witness_EncodeOfDecode : decodesTo graphWords = true ∧ decodesTo memoryWords = true := by decide
/-- N 0 and 15, CLASS 5, YIELD 2, SETA and SETB 11; and a header refused by each field. -/
theorem witness_HeaderFields :
    (parseHeader 0x000000A700000000).isSome = true ∧ (parseHeader 0x000000A7B7BFFF5F).isSome = true ∧
    parseHeader 0x000000A600000000 = none ∧ parseHeader 0x000000A700000060 = none ∧ parseHeader 0x000000A7C0000000 = none ∧
    parseHeader 0x000001A700000000 = none ∧ parseHeader 0x000000A701C00000 = none ∧ parseHeader 0x000000A738000000 = none ∧
    parseHeader 0x000000A700100000 = none ∧ parseHeader 0x000000A702000000 = none := by decide
theorem witness_StepInvariant : Inv (ready 0x0000000000000F0F) ∧ (match step (ready 0x0000000000000F0F) with
    | .next _ => true
    | _ => false) = true := by
  refine ⟨⟨?_, ?_, ?_, ?_⟩, ?_⟩
  · decide
  · decide
  · decide
  · unfold Mgmt.ok; decide
  · decide
theorem witness_MemoryBytes : Memory.wf [(0, 1), (2 ^ 40, 255)] = true ∧ Memory.wf ([] : Map Byte) = true := by decide
/-- A state as its next step finds it. -/
def found (s : State) : State := elapse { lensSettle s with tick := s.tick + 1 }
theorem witness_StepRunsInstruction_word :
    (found wordReady).tape = [.issue 0] ∧ selected { found wordReady with tape := [] } 0 = some 0 ∧
    (Map.find? (found wordReady).paths 0).any (fun p => p.clause.any (fun cl =>
      cl.words[cl.slot]? == some (.word 0x00010006040A0F10) && decode 0x00010006040A0F10 == some (.add { noRRR with d := 10, a := 4, b := 6, type := 1 }))) = true ∧
    wordReady.lensTags = [] ∧ ∀ e ∈ wordReady.ctrs, e.2.evsel.getLsbD 31 = false := by decide
def eventReady : State := { State.reset with tape := [.event .railsGood] }
theorem witness_StepRunsInstruction_event :
    (found eventReady).tape = [.event .railsGood] ∧ encode .railsGood = none := by decide
theorem witness_ExecCompletes :
    encode .railsGood = none ∧ encode (.add { noRRR with d := 10, a := 4, b := 6, type := 1 }) ≠ none ∧ (ctxOf wordReady noGuard).isSome = true ∧
    ctxOf State.reset noGuard = none := by decide

def noGuard12 : Instr := (.nop { noRRR with g := { gp := 12, gn := false } })
def badSize : Instr := (.ldV { noMEM with d := 12, a := 4, size := 7, ord := 1, scope := 3, off := 65534 })
/-- Row 2 (class), row 3 (guard), row 4 (feature), row 5 (field, register), row 6, row 7, row 8 of R269. -/
theorem witness_ChecksInOrder :
    (∃ c, ctxOf wordReady noGuard = some c ∧ badPlace (shapeOf (.ldV { noMEM with d := 12, a := 4, size := 4, ord := 1, scope := 3, off := 65534 })) c) ∧
    (∃ c, ctxOf wordReady { gp := 12, gn := false } = some c ∧ badPlace (shapeOf noGuard12) c) ∧
    (∃ c, ctxOf { ready 0x00072006040A0F67 with mg := Mgmt.reset } noGuard = some c ∧ ¬ badPlace (shapeOf (.xsect { noRRR with d := 10, a := 4, b := 6, c := 32, type := 7 })) c ∧
      badFields { ready 0x00072006040A0F67 with mg := Mgmt.reset } (shapeOf (.xsect { noRRR with d := 10, a := 4, b := 6, c := 32, type := 7 })) c) ∧
    (∃ c, ctxOf (ready 0xFFFE6F00040C4F80) noGuard = some c ∧ ¬ badPlace (shapeOf badSize) c ∧
      badFields (ready 0xFFFE6F00040C4F80) (shapeOf badSize) c) ∧
    (∃ c, ctxOf (onG wordReady (fun g => { g with nv := 10 })) noGuard = some c ∧ ¬ badPlace (shapeOf (.add { noRRR with d := 10, a := 4, b := 6, type := 1 })) c ∧
      badFields (onG wordReady (fun g => { g with nv := 10 })) (shapeOf (.add { noRRR with d := 10, a := 4, b := 6, type := 1 })) c) ∧
    (∃ c, ctxOf (ready 0x00000000040AEFF5) noGuard = some c ∧ ¬ badPlace (shapeOf (.mappg { noSYS with d := 10, a := 4 })) c ∧
      ¬ badFields (ready 0x00000000040AEFF5) (shapeOf (.mappg { noSYS with d := 10, a := 4 })) c ∧ (shapeOf (.mappg { noSYS with d := 10, a := 4 })).sup = true ∧ c.p.kind ≠ .sup) ∧
    (∃ c, ctxOf (ready 0x00030006040B0F10) noGuard = some c ∧ ¬ badPlace (shapeOf (.add { noRRR with d := 11, a := 4, b := 6, type := 3 })) c ∧
      ¬ badFields (ready 0x00030006040B0F10) (shapeOf (.add { noRRR with d := 11, a := 4, b := 6, type := 3 })) c ∧ ∃ n ∈ (shapeOf (.add { noRRR with d := 11, a := 4, b := 6, type := 3 })).even, n % 2 = 1) ∧
    (let s := onP (ready 0x12345678000A2F21) (fun p => { p with mask := 1 })
     ∃ c, ctxOf s noGuard = some c ∧ precheck s (shapeOf (.moviS { noRRI with d := 10, imm := 305419896 })) c = none ∧ (shapeOf (.moviS { noRRI with d := 10, imm := 305419896 })).wS = true ∧ c.act ≠ 0 ∧
       c.p.mask ≠ c.g.live ∧ (shapeOf (.moviS { noRRI with d := 10, imm := 305419896 })).gw = false) := by
  unfold badPlace badFields
  refine ⟨⟨_, rfl, ?_⟩, ⟨_, rfl, ?_⟩, ⟨_, rfl, ?_, ?_⟩, ⟨_, rfl, ?_, ?_⟩, ⟨_, rfl, ?_, ?_⟩, ⟨_, rfl, ?_, ?_, ?_, ?_⟩,
    ⟨_, rfl, ?_, ?_, ?_⟩, ⟨_, rfl, ?_, ?_, ?_, ?_, ?_⟩⟩ <;> decide

/-- A gang of which one lane waits for the rest; one whose two paths both wait, the current one the older; a wait with a deferred
side; a destination that a load still writes. -/
theorem witness_WaitsBeforeEffect :
    (let s := onP (ready 0x0000000000008F07) (fun p => { p with mask := 1 })
     ∃ c, ctxOf s noGuard = some c ∧ precheck s (shapeOf (.waitg noXL)) c = none ∧ (shapeOf (.waitg noXL)).gw = true ∧
       c.p.kind = .ordinary ∧ c.p.again = false ∧ c.p.mask ≠ c.g.live ∧ c.p.defer = [] ∧
       gangMismatch { s with paths := Map.put s.paths c.pk { c.p with pc := c.cl.hdr, clause := none, wait := .gang } } c.gk = false) ∧
    (let r := ready 0x0000000000008F07
     let s := { onP r (fun p => { p with mask := 1 }) with
       paths := Map.put (onP r (fun p => { p with mask := 1 })).paths 1 { Path.at 0 64 (-2) 0 1 with wait := .gang } }
     ∃ c, ctxOf s noGuard = some c ∧ precheck s (shapeOf (.waitg noXL)) c = none ∧ c.p.mask ≠ c.g.live ∧ c.p.defer = [] ∧
       gangMismatch { s with paths := Map.put s.paths c.pk { c.p with pc := c.cl.hdr, clause := none, wait := .gang } } c.gk = true ∧
       oldestOf { s with paths := Map.put s.paths c.pk { c.p with pc := c.cl.hdr, clause := none, wait := .gang } } c.gk = some c.pk) ∧
    (let s := onP (ready 0x0000000000008F07) (fun p => { p with mask := 1, defer := [oneSide] })
     ∃ c, ctxOf s noGuard = some c ∧ precheck s (shapeOf (.waitg noXL)) c = none ∧ c.p.again = false ∧ c.p.mask ≠ c.g.live ∧
       c.p.defer = [oneSide] ∧ gangMismatch { s with
         paths := Map.put s.paths c.pk { c.p with pc := c.cl.hdr, clause := none, wait := .gang } } c.gk = false) ∧
    (let s := onG (ready 0x00010006040A0F10) (fun g => { g with ops := [oneOp (.writes [.v 10 0 1])] })
     ∃ c, ctxOf s noGuard = some c ∧ precheck s (shapeOf (.add { noRRR with d := 10, a := 4, b := 6, type := 1 })) c = none ∧ (shapeOf (.add { noRRR with d := 10, a := 4, b := 6, type := 1 })).gw = false ∧
       uniformBad (shapeOf (.add { noRRR with d := 10, a := 4, b := 6, type := 1 })) c = false ∧ wawPending (shapeOf (.add { noRRR with d := 10, a := 4, b := 6, type := 1 })) c = true) := by
  refine ⟨⟨_, rfl, ?_⟩, ⟨_, rfl, ?_⟩, ⟨_, rfl, ?_⟩, ⟨_, rfl, ?_⟩⟩ <;> decide

/-- All lanes fault; one lane faults and an entry is free; one lane faults and none is. -/
theorem witness_TrapEntry :
    (let s := withHandler wordReady
     let p := pathAt s 0
     Map.find? s.paths 0 = some p ∧ p.kind = .ordinary ∧ chooseHandler align0 = (.user, .align) ∧
     (runAt s (crewAt s (gangAt s p.gang).crew).run).lr.handler ≠ 0xFFFFFFFF ∧
     p.mask &&& ~~~ faultMask (allLanes (-1) .align) = 0 ∧ chooseHandler (allLanes (-1) .align) = (.user, .align) ∧
     p.mask &&& ~~~ faultMask align0 ≠ 0 ∧ freePath s (theSite.pk / 512) = some 1) := by decide
/-- First touches of two pages, a page that is not resident on the host, for one lane and for all. -/
theorem witness_TrapEntry_sup :
    let p := pathAt wordReady 0
    let ft : List LaneFault := [{ lane := 0, code := .firstTouch, addr := addrOf 32 196608 }, { lane := 2, code := .firstTouch, addr := addrOf 32 65536 }]
    let ph : List LaneFault := (lanes (-1)).map (fun l => { lane := l, code := .pageHost, addr := addrOf 32 65536 })
    Map.find? wordReady.paths 0 = some p ∧ p.kind = .ordinary ∧ ft.Pairwise (fun a b => a.lane < b.lane) ∧
      chooseHandler ft = (.sup, .firstTouch) ∧ p.mask &&& ~~~ faultMask ft ≠ 0 ∧ freePath wordReady (theSite.pk / 512) = some 1 ∧
      ph.Pairwise (fun a b => a.lane < b.lane) ∧ chooseHandler ph = (.sup, .pageHost) ∧ p.mask &&& ~~~ faultMask ph = 0 ∧
      chooseHandler (ph.take 3) = (.sup, .pageHost) ∧ p.mask &&& ~~~ faultMask (ph.take 3) ≠ 0 := by decide
theorem witness_TrapEntry_parked :
    let s := fullTable (withHandler wordReady)
    let p := pathAt (withHandler wordReady) 0
    Map.find? s.paths 0 = some p ∧ p.kind = .ordinary ∧ freePath s 0 = none ∧ p.parked = none ∧
      (runAt s (crewAt s (gangAt s p.gang).crew).run).lr.handler = 0x100 ∧ p.mask &&& ~~~ faultMask align0 ≠ 0 := by
  refine ⟨?_, ?_, ?_, ?_, ?_, ?_⟩
  · simp [fullTable, find?_map_keys]
  · decide
  · unfold freePath
    refine lowestFree_none _ _ _ (fun j _ h => ?_)
    simp only [fullTable, find?_map_keys, List.mem_range, Config.pathEntries] at h ⊢
    simp [show j < 512 by omega]
  · decide
  · decide
  · decide
theorem witness_HandlerOrder :
    (∃ f ∈ [({ lane := 0, code := .align, addr := 0 } : LaneFault), { lane := 1, code := .firstTouch, addr := 0 }],
      f.code = .firstTouch) ∧
    ((∀ f ∈ [({ lane := 0, code := .align, addr := 0 } : LaneFault), { lane := 1, code := .pageHost, addr := 0 }],
      f.code ≠ .firstTouch) ∧
     ∃ f ∈ [({ lane := 0, code := .align, addr := 0 } : LaneFault), { lane := 1, code := .pageHost, addr := 0 }],
      f.code = .pageHost) ∧
    (align0 ≠ [] ∧ ∀ f ∈ align0, f.code ≠ .firstTouch ∧ f.code ≠ .pageHost) := by decide
theorem witness_KilledLanes :
    Map.find? wordReady.gangs 0 = some (gangAt wordReady 0) ∧ (1 : Mask) &&& (gangAt wordReady 0).live ≠ 0 ∧
    (-1 : Mask) &&& (gangAt wordReady 0).live ≠ 0 ∧
    Map.find? wordReady.runs (crewAt wordReady (gangAt wordReady 0).crew).run = some (runAt wordReady 0) ∧
    Map.find? wordReady.paths 0 = some (pathAt wordReady 0) ∧ (pathAt wordReady 0).kind = .ordinary ∧
    (pathAt (asSup wordReady) 0).kind ≠ .ordinary ∧ (chooseHandler align0).1 = .user ∧
    (runAt wordReady (crewAt wordReady (gangAt wordReady 0).crew).run).lr.handler = 0xFFFFFFFF := by decide
/-- The one slot of a clause; slot 0 of two; the last slot of a clause whose YIELD is 3. -/
theorem witness_ClauseFlow :
    (let p := pathAt wordReady 0
     p.clause.isSome = true ∧ p.parked = none ∧ p.rett = none ∧ p.clause.any (fun c => c.slot == c.n) = true) ∧
    (pathAt (onP wordReady (fun p => { p with clause := p.clause.map (fun c => { c with n := 1 }) })) 0).clause.any
      (fun c => decide (c.slot < c.n)) = true ∧
    (pathAt (onP wordReady (fun p => { p with clause := p.clause.map (fun c => { c with yld := 3 }) })) 0).clause.any
      (fun c => c.slot == c.n && c.yld == 3) = true := by decide

theorem witness_IntegerArithmetic : ∀ p ∈ integerWords, ∃ s c, Runs p.2 s c := runs_of_ready test_ready_integer
theorem witness_BitInstructions : ∀ p ∈ integerWords, ∃ s c, Runs p.2 s c := runs_of_ready test_ready_integer
/-- The boundary of a field: a length of 0 and of the whole width. -/
theorem witness_MovesAndFields : (∀ p ∈ movesWords, ∃ s c, Runs p.2 s c) ∧
    meets (.bfe { noRRR with d := 10, a := 4, b := 6 }) (ready 0x00000006040A0F17) (fun c => decide (min (opB noRRR c 1 0 / 256 % 256) 32 = 0)) = true :=
  ⟨runs_of_ready test_ready_moves, by decide⟩
theorem witness_Immediates : ∀ p ∈ movesWords, ∃ s c, Runs p.2 s c := runs_of_ready test_ready_moves
theorem witness_ElementValues : ∀ j < 32, (fun j => j % 4) j < 2 ^ (ityOf 7).w ∧ (3 : Nat) < (ityOf 7).n := by decide
/-- An index at the allocation's end and one beyond it; an outstanding load; VGROW at, below and above VMAX. -/
theorem witness_ComputedRegisters :
    meets (.vrdi { noRRR with d := 10, a := 4 }) (withV (ready 0x00000000040A0F1C) 4 255) (fun c => decide (opA noRRR c 1 0 < 256) &&
      !c.g.ops.any (fun o => (o.mask &&& c.p.mask) != 0 && !o.dv.isEmpty)) = true ∧
    meets (.vwri { noRRR with a := 4, b := 6 }) (withV (ready 0x0000000604000F1D) 4 256) (fun c => decide (c.g.nv ≤ rv c.g 4 0)) = true ∧
    meets (.vrdi { noRRR with d := 40, a := 4 }) (onG (ready 0x0000000004280F1C) (fun g => { g with ops := [oneOp (.writes [.v 10 0 1])] }))
      (fun c => c.g.ops.any (fun o => (o.mask &&& c.p.mask) != 0 && !o.dv.isEmpty)) = true ∧
    meets (.vgrow { noRRI with imm := 256 }) (onRun (ready 0x0000010000002F1E) 0 (fun r => { r with lr := { r.lr with vmax := 31 } }))
      (fun c => decide (c.lr.vmax * 8 < 256)) = true ∧
    meets (.vgrow { noRRI with imm := 256 }) (ready 0x0000010000002F1E) (fun c => decide (256 ≤ c.lr.vmax * 8 ∧ 256 ≤ c.g.nv)) = true ∧
    (let s := onG (ready 0x0000010000002F1E) (fun g => { g with nv := 248 })
     meets (.vgrow { noRRI with imm := 256 }) s (fun c => decide (256 ≤ c.lr.vmax * 8 ∧ c.act ≠ 0 ∧ c.g.nv < 256 ∧
       growthFits (counted s c) c.gk 256 = true ∧ growthBehind (counted s c) c.pk c.p = false)) = true) ∧
    (let s := onG (ready 0x0000010000002F1E) (fun g => { g with nv := 248 })
     let s := { s with
       gangs := Map.put s.gangs 1 { gangAt s 0 with no := 1, stamp := 0 }
       paths := Map.put s.paths 1 { Path.at 1 64 (-1) 0 1 with wait := .growth 256 } }
     meets (.vgrow { noRRI with imm := 256 }) (onG s (fun g => { g with stamp := 5 })) (fun c => decide (256 ≤ c.lr.vmax * 8 ∧ c.act ≠ 0 ∧
       c.g.nv < 256 ∧ growthBehind (counted (onG s (fun g => { g with stamp := 5 })) c) c.pk c.p = true)) = true) := by
  decide
theorem witness_PredicateInstructions : ∀ p ∈ predicateWords, ∃ s c, Runs p.2 s c := runs_of_ready test_ready_predicate
theorem witness_StringInstructions : ∀ p ∈ narrowWords, ∃ s c, Runs p.2 s c := runs_of_ready test_ready_narrow
/-- The three TYPEs of CRC, and one that traps. -/
theorem witness_CrcOfBytes :
    meets (.crc { noRRR with d := 10, a := 4, b := 6, type := 1 }) (ready 0x00010006040A0F73) (fun _ => true) = true ∧ meets (.crc { noRRR with d := 10, a := 4, b := 6, type := 5 }) (ready 0x00050006040A0F73) (fun _ => true) = true ∧
    meets (.crc { noRRR with d := 10, a := 4, b := 6, type := 7 }) (ready 0x00070006040A0F73) (fun _ => true) = true ∧
    ∃ c, ctxOf (ready 0x00000006040A0F73) noGuard = some c ∧ ¬ badPlace (shapeOf (.crc { noRRR with d := 10, a := 4, b := 6 })) c := by
  unfold badPlace
  refine ⟨by decide, by decide, by decide, _, rfl, by decide⟩
theorem witness_Hmix :
    meets (.hmix { noRRR with d := 10, a := 4, b := 6, type := 3 }) (ready 0x00030006040A0F74) (fun _ => true) = true ∧
    ∃ c, ctxOf (ready 0x00010006040A0F74) noGuard = some c ∧ ¬ badPlace (shapeOf (.hmix { noRRR with d := 10, a := 4, b := 6, type := 1 })) c := by
  unfold badPlace
  refine ⟨by decide, _, rfl, by decide⟩
theorem witness_NopOnlyAdvances :
    meets (.nop noRRR) (ready 0x0000000000000F0F) (fun _ => true) = true ∧ guardOk { gp := 12, gn := false } = false ∧
    (ctxOf (ready 0x0000000000000C0F) { gp := 12, gn := false }).isSome = true := by decide
theorem witness_DotProducts : ∀ p ∈ narrowWords, ∃ s c, Runs p.2 s c := runs_of_ready test_ready_narrow
theorem witness_FloatArithmetic : ∀ p ∈ floatWords, ∃ s c, Runs p.2 s c := runs_of_ready test_ready_float
theorem witness_FloatOther : ∀ p ∈ floatWords, ∃ s c, Runs p.2 s c := runs_of_ready test_ready_float
/-- A gang with FPX whose division by zero raises DIVIDE. -/
theorem witness_FloatArithmetic_trap :
    meets (.fdiv { noRRR with d := 10, a := 4, b := 6, rnd := 2 }) (onG (ready 0x00200006040A0F47) (fun g => { g with fpx := true })) (fun c => c.g.fpx && c.act != 0) = true := by decide
theorem witness_ExactPairs : ∀ p ∈ floatWords, ∃ s c, Runs p.2 s c := runs_of_ready test_ready_float
theorem witness_Conversions : ∀ p ∈ narrowWords, ∃ s c, Runs p.2 s c := runs_of_ready test_ready_narrow
/-- Zero of each sign, NaN, saturation, and a code of each 8-bit and 4-bit format. -/
theorem witness_Rounding :
    FVal.fin true 0 0 = .fin true 0 0 ∧ (decodeF fF8a 0x7E).isNan = false ∧ (decodeF fF8b 0x7B).isNan = false ∧
    (decodeF fF4 15).isNan = false ∧ (15 : Nat) < 2 ^ fF4.width ∧ (0x7E : Nat) < 2 ^ fF8a.width := by decide

theorem witness_Xsect :
    meets (.xsect { noRRR with d := 10, a := 4, b := 6, c := 32, type := 7 }) (ready 0x00072006040A0F67) (fun c => c.act != 0) = true ∧ meets (.xsect { noRRR with d := 10, a := 4, b := 6, c := 32, type := 6 }) (ready 0x00062006040A0F67) (fun _ => true) = true := by decide
/-- XSECT without the feature, of another TYPE, with C at the end of the allocation, with an odd A. -/
theorem witness_Xsect_traps :
    (∃ c, ctxOf { ready 0x00072006040A0F67 with mg := Mgmt.reset } noGuard = some c ∧ ¬ badPlace (shapeOf (.xsect { noRRR with d := 10, a := 4, b := 6, c := 32, type := 7 })) c ∧
      feature { ready 0x00072006040A0F67 with mg := Mgmt.reset } 3 = false) ∧
    (∃ c, ctxOf (ready 0x00012006040A0F67) noGuard = some c ∧ ¬ badPlace (shapeOf (.xsect { noRRR with d := 10, a := 4, b := 6, c := 32, type := 1 })) c) ∧
    (∃ c, ctxOf (ready 0x0007F106040A0F67) noGuard = some c ∧ ¬ badPlace (shapeOf (.xsect { noRRR with d := 10, a := 4, b := 6, c := 241, type := 7 })) c ∧ c.g.nv ≤ 241 + 15) ∧
    (∃ c, ctxOf (ready 0x00072006030A0F67) noGuard = some c ∧ ¬ badPlace (shapeOf (.xsect { noRRR with d := 10, a := 3, b := 6, c := 32, type := 7 })) c ∧
      ¬ badFields (ready 0x00072006030A0F67) (shapeOf (.xsect { noRRR with d := 10, a := 3, b := 6, c := 32, type := 7 })) c) := by
  unfold badPlace badFields
  refine ⟨⟨_, rfl, ?_⟩, ⟨_, rfl, ?_⟩, ⟨_, rfl, ?_⟩, ⟨_, rfl, ?_⟩⟩ <;> decide
theorem witness_CrossLane : ∀ p ∈ crosslaneWords, ∃ s c, Runs p.2 s c := runs_of_ready test_ready_crosslane
theorem witness_LaneFolds : (∀ v ∈ [0, 2 ^ (ityOf 7).w - 1], v < 2 ^ (ityOf 7).w) ∧ (0 : Nat) < (ityOf 7).w := by decide
/-- The three kinds of SEGRED. -/
theorem witness_Reductions :
    meets (.segred { noXL with d := 10, a := 4, px := 4, type := 1 }) (ready 0x00001400040A8FB7) (fun _ => true) = true ∧ meets (.segred { noXL with d := 10, a := 4, px := 4, type := 1, fn := 16 }) (ready 0x10001400040A8FB7) (fun _ => true) = true ∧
    meets (.segred { noXL with d := 10, a := 4, px := 4, fn := 32 }) (ready 0x20000400040A8FB7) (fun _ => true) = true ∧ meets (.redf { noXL with d := 10, a := 4, type := 1, rnd := 3 }) (ready 0x00031000040A8FB5) (fun _ => true) = true ∧
    meets (.redx { noXL with d := 10, a := 4 }) (ready 0x00000000040A8FB6) (fun _ => true) = true := by decide

def tracing (w : BitVec 64) : State :=
  let s := withObj (ready 0x001234000000EF09) 32 1 5
  { s with mg := { s.mg with traceCtl := w } }
set_option maxRecDepth 20000 in
/-- MARKEN 0, no buffer, a full buffer, the last free slot, a full buffer in wrap mode. -/
theorem witness_WaitsAndMarkers :
    meets (.waitg noXL) (ready 0x0000000000008F07) (fun _ => true) = true ∧ meets (.yieldp noSYS) (ready 0x000000000000EF08) (fun _ => true) = true ∧ meets (.sleep { noSYS with imm := 5 }) (ready 0x000005000000EF0A) (fun _ => true) = true ∧
    meets (.mark { noSYS with imm := 4660 }) (ready 0x001234000000EF09) (fun _ => true) = true ∧ meets (.loopd { noRRR with d := 3, func := 2 }) (ready 0x0800000000030F0B) (fun _ => true) = true ∧
    (tracing 0).mg.traceCtl.getLsbD 62 = false ∧
    (let s := tracing 0x4000000000000000
     s.mg.traceCtl.getLsbD 62 = true ∧ s.mg.traceCtl.toNat / 2 ^ 24 % 2 ^ 24 = 0) ∧
    (let s := tracing 0x4000000020000000
     let t := { s with mg := { s.mg with markNext := 8192 } }
     let u := { s with mg := { s.mg with markNext := 8191 } }
     s.mg.traceCtl.toNat / 2 ^ 24 % 2 ^ 24 = 32 ∧ ringCap t 32 8 = 8192 ∧ t.mg.traceCtl.getLsbD 61 = false ∧
     8192 ≤ (t.mg.markNext - t.mg.markRead).toNat ∧ ¬ 8192 ≤ (u.mg.markNext - u.mg.markRead).toNat) ∧
    (tracing 0x6000000020000000).mg.traceCtl.getLsbD 61 = true := by decide

/-- Lanes of a branch: none, all, some with room for a new entry. -/
theorem witness_Transfers :
    (let s := ready 0x0000000900006F01
     ∃ c, ctxOf s noGuard = some c ∧ Map.find? s.paths c.pk = some c.p ∧ c.p.clause = some c.cl ∧ c.p.rett = none ∧
       c.p.mask ≠ 0 ∧ c.p.parked = none ∧ c.p.mask &&& ~~~ (-1 : Mask) = 0 ∧ c.p.mask &&& ~~~ (1 : Mask) ≠ 0 ∧
       splitFits s c.pk 2 = true ∧ freePath s (c.pk / 512) = some 1) ∧
    (let s := ready 0x0000000900006F01
     ∃ c, ctxOf s noGuard = some c ∧ splitFits { s with paths := s.paths } c.pk 2 = true) := by
  refine ⟨⟨_, rfl, ?_⟩, ⟨_, rfl, ?_⟩⟩ <;> decide
/-- No entry is free: with a side to spare, and with both sides taken. -/
theorem witness_Transfers_full :
    let s := fullTable (ready 0x0000000900006F01)
    let t := fullTable (onP (ready 0x0000000900006F01) (fun p => { p with defer := [oneSide, oneSide] }))
    splitFits s 0 2 = true ∧ splitFits t 0 2 = false ∧ (pathAt t 0).rett = none := by
  exact ⟨(splitFits_full _ _).trans (by decide), (splitFits_full _ _).trans (by decide), by simp only [pathAt_full]; decide⟩
theorem witness_Branches :
    meets (.bra { noBR with off := 9 }) (ready 0x0000000900006F01) (fun c => c.act != 0) = true ∧
    meets (.call { noBR with d := 20, off := 12 }) (onP (ready 0x0000000C00146F03) (fun p => { p with depth := 65535 })) (fun c => c.act != 0 && c.p.depth == 65535) = true ∧
    (let s := onP (ready 0x0000000C00146F03) (fun p => { p with depth := 65534 })
     meets (.call { noBR with d := 20, off := 12 }) s (fun c => decide (c.p.depth < 65535 ∧ c.p.rett = none ∧
       splitFits (counted s c) c.pk (sideCount c.p ((lanes c.act).map (fun l => (l, { pc := 0, depth := 65535, stray := false })))) = true)) = true) ∧
    meets (.ret { noBR with a := 20 }) (ready 0x0000000014006F05) (fun c => c.p.depth == 0) = true ∧
    meets (.ret { noBR with a := 20 }) (onP (ready 0x0000000014006F05) (fun p => { p with depth := 1 })) (fun c => c.p.depth != 0) = true ∧
    meets (.exit noBR) (ready 0x0000000000006F06) (fun c => c.p.mask &&& ~~~ c.act == 0) = true ∧
    meets (.exit { noBR with g := { gp := 1, gn := false } }) (onG (ready 0x0000000000006106) (fun g => wp g 1 0 true)) (fun c => c.p.mask &&& ~~~ c.act != 0 && c.act == 1) = true := by
  decide
/-- A CALL of some lanes that finds no room: `counted` leaves the path table as it is. -/
theorem witness_Branches_full :
    let t := fullTable (onP (ready 0x0000000C00146103) (fun p => { p with defer := [oneSide, oneSide] }))
    splitFits t 0 2 = false ∧ (pathAt t 0).depth < 65535 ∧ (pathAt t 0).rett = none := by
  exact ⟨(splitFits_full _ _).trans (by decide), by simp only [pathAt_full]; decide, by simp only [pathAt_full]; decide⟩

def targetsAt (w : DWord) (a : Nat) : State :=
  onP (withS (withObj (ready w) 32 6 5) 6 a) (fun p => { p with mask := 1 })
def entryCheck (s : State) (c : Ctx) (a : Nat) : Option TrapCode := check (counted s c) { c.who with use := .targets } a 8 .read
/-- A request of the lane to a peer's TARGETS object, with its outcome. -/
def laneAsked (s : State) (answer : Option (List Byte)) (fail : Option Nat) : State :=
  { s with peerOps := [{ tag := 5, port := 0, op := 1, owner := .lane 0 0 0 0, addr := 0, n := 8, answer := answer, fail := fail, sofar := [],
                         stream := false, segs := [] }] }
/-- A peer's TARGETS object, with a live port to it. -/
def farTargets (w : DWord) : State :=
  let s := onP (withS (withEnt (ready w) 32 65536 6 1 2 0 0 0) 6 (addrOf 32 0)) (fun p => { p with mask := 1 })
  { s with zports := [(0, { zportAt s 0 with up := true })], mg := { s.mg with routes := [(0, [0])], fabricNo := 1 } }
set_option maxRecDepth 20000 in
/-- The lane reads entry 0 of a TARGETS object; a misaligned base, one not a multiple of 8, an entry of another object, an
identifier that names none; a peer's object, before its answer; no room. -/
theorem witness_IndexedBranches :
    (∀ i ∈ [((.brx { noRRR with a := 3, b := 6, sb := true }), 0x0100000603000F02), ((.callx { noRRR with d := 20, a := 3, b := 6, sb := true }), 0x0100000603140F04)],
      meets i.1 (targetsAt i.2 (addrOf 32 0)) (fun c =>
        let u := counted (targetsAt i.2 (addrOf 32 0)) c
        let base := rsw c.g 6 2
        base % 16 == 0 && rv c.g 3 0 == 0 && c.act == 1 && entryCheck (targetsAt i.2 (addrOf 32 0)) c base == none &&
          peerOpOf u c 0 == none && peerHome u c.who base == none && decide (c.p.depth < 65535) && c.p.rett == none &&
          splitFits u c.pk 1) = true ∧
      (∀ x ∈ [(8, none), (4, some TrapCode.align)],
        meets i.1 (targetsAt i.2 (addrOf 32 x.1)) (fun c => rsw c.g 6 2 % 16 != 0 && c.act == 1 &&
          entryCheck (targetsAt i.2 (addrOf 32 x.1)) c (rsw c.g 6 2) == x.2) = true) ∧
      meets i.1 (withV (targetsAt i.2 (addrOf 32 0)) 3 0xFFFFFFFF) (fun c => rsw c.g 6 2 % 16 == 0 &&
        decide (oidOf (rsw c.g 6 2 + 16 * rv c.g 3 0) = 32 ∧ 65536 ≤ 16 * rv c.g 3 0)) = true ∧
      meets i.1 (targetsAt i.2 (addrOf 33 0)) (fun c => entryCheck (targetsAt i.2 (addrOf 33 0)) c (rsw c.g 6 2) ==
        some .objectInvalid) = true ∧
      meets i.1 (withV (targetsAt i.2 (addrOf 32 (2 ^ 40 - 16))) 3 1) (fun c => decide (oidOf (rsw c.g 6 2 + 16 * rv c.g 3 0) = 33)) = true ∧
      meetsU i.1 (farTargets i.2) (fun u c => entryCheck (farTargets i.2) c (addrOf 32 0) == none &&
        (peerHome u c.who (addrOf 32 0)).isSome && peerOpOf u c 0 == none) = true ∧
      meetsU i.1 (laneAsked (farTargets i.2) (some (leBytes 8 64)) none) (fun u c => (peerOpOf u c 0).any (fun o =>
        o.answer == some (leBytes 8 64))) = true ∧
      meetsU i.1 (laneAsked (farTargets i.2) none (some 5)) (fun u c => (peerOpOf u c 0).any (fun o => o.fail == some 5)) = true) ∧
    meets (.callx { noRRR with d := 20, a := 3, b := 6, sb := true }) (onP (ready 0x0100000603140F04) (fun p => { p with depth := 65535 })) (fun c => c.act != 0 && decide (65535 ≤ c.p.depth)) = true := by
  decide
/-- A CALLX of some lanes that finds no room. -/
theorem witness_IndexedBranches_full :
    let t := fullTable (onP (targetsAt 0x0100000603140104 (addrOf 32 0)) (fun p => { p with defer := [oneSide, oneSide] }))
    splitFits t 0 2 = false ∧ (pathAt t 0).depth < 65535 ∧ (pathAt t 0).rett = none := by
  exact ⟨(splitFits_full _ _).trans (by decide), by simp only [pathAt_full]; decide, by simp only [pathAt_full]; decide⟩

/-- TRAP with lanes and with none; a return in a handler, at a fault with and without a clause, and outside one. -/
theorem witness_TrapInstructions :
    (∀ x ∈ [((.trap { noSYS with imm := 66 }), 0x000042000000EFF2), ((.brk { noSYS with imm := 7 }), 0x000007000000EFF3)], meets x.1 (ready x.2) (fun c => c.act != 0) = true) ∧
    meets (.trap { noSYS with g := { gp := 1, gn := false }, imm := 66 }) (ready 0x000042000000E1F2) (fun c => c.act == 0) = true ∧
    (∀ x ∈ [((.rett noSYS), 0x000000000000EFF4), ((.rettSkip { noSYS with sel := 1 }), 0x000000010000EFF4), ((.rettKill { noSYS with sel := 2 }), 0x000000020000EFF4), ((.rettKillg { noSYS with sel := 3 }), 0x000000030000EFF4),
        ((.rettSel { noSYS with a := 4, sel := 4 }), 0x000000040400EFF4)],
      meets x.1 (ready x.2) (fun c => c.p.trap.isNone) = true ∧
      meets x.1 (asHandler .user (ready x.2)) (fun c => c.p.trap.any (fun t => t.clause.isSome)) = true) ∧
    meets (.rettSkip { noSYS with sel := 1 }) (onP (asHandler .user (ready 0x000000010000EFF4)) (fun p => { p with trap := p.trap.map (fun t => { t with clause := none }) }))
      (fun c => c.p.trap.any (fun t => t.clause.isNone)) = true ∧
    (let p := pathAt (onP (asHandler .user wordReady) (fun p => { p with vectored := false })) 0
     p.vectored = false ∧ p.wait = .none ∧ p.kind ≠ .sup ∧ wordReady.mg.tripped = false) ∧
    (let p := pathAt (asSup wordReady) 0
     p.kind = .sup ∧ p.trap.isSome = true) := by decide
/-- A handler whose lanes are live, with and without parked lanes; a clause at its end with a RETT. -/
theorem witness_ReturnFromTrap :
    (let p := pathAt (asHandler .user wordReady) 0
     p.trap.isSome = true ∧ p.mask ≠ 0 ∧ p.parked = none ∧ p.mask &&& ~~~ (-1 : Mask) = 0 ∧ p.mask &&& ~~~ (1 : Mask) ≠ 0) ∧
    (let p := pathAt (onP (asHandler .user wordReady) (fun p => { p with parked := some { someParked with xfer := true } })) 0
     p.trap.isSome = true ∧ p.mask ≠ 0 ∧ p.parked.any (fun d => d.xfer) = true) ∧
    (let p := pathAt (onP (asHandler .user wordReady) (fun p => { p with parked := some someParked })) 0
     p.parked.any (fun d => !d.xfer) = true) ∧
    (let p := pathAt (onP (asHandler .user wordReady) (fun p => { p with rett := some (1, 0) })) 0
     p.clause.any (fun c => decide (c.n ≤ c.slot)) = true ∧ p.rett = some (1, 0)) := by decide
theorem witness_SpecialRegisters :
    meets (.sysr { noSYS with d := 3, sel := 3, sd := true }) (ready 0x000000830003EFF0) (fun c => c.p.trap.isNone) = true ∧
    meets (.sysr { noSYS with d := 2, sel := 9 }) (asHandler .user (ready 0x000000090002EFF0)) (fun c => c.p.trap.isSome) = true ∧
    meets (.sysw { noSYS with a := 4, sel := 8 }) (ready 0x000000080400EFF1) (fun c => c.act != 0) = true ∧ meets (.sysw { noSYS with a := 4, sel := 48 }) (asSup (ready 0x000000300400EFF1)) (fun _ => true) = true ∧
    meets (.sysw { noSYS with a := 4, sel := 55 }) (asSup (ready 0x000000370400EFF1)) (fun _ => true) = true ∧
    meets (.ctrrd { noSYS with d := 10 }) (ready 0x00000000000AEFF8) (fun _ => true) = true ∧ meets (.ctrrd { noSYS with d := 10, imm := 74 }) (ready 0x00004A00000AEFF8) (fun _ => true) = true := by decide

/-- A record that OBJNEW reads as a template it accepts, and the identifier it finds. -/
def newObject (s : State) (id : Option Nat) : Bool :=
  meetsU (.objnew { noSYS with d := 10, a := 4 }) s (fun u c => c.act != 0 && !pendingOps c && peerOpOf u c 0 == none && peerHome u c.who (aliasA 0) == none &&
    (List.range 8).all (fun i => check u { c.who with noWatch := true } (aliasA 0 + 8 * i) 8 .read == none) &&
    templateBad u (loadBytes u c.who (aliasA 0) 64) == none && freeId u == id)
set_option maxRecDepth 20000 in
theorem witness_ObjectTableInstructions :
    (∀ x ∈ [((.mappg { noSYS with g := { gp := 1, gn := false }, d := 10, a := 4 }), 0x00000000040AE1F5), ((.objnew { noSYS with g := { gp := 1, gn := false }, d := 10, a := 4 }), 0x00000000040AE1F6), ((.objsetSize { noSYS with g := { gp := 1, gn := false }, d := 10, a := 4 }), 0x00000000040AE1F7)],
      meets x.1 (asSup (ready x.2)) (fun c => c.act == 0) = true) ∧
    meets (.mappg { noSYS with d := 10, a := 4 }) (asSup (ready 0x00000000040AEFF5)) (fun c => c.act != 0 && !pendingOps c) = true ∧ (asSup (ready 0x00000000040AEFF5)).migr = none ∧
    meets (.mappg { noSYS with d := 10, a := 4 }) (onP (onG (asSup (ready 0x00000000040AEFF5)) (fun g => { g with ops := [{ oneOp (.writes []) with dv := [] }] })) (fun p => { p with prog := { p.prog with ops := [0] } }))
      (fun c => c.act != 0 && pendingOps c) = true ∧
    (let s := asSup (oneLane (template (withV (withEnt (ready 0x00000000040AEFF6) 32 65536 1 3 0 0 0 0) 4 (aliasA 0)) (entBytes 4096 1 3 0 0 0 0)))
     newObject s (some 2) = true) ∧
    newObject (asSup (oneLane (template (withV (ready 0x00000000040AEFF6) 4 (aliasA 0)) (entBytes 4096 1 3 0 0 0 0)))) none = true ∧
    (let s := asSup (oneLane (template (withV (ready 0x00000000040AEFF6) 4 (aliasA 0)) (entBytes 4096 7 3 0 0 0 0)))
     meetsU (.objnew { noSYS with d := 10, a := 4 }) s (fun u c => c.act != 0 && !pendingOps c && (templateBad u (loadBytes u c.who (aliasA 0) 64)).isSome) = true) ∧
    (let s := asSup (oneLane (withV (withV (withEnt (ready 0x00000002040AEFF7) 32 65536 1 3 0 0 0 0) 4 (addrOf 32 0)) 10 33))
     meetsU (.objsetCtab { noSYS with d := 10, a := 4, sel := 2 }) s (fun u c => decide (src c.g false 10 1 0 % 2 ^ 24 = 33) && !(entryOf u 33).ok && (entryOf u 32).ok) = true) ∧
    (∀ x ∈ [((.objsetSize { noSYS with d := 10, a := 4 }), 0x00000000040AEFF7), ((.objsetPerm { noSYS with d := 10, a := 4, sel := 1 }), 0x00000001040AEFF7), ((.objsetCtab { noSYS with d := 10, a := 4, sel := 2 }), 0x00000002040AEFF7),
        ((.objsetUnpois { noSYS with a := 4, sel := 3 }), 0x000000030400EFF7), ((.objsetDirty { noSYS with d := 10, a := 4, sel := 4 }), 0x00000004040AEFF7)],
      let s := asSup (oneLane (withV (withEnt (ready x.2) 32 65536 1 3 0 0 0 0) 4 (addrOf 32 0)))
      meets x.1 s (fun c => c.act != 0 && !pendingOps c && oidOf (src c.g false 4 2 0) == 32 && decide (32 < s.mg.objtCnt) &&
        memNat s (entryAddr s 32 + 8) 1 != 0) = true) ∧
    meets (.objsetPerm { noSYS with d := 10, a := 4, sel := 1 }) (asSup (ready 0x00000001040AEFF7)) (fun c => oidOf (src c.g false 4 2 0) == 0) = true := by decide

set_option maxRecDepth 20000 in
/-- A load that passes, one whose span ends below 0, one whose object does not exist, one that waits for a peer's answer; a lane
that has an answer. -/
theorem witness_Loads :
    (let s := oneLane (withV (ready 0xFFFE6C00040C4F80) 4 (aliasA 32))
     meetsU (.ldV { noMEM with d := 12, a := 4, size := 4, ord := 1, scope := 3, off := 65534 }) s (fun u c => check u c.who (aliasA 0) 16 .read == none && peerHome u c.who (aliasA 0) == none &&
       peerOpOf u c 0 == none) = true) ∧
    (let s := oneLane (withV (ready 0xFFFE6C00040C4F80) 4 (aliasA 16))
     meetsU (.ldV { noMEM with d := 12, a := 4, size := 4, ord := 1, scope := 3, off := 65534 }) s (fun _ c => decide (((src c.g false 4 2 0 % 2 ^ 40 : Nat) : Int) - 32 < 0)) = true) ∧
    meetsU (.ldS { noMEM with d := 10, a := 4, size := 3, off := 5 }) (ready 0x00050300040A4F81) (fun u c => check u c.who 40 8 .read == some .objectInvalid) = true ∧
    (let s := oneLane (withS (withEnt (ready 0x00050300040A4F81) 32 65536 1 3 2 0 0 0) 4 (addrOf 32 0))
     let s := { s with zports := [(0, { zportAt s 0 with up := true })], mg := { s.mg with routes := [(0, [0])], fabricNo := 1 } }
     meetsU (.ldS { noMEM with d := 10, a := 4, size := 3, off := 5 }) s (fun u c => check u c.who (addrOf 32 40) 8 .read == none && (peerHome u c.who (addrOf 32 40)).isSome &&
       peerOpOf u c 0 == none) = true) ∧
    meets (.ldc { noMEM with g := { gp := 1, gn := false }, d := 10, a := 4, size := 3, off := 7 }) (ready 0x00070300040A4184) (fun c => c.act == 0) = true ∧
    (let s := withS (withV (ready 0x00070300040A4F84) 4 (aliasA 0)) 4 (aliasA 0)
     meetsU (.ldc { noMEM with d := 10, a := 4, size := 3, off := 7 }) s (fun u c => check u c.who (aliasA 56) 8 .read == none) = true) ∧
    meets (.prefV { noMEM with a := 4, size := 2, off := 1 }) (ready 0x0001020004004F85) (fun _ => true) = true ∧ meets (.prefS { noMEM with a := 4, size := 2, off := 1 }) (ready 0x0001020004004F86) (fun _ => true) = true := by decide

set_option maxRecDepth 20000 in
/-- A store that passes; one that faults; one to a page in migration. -/
theorem witness_Stores :
    (let s := oneLane (withV (ready 0x0002340C04004F82) 4 (aliasA 0))
     meetsU (.stV { noMEM with a := 4, b := 12, size := 4, ord := 2, scope := 1, off := 2 }) s (fun u c => check u c.who (aliasA 32) 16 .write == none && peerHome u c.who (aliasA 32) == none &&
       peerOpOf u c 0 == none && (releaseWait u c).isNone && locate u c.who (aliasA 32) != .none && !migrating u (aliasA 32)) = true) ∧
    meetsU (.stS { noMEM with a := 4, b := 6, size := 2, off := 3 }) (ready 0x0003020604004F83) (fun u c => check u c.who 12 4 .write == some .objectInvalid) = true ∧
    (let s := oneLane (withS (withObj (ready 0x0003020604004F83) 32 1 5) 4 (addrOf 32 0))
     let s := { s with migr := some { oid := 32, first := 0, count := 1, status := 0, frames := [] } }
     meetsU (.stS { noMEM with a := 4, b := 6, size := 2, off := 3 }) s (fun u c => check u c.who (addrOf 32 12) 4 .write == none && migrating u (addrOf 32 12)) = true) := by decide

set_option maxRecDepth 20000 in
/-- No lane; one lane that passes; two lanes at one location; a lane that fails beside one that passes; the extreme operands. -/
theorem witness_Atomics :
    meets (.aadd { noMEM with g := { gp := 1, gn := false }, d := 10, a := 4, b := 6, size := 3, ord := 3, scope := 4, off := 1 }) (ready 0x00019B06040A4190) (fun c => c.act == 0) = true ∧
    (∀ x ∈ [((.aadd { noMEM with d := 10, a := 4, b := 6, size := 3, ord := 3, scope := 4, off := 1 }), 0x00019B06040A4F90), ((.acas { noMEM with d := 10, a := 4, b := 6, size := 3, ord := 3, scope := 4, off := 1 }), 0x00019B06040A4F97), ((.afadd { noMEM with d := 10, a := 4, b := 6, size := 3, ord := 3, scope := 4, off := 1 }), 0x00019B06040A4F99), ((.amaxe { noMEM with d := 10, a := 4, b := 6, size := 3, ord := 3, scope := 4, off := 1 }), 0x00019B06040A4F9A)],
      let s := oneLane (withV (ready x.2) 4 (aliasA 8))
      meetsU x.1 s (fun u c => c.act != 0 && (releaseWait u c).isNone && peerOpOf u c 0 == none &&
        check u c.who (aliasA 16) 8 .atomic == none && peerHome u c.who (aliasA 16) == none && !migrating u (aliasA 16) &&
        locate u c.who (aliasA 16) != .none) = true) ∧
    (let s := onP (onG (withV (ready 0x00019B06040A4F90) 4 (aliasA 8)) (fun g => { g with live := 3 })) (fun p => { p with mask := 3 })
     meetsU (.aadd { noMEM with d := 10, a := 4, b := 6, size := 3, ord := 3, scope := 4, off := 1 }) s (fun u c => c.act == 3 && (releaseWait u c).isNone && [0, 1].all (fun l => peerOpOf u c l == none &&
       check u (c.whoAt l) (aliasA 16) 8 .atomic == none && peerHome u (c.whoAt l) (aliasA 16) == none && !migrating u (aliasA 16) &&
       locate u (c.whoAt l) (aliasA 16) == .plain 16)) = true ∧
     meetsU (.aadd { noMEM with d := 10, a := 4, b := 6, size := 3, ord := 3, scope := 4, off := 1 }) (onG s (fun g => wvw g 4 1 2 (aliasA 12))) (fun u c => c.act == 3 && (releaseWait u c).isNone &&
       check u (c.whoAt 0) (aliasA 16) 8 .atomic == none && locate u (c.whoAt 0) (aliasA 16) == .plain 16 &&
       check u (c.whoAt 1) (aliasA 20) 8 .atomic == some .align) = true) ∧
    (∀ k ∈ [4, 8, 16], (2 : Nat) ^ (8 * k) - 1 < 2 ^ (8 * k) ∧ (0 : Nat) < 2 ^ (8 * k)) := by decide

set_option maxRecDepth 20000 in
/-- FENCE with lanes and none; PIN of nothing, of an object, over a register that a cursor uses, of a freed identifier. -/
theorem witness_PinsAndFence :
    meets (.fence { noMEM with ord := 3, scope := 5 }) (ready 0x0000B80000004FA0) (fun c => c.act != 0 && !pendingOps c && c.g.lost.isEmpty && c.g.ops.isEmpty) = true ∧ meets (.fence { noMEM with g := { gp := 1, gn := false }, ord := 3, scope := 5 }) (ready 0x0000B800000041A0) (fun c => c.act == 0) = true ∧
    meets (.pin { noRRR with g := { gp := 1, gn := false }, d := 1, a := 4, b := 3 }) (ready 0x00000003040101A1) (fun c => c.act == 0) = true ∧ meets (.pin { noRRR with d := 1, a := 4, b := 3 }) (ready 0x0000000304010FA1) (fun c => c.act != 0 && oidOf (src c.g false 4 2 0) == 0) = true ∧
    (let s := withObj (withV (ready 0x0000000304010FA1) 4 (addrOf 32 0)) 32 1 5
     meetsU (.pin { noRRR with d := 1, a := 4, b := 3 }) s (fun u c => c.act != 0 && oidOf (src c.g false 4 2 0) == 32 && !pendingOps c && (Map.find? c.g.pins 3).isNone &&
       memNat u (entryAddr u 32 + 8) 1 == 1 && !(memNat u (entryAddr u 32 + 11) 1).testBit 2) = true) ∧
    (let s := withEnt (withV (ready 0x0000000304010FA1) 4 (addrOf 63 0)) 32 65536 1 3 0 0 0 0
     meetsU (.pin { noRRR with d := 1, a := 4, b := 3 }) s (fun u c => oidOf (src c.g false 4 2 0) == 63 && memNat u (entryAddr u 63 + 8) 1 == 0) = true) ∧
    (let s := withCursor (withPin (withV (ready 0x0000000304010FA1) 4 (addrOf 32 0)) 3 32) 5 (aCursor 32 1 0)
     meets (.pin { noRRR with d := 1, a := 4, b := 3 }) { s with mg := { s.mg with objtCnt := 64 } } (fun c => !pendingOps c && (Map.find? c.g.pins 3).any (fun p => c.g.cur.any (fun x =>
       x.2.oid == p.oid && x.2.st == 1))) = true) ∧
    meets (.unpin { noRRR with g := { gp := 1, gn := false }, b := 3 }) (ready 0x00000003000001A2) (fun c => c.act == 0) = true ∧ meets (.unpin { noRRR with b := 3 }) (ready 0x0000000300000FA2) (fun c => c.act != 0 && !pendingOps c && c.g.cur.isEmpty) = true ∧
    meets (.unpin { noRRR with b := 3 }) (withCursor (withPin (ready 0x0000000300000FA2) 3 32) 5 (aCursor 32 2 0)) (fun c => c.g.cur.any (fun x => x.2.oid == 32)) = true ∧
    (let s := withObj (withV (ready 0x420100060400AFA3) 4 (addrOf 32 0)) 32 1 5
     meetsU (.reclaim { noENG with a := 4, b := 6, tile := 1, sb := true, scope := 4 }) s (fun u c => !pendingOps c && oidOf (src c.g false 4 2 0) == 32 && (entryOf u 32).ok &&
       permits (entryOf u 32).perm .write false && barFault u c (rs c.g 6) == none) = true) ∧
    meets (.harvest { noSYS with g := { gp := 1, gn := false }, a := 6, sa := true }) (asSup (ready 0x000000400600E1A4)) (fun c => c.act == 0) = true ∧ meets (.harvest { noSYS with a := 6, sa := true }) (asSup (ready 0x000000400600EFA4)) (fun c => rs c.g 6 == 0) = true ∧
    meets (.harvest { noSYS with a := 6, sa := true }) (asSup (withS (ready 0x000000400600EFA4) 6 32)) (fun c => c.act != 0 && !pendingOps c && rs c.g 6 == 32) = true ∧
    meets (.tlbinv { noSYS with a := 6, sa := true }) (asSup (withS (ready 0x000000400600EFA5) 6 32)) (fun c => c.act != 0 && !pendingOps c && rs c.g 6 == 32) = true ∧
    meets (.tlbinv { noSYS with a := 6, sa := true }) (asSup (withS (ready 0x000000400600EFA5) 6 plainId)) (fun c => rs c.g 6 == plainId) = true := by decide

def barOf (members arrived : Nat) : Bar := { members := members, arrived := arrived, phase := 0xFFFFFFFF, eng := 0, init := true }
set_option maxRecDepth 20000 in
/-- No lane; a misaligned offset; the object at the last slot of the alias window; member and not; the gang's lanes covered or not. -/
theorem witness_Barriers :
    (∀ x ∈ [((.binit { noENG with g := { gp := 1, gn := false }, a := 4, b := 6, sa := true, sb := true, scope := 2 }), 0x230000060400A1C0), ((.bjoin { noENG with g := { gp := 1, gn := false }, a := 4, sa := true, scope := 2 }), 0x210000000400A1C1), ((.bleave { noENG with g := { gp := 1, gn := false }, a := 4, sa := true, scope := 2 }), 0x210000000400A1C2),
        ((.barv { noENG with g := { gp := 1, gn := false }, d := 10, a := 4, sa := true, scope := 2 }), 0x21000000040AA1C3), ((.barw { noENG with g := { gp := 1, gn := false }, a := 4, b := 6, sa := true, scope := 2 }), 0x210000060400A1C4), ((.baraw { noENG with g := { gp := 1, gn := false }, a := 4, sa := true, scope := 2 }), 0x210000000400A1C5), ((.batch { noENG with g := { gp := 1, gn := false }, d := 10, scope := 2 }), 0x20000000000AA1C6),
        ((.bwait { noENG with g := { gp := 1, gn := false }, a := 4, sa := true, scope := 2 }), 0x210000000400A1C7)],
      meets x.1 (ready x.2) (fun c => c.act == 0 && c.p.arrived.isNone && decide (c.g.no < 32)) = true ∧
      Memory.wf (ready x.2).plain = true) ∧
    meets (.binit { noENG with a := 4, b := 6, sa := true, sb := true, scope := 2 }) (withS (ready 0x230000060400AFC0) 4 8) (fun c => c.act != 0 && rs c.g 4 % 32 != 0) = true ∧
    (∀ x ∈ [((.binit { noENG with a := 4, b := 6, sa := true, sb := true, scope := 2 }), 0x230000060400AFC0), ((.bjoin { noENG with a := 4, sa := true, scope := 2 }), 0x210000000400AFC1), ((.bleave { noENG with a := 4, sa := true, scope := 2 }), 0x210000000400AFC2)],
      meetsU x.1 (withS (ready x.2) 4 (48 * 65536 - 32)) (fun u c => c.act != 0 && rs c.g 4 % 32 == 0 &&
        decide (rs c.g 4 + 32 ≤ (crewAt u c.ck).gran.length * 65536) && !pendingOps c) = true) ∧
    meetsU (.barv { noENG with d := 10, a := 4, sa := true, scope := 2 }) (withBar (ready 0x21000000040AAFC3) 0 (barOf 2 0)) (fun u c => !(barAt u c.ck 0).members.testBit c.g.no) = true ∧
    (∀ x ∈ [((.barv { noENG with d := 10, a := 4, sa := true, scope := 2 }), 0x21000000040AAFC3), ((.baraw { noENG with a := 4, sa := true, scope := 2 }), 0x210000000400AFC5)],
      meetsU x.1 (withBar (ready x.2) 0 (barOf 3 2)) (fun u c => c.act != 0 && (barAt u c.ck 0).members.testBit c.g.no &&
        (barAt u c.ck 0).init && !pendingOps c && c.g.ops.isEmpty && c.g.arr.isEmpty && c.g.live &&& ~~~ c.act == 0 && (barAt u c.ck 0).eng == 0 &&
        (barAt u c.ck 0).arrived ||| 1 == (barAt u c.ck 0).members && c.p.arrived.isNone) = true) ∧
    meetsU (.barv { noENG with d := 10, a := 4, sa := true, scope := 2 }) (onP (withBar (ready 0x21000000040AAFC3) 0 (barOf 3 2)) (fun p => { p with mask := 1 })) (fun _ c =>
      c.g.live &&& ~~~ c.act != 0) = true ∧
    meetsU (.barw { noENG with a := 4, b := 6, sa := true, scope := 2 }) (withBar (ready 0x210000060400AFC4) 0 (barOf 3 2)) (fun u c => src c.g false 6 1 0 != (barAt u c.ck 0).phase) = true ∧
    meetsU (.barw { noENG with a := 4, b := 6, sa := true, scope := 2 }) (ready 0x210000060400AFC4) (fun u c => src c.g false 6 1 0 == (barAt u c.ck 0).phase && c.p.defer.isEmpty) = true ∧
    meetsU (.baraw { noENG with a := 4, sa := true, scope := 2 }) (onP (withBar (ready 0x210000000400AFC5) 0 (barOf 3 2)) (fun p => { p with arrived := some 7 })) (fun u c =>
      c.p.arrived == some 7 && (barAt u c.ck 0).phase != 7) = true ∧
    meets (.batch { noENG with d := 10, scope := 2 }) (ready 0x20000000000AAFC6) (fun c => c.act != 0 && decide (c.g.closed.length < 16)) = true ∧
    meets (.batch { noENG with d := 10, scope := 2 }) (onG (ready 0x20000000000AAFC6) (fun g => { g with closed := List.replicate 16 (Batch.fresh 0) })) (fun c =>
      c.act != 0 && decide (16 ≤ c.g.closed.length) && c.g.openB.pending == 0) = true ∧
    meets (.bwait { noENG with a := 4, sa := true, scope := 2 }) (ready 0x210000000400AFC7) (fun c => c.act != 0 && !pendingOps c && c.g.closed.isEmpty) = true ∧
    meets (.bwait { noENG with a := 4, sa := true, scope := 2 }) (onG (withS (ready 0x210000000400AFC7) 4 (2 ^ 31 - 1)) (fun g => { g with closed := [Batch.fresh 0] })) (fun c =>
      c.g.closed.any (fun x => decide ((src c.g true 4 1 0 + 2 ^ 32 - x.num.toNat) % 2 ^ 32 < 2 ^ 31))) = true := by decide

def aGraph (w : DWord) : State :=
  let s := withGraph (oneLane (withS (ready w) 4 (addrOf 2 0))) 2 8 4
  { s with mg := { s.mg with objtCnt := 3 } }
def edged (w : DWord) : State := withEdge (aGraph w) 2
set_option maxRecDepth 20000 in
/-- The tree of the small graph: an edge that is present, its list, and a graph that passes its checks. -/
theorem test_graph_edge :
    (entryOf (edged 0x00080006040ACFD5) 2).ok = true ∧ degOf (edged 0x00080006040ACFD5) 2 0 false = 1 ∧ degOf (edged 0x00080006040ACFD5) 2 1 true = 1 ∧
    treeFind (edged 0x00080006040ACFD5) 2 1 40 (rootOf (edged 0x00080006040ACFD5) 2 0 false) = (0, some 7) := by decide +kernel
set_option maxRecDepth 20000 in
theorem witness_GraphInstructions :
    (∀ x ∈ [((.gadde { noGR with d := 10, a := 4, b := 2, c := 8, px := 3 }), 0x00300802040ACFD0)],
      meetsU x.1 (aGraph x.2) (fun u c => c.act != 0 && gCheck u (addrOf 2 0) true false [0, 0] == none && !gRecPoison u 2 0 &&
        !pathPoison u 2 (rootOf u 2 0 false) false 0 && !pathPoison u 2 (rootOf u 2 0 true) false 0 &&
        !edgePoison u .gadde 2 { lane := 0, u := 0, v := 0, p := rv c.g 8 0 } && lanes c.act == [0]) = true) ∧
    (∀ x ∈ [((.glde { noGR with d := 10, a := 4, b := 6, c := 8, dir := true, px := 3 }), 0x00380806040ACFD3), ((.gstv { noGR with a := 4, b := 6, c := 8, ord := 2, scope := 5 }), 0x580008060400CFD8)],
      meetsU x.1 (aGraph x.2) (fun u c => c.act != 0 && gCheck u (addrOf 2 0) true false [0] == none && !gRecPoison u 2 0 &&
        !pathPoison u 2 (rootOf u 2 0 true) true 0 && c.g.ops.isEmpty && (releaseWait u c).isNone) = true) ∧
    (let s := edged 0x01300806040ACFD3
     meetsU (.glde { noGR with d := 10, a := 4, b := 6, c := 8, px := 3, strict := true }) s (fun u c => c.act != 0 && gCheck u (addrOf 2 0) false false [0] == none && c.g.ops.isEmpty &&
       decide (0 < degOf u 2 0 false) && !pathPoison u 2 (rootOf u 2 0 false) true 0) = true) ∧
    meetsU (.gopen { noGR with a := 4, b := 6, cur := 5, dir := true, px := 3 }) (aGraph 0x003D00060400CFD9) (fun u c => c.act != 0 && c.g.ops.isEmpty && (cursorAt c.g 5 0).st == 0 &&
      gCheck u (addrOf 2 0) false false [0] == none && openSlot c.g 2 == some (0, false) && !rpend u 2) = true ∧
    meetsU (.gopen { noGR with a := 4, b := 6, cur := 5, dir := true, px := 3 }) (onG (aGraph 0x003D00060400CFD9) (fun g => { g with pins := (List.range 8).map (fun n => (n, { oid := 33, min := 0 })) }))
      (fun _ c => openSlot c.g 2 == none) = true ∧
    (∀ x ∈ [((.gnext { noGR with d := 10, cur := 5, px := 3 }), 0x00350000000ACFDA)],
      meetsU x.1 (withCursor (withPin (edged x.2) 0 2) 5 (aCursor 2 1 0)) (fun u c => c.act != 0 && c.g.ops.isEmpty &&
        (cursorAt c.g 5 0).st == 1 && (Map.find? c.g.pins 0).any (fun p => p.oid == 2) && !gPoison u 2 0 &&
        gCheck u (addrOf 2 0) false false [0] == none && !pathPoison u 2 1 true 0) = true) := by decide +kernel

def graphReq (k : GraphKind) (v : Nat) : GraphReq :=
  { kind := k, oids := [2], dir := 0, strict := false, cur := 5, d := 10, px := 3, head := unitHead 0, todo := [{ lane := 0, u := 0, v := v, p := 7 }] }
def graphOp (k : GraphKind) (v : Nat) (s : State) : State := onG s (fun g => { g with ops := [oneOp (.graph (graphReq k v))] })
set_option maxRecDepth 20000 in
/-- A mutation of an edge that is there and of one that is not; a read at the end of a list and before it. -/
theorem witness_GraphInstructions_events :
    (∀ q ∈ [(GraphKind.gadde, 1), (.gadde, 2), (.gdele, 1), (.gsete, 2)],
      let (k, v) := q
      let s := graphOp k v (edged 0x0000000000000F0F)
      let g := gangAt s 0
      k.isMut = true ∧ s.mg.tripped = false ∧ (g.ops.find? (fun q => q.id == 0)).any (fun o => match o.body with
        | .graph r => !mutBefore s g o r && r.todo.length == 1
        | _ => false) = true ∧ edgePoison s k 2 { lane := 0, u := 0, v := v, p := 7 } = false ∧ seqBlocked s 2 (nextSeq (gSeq s 2)) = false ∧
      (decide (rootOf s 2 0 false ≠ 0) && (treeFind s 2 v 40 (rootOf s 2 0 false)).2.isSome) = decide (v = 1)) ∧
    (let s := { graphOp .gadde 2 (edged 0x0000000000000F0F) with poison := [(8 * 1024 + 4, true)] }
     edgePoison s .gadde 2 { lane := 0, u := 0, v := 2, p := 7 } = true ∧ mutBefore s (gangAt s 0) (oneOp (.graph (graphReq .gadde 2))) (graphReq .gadde 2) = false) ∧
    (∀ k ∈ [GraphKind.gdeg, .gver, .gfind, .glde], let s := graphOp k 0 (edged 0x0000000000000F0F)
      k.isMut = false ∧ graphBefore (gangAt s 0) (oneOp (.graph (graphReq k 0))) (graphReq k 0) false = false ∧
      readPoison s (graphReq k 0) (gangAt s 0) { lane := 0, u := 0, v := 0, p := 7 } = false ∧
      readPoison { s with poison := [(8 * 1024 + 4, true)] } (graphReq k 0) (gangAt s 0) { lane := 0, u := 0, v := 0, p := 7 } = true) ∧
    (∀ k ∈ [GraphKind.gnext, .gskip], let s := withCursor (withPin (graphOp k 0 (edged 0x0000000000000F0F)) 0 2) 5 (aCursor 2 1 0)
      k.isMut = false ∧ graphBefore (gangAt s 0) (oneOp (.graph (graphReq k 0))) (graphReq k 0) false = false ∧
      readPoison s (graphReq k 0) (gangAt s 0) { lane := 0, u := 0, v := 0, p := 7 } = false) ∧ degOf (edged 0x0000000000000F0F) 2 0 false ≤ 1 ∧
    rootOf (edged 0x0000000000000F0F) 2 0 false ≠ 0 ∧
    (aCursor 2 1 1).deg ≤ (aCursor 2 1 1).rank ∧ (aCursor 2 1 0).rank < (aCursor 2 1 0).deg ∧
    (let s := edged 0x0000000000000F0F
     (entryOf s 2).ok = true ∧ (entryOf s 2).kind = 2 ∧ graphOk s 2 (entryOf s 2) = true) ∧
    gNat (aGraph 0x0000000000000F0F) 2 28 4 = 0 ∧ (entryOf State.reset 2).kind ≠ 2 := by decide +kernel

/-- An operand pair that names the crew's alias, and a count, of one lane. -/
def copyReady (w : DWord) (n : Nat) : State :=
  withV (withV (withV (oneLane (ready w)) 4 (aliasA 0)) 6 (aliasA 4096)) 8 n
def locksUsed (u : State) (c : Ctx) : Nat :=
  (u.locks.filter (fun x => x.cluster == clusterOf u c.core && decide (x.oid < 2 ^ 24))).length
/-- A window of one page (33), a DATA object of one page (34) and a binding record at the start of the alias. -/
def bindReady (w : DWord) : State :=
  let s := withObj (withObj (withS (withS (ready w) 4 (addrOf 33 0)) 6 (aliasA 0)) 33 3 6) 34 1 7
  template s (leBytes 8 (addrOf 34 0) ++ leBytes 8 (addrOf 34 4096) ++ leBytes 4 4 ++ [2, 2] ++ leBytes 10 0)
def aBinding : Binding :=
  { op := 0, die := 0, index := BitVec.ofNat 64 (plainA 0), isize := 4, data := BitVec.ofNat 64 (plainA 4096), count := 4,
    esize := 4, idx := [], lost := [], written := [] }
set_option maxRecDepth 20000 in
/-- Copies of a lane, of no lane, of a count of 0; a binding and its removal, with and without one bound. -/
theorem witness_CopiesAndWindows :
    meetsU (.cpasync { noENG with d := 6, a := 4, b := 8, scope := 3 }) (copyReady 0x300000080406AFE0 16) (fun u c => c.act != 0 && !pendingOps c && c.p.issued == 0 &&
      copyFault u c false (aliasA 0) (aliasA 4096) 16 == none &&
      decide (locksUsed u c + (copyRanges u c false (aliasA 0) (aliasA 4096) 16).length ≤ 64)) = true ∧
    (let s := withEnt (copyReady 0xB00000080406AFE0 16) 35 65536 5 1 0 1 0x10230 1
     let s := withV (withExt s 0x10230 0 1 9) 4 (addrOf 35 0)
     meetsU (.cpasyncDec { noENG with d := 6, a := 4, b := 8, scope := 3, dec := true }) s (fun u c => c.act != 0 && copyFault u c true (addrOf 35 0) (aliasA 4096) 16 == none &&
       decide (locksUsed u c + (copyRanges u c true (addrOf 35 0) (aliasA 4096) 16).length ≤ 64)) = true) ∧
    meets (.cpasync { noENG with g := { gp := 1, gn := false }, d := 6, a := 4, b := 8, scope := 3 }) (ready 0x300000080406A1E0) (fun c => c.act == 0) = true ∧
    meetsU (.cpasync { noENG with d := 6, a := 4, b := 8, scope := 3 }) (copyReady 0x300000080406AFE0 0) (fun u c => copyFault u c false (aliasA 0) (aliasA 4096) 0 == none &&
      (Map.find? u.eng u.nextEng).isNone && u.locks.isEmpty) = true ∧
    meets (.wbind { noENG with g := { gp := 1, gn := false }, d := 3, a := 4, b := 6, sa := true, sb := true, scope := 2 }) (ready 0x230000060403A1E1) (fun c => c.act == 0) = true ∧
    meetsU (.wbind { noENG with d := 3, a := 4, b := 6, sa := true, sb := true, scope := 2 }) (bindReady 0x230000060403AFE1) (fun u c => c.act != 0 && windowFault u (addrOf 33 0) .write c.who.sup == none &&
      recordFault u c (aliasA 0) 32 == none && (parseBinding u u.nextEng 0 33 (loadBytes u c.who (aliasA 0) 32)).any (fun b =>
        bindingFault u c b == none) && bindOf u 33 == none && ((bindOf u 33).bind (scatterFault u c)).isNone && !pendingOps c && decide (locksUsed u c + 2 ≤ 64)) = true ∧
    meetsU (.wunbind { noENG with a := 4, sa := true, scope := 2 }) (bindReady 0x210000000400AFE2) (fun u c => c.act != 0 && windowFault u (addrOf 33 0) .read c.who.sup == none && !pendingOps c &&
      bindOf u 33 == none && (Map.find? u.eng u.nextEng).isNone) = true ∧
    (let b := { aBinding with data := BitVec.ofNat 64 (addrOf 34 0) }
     meetsU (.wunbind { noENG with a := 4, sa := true, scope := 2 }) { bindReady 0x210000000400AFE2 with binds := [(33, b)] } (fun u c => bindOf u 33 == some b &&
       scatterFault u c b == none && decide (locksUsed u c + (1 + (localRanges u c [dataRange u c.who b]).length) ≤ 64)) = true) ∧
    (pathAt (onP wordReady (fun p => { p with wait := .locks 64 })) 0).wait = .locks 64 := by decide
/-- A die with 1,024 bindings. -/
theorem witness_CopiesAndWindows_full :
    let m : Map Binding := (List.range 1024).map (fun k => (100 + k, aBinding))
    1024 ≤ (m.filter (fun q => q.2.die == 0)).length := by
  have h : (List.range 1024).map (fun k => (100 + k, aBinding)) = ((List.range 1024).map (fun k => (100 + k, aBinding))).filter
      (fun q => q.2.die == 0) := by
    refine (List.filter_eq_self.mpr (fun e he => ?_)).symm
    obtain ⟨k, _, rfl⟩ := List.mem_map.mp he
    rfl
  simp only [← h, List.length_map, List.length_range]
  omega
def engOf (k : EngKind) : EngOp :=
  { gang := 0, stamp := 0, crew := 0, batch := none, bar := none, kind := k, cancelled := false, refused := [], st := 0, held := [], late := [] }
def withEng (s : State) (k : EngKind) : State := { s with eng := [(0, engOf k)], tileQ := [(0, [0])] }
set_option maxRecDepth 20000 in
theorem witness_CopiesAndWindows_events :
    (oidOf (plainA 0) = plainId ∧ offOf (plainA (2 ^ 29 - 16)) + 16 ≤ 2 ^ 29 ∧
      Map.getD (ready 0).plainPoison 0 false = false ∧ wordReady.mg.tripped = false ∧
      (let s := withEng wordReady (.copy (BitVec.ofNat 64 (plainA 0)) (BitVec.ofNat 64 (plainA 16)) 8 none none)
       (Map.find? s.eng 0).isSome = true ∧ s.mg.objtCnt < plainId) ∧
      (let e := { engOf (.copy (BitVec.ofNat 64 (plainA 0)) (BitVec.ofNat 64 (plainA 16)) 1 none none) with held := [(0, [[{ b := 7, bad := false, ok := true }]])] }
       let s : State := { withEng wordReady e.kind with eng := [(0, e)] }
       Map.find? s.eng 0 = some e ∧ e.held = [(0, [[{ b := 7, bad := false, ok := true }]])] ∧ opensNow s 0 e = false) ∧
      (let b := { aBinding with idx := [] }
       let s : State := { withEng (bindReady 0x0000000000000F0F) (.copy (BitVec.ofNat 64 (addrOf 33 0)) (BitVec.ofNat 64 (plainA 16)) 8 (some b) none) with binds := [(33, b)] }
       bindOf s 33 = some b ∧ s.mg.objtCnt < plainId) ∧ (bindReady 0x0000000000000F0F).mg.objtCnt < plainId) ∧
    (let e := engOf (.fill 33 aBinding none)
     let s := withEng (bindReady 0x0000000000000F0F) (.fill 33 aBinding none)
     Map.find? s.eng 0 = some e ∧ windowTurn s 0 e = true ∧ aBinding.idx = [] ∧ s.migr = none ∧
       oidOf aBinding.index.toNat = plainId ∧ offOf aBinding.index.toNat + aBinding.count * aBinding.isize ≤ 2 ^ 29 ∧
       peerHome s (opWho s e) (addrOf 33 0) = none ∧ engPages s (opWho s e) (addrOf 33 0) (entryOf s 33).size ≠ none) ∧
    windowTurn (withEng wordReady (.scatter 33 aBinding)) 0 (engOf (.scatter 33 aBinding)) = true ∧ aBinding.written = [] := by decide

def crcLayout (src dst : Nat) : List Byte :=
  leBytes 8 src ++ leBytes 8 0 ++ leBytes 4 1 ++ leBytes 4 16 ++ leBytes 4 64 ++ leBytes 4 0 ++ [0, 0, 4, 0] ++ leBytes 12 0 ++
    leBytes 8 dst ++ leBytes 8 0
def xformReady (w : DWord) : State :=
  withS (withS (template (ready w) (crcLayout (aliasA 4096) (aliasA 8192))) 4 (aliasA 0)) 6 128
def passReady (w : DWord) : State :=
  withS (withS (withS (withS (ready w) 6 (aliasA 4096)) 8 (aliasA (48 * 65536 - 16384))) 10 (aliasA 0)) 12 1
set_option maxRecDepth 20000 in
/-- A CRC transform; a pass of one step; the accumulator at its last row and column; T registers pending, aborted and free. -/
theorem witness_MatrixAndTransforms :
    meets (.azero { noENG with g := { gp := 1, gn := false }, tile := 63, scope := 2 }) (ready 0x203F00000000A1E6) (fun c => c.act == 0) = true ∧
    meets (.mpass { noENG with g := { gp := 1, gn := false }, d := 12, a := 6, b := 8, c := 10, tile := 9, sa := true, sb := true, sc := true, sd := true, scope := 3 }) (passReady 0x3F090A08060CA1E4) (fun c => c.act == 0 && rs c.g 12 == 1) = true ∧
    meets (.mpass { noENG with g := { gp := 1, gn := false }, d := 12, a := 6, b := 8, c := 10, tile := 9, sa := true, sb := true, sc := true, sd := true, scope := 3 }) (ready 0x3F090A08060CA1E4) (fun c => c.act == 0 && rs c.g 12 == 0) = true ∧
    meets (.mpass { noENG with d := 12, a := 6, b := 8, c := 10, tile := 9, sa := true, sb := true, sc := true, sd := true, scope := 3 }) (ready 0x3F090A08060CAFE4) (fun c => c.p.issued == 0 && rs c.g 12 == 0) = true ∧
    meets (.adrainT { noENG with g := { gp := 1, gn := false }, d := 7, a := 4, b := 6, tile := 33, sa := true, sb := true, scope := 2 }) (ready 0x232100060407A1E7) (fun c => c.act == 0 && rs c.g 4 == 0 && rs c.g 6 == 0) = true ∧
    meets (.afillPlain { noENG with g := { gp := 1, gn := false }, d := 8, a := 4, b := 6, tile := 33, sa := true, sb := true, sd := true, scope := 3 }) (ready 0x3B2100060408A1E8) (fun c => c.act == 0 && rs c.g 6 == 0) = true ∧
    meets (.afillPlain { noENG with g := { gp := 1, gn := false }, d := 8, a := 4, b := 6, tile := 33, sa := true, sb := true, sd := true, scope := 3 }) (withS (ready 0x3B2100060408A1E8) 6 128) (fun c => c.act == 0 && rs c.g 4 == 0 && rs c.g 6 == 128) = true ∧
    Memory.wf (xformReady 0x230500060400AFE3).plain = true ∧
    meetsU (.xformCrc { noENG with a := 4, b := 6, tile := 5, sa := true, sb := true, scope := 2 }) (xformReady 0x230500060400AFE3) (fun u c => c.act != 0 && recordFault u c (aliasA 0) 64 == none &&
      badField (layOf (loadBytes u c.who (aliasA 0) 64)) 5 == none && barFault u c 128 == none &&
      layFault u c (layOf (loadBytes u c.who (aliasA 0) 64)) 5 == none && !pendingOps c && decide (locksUsed u c + 2 ≤ 64)) = true ∧
    meetsU (.mpass { noENG with d := 12, a := 6, b := 8, c := 10, tile := 9, sa := true, sb := true, sc := true, sd := true, scope := 3 }) (passReady 0x3F090A08060CAFE4) (fun u c => c.act != 0 && rs c.g 12 == 1 && recordFault u c (aliasA 0) 32 == none &&
      (chainOf u (aliasA 4096) (aliasA (48 * 65536 - 16384)) (loadBytes u c.who (aliasA 0) 32)).any (fun p =>
        (oprRanges p.1 1 ++ oprRanges p.2 1).all (fun r => rangeCheck u (engWho c .engine) r.1 r.2 .read [] == none)) &&
      inCluster u c (aliasA 4096) && !pendingOps c && heldPass u c (tileKey u c 9) 1 (aliasA 4096) (aliasA (48 * 65536 - 16384)) == none &&
      (Map.getD u.resv 0 []).isEmpty) = true ∧
    meetsU (.mpass { noENG with d := 12, a := 6, b := 8, c := 10, tile := 9, sa := true, sb := true, sc := true, sd := true, scope := 3 }) { passReady 0x3F090A08060CAFE4 with resv := [(0, List.replicate 32 { op := 9, cls := 0, age := 0, core := 0, byp := 0 })] }
      (fun u c => !pendingOps c && decide (32 ≤ (Map.getD u.resv 0 []).length)) = true ∧
    (let s := onP (passReady 0x3F090A08060CAFE4) (fun p => { p with issued := 1 })
     let k := EngKind.pass 9 1 (BitVec.ofNat 64 (aliasA 4096)) (BitVec.ofNat 64 (aliasA (48 * 65536 - 16384))) (leBytes 32 0)
     meetsU (.mpass { noENG with d := 12, a := 6, b := 8, c := 10, tile := 9, sa := true, sb := true, sc := true, sd := true, scope := 3 }) { s with eng := [(0, { engOf k with stamp := (gangAt s 0).stamp })] } (fun u c => c.act != 0 &&
       heldPass u c (tileKey u c 9) 1 (aliasA 4096) (aliasA (48 * 65536 - 16384)) == some 0) = true) ∧
    meets (.mquery { noENG with d := 10, scope := 2 }) (ready 0x20000000000AAFE5) (fun _ => true) = true ∧ meets (.azero { noENG with tile := 63, scope := 2 }) (ready 0x203F00000000AFE6) (fun c => c.act != 0) = true ∧
    meets (.adrainT { noENG with d := 7, a := 4, b := 6, tile := 33, sa := true, sb := true, scope := 2 }) (withS (ready 0x232100060407AFE7) 4 33) (fun c => c.act != 0 && rs c.g 4 % 32 != 0) = true ∧
    meets (.afillT { noENG with d := 7, a := 4, b := 6, tile := 33, sa := true, sb := true, scope := 2 }) (withS (ready 0x232100060407AFE8) 4 128) (fun c => rs c.g 4 % 32 == 0 && decide (128 ≤ rs c.g 4)) = true ∧
    meets (.adrainT { noENG with d := 7, a := 4, b := 6, tile := 33, sa := true, sb := true, scope := 2 }) (withS (withS (ready 0x232100060407AFE7) 4 96) 6 120) (fun c => rs c.g 4 == 96 && rs c.g 6 == 120 &&
      !c.g.tpend.getLsbD 7) = true ∧
    meets (.afillT { noENG with d := 7, a := 4, b := 6, tile := 33, sa := true, sb := true, scope := 2 }) (withS (withS (ready 0x232100060407AFE8) 4 96) 6 120) (fun c => !c.g.tpend.getLsbD 7 && !c.g.tabort.getLsbD 7) = true ∧
    (∀ x ∈ [((.adrainPlain { noENG with d := 8, a := 4, b := 6, tile := 33, sa := true, sb := true, sd := true, scope := 3 }), 0x3B2100060408AFE7), ((.afillPlain { noENG with d := 8, a := 4, b := 6, tile := 33, sa := true, sb := true, sd := true, scope := 3 }), 0x3B2100060408AFE8)],
      meetsU x.1 (withS (withS (ready x.2) 8 (aliasA 0)) 6 128) (fun u c => rs c.g 4 == 0 && rs c.g 6 == 128 &&
        inScratch u c.who (aliasA 0) (512 * 128) && !pendingOps c && c.act != 0) = true) ∧
    meets (.txv { noENG with d := 16, tile := 5, scope := 2 }) (ready 0x200500000010AFE9) (fun c => !c.g.tpend.getLsbD 5 && !c.g.tabort.getLsbD 5) = true ∧
    meets (.txv { noENG with d := 16, tile := 5, scope := 2 }) (onG (ready 0x200500000010AFE9) (fun g => { g with tabort := 32 })) (fun c => c.g.tabort.getLsbD 5) = true ∧
    meets (.vxt { noENG with a := 16, tile := 5, scope := 2 }) (ready 0x200500001000AFEA) (fun c => c.act != 0 && !c.g.tpend.getLsbD 5) = true := by decide
def zeroFmt : List Byte := leBytes 32 0
set_option maxRecDepth 20000 in
/-- The operations at the head of their queues: a CRC of Plain rows, a pass with the grant, a grantable entry, tile operations. -/
theorem witness_MatrixAndTransforms_events :
    (let bs := crcLayout (plainA 0) (plainA 8192)
     let r := layOf bs
     let s : State := { State.reset with eng := [(0, { engOf (.xform 5 bs) with bar := some 128 })], prism := [(0, [0])] }
     Map.getD s.prism 0 [] = [0] ∧ elemBits r.sf % 8 = 0 ∧ r.fl = 4 ∧ oidOf r.src = plainId ∧ oidOf r.crcdst = plainId ∧
       r.crcdst % 64 = 0 ∧ offOf r.src + (r.rows - 1) * r.sp + r.cols * elemBits r.sf / 8 ≤ 2 ^ 29 ∧ s.plainPoison = []) ∧
    (let k := EngKind.pass 0 1 (BitVec.ofNat 64 (plainA 0)) (BitVec.ofNat 64 (plainA 0)) zeroFmt
     let s : State := { withEng wordReady k with granted := [(0, 0)] }
     Map.find? s.granted (clusterOf s 0) = some 0 ∧ (oprOf (plainA 0) (zeroFmt.take 16)).isSome = true) ∧
    (let k := EngKind.pass 0 1 0 0 zeroFmt
     let x : Resv := { op := 0, cls := 0, age := 0, core := 0, byp := 64 }
     let s : State := { withEng wordReady k with resv := [(0, [x])] }
     Map.find? s.granted 0 = none ∧ x ∈ Map.getD s.resv 0 [] ∧ grantable s x = true) ∧
    (let s := withEng wordReady (.drainT 0 7 96 120)
     Map.getD s.tileQ (0 * 64 + 0) [] = [0] ∧ (engOf (.drainT 0 7 96 120)).cancelled = false ∧
       (gangAt s 0).stamp = (engOf (.azero 0)).stamp ∧ (96 + 32 ≤ 128 ∧ 120 + 8 ≤ 128) ∧ s.accPoison = []) := by decide

def atHeader (s : State) (hdr : Nat) : State :=
  onP (withCode s hdr) (fun p => { p with clause := none, pc := BitVec.ofNat 64 (addrOf 16 0) })
set_option maxRecDepth 20000 in
/-- A path before a header, before a word that is none, and before a breakpoint. -/
theorem witness_PathEvents_fetch :
    (let s := atHeader wordReady 0x000000A700000000
     let x := pathAt s 0
     Map.find? s.paths 0 = some x ∧ x.clause = none ∧ x.slot = some 0 ∧ Machine.ready s 0 x = true ∧ breakHit s 0 x = none ∧
       mustYield s (4 * (0 / 512) + quadOf s x.gang) x = false ∧ s.mg.tripped = false ∧
       Machine.meets s 0 x = [] ∧ x.defer = [] ∧ x.stray = false ∧
       fetchAt s (pathWho s 0 x) x.pc.toNat = .word 0x000000A700000000 ∧ (parseHeader 0x000000A700000000).isSome = true ∧
       fetchAt s (pathWho s 0 x) (x.pc.toNat + 8) = .word 0x0F0F) ∧
    (let s := atHeader wordReady 0x000000A600000000
     fetchAt s (pathWho s 0 (pathAt s 0)) (pathAt s 0).pc.toNat = .word 0x000000A600000000 ∧
       parseHeader 0x000000A600000000 = none ∧ Machine.ready s 0 (pathAt s 0) = true) ∧
    (let s := atHeader wordReady 0x000000A700000000
     let s := { s with mg := { s.mg with bkptCtl := [(3, 0x80000000)], bkptAddr := [(3, (pathAt s 0).pc)] } }
     breakHit s 0 (pathAt s 0) = some 3) := by decide
/-- The header's object is at peer 0: not asked for, asked for, lost. -/
def farCode : State :=
  let s := withEnt (inService (atHeader wordReady 0)) 16 65536 4 4 2 0 0 0
  { s with zports := [(0, { ZPort.blank with up := true })], mg := { s.mg with routes := [(0, [0])], fabricNo := 1 } }
def askedCode (a : Option (List Byte)) (f : Option Nat) : PeerOp :=
  { tag := 0, port := 0, op := 1, owner := .fetch 0 0 0, addr := (pathAt farCode 0).pc, n := 8, answer := a, fail := f, sofar := [], stream := false, segs := [] }
set_option maxRecDepth 20000 in
theorem witness_PathEvents_farFetch :
    let w := pathWho farCode 0 (pathAt farCode 0)
    let a := (pathAt farCode 0).pc.toNat
    Machine.ready farCode 0 (pathAt farCode 0) = true ∧ breakHit farCode 0 (pathAt farCode 0) = none ∧
      fetchAt farCode w a = .wait ∧ fetchOp { farCode with peerOps := [askedCode none none] } { w with use := .fetch } a ≠ none ∧
      fetchAt { farCode with peerOps := [askedCode none none] } w a = .wait ∧
      fetchAt { farCode with peerOps := [askedCode none (some 0)] } w a = .lost 0 ∧
      fetchAt { withEnt farCode 16 65536 1 3 0 0 0 0 with peerOps := [] } w a = .bad .objectInvalid := by decide
def twoPaths (p q : Path) : State := { State.reset with paths := [(0, p), (511, q)] }
def idlePath (k : Nat) : Path := Path.at 0 64 (1#32 <<< k) 0 k
set_option maxRecDepth 20000 in
/-- Merging, the active set, urgency, sleep, the two ends of a Lens interval, completions, a released breakpoint. -/
theorem witness_PathEvents :
    (let s := twoPaths (idlePath 1) (idlePath 0)
     Map.find? s.paths 0 = some (idlePath 1) ∧ Map.find? s.paths 511 = some (idlePath 0) ∧ (∀ e ∈ s.paths, e.2.defer = [])) ∧
    readyPending State.reset 0 = [] ∧
    (let s := onP (atHeader wordReady 0x000000A700000000) (fun p => { p with slot := none })
     readyPending s 0 ≠ [] ∧ ∃ n < 8, ∀ e ∈ quadPaths s 0, e.2.slot ≠ some n) ∧
    (let s := onP (atHeader wordReady 0x000000A700000000) (fun p => { p with claimed := some 1 })
     let s := { s with paths := Map.put s.paths 1 { pathAt s 0 with slot := none, claimed := none, urgent := some 3 } }
     ∃ e ∈ quadPaths s 0, e.2.slot ≠ none ∧ e.2.clause = none ∧ claimHolds s e.2 = true) ∧
    (∀ e ∈ quadPaths (atHeader wordReady 0x000000A700000000) 0, claimHolds (atHeader wordReady 0x000000A700000000) e.2 = false) ∧
    (let s := onP (atHeader wordReady 0x000000A700000000) (fun p => { p with slot := none })
     let x := pathAt s 0
     x.slot = none ∧ Machine.ready s 0 x = true ∧ x.urgent = none) ∧
    (let s := onP (atHeader wordReady 0x000000A700000000) (fun p => { p with slot := none, urgent := some 3 })
     let t := { s with paths := Map.put s.paths 1 { pathAt s 0 with slot := some 0, claimed := some 0, urgent := none } }
     Machine.ready s 0 (pathAt s 0) = true ∧ hasClaim s 0 0 = false ∧ hasClaim t 0 0 = true) ∧
    (let s := atHeader wordReady 0x000000A700000000
     let x := pathAt s 0
     x.slot ≠ none ∧ Machine.ready s 0 x = true ∧ x.urgent = none) ∧
    (let s := onP (atHeader wordReady 0x000000A700000000) (fun p => { p with wait := .sleep })
     (pathAt s 0).wait = .sleep ∧ Machine.ready s 0 (pathAt s 0) = false) ∧
    ((7 : Nat) < 8 ∧ 61440 ≤ 61440 ∧ 69632 ≤ 69632 ∧ ¬ 61440 ≤ 61439 ∧ 69632 < 69633 ∧ 8 ≤ 8) ∧
    (let s := onG wordReady (fun g => { g with ops := [oneOp (.writes [.v 10 0 1])] })
     Map.find? s.gangs 0 = some (gangAt s 0) ∧ (gangAt s 0).ops.find? (fun x => x.id == 0) = some (oneOp (.writes [.v 10 0 1]))) ∧
    (let s := onG wordReady (fun g => { g with ops := [oneOp (.peer [3] [])] })
     (gangAt s 0).ops.find? (fun x => x.id == 0) = some (oneOp (.peer [3] [])) ∧ s.peerOps = [] ∧ (gangAt s 0).arr = []) ∧
    arrives (inService State.reset) = true ∧ arrives State.reset = false ∧ (0 : BitVec 32).getLsbD 31 = false ∧
    (0xA0000000 : BitVec 32).getLsbD 29 = true := by decide

def aLaunch : List Byte :=
  leBytes 4 16 ++ leBytes 4 0 ++ leBytes 4 0xFFFFFFFF ++ leBytes 4 0 ++ [0, 1, 1, 0, 0, 0, 0, 2] ++ leBytes 40 0
def launchReady (bs : List Byte) : State := { inService (withCode State.reset 0x000000A700000000) with lq := [(2, [bs])] }
/-- An eligible run of one crew with its last crew still to place. -/
def placeReady : State :=
  let s := launchReady aLaunch
  { s with runs := [(0, { Run.blank with lr := parseLaunch aLaunch, cls := 2, eligible := true })] }
def launchAt (w : DWord) : State := template (withS (ready w) 4 (aliasA 0)) aLaunch
set_option maxRecDepth 20000 in
theorem witness_LaunchEvents :
    (aLaunch.length = 64 ∧ 3 * 4096 % 64 = 0 ∧ 3 * 4096 / 4096 < 4 ∧ (inService State.reset).mg.launchEn = true ∧
      State.reset.mg.hostReady = false ∧ (inService State.reset).stalled = [] ∧ Map.getD (inService State.reset).lq 3 [] = [] ∧ State.reset.mg.tripped = false ∧
      ({ inService State.reset with stalled := [(0, aLaunch)] } : State).stalled ≠ []) ∧
    ((placeReady.runs.map (·.1)).Nodup ∧ ∀ e ∈ ({ placeReady with
        runs := [(0, { Run.blank with lr := { parseLaunch aLaunch with waits := [40] }, left := [40] })] } : State).runs,
      ∀ w ∈ e.2.left, peerHome placeReady (deviceWho 0) (addrOf w 0) = none) ∧
    (let s := launchReady aLaunch
     s.mg.svcRed = true ∧ s.mg.tripped = false ∧ s.mg.ckptBusy = false ∧ s.stalled = [] ∧ Map.getD s.lq 2 [] = [aLaunch] ∧
       Map.getD s.spill 2 [] = [] ∧ launchBad s (parseLaunch aLaunch) = none) ∧
    ((launchReady aLaunch).arrivals = [] ∧ (launchReady aLaunch).devQ = [] ∧ partOp (launchReady aLaunch) = none ∧
      ¬ ∀ q ∈ ({ launchReady aLaunch with arrivals := [0, 2] } : State).arrivals.takeWhile (fun q => q != 2), 2 ≤ q) ∧
    (let s := { launchAt 0x210000000400AFEB with stalled := [(2, aLaunch)] }
     meetsU (.launch { noENG with a := 4, sa := true, scope := 2 }) s (fun u c => c.act != 0 && !pendingOps c && u.stalled.any (fun x => x.1 == 2) &&
       check u { c.who with noWatch := true } (aliasA 0) 64 .read == none) = true) ∧
    (launchBad (launchReady (leBytes 64 0)) (parseLaunch (leBytes 64 0)) = some 2 ∧ (parseLaunch (leBytes 64 0)).compl = 0) ∧
    State.reset.mg.svcRed = false ∧
    (meets (.launch { noENG with g := { gp := 1, gn := false }, a := 4, sa := true, scope := 2 }) (ready 0x210000000400A1EB) (fun c => c.act == 0) = true ∧
     meetsU (.launch { noENG with a := 4, sa := true, scope := 2 }) (launchAt 0x210000000400AFEB) (fun u c => c.act != 0 && !pendingOps c && peerOpOf u c (lowLane c.act) == none &&
       peerHome u c.who (aliasA 0) == none && check u { c.who with noWatch := true } (aliasA 0) 64 .read == none && u.stalled.isEmpty &&
       (Map.getD u.lq 2 []).isEmpty) = true) ∧
    (placing placeReady = some (0, none) ∧ (∀ e ∈ placeReady.runs, e.1 = 0 → e.2 = runAt placeReady 0) ∧
      (runAt placeReady 0).lr.cor = false) ∧
    (Map.find? wordReady.gangs 0 = some (gangAt wordReady 0) ∧ (gangAt wordReady 0).live ≠ 0 ∧
      (gangAt (onG wordReady (fun g => { g with live := 0 })) 0).ops = []) ∧
    (let s := { wordReady with gangs := [], paths := [] }
     Map.find? s.crews 0 = some (crewAt s 0) ∧ Map.find? s.runs (crewAt s 0).run = some (runAt s 0) ∧ s.gangs = [] ∧ s.eng = [] ∧
       (runAt s 0).lr.crews ≤ (runAt s 0).retired + 1) ∧
    (let s := onRun { wordReady with gangs := [], paths := [] } 0 (fun r => { r with lr := { r.lr with crews := 2 } })
     (runAt s 0).retired + 1 < (runAt s 0).lr.crews) ∧
    (let s := onP (onG wordReady (fun g => { g with nv := 248 })) (fun p => { p with wait := .growth 256 })
     oldestWant s 0 = some (0, gangAt s 0, 256) ∧ growthFits s 0 256 = true ∧ growthStuck s 0 = true ∧
       (∀ e ∈ crewsOn s 0, e.2.draining = false) ∧ 128 * (256 - 248) ≤ freeV s 0) ∧
    growthStuck wordReady 0 = false := by decide

/-- The check code of a list of bytes, each byte's code found before the next. -/
def crcRun : Nat → List Byte → Nat
  | c, [] => c
  | c, b :: bs => if Nat.beq c 0 then crcRun (crcByte c b.toNat) bs else crcRun (crcByte c b.toNat) bs
theorem crcRun_eq (bs : List Byte) (c : Nat) : crcRun c bs = crcBytes c bs := by
  induction bs generalizing c with
  | nil => rfl
  | cons b bs ih => simp only [crcRun, ite_self, ih]; rfl
theorem leBytes_leNat (bs : List Byte) : leBytes bs.length (leNat bs) = bs := by
  induction bs with
  | nil => rfl
  | cons b bs ih =>
    have h : (b.toNat + 256 * leNat bs) / 256 = leNat bs := by have := b.isLt; omega
    have h2 : BitVec.ofNat 8 (b.toNat + 256 * leNat bs) = b := by
      apply BitVec.eq_of_toNat_eq; have := b.isLt; simp only [BitVec.toNat_ofNat]; omega
    rw [List.length_cons, leNat, leBytes, h, ih, h2]
theorem bytesFrom_length (m : Map Byte) (a n : Nat) : (bytesFrom m a n).length = n := by
  induction n generalizing m a with
  | zero => cases m <;> rfl
  | succ n ih =>
    match m with
    | [] => simp [bytesFrom]
    | (j, b) :: m => rw [bytesFrom]; split <;> simp [ih]
theorem ckptBytes_eq (s : State) (o n : Nat) : ckptBytes s o n =
    mapBytes (if s.mg.ckptGo.1 then s.ckpt else s.hostMem) (ckptBase s + o) n := by
  have h := leBytes_leNat (mapBytes (if s.mg.ckptGo.1 then s.ckpt else s.hostMem) (ckptBase s + o) n)
  rwa [mapBytes, bytesFrom_length] at h
/-- A checkpoint's header at host address 0: its magic number, its frames per die and its check code. -/
def header : State :=
  { State.reset with
    hostMem := mapPut (mapPut (mapPut [] 0 (leBytes 4 0x5A434B50)) 22 [0xC]) 4092 (leBytes 4 3909587173)
    mg := { State.reset.mg with hostReady := true } }
theorem header_crc : crc32c (ckptBytes header 0 4092) = 3909587173 := by
  rw [ckptBytes_eq, crc32c, ← crcRun_eq]; decide +kernel
/-- One core in service whose crew, of class 3, holds every granule; a save pool of 128 pages (40). -/
def crowded : State :=
  let s := withEnt (inService wordReady) 40 (128 * 65536) 1 3 0 0 0x10280 1
  let s := withExt s 0x10280 0 128 100
  let s := onRun (onG s (fun g => { g with nv := 8 })) 0 (fun r => { r with cls := 3, lr := { r.lr with vinit := 1, vmax := 1 } })
  { s with deal := [0], mg := { s.mg with savePool := 40 } }
def urgentRun : Run :=
  { Run.blank with lr := { LaunchRec.blank with crews := 1, gangs := 1, scratch := 48 }, cls := 0, eligible := true }
def priority : State := { crowded with runs := Map.put crowded.runs 1 urgentRun }
/-- The crew drains, its path before a header. -/
def draining : State :=
  let s := onP crowded (fun p => { p with clause := none, slot := none })
  let s := onRun s 0 (fun r => { r with lr := { r.lr with scratch := 0, acc := 0 } })
  onCrew s 0 (fun c => { c with draining := true, area := (0, 1), gran := [], tiles := [] })
def toResume : State := { crowded with crews := [], gangs := [], paths := [], pre := [preCrew] }
/-- An image of 256 bytes: its length and its check code. -/
def withImage (s : State) (code : Nat) : State :=
  { s with mem := mapPut (mapPut s.mem (100 * 65536) (leBytes 4 256)) (100 * 65536 + 40) (leBytes 4 code) }
theorem image_bytes : loadBytes (withImage toResume 3960424735) (deviceWho 0) (addrOf 40 0) 256 =
    leBytes 4 256 ++ leBytes 36 0 ++ leBytes 4 3960424735 ++ leBytes 212 0 := by decide +kernel
theorem image_ok : imageOk (withImage toResume 3960424735) (addrOf 40 0) = true := by
  have h1 : objNat (withImage toResume 3960424735) (deviceWho 0) (addrOf 40 0) 4 = 256 := by decide +kernel
  have h2 : rangePoisoned (withImage toResume 3960424735) (deviceWho 0) (addrOf 40 0) 256 = false := by decide +kernel
  have h3 : ∀ bs : List Byte, bs = leBytes 4 256 ++ leBytes 36 0 ++ leBytes 4 3960424735 ++ leBytes 212 0 →
      crc32c (bs.take 40 ++ leBytes 4 0 ++ bs.drop 44) = leNat ((bs.drop 40).take 4) := by
    intro bs h; subst h; rw [crc32c, ← crcRun_eq]; decide +kernel
  simp only [imageOk, h1, h2, h3 _ image_bytes, beq_self_eq_true]
  decide
/-- The clauses that need a whole image or a good header. -/
theorem witness_PreemptAndCheckpoint_images :
    (let s := withImage toResume 3960424735
     placing s = some (0, some preCrew) ∧ s.pre[0]? = some preCrew ∧ (runAt s 0).lr.cor = false ∧
     resumeCore s preCrew = some 0 ∧ s.mg.savePool = 40) ∧
    imagesAt (withImage toResume 3960424735) 1 (addrOf 40 0) = some [addrOf 40 0] ∧
    (arrives header = true ∧ header.mg.ckptGo = (false, header.mg.ckptGo.2.1, header.mg.ckptAddr) ∧ header.mg.ckptBusy = false ∧ header.mg.launchEn = false ∧ header.runs = [] ∧
      header.mg.tripped = false ∧ ckptNat header 0 4 = 0x5A434B50 ∧ ckptNat header 20 4 = Config.framesPerDie ∧
      ckptNat header 16 1 = 0 ∧ ckptNat header 40 4 = 0 ∧ ckptNat header 44 4 = 0 ∧ ckptNat header 4 4 = 0) ∧
    ckptNat header 4092 4 = crc32c (ckptBytes header 0 4092) := by
  refine ⟨by decide, by rw [imagesAt, image_ok]; rfl, by decide, by rw [header_crc]; decide +kernel⟩
/-- A write of the part at a peer that has not answered it. -/
def unansweredPut : PeerOp :=
  { tag := 0, port := 0, op := 3, owner := .part, addr := addrOf 42 0, n := 8, answer := none, fail := none, sofar := [], stream := false, segs := [] }
/-- The writes of a save are in memory, or wait behind one to a peer. -/
theorem witness_PreemptAndCheckpoint_drain :
    (let s := onCrew { draining with gangs := [], paths := [] } 0 (fun c => { c with ng := 0 })
     drainReady s 0 = true ∧ (crewPins s 0).length ≤ (freePinRecs s).length ∧ (saveCrew s 0).devQ = []) ∧
    (let s := onCrew { draining with gangs := [], paths := [] } 0 (fun c => { c with ng := 0 })
     let s := { s with devQ := [{ addr := addrOf 41 0, bytes := [7], add := false, rel := none, mark := none }], peerOps := [unansweredPut] }
     drainReady s 0 = true ∧ (crewPins s 0).length ≤ (freePinRecs s).length ∧ (saveCrew s 0).devQ ≠ []) := by decide +kernel
set_option maxRecDepth 20000 in
theorem witness_PreemptAndCheckpoint :
    (∀ e ∈ eligibleRuns State.reset, e.2.cls ≠ 0) ∧
    ((eligibleRuns priority).filter (fun e => e.2.cls == 0) = [] ++ (1, urgentRun) :: [] ∧
      priorityFor priority 1 urgentRun = some [0] ∧
      priority.mg.tripped = false ∧ priority.mg.ckptBusy = false ∧ priority.mg.restored = false ∧ (∀ e ∈ priority.crews, e.2.draining = false) ∧
      (beginDrains priority [0]).isSome = true) ∧
    drainReady wordReady 0 = false ∧
    (drainReady draining 0 = true ∧ (crewPins draining 0).length ≤ (freePinRecs draining).length) ∧
    (placing toResume = some (0, some preCrew) ∧ toResume.pre[0]? = some preCrew ∧ (runAt toResume 0).lr.cor = false ∧
      resumeCore toResume preCrew = some 0 ∧ imagesAt toResume 1 (addrOf 40 0) = none ∧
      (runAt (onRun toResume 0 (fun r => { r with lr := { r.lr with crews := 2 } })) 0).lr.crews = 2) ∧
    (arrives (inService State.reset) = true ∧ (inService State.reset).mg.ckptBusy = false ∧ State.reset.crews = [] ∧
      State.reset.mg.tripped = false ∧ (1 : BitVec 32).getLsbD 0 = true ∧ (0 : BitVec 32).getLsbD 0 = false ∧
      (1 : BitVec 32).getLsbD 1 = false ∧ (3 : BitVec 32).getLsbD 1 = true ∧ (3 : BitVec 32).getLsbD 0 = true) ∧
    (let s := { State.reset with mg := { State.reset.mg with ckptBusy := true } }
     s.mg.ckptBusy = true ∧ s.mg.ckptGo.2.1 = false ∧ s.bounce = [] ∧ s.devQ = [] ∧ s.mg.tripped = false ∧ Memory.wf s.hostMem = true ∧
       Memory.wf s.ckpt = true) ∧
    (let s := { State.reset with mg := { State.reset.mg with ckptBusy := true, ckptGo := (false, true, 0) } }
     s.mg.ckptBusy = true ∧ s.mg.ckptGo.2.1 = true ∧ s.mg.tripped = false) ∧
    (let s := fun saved => { inService State.reset with mg := { (inService State.reset).mg with tripped := true, tripSaved := saved } }
     arrives (s true) = true ∧ (s true).mg.tripSaved = true ∧ (s false).mg.tripped = true ∧ (s false).mg.tripSaved = false) ∧
    (let s := { State.reset with mg := { State.reset.mg with hostReady := true } }
     arrives s = true ∧ s.mg.launchEn = false ∧ s.runs = [] ∧ s.mg.tripped = false ∧ ckptNat s 0 4 ≠ 0x5A434B50) := by decide

def reclaimOf (id : Nat) : Reclaim := { oid := id, die := 0, ops := [], searched := false, listed := false, freeing := false }
def svcOf (tag : Nat) (posted : Bool) : Svc := { tag := tag, kind := 1, oid := 32, page := 0, eng := none, posted := posted }
/-- A migration of object 32's one page to die 0, asked by the host. -/
def migReq : List Byte := leBytes 4 32 ++ leBytes 4 0 ++ leBytes 4 1 ++ leBytes 4 0 ++ leBytes 4 48 ++ leBytes 12 0
def pooled (s : State) : State := { s with pool := [(0, 5)] }
set_option maxRecDepth 20000 in
/-- Nothing to do; a reclaim with no pin, with a lock, with a pin; each clause of the others. -/
theorem witness_ObjectEvents :
    (let s := { State.reset with reclaims := [reclaimOf 32] }
     let find := fun (s : State) => s.reclaims.find? (fun r => r.oid == 32 && !r.freeing)
     find State.reset = none ∧ find s = some (reclaimOf 32) ∧ pinsOf s 32 = [] ∧ implicitPin s 32 = false ∧ (∀ x ∈ s.locks, x.oid % 2 ^ 24 ≠ 32) ∧
     (∃ x ∈ ({ s with locks := [{ cluster := 0, op := 0, oid := 32, lo := 0, hi := 0 }] } : State).locks, x.oid % 2 ^ 24 = 32) ∧
     pinsOf (withPin { wordReady with reclaims := [reclaimOf 32] } 3 32) 32 ≠ []) ∧
    (let d : Dirty := { oid := 32, page := 1, run := 0, holder := 0 }
     ([d].filter (fun d => d.oid == 32 && d.page == 1) = [d]) ∧ Memory.wf State.reset.mem = true ∧ State.reset.mg.tripped = false) ∧
    (let s := { State.reset with shoots := [{ oid := 32, who := .internal }], reclaims := [{ reclaimOf 32 with freeing := true }] }
     (∃ x ∈ s.shoots, x.oid = 32) ∧ graphBusy s 32 = false ∧ peerBusy s 32 = false ∧ freeHeld s 32 = false ∧ (∃ r ∈ s.reclaims, r.oid = 32 ∧ r.freeing = true) ∧
     ∀ x ∈ State.reset.shoots, x.oid ≠ 32) ∧
    (Map.find? State.reset.paths 0 = none ∧ (Map.find? wordReady.paths 0).isSome = true) ∧
    bounceOf State.reset 32 0 = none ∧
    (let s := { (withEnt State.reset 32 65536 1 3 0 0 0x10200 1) with bounce := [(32 * 2 ^ 24, 2 ^ 23)] }
     let s := pooled { s with mem := mapPut s.mem (64 * 32 + 32) (leBytes 4 0) }
     bounceOf s 32 0 = some (2 ^ 23) ∧ (entryOf s 32).home ≠ 1 ∧
     takeFrameNear { s with pool := [] } 0 = none ∧ s.devQ = [] ∧
     (takeFrameNear s 0).any (fun r => (mapObjPage r.2 32 0 (2 ^ 63 + r.1)).isSome) = true) ∧
    (let s := { (withEnt State.reset 32 65536 1 3 1 0 0x10200 1) with bounce := [(32 * 2 ^ 24, 2 ^ 23)] }
     bounceOf s 32 0 = some (2 ^ 23) ∧ (entryOf s 32).home = 1 ∧ (∀ v ∈ s.svcs, ¬ (v.kind = 5 ∧ v.oid = 32 ∧ v.page = 0)) ∧
     ∃ v ∈ ({ s with svcs := [{ svcOf 0 true with kind := 5 }] } : State).svcs, v.kind = 5 ∧ v.oid = 32 ∧ v.page = 0) := by decide
set_option maxRecDepth 20000 in
theorem witness_ObjectEvents_host :
    (let m : Migr := { oid := 32, first := 0, count := 1, status := 0, frames := [7] }
     State.reset.migr = none ∧ ({ State.reset with migr := some m } : State).migr = some m ∧
     (([1023] : List Nat) ≠ [] ∧ ∀ x ∈ ([1023] : List Nat), 1024 * m.first ≤ x ∧ x < 1024 * (m.first + m.count)) ∧
     ¬ ([] : List Nat) ≠ []) ∧
    (let s := inService (pooled (withObj State.reset 32 1 5))
     let x := fun o k => leNat ((migReq.drop o).take k)
     let e := entryOf s (x 0 4)
     arrives s = true ∧ s.mg.tripped = false ∧ migReq.length = 32 ∧ s.migr = none ∧ x 0 4 < 2 ^ 24 ∧ 1 < x 0 4 ∧ e.ok = true ∧ e.home = 0 ∧
     e.kind ∈ [1, 3, 5, 6] ∧ x 12 1 < 8 ∧ x 13 3 = 0 ∧ x 20 12 = 0 ∧ x 16 4 < 2 ^ 24 ∧ allResident s (x 0 4) e (x 4 4) (x 8 4) = true ∧
     (takeFrames s (x 12 1) (x 8 4)).isSome = true) ∧
    (let s := { (inService State.reset) with svcs := [svcOf 7 true] }
     let hit := fun (v : BitVec 64) (x : Svc) => x.posted && x.tag % 2 ^ 32 == v.toNat / 2 ^ 32
     arrives s = true ∧ s.mg.tripped = false ∧ s.svcs.find? (hit 0x700000001) = some (svcOf 7 true) ∧ s.svcs.find? (hit 0x600000000) = none ∧
     (∀ e ∈ s.paths, e.2.wait ≠ .fetchHost 7) ∧ (0x700000000 : BitVec 64).getLsbD 0 = false) ∧
    (let s := { (inService State.reset) with shoots := [{ oid := 32, who := .reg }] }
     arrives s = true ∧ (∃ x ∈ s.shoots, x.who = .reg) ∧ ∀ x ∈ State.reset.shoots, x.who ≠ .reg) ∧
    (let s := { State.reset with svcs := [svcOf 7 true, svcOf 8 false] }
     s.svcs.find? (fun v => !v.posted) = some (svcOf 8 false) ∧ (s.mg.hsNext - s.mg.hsRead).toNat < hsSize s ∧
     ¬ ∀ v ∈ s.svcs, v.posted = true) := by decide

def hostUp : State := { State.reset with mg := { State.reset.mg with hostReady := true } }
def onM (s : State) (f : Mgmt → Mgmt) : State := { s with mg := f s.mg }
/-- A CODE object of two pages' size with the execute and supervisor permissions, as a handler needs. -/
def withHandlerCode (s : State) : State := withExt (withEnt s 16 65536 4 0xC 0 0 0x10100 1) 0x10100 0 1 5
set_option maxRecDepth 20000 in
theorem witness_RegisterWrites :
    arrives State.reset = false ∧ arrives hostUp = true ∧ hostUp.mg.tripped = false ∧
    (hostUp.mg.launchEn = false ∧ hostUp.runs = [] ∧ hostUp.pre = [] ∧ (∀ e ∈ hostUp.crews, e.2.draining = false)) ∧
    ¬ ((onM hostUp (fun m => { m with launchEn := true })).mg.launchEn = false) ∧
    ¬ (({ hostUp with pre := [preCrew] } : State).pre = []) ∧
    ((0 : BitVec 32).getLsbD 0 = false ∧ (1 : BitVec 32).getLsbD 0 = true ∧ hostUp.mg.ftInst = false) ∧
    (let s := onM hostUp (fun m => { m with ftInst := true, phInst := true })
     s.mg.ftInst = true ∧ s.mg.phInst = true) ∧
    (let s := withHandlerCode hostUp
     let v : BitVec 64 := 0x4000000010
     let oid := v.toNat % 2 ^ 24
     let entry := v.toNat / 2 ^ 32
     let e := entryOf s oid
     e.ok = true ∧ e.kind = 4 ∧ e.home = 0 ∧ e.perm.testBit 2 = true ∧ e.perm.testBit 3 = true ∧ entry % 8 = 0 ∧ entry + 8 ≤ e.size ∧
     s.mg.launchEn = false ∧ s.runs = []) ∧
    (entryOf hostUp 16).ok = false ∧
    ((1 : BitVec 64).toNat % 4 = 1 ∧ (3 : BitVec 64).toNat % 4 = 3) ∧
    (∀ x ∈ ([(0x800, 0x7FFFFF), (0x804, 0xFFFFFE), (0x808, 0xFFFFFF)] : List (Nat × Nat)),
      (match exec (.registerWrite x.1 (BitVec.ofNat 64 0xFFFFFFFF)) hostUp with
       | .next t => t != hostUp && readReg t x.1 == x.2
       | _ => false) = true) := by decide

/-- An image of no bytes past its header, with `d` as its digest. -/
def imageOf (d : BitVec 512) : Map Byte :=
  [(0, 0x44), (1, 0x57), (2, 0x46), (3, 0x5A)] ++ (List.range 64).map (fun i => (12 + i, (leBytes 64 d.toNat).getD i 0))
theorem imageOf_digest (d : BitVec 512) : mapBytes (imageOf d) 12 64 = leBytes 64 d.toNat := rfl
/-- The image with the digest that it has, staged. -/
def stagedState (fw : Nat) (flash : Bool) : State :=
  let m := State.reset.mg
  { State.reset with
    mg := { m with
      fwState := fw
      fwToFlash := flash
      staging := imageOf (sha512 []) } }
theorem staged_good (fw : Nat) (flash : Bool) : let img := (stagedState fw flash).mg.staging
    mapNat img 0 4 = 0x5A465744 ∧ mapNat img 8 4 = 0 ∧ mapNat img 4 4 = 0 ∧
      mapBytes img 12 64 = leBytes 64 (sha512 (mapBytes img 512 0)).toNat :=
  ⟨by rfl, by rfl, by rfl, imageOf_digest _⟩
/-- The staged image as what flash holds, and as the copy that is being written there. -/
def flashed (fw : Nat) : State :=
  let s := stagedState fw true
  { s with mg := { s.mg with pgood := true, flash := s.mg.staging, fwCopy := s.mg.staging } }
theorem flashed_good (fw : Nat) : (flashed fw).mg.flash = (stagedState fw true).mg.staging ∧
    (flashed fw).mg.fwCopy = (stagedState fw true).mg.staging := ⟨rfl, rfl⟩
def rails (fw : Nat) : State := { State.reset with mg := { State.reset.mg with pgood := true, fwState := fw } }
set_option maxRecDepth 20000 in
/-- Each side of every comparison, and the states of bring-up. -/
theorem witness_PowerAndBringup :
    (let top := fun (m : Mgmt) => max (max m.demThermal m.demPower) (max m.clkCeil (if m.svcFull then 0 else 6))
     let m := State.reset.mg
     top m = 6 ∧ m.clkStep = 6 ∧ ({ m with clkStep := 3 } : Mgmt).clkStep < top { m with clkStep := 3 } ∧
       top { m with svcFull := true, clkCeil := 2 } < m.clkStep) ∧
    (State.reset.mg.pwrCap < 2401 ∧ 1000 ≤ State.reset.mg.pwrCap ∧ 100 * 1000 < 95 * State.reset.mg.pwrCap ∧
      95 * State.reset.mg.pwrCap ≤ 100 * 2400) ∧
    (State.reset.mg.tripped = false ∧ State.reset.mg.clkStep = 6 ∧ State.reset.runs = [] ∧ State.reset.stalled = [] ∧ State.reset.devQ = [] ∧
      ∀ p < 4, lqAt State.reset p = [] ∧ spillAt State.reset p = []) ∧
    (State.reset.mg.pgood = false ∧ (rails 0).mg.pgood = true ∧ (rails 0).mg.fwState = 0 ∧ (rails 1).mg.fwState ≠ 0) ∧
    (mapNat (rails 3).mg.staging 0 4 ≠ 0x5A465744 ∧ mapNat (rails 0).mg.flash 0 4 ≠ 0x5A465744 ∧ (rails 3).mg.fwState = 3) ∧
    ((flashed 0).mg.pgood = true ∧ (flashed 0).mg.fwState = 0 ∧
      (flashed 5).mg.fwState = 5) ∧
    ((stagedState 3 true).mg.fwState = 3 ∧ (stagedState 3 true).mg.fwToFlash = true ∧ (stagedState 3 false).mg.fwToFlash = false ∧
      (stagedState 5 true).mg.fwState = 5) ∧
    (arrives hostUp = true ∧ ({ hostUp.mg with fwState := 2 } : Mgmt).fwState = 2 ∧ arrives State.reset = false) ∧
    (State.reset.mg.fwState ≠ 1 ∧ nextDie (rails 1) ≠ some 5) ∧
    (∀ d ∈ [0, 7], let s := { (rails 1) with mg := { (rails 1).mg with dieTrained := BitVec.ofNat 8 (2 ^ d - 1) } }
      s.mg.fwState = 1 ∧ d < 8 ∧ s.mg.dieTrained.getLsbD d = false ∧ s.mg.dieFail.getLsbD d = false ∧
      ∀ j < d, s.mg.dieTrained.getLsbD j = true ∨ s.mg.dieFail.getLsbD j = true) ∧
    (rails 1).deal = [] ∧ (inService State.reset).deal ≠ [] := by decide

/-- The host's first aperture window over object 32, and over the Plain. -/
def withWindow (s : State) (a : Nat) : State :=
  onM s (fun m => { m with hostReady := true, apertureSize := 2 ^ 26, apertab := [(0, BitVec.ofNat 64 a)] })
/-- The host's first aperture window over an object of peer 0, to which port 0 leads. -/
def farWindow : State :=
  let s := withWindow (withEnt (inService State.reset) 32 65536 1 3 2 0 0 0) (addrOf 32 0)
  { s with zports := [(0, { ZPort.blank with up := true })], mg := { s.mg with routes := [(0, [0])], fabricNo := 1 } }
theorem witness_farPort : portOf farWindow 0 (addrOf 32 0) = some 0 := by
  have h : Map.getD farWindow.mg.routes 0 [] = [0] := by decide
  rw [portOf, h, List.length_singleton, Nat.mod_one]
  decide
set_option maxRecDepth 20000 in
theorem witness_AttestScanErrorsAperture :
    (State.reset.mg.attReq ≠ 1 ∧ (onM State.reset (fun m => { m with attReq := 1 })).mg.attReq = 1) ∧
    (let s := onM (inService State.reset) (fun m => { m with scanCtl := 0x80000000 })
     s.mg.scanCtl.getLsbD 31 = true ∧ coreUp s 0 = true ∧ crewsOn s 0 = [] ∧ s.scanning = none ∧ State.reset.mg.scanCtl.getLsbD 31 = false) ∧
    (let s := { (inService State.reset) with scanning := some 0 }
     s.scanning = some 0 ∧ s.scanning ≠ some 1 ∧ s.runs = [] ∧ s.deal.Nodup ∧ 0 < s.deal.length ∧ (inService wordReady).runs ≠ []) ∧
    (let s := inService State.reset
     frameOk 786431 = true ∧ frameOk 786432 = false ∧ 1 < s.deal.length ∧ 65535 < 65536 ∧ 49151 < 49152) ∧
    arrives State.reset = false ∧ State.reset.mg.tripped = false ∧
    (let o : PeerOp := { tag := 0, port := 0, op := 1, owner := .host, addr := BitVec.ofNat 64 (addrOf 32 0), n := 8,
                         answer := some (leBytes 8 7), fail := none, sofar := [], stream := false, segs := [] }
     arrives farWindow = true ∧ (peerHome farWindow hostWho (addrOf 32 0)).any (fun e => e.peer == 0) = true ∧
     askRoom farWindow 0 = true ∧ hostMay farWindow 0 (addrOf 32 0) 8 .read = true ∧ hostMay farWindow 0 (addrOf 32 0) 8 .write = true ∧
     livePorts { farWindow with zports := [] } 0 = [] ∧ hostMay { farWindow with zports := [] } 0 (addrOf 32 0) 8 .read = true ∧
     (linePieces (addrOf 32 0) 8).map (fun x => x.addr.bind (fun b => hostAsk { farWindow with peerOps := [o] } b x.len)) = [some o] ∧
     hostAsk farWindow (addrOf 32 0) 8 = none ∧ hostAsk { farWindow with peerOps := [o] } (addrOf 32 0) 8 = some o) ∧
    (let s := withWindow (withObj State.reset 32 1 5) (addrOf 32 0)
     let e := (Map.getD s.mg.apertab (0 / 2 ^ 26) 0).toNat
     arrives s = true ∧ peerHome s hostWho e = none ∧ 0 < s.mg.apertureSize ∧ e ≠ 0 ∧ hostMay s 0 (e % 2 ^ 64) 8 .read = true ∧
     hostMay s 0 (e % 2 ^ 64) 8 .write = true ∧ (engPages s hostWho e 8).isSome = true ∧ hostMay s 0 (e % 2 ^ 64) 4097 .read = false ∧
     hostMay s 0 (e % 2 ^ 64) 4097 .write = false ∧ s.mg.apertureSize ≤ 2 ^ 26 ∧ locate s hostWho e ≠ .none) ∧
    (let s := withWindow (inService State.reset) (addrOf plainId 0)
     let e := (Map.getD s.mg.apertab 0 0).toNat
     oidOf e = plainId ∧ hostMay s 0 e 8 .write = true ∧ (engPages s hostWho e 8).isSome = true) := by decide
/-- Every bounce frame of die 0 is taken, by pages of no object. -/
def fullBounce (s : State) : State := { s with bounce := (List.range 4096).map (fun i => (i, 2 ^ 23 + i)) }
theorem freeBounce_full (s : State) : freeBounce (fullBounce s) 0 = none := by
  simp only [freeBounce, Option.map_eq_none_iff, List.find?_eq_none, List.mem_range, fullBounce]
  intro i hi
  have h : ((List.range 4096).map (fun i => (i, 2 ^ 23 + i))).any (fun e => e.2 == 2 ^ 23 + 4096 * 0 + i) = true :=
    List.any_eq_true.mpr ⟨(i, 2 ^ 23 + i), List.mem_map.mpr ⟨i, List.mem_range.mpr hi, rfl⟩, by simp⟩
  simp only [h, Bool.not_true, Bool.false_eq_true, not_false_eq_true]
/-- Object 32 has no page, and the host's first aperture window lies over it. -/
def emptyWindow : State := withWindow (withEnt State.reset 32 65536 1 3 0 0 0x10200 0) (addrOf 32 0)
theorem bounceOf_full (s : State) : bounceOf (fullBounce s) 32 0 = none := by
  simp only [bounceOf, fullBounce, find?_map_keys, List.mem_range]; rfl
theorem walkExt_bounce (s : State) (b : Map Nat) (o : Nat) (e : ObjEnt) (p k : Nat) :
    ∀ i lo, walkExt { s with bounce := b } o e p k i lo = walkExt s o e p k i lo := by
  induction k with
  | zero => intro i lo; rfl
  | succ k ih => intro i lo; simp only [walkExt, ih]; rfl
theorem lookup_bounce (s : State) (b : Map Nat) (w : Who) (o p : Nat) : lookup { s with bounce := b } w o p = lookup s w o p := by
  simp only [lookup, pageTarget, walkExt_bounce]; rfl
theorem canon_bounce (s : State) (b : Map Nat) : canon { s with bounce := b } hostWho (addrOf 32 0) = addrOf 32 0 := rfl
theorem dieOf_bounce (s : State) (b : Map Nat) (c : Nat) : dieOf { s with bounce := b } c = dieOf s c := rfl
theorem locate_full : locate (fullBounce emptyWindow) hostWho (addrOf 32 0) = .none := by
  have h : lookup (fullBounce emptyWindow) hostWho 32 0 = lookup emptyWindow hostWho 32 0 := lookup_bounce _ _ _ _ _
  have h2 : (lookup emptyWindow hostWho 32 0).2 = some none := by decide +kernel
  have h3 : canon (fullBounce emptyWindow) hostWho (addrOf 32 0) = addrOf 32 0 := canon_bounce _ _
  have h4 : oidOf (addrOf 32 0) = 32 ∧ offOf (addrOf 32 0) = 0 ∧ (32 : Nat) ≠ plainId := by decide +kernel
  simp only [locate, h3, h4.1, h4.2.1, h4.2.2, Nat.zero_div, bounceOf_full, h, ↓reduceIte]
  generalize lookup emptyWindow hostWho 32 0 = x at h2
  obtain ⟨e, t⟩ := x
  cases h2
  rfl
theorem engPages_none (s : State) (w : Who) (a n : Nat) (hn : n ≠ 0) (h1 : (a + n - 1) / 65536 - a / 65536 + 1 = 1)
    (h : engPage s w a = none) : engPages s w a n = none := by
  rw [engPages, if_neg hn, h1]
  show (List.range 1).foldlM _ _ = none
  rw [show List.range 1 = [0] from rfl, List.foldlM_cons, if_pos rfl, h]
  rfl
/-- A host's write to a page that is not resident, with no bounce frame free. -/
theorem witness_stalledApertureWrite :
    hostMay (fullBounce emptyWindow) 0 (addrOf 32 0) 8 .write = true ∧ engPages (fullBounce emptyWindow) hostWho (addrOf 32 0) 8 = none := by
  have h : hostMay (fullBounce emptyWindow) 0 (addrOf 32 0) 8 .write = hostMay emptyWindow 0 (addrOf 32 0) 8 .write := by
    have h2 : (lookup emptyWindow hostWho 32 0).2 = some none := by decide +kernel
    have h3 : (lookup emptyWindow hostWho 32 0).1.home = 0 := by decide +kernel
    have h4 : oidOf (addrOf 32 0) = 32 ∧ offOf (addrOf 32 0) = 0 ∧ pagesOf (addrOf 32 0) 8 = [addrOf 32 0] := by decide +kernel
    have h5 : (32 = aliasId ∨ 32 = plainId) = False := by decide
    simp only [hostMay, fullBounce, lookup_bounce, h4.1, h4.2.1, h4.2.2, List.all_cons, List.all_nil, Nat.zero_div, h2, h3,
      beq_self_eq_true, Bool.true_or, h5, ↓reduceIte]
  refine ⟨by rw [h]; decide +kernel, ?_⟩
  have hd : dieOf (fullBounce emptyWindow) hostWho.core = 0 := by rw [fullBounce, dieOf_bounce]; decide +kernel
  refine engPages_none _ _ _ _ (by decide) (by decide) ?_
  rw [engPage, locate_full, hd, freeBounce_full]

/-- A flit of sequence number 0 that carries a message of OP 1 without data, and its check code. -/
def aFlit (code : Nat) : List Byte := leBytes 4 0x1000 ++ leBytes 12 0 ++ [1] ++ leBytes 235 0 ++ leBytes 4 code
def upPort (s : State) (f : ZPort → ZPort) : State := onPort s 0 (fun z => f { z with up := true })
def msgOf (op a len : Nat) (data : List Byte) : Msg :=
  { addr := BitVec.ofNat 64 a, tgt := 0, src := 1, op := op, flags := 0, tag := 5, len := len, rsvOk := true, data := data }
def withMsg (s : State) (m : Msg) : State := upPort s (fun z => { z with rx := [m] })
def sentOp (op : Nat) : PeerOp :=
  { tag := 5, port := 0, op := op, owner := .eng 0 0, addr := 0, n := 1, answer := none, fail := none, sofar := [], stream := false, segs := [] }
/-- A raw block of the one symbol 7. -/
def rawBlock : List Byte := leBytes 2 0x4C5A ++ [1, 0] ++ leBytes 2 1 ++ leBytes 2 1 ++ leBytes 4 2260154298 ++ leBytes 132 0 ++ [7]
theorem aFlit_good : crc32c ((aFlit 2196290955).take 252) = leNat ((aFlit 2196290955).drop 252) := by
  rw [crc32c, ← crcRun_eq]; decide +kernel
/-- A damaged flit. -/
theorem aFlit_bad : (aFlit 0).length = 256 ∧ crc32c ((aFlit 0).take 252) ≠ leNat ((aFlit 0).drop 252) := by
  refine ⟨by decide +kernel, ?_⟩
  rw [show (aFlit 0).take 252 = (aFlit 2196290955).take 252 by decide +kernel, aFlit_good]
  decide +kernel
set_option maxRecDepth 20000 in
theorem witness_Zalak_flits :
    (let s := upPort State.reset id
     let m := parseMsg (((aFlit 2196290955).drop 4).take 248)
     (zportAt s 0).up = true ∧ (aFlit 2196290955).length = 256 ∧ leNat ((aFlit 2196290955).take 2) % 4096 = (zportAt s 0).rxSeq ∧
     leNat ((aFlit 2196290955).take 4) / 2 ^ 12 % 16 = 1 ∧ m.data.length = m.len ∧ msgOk s m = true ∧
     leNat ((aFlit 2196290955).take 2) % 4096 ≠ (zportAt (upPort s (fun z => { z with rxSeq := 1 })) 0).rxSeq ∧
     zRoom s 0 1 = true ∧ (zportAt s 0).errs = [] ∧
     zRoom (upPort s (fun z => { z with tx := List.replicate 2048 (0, []) })) 0 1 = false ∧
     (zportAt s 0).discard = false ∧ (zportAt (upPort s (fun z => { z with discard := true })) 0).discard = true ∧
     (zportAt State.reset 0).up = false) ∧
    (let s := upPort State.reset (fun z => { z with tx := [(3, [])], replays := 15 })
     let u := upPort State.reset (fun z => { z with replays := 16 })
     (∃ x ∈ (zportAt s 0).tx, x.1 = 3) ∧ (zportAt s 0).replays < 16 ∧ (!(zportAt s 0).tx.isEmpty) = true ∧
     16 ≤ (zportAt u 0).replays ∧ (zportAt u 0).tx.isEmpty = true) ∧
    (let s := { State.reset with mg := { State.reset.mg with fwState := 1 } }
     (zportAt s 47).up = false ∧ s.mg.fwState = 1 ∧ s.mg.tripped = false) := by decide
set_option maxRecDepth 20000 in
/-- No message; each request on the Plain that passes, and one on identifier 0 that does not; a poisoned sector. -/
theorem witness_Zalak_requests :
    nextMsg 1 (zportAt State.reset 0).rx [] = none ∧
    (∀ x ∈ ([(1, 8, []), (3, 8, leBytes 8 7), (5, 0, [0, 8] ++ leBytes 16 0), (7, 0, rawBlock), (8, 0, [8, 1] ++ leBytes 6 0 ++ leBytes 8 16)] :
        List (Nat × Nat × List Byte)),
      let m := msgOf x.1 (addrOf plainId 16) x.2.1 x.2.2
      let s := withMsg (inService State.reset) m
      nextMsg x.1 (zportAt s 0).rx [] = some m ∧ (zportAt s 0).up = true ∧ zRoom s 0 64 = true) ∧
    (let s := inService State.reset
     let a := addrOf plainId 16
     let m := msgOf 1 a 8 []
     let e := reqEng s 0 m
     peerHome s peerWho a = none ∧ e.held = [] ∧ rangePoisoned { s with plainPoison := [(0, true)] } peerWho a 8 = true ∧
     rangeCheck s peerWho a 8 .read [] = none ∧ hostMiss s peerWho e [{ addr := some a, len := 8 }] = none ∧
     (∀ j < 8, (readCell s peerWho e (a + j)).bad = false) ∧
     (readCell { s with plainPoison := [(0, true)] } peerWho e a).bad = true ∧
     rangeCheck s peerWho 16 8 .read [] = some .objectInvalid ∧ rangeCheck s peerWho 16 8 .write [] = some .objectInvalid ∧
     rangeCheck s peerWho 16 8 .atomic [] = some .objectInvalid ∧
     rangeCheck s peerWho a 8 .write [] = none ∧ dstMigrates s [{ addr := some a, len := 8 }] = false ∧
     (engPages s peerWho a 8).isSome = true ∧ oidOf a = plainId ∧
     rangeCheck s peerWho a 8 .atomic [] = none ∧ a % 8 = 0 ∧ (a + 4) % 8 ≠ 0 ∧ rangeCheck s peerWho (a + 4) 8 .atomic [] = none ∧
     rangePoisoned s peerWho a 8 = false ∧ (oidOf a * 2 ^ 24 + offOf a / 65536) ∉ e.refused ∧ locate s peerWho a = .plain 16 ∧
     AtomOp.ofNum 0 = some .add ∧ AtomOp.ofNum 10 = some .maxe) ∧
    (let s := inService State.reset
     let b := msgBlock { msgOf 7 (addrOf plainId 16) 0 rawBlock with flags := 3 }
     let a := addrOf plainId 16
     b.syms = [7] ∧ b.bad = false ∧ rangeCheck s peerWho a 1 .write [] = none ∧ dstMigrates s [{ addr := some a, len := 1 }] = false ∧
     (engPages s peerWho a 1).isSome = true) := by decide
/-- An object of peer 0 (32) and an answered request of the device there; a stream here (35). -/
def farObject : State :=
  let s := withEnt (withEnt (inService State.reset) 32 65536 1 3 2 0 0 0) 35 65536 5 1 0 1 0x10230 1
  { withExt s 0x10230 0 1 9 with
    zports := [(0, { ZPort.blank with up := true })], mg := { s.mg with routes := [(0, [0])], fabricNo := 1 } }
set_option maxRecDepth 20000 in
/-- Requests to objects that are a peer's here, answered there and lost; requests for a stream's symbols. -/
theorem witness_Zalak_further :
    (let a := addrOf 32 16
     let m := msgOf 1 a 4 (leBytes 4 8)
     let o := { sentOp 1 with owner := .eng (reqKey 0 m) 0, answer := some (leBytes 8 7) }
     let s := { farObject with peerOps := [o] }
     let l := { farObject with peerOps := [{ o with answer := none, fail := some 0 }] }
     rangeCheck s peerWho a 8 .read [] = none ∧ rangeCheck s peerWho a 8 .atomic [] = none ∧ (peerHome s peerWho a).isSome = true ∧
     engReq s (reqKey 0 m) 0 = some o ∧ engReq l (reqKey 0 m) 0 = some { o with answer := none, fail := some 0 } ∧
     (reqEng s 0 m).held = [] ∧ m.flags.testBit 0 = false ∧ a % 8 = 0) ∧
    (let a := addrOf 35 0
     let m := { msgOf 1 a 4 (leBytes 4 100) with flags := 1 }
     let w := { peerWho with use := .stream }
     let s := withMsg farObject m
     m.flags.testBit 0 = true ∧ rangeCheck s w a 65536 .read [] = none ∧ rangeCheck s w (addrOf 36 0) 8 .read [] = some .objectInvalid ∧
     leNat (m.data.take 4) ≠ 0 ∧ 0 + 144 ≤ 65536 ∧ (reqEng s 0 m).held = [] ∧ peerHome s w a = none ∧
     (entryOf s 35).size = 65536 ∧ ctabIn s w (reqEng s 0 m) (reqKey 0 m) a = (s, some none) ∧
     hostMiss s w (reqEng s 0 m) [{ addr := some a, len := 4240 }] = none ∧ leNat (((msgOf 1 a 4 []).data).take 4) = 0) := by decide
set_option maxRecDepth 20000 in
/-- An answer, and the request that awaits it. -/
theorem witness_Zalak_answers :
    (∀ op ∈ [2, 4, 6, 9], let m := msgOf op 0 0 [8]
      nextMsg op (zportAt (withMsg State.reset m) 0).rx [] = some m) ∧
    (∀ op ∈ [1, 3, 5, 8], let o := sentOp op
      o.tag = (msgOf 2 0 0 []).tag ∧ o.port = 0 ∧ o.answer = none ∧ o.fail = none) ∧
    State.reset.devQ = [] ∧ State.reset.mg.tripped = false ∧ ownRead State.reset 0 (msgOf 7 0 0 []) = false ∧
    ownRead { State.reset with peerOps := [sentOp 1] } 0 (msgOf 7 0 0 []) = true ∧
    isAnswer State.reset 0 (msgOf 4 0 0 []) = true ∧ isAnswer State.reset 0 (msgOf 1 0 0 []) = false := by decide

/-! Examples that the spec works out, each one instruction or one rule; the expected values are the spec's. -/
/-- V[n] of a lane, and a lane's flags, after an instruction. -/
def afterV (i : Instr) (s : State) (n l : Nat) : Option Nat :=
  match exec i s with
  | .next t => some (rv (gangAt t 0) n l)
  | _ => none
def afterFlags (i : Instr) (s : State) : Option (BitVec 6) :=
  match exec i s with
  | .next t => some (rfl' (gangAt t 0) 0)
  | _ => none
/-- `s` with registers set in lane 0. -/
def lane0 (s : State) (xs : List (Nat × Nat)) : State := oneLane (onG s (fun g => xs.foldl (fun g x => wv g x.1 0 x.2) g))
set_option maxRecDepth 20000 in
/-- FMULX and FADDX after R232; XE is bit 5, INEXACT bit 4, UNDERFLOW bit 3. -/
theorem test_fmulx_R232 :
    let s := lane0 (ready 0x00000006040A0F52) [(4, 0x1A000000), (6, 0x1C800001)]
    afterV (.fmulx { noRRR with d := 10, a := 4, b := 6 }) s 10 0 = some 0x10 ∧ afterV (.fmulx { noRRR with d := 10, a := 4, b := 6 }) s 11 0 = some 0 ∧
      afterFlags (.fmulx { noRRR with d := 10, a := 4, b := 6 }) s = some 0b111000 := by decide
set_option maxRecDepth 20000 in
theorem test_faddx_R232 :
    let s := lane0 (ready 0x00000006040A0F50) [(4, 0x4B800000), (6, 0x3F800000)]
    afterV (.faddx { noRRR with d := 10, a := 4, b := 6 }) s 10 0 = some 0x4B800000 ∧ afterV (.faddx { noRRR with d := 10, a := 4, b := 6 }) s 11 0 = some 0x3F800000 ∧
      afterFlags (.faddx { noRRR with d := 10, a := 4, b := 6 }) s = some 0b010000 := by decide
set_option maxRecDepth 20000 in
/-- DWMUL of 1 + 2⁻²³ with itself, after R310. -/
theorem test_dwmul :
    let s := lane0 (ready 0x00000004040A0F54) [(4, 0x3F800001)]
    afterV (.dwmul { noRRR with d := 10, a := 4, b := 4 }) s 10 0 = some 0x3F800002 ∧ afterV (.dwmul { noRRR with d := 10, a := 4, b := 4 }) s 11 0 = some 0x28800000 ∧
      afterFlags (.dwmul { noRRR with d := 10, a := 4, b := 4 }) s = some 0b010000 := by decide
set_option maxRecDepth 20000 in
/-- DWRND of 1 + 2⁻²⁴, a tie: to even, and up. -/
theorem test_dwrnd :
    afterV (.dwrnd { noRRR with d := 10, a := 4 }) (lane0 (ready 0x00000000040A0F55) [(4, 0x3F800000), (5, 0x33800000)]) 10 0 = some 0x3F800000 ∧
    afterV (.dwrnd { noRRR with d := 10, a := 4, rnd := 2 }) (lane0 (ready 0x00200000040A0F55) [(4, 0x3F800000), (5, 0x33800000)]) 10 0 =
      some 0x3F800001 := by decide
set_option maxRecDepth 20000 in
/-- R225, R310: an exact sum of zero from opposite signs is -0 towards minus infinity. -/
theorem test_dwrnd_zero :
    afterV (.dwrnd { noRRR with d := 10, a := 4, rnd := 3 }) (lane0 (ready 0x00300000040A0F55) [(4, 0x3F800000), (5, 0xBF800000)]) 10 0 =
      some 0x80000000 := by decide
set_option maxRecDepth 20000 in
theorem test_dot4 :
    afterV (.dot4 { noRRR with d := 10, a := 4, b := 6, c := 8, type := 6, sat := true }) (lane0 (ready 0x00460806040A0F64)
      [(4, 0x0403FE01), (6, 0x08F90605), (8, 10)]) 10 0 = some 14 := by decide
set_option maxRecDepth 20000 in
/-- The example of R318: three matches, the windows' matching bytes, and the offsets. -/
theorem test_xsect_R318 :
    let i : Instr := (.xsect { noRRR with d := 30, a := 2, b := 4, c := 8, type := 7 })
    let s := lane0 (ready 0x00070804021E0F67)
      [(2, 0xB5), (3, 0x34), (4, 100), (5, 200), (8, 0x281E140A), (9, 0x32), (16, 0x090807)]
    afterV i s 30 0 = some 3 ∧ afterV i s 8 0 = some 0x00281E14 ∧ afterV i s 16 0 = some 0x00090807 ∧ afterV i s 4 0 = some 105 ∧
      afterV i s 5 0 = some 203 := by decide
/-- Lanes 0 to 7 with V4 = 10 + l and V6 = b. -/
def shflState (w : DWord) (b : Nat) : State :=
  onP (onG (ready w) (fun g => (List.range 8).foldl (fun g l => wv (wv g 4 l (10 + l)) 6 l b) g)) (fun p => { p with mask := 0xFF })
set_option maxRecDepth 20000 in
/-- The example of R323. -/
theorem test_shfl_R323 :
    (let i : Instr := (.shfl { noXL with d := 10, a := 4, b := 6, px := 15, type := 2, fn := 9 })
     (List.range 8).map (afterV i (shflState 0x09002F06040A8FB1 2) 10) =
       [some 0, some 0, some 10, some 11, some 12, some 13, some 14, some 15] ∧
     (List.range 8).map (afterV i (shflState 0x09002F06040A8FB1 0xFFFFFFFF) 10) =
       [some 11, some 12, some 13, some 14, some 15, some 16, some 17, some 0]) ∧
    (let s := onP (shflState 0x0B002F06040A8FB1 1) (fun p => { p with mask := 0x35 })
     [0, 2, 4, 5].map (afterV (.shfl { noXL with d := 10, a := 4, b := 6, px := 15, type := 2, fn := 11 }) s 10) = [some 12, some 14, some 15, some 10]) := by decide
set_option maxRecDepth 20000 in
/-- The example of R322: a ballot of lanes 1, 2 and 5 counts 3 and ranks the lanes. -/
theorem test_vote_R322 :
    let st := fun w => onP (onG (ready w) (fun g => [1, 2, 5].foldl (fun g l => wv g 4 l 1) g)) (fun p => { p with mask := 0xFF })
    afterV (.vote { noXL with d := 10, a := 4, px := 15, fn := 1 }) (st 0x01000F00040A8FB0) 10 0 = some 3 ∧
    (List.range 8).map (afterV (.vote { noXL with d := 10, a := 4, px := 15, fn := 2 }) (st 0x02000F00040A8FB0) 10) =
      [some 0, some 0, some 1, some 2, some 2, some 2, some 3, some 3] ∧
    afterV (.vote { noXL with d := 10, a := 4, px := 15, fn := 3 }) (st 0x03000F00040A8FB0) 10 0 = some 1 := by decide
/-- The bytes 0x4D and 0x05 of R223's example: 6.5 and 5 · 2⁻⁹. -/
theorem test_f8a : decodeF fF8a 0x4D = .fin false 13 (-1) ∧ decodeF fF8a 0x05 = .fin false 5 (-9) := by decide
/-- The table of R199's example: its codes, and the ten bits it writes. -/
theorem test_canonical_R199 :
    let lens := [1, 2, 3] ++ List.replicate 252 0 ++ [3]
    canonOk lens = true ∧ canonCodes lens = [(1, 0, 0), (2, 2, 1), (3, 6, 2), (3, 7, 255)] ∧
      (huff (canonCodes lens) (bitsOf [0xF2, 0x01]) 5 0 0).map (·.1) = some [0, 1, 0, 0xFF, 2] := by decide +kernel
/-- R47's example: a block of 1,644 bytes takes 7 flits, its 4,096 symbols 17. -/
theorem test_flits_R47 :
    let m := fun n : Nat => ({ addr := 0, tgt := 0, src := 0, op := 7, flags := 0, tag := 0, len := n, rsvOk := true,
                               data := List.replicate n 0 } : Msg)
    (msgBodies (m 1644)).length = 7 ∧ (msgBodies (m 4096)).length = 17 := by decide +kernel
/-- The graph of the spec's example after the first four of its mutations: the lists they touch. -/
def fourEdges : State :=
  [(0, 1, 5), (0, 2, 3), (1, 2, 7), (2, 0, 2)].foldl
    (fun s e => (mutate s .gadde 2 { lane := 0, u := e.1, v := e.2.1, p := e.2.2 }).2)
    (let s := withGraph (inService wordReady) 2 20 5; { s with mg := { s.mg with objtCnt := 3 } })
theorem test_graph_lists :
    gSeq fourEdges 2 = 4 ∧
    (List.range 2).map (treeNth fourEdges 2 40 (rootOf fourEdges 2 0 false)) = [some (1, 5), some (2, 3)] ∧
    (List.range 2).map (treeNth fourEdges 2 40 (rootOf fourEdges 2 2 true)) = [some (0, 3), some (1, 7)] ∧
    [verOf fourEdges 2 0 false, verOf fourEdges 2 1 false, verOf fourEdges 2 0 true, verOf fourEdges 2 1 true,
      verOf fourEdges 2 2 true] = [2, 3, 4, 1, 3] := by decide +kernel
/-- The Secure Hash Standard's example: the digest of "abc". -/
theorem test_sha512_abc : beNat (leBytes 64 (sha512 [0x61, 0x62, 0x63]).toNat) =
    0xDDAF35A193617ABACC417349AE20413112E6FA4E89A97EA20A9EEEE64B55D39A2192992A274FC1A836BA3C23A3FEEBBD454D4423643CE80E2A9AC94FA54CA49F := by
  decide +kernel

end Sys2Proof.Tests
end

section
/-! PROOFS. Byte stores and byte strings as numbers: canonical stores are determined by their reads, and what the reads and
writes of several bytes do byte by byte (R3). -/

namespace Sys2Proof.Map

variable {α : Type}

/-- A rising store lists nothing below its lower bound. -/
theorem find?_of_lt_rising {m : Map α} {lo k : Nat} (w : risingFrom lo m = true) (h : k < lo) : find? m k = none := by
  induction m generalizing lo with
  | nil => rfl
  | cons e m ih =>
    obtain ⟨j, b⟩ := e
    simp only [risingFrom, Bool.and_eq_true, decide_eq_true_eq] at w
    have hj : j ≠ k := by omega
    simpa [find?, hj] using ih w.2 (by omega)

/-- Two rising stores that list the same are the same. -/
theorem eq_of_find?_eq {m n : Map α} {lo lo' : Nat} (wm : risingFrom lo m = true) (wn : risingFrom lo' n = true)
    (h : ∀ k, find? m k = find? n k) : m = n := by
  induction m generalizing n lo lo' with
  | nil =>
    cases n with
    | nil => rfl
    | cons e n => simpa [find?] using h e.1
  | cons e m ih =>
    obtain ⟨j, b⟩ := e
    cases n with
    | nil => simpa [find?] using h j
    | cons e' n =>
      obtain ⟨j', b'⟩ := e'
      simp only [risingFrom, Bool.and_eq_true, decide_eq_true_eq] at wm wn
      have below {k : Nat} (hk : k < j + 1) : find? m k = none := find?_of_lt_rising wm.2 hk
      have below' {k : Nat} (hk : k < j' + 1) : find? n k = none := find?_of_lt_rising wn.2 hk
      have hj : j = j' := by
        rcases Nat.lt_trichotomy j j' with hlt | heq | hgt
        · simpa [find?, Nat.ne_of_gt hlt, below' (Nat.lt_succ_of_lt hlt)] using h j
        · exact heq
        · simpa [find?, Nat.ne_of_gt hgt, below (Nat.lt_succ_of_lt hgt)] using h j'
      subst hj
      have hb : b = b' := by simpa [find?] using h j
      have tails : m = n := by
        refine ih wm.2 wn.2 fun k => ?_
        by_cases hk : j = k
        · subst hk; rw [below (Nat.lt_succ_self j), below' (Nat.lt_succ_self j)]
        · simpa [find?, hk] using h k
      rw [hb, tails]

theorem mem_of_find? {m : Map α} {k : Nat} {a : α} (h : find? m k = some a) : (k, a) ∈ m := by
  induction m with
  | nil => simp at h
  | cons e m ih =>
    obtain ⟨j, b⟩ := e
    by_cases hj : j = k
    · subst hj
      have : b = a := by simpa [find?] using h
      simp [this]
    · exact List.mem_cons_of_mem _ (ih (by simpa [find?, hj] using h))

variable [DecidableEq α]

/-- A canonical store lists exactly the keys that do not read the default, each with what it reads. -/
theorem find?_of_wfD {m : Map α} {d : α} (w : wfD d m = true) (k : Nat) :
    find? m k = if getD m k d = d then none else some (getD m k d) := by
  unfold wfD at w
  rw [Bool.and_eq_true, List.all_eq_true] at w
  cases h : find? m k with
  | none => simp [getD, h]
  | some a =>
    have ha : a ≠ d := by simpa using w.2 _ (mem_of_find? h)
    simp [getD, h, ha]

/-- Canonical stores that read the same are the same. -/
theorem eq_of_getD_eq {m n : Map α} {d : α} (wm : wfD d m = true) (wn : wfD d n = true)
    (h : ∀ k, getD m k d = getD n k d) : m = n := by
  have lists : ∀ k, find? m k = find? n k := fun k => by rw [find?_of_wfD wm, find?_of_wfD wn, h]
  unfold wfD at wm wn
  rw [Bool.and_eq_true] at wm wn
  exact eq_of_find?_eq wm.1 wn.1 lists

end Sys2Proof.Map

namespace Sys2Proof

/-- The number that the low `n` bytes of `x` make is `x` modulo 256^n. -/
theorem leNat_leBytes (n x : Nat) : leNat (leBytes n x) = x % 256 ^ n := by
  induction n generalizing x with
  | zero => simp [leBytes, leNat, Nat.mod_one]
  | succ n ih =>
    simp only [leBytes, leNat, ih, BitVec.toNat_ofNat]
    have parts := Nat.mod_mul (x := x) (a := 256) (b := 256 ^ n)
    rw [← Nat.pow_succ'] at parts
    exact parts.symm

end Sys2Proof

namespace Sys2Proof.Machine

/-- What an address reads after bytes have been stored from `a` on. -/
theorem getD_mapPut (m : Map Byte) (a : Nat) (bs : List Byte) (x : Nat) :
    Map.getD (mapPut m a bs) x Config.emptyByte =
      if a ≤ x ∧ x < a + bs.length then bs.getD (x - a) Config.emptyByte else Map.getD m x Config.emptyByte := by
  induction bs generalizing m a with
  | nil => rw [if_neg (by simp)]; rfl
  | cons b bs ih =>
    simp only [mapPut, ih, Map.getD_setD_if, List.length_cons]
    rcases Nat.lt_trichotomy x a with hlt | heq | hgt
    · rw [if_neg (by omega), if_neg (by omega), if_neg (by omega)]
    · subst heq
      rw [if_neg (by omega), if_pos rfl, if_pos (by omega), Nat.sub_self, List.getD_cons_zero]
    · obtain ⟨k, rfl⟩ : ∃ k, x = a + 1 + k := ⟨x - (a + 1), by omega⟩
      have hk : a + 1 + k - a = k + 1 := by omega
      rw [if_neg (show a + 1 + k ≠ a by omega), hk, List.getD_cons_succ, Nat.add_sub_cancel_left]
      exact ite_congr (propext (by omega)) (fun _ => rfl) (fun _ => rfl)

/-- Bytes read along a store whose keys are not below the first address are the bytes read one by one. -/
theorem bytesFrom_eq_map {m : Map Byte} {a : Nat} (w : Map.risingFrom a m = true) (n : Nat) :
    bytesFrom m a n = (List.range n).map (fun i => Map.getD m (a + i) Config.emptyByte) := by
  induction n generalizing m a with
  | zero => cases m <;> rfl
  | succ n ih =>
    rw [List.range_succ_eq_map, List.map_cons, List.map_map]
    cases m with
    | nil => simp [bytesFrom, Map.getD, List.replicate_succ, Function.comp_def, List.map_const']
    | cons e m =>
      obtain ⟨j, b⟩ := e
      simp only [Map.risingFrom, Bool.and_eq_true, decide_eq_true_eq] at w
      obtain ⟨haj, wm⟩ := w
      by_cases hj : j = a
      · subst hj
        simp only [bytesFrom, if_true, ih wm]
        congr 1
        · simp [Map.getD, Map.find?]
        · refine List.map_congr_left fun i _ => ?_
          simp only [Function.comp, Map.getD, Map.find?, Nat.succ_eq_add_one]
          rw [if_neg (by omega), Nat.add_right_comm, Nat.add_assoc]
      · have wjm : Map.risingFrom (a + 1) ((j, b) :: m) = true := by
          simp only [Map.risingFrom, Bool.and_eq_true, decide_eq_true_eq]
          exact ⟨by omega, wm⟩
        simp only [bytesFrom, hj, if_false, ih wjm]
        congr 1
        · rw [Nat.add_zero, Map.getD, Map.find?_of_lt_rising wjm (Nat.lt_succ_self a)]; rfl
        · refine List.map_congr_left fun i _ => ?_
          simp only [Function.comp, Nat.succ_eq_add_one]
          rw [Nat.add_right_comm, Nat.add_assoc]

/-- Leaving out the entries below `a` leaves a rising store from `a` on. -/
theorem risingFrom_dropWhile {m : Map Byte} {lo : Nat} (a : Nat) (w : Map.risingFrom lo m = true) :
    Map.risingFrom a (m.dropWhile (fun e => decide (e.1 < a))) = true := by
  induction m generalizing lo with
  | nil => rfl
  | cons e m ih =>
    obtain ⟨j, b⟩ := e
    simp only [Map.risingFrom, Bool.and_eq_true, decide_eq_true_eq] at w
    by_cases hj : j < a
    · simpa [List.dropWhile, hj] using ih w.2
    · simpa [List.dropWhile, hj, Map.risingFrom] using ⟨by omega, w.2⟩

/-- Leaving out the entries below `a` leaves every address from `a` on as it was. -/
theorem find?_dropWhile {m : Map Byte} {a x : Nat} (h : a ≤ x) :
    Map.find? (m.dropWhile (fun e => decide (e.1 < a))) x = Map.find? m x := by
  induction m with
  | nil => rfl
  | cons e m ih =>
    obtain ⟨j, b⟩ := e
    by_cases hj : j < a
    · have : j ≠ x := by omega
      simpa [List.dropWhile, hj, Map.find?, this] using ih
    · simp [List.dropWhile, hj]

/-- A read of several bytes of a canonical store is the list of the bytes read one by one. -/
theorem mapBytes_eq_map {m : Map Byte} (w : Memory.wf m = true) (a n : Nat) :
    mapBytes m a n = (List.range n).map (fun i => Map.getD m (a + i) Config.emptyByte) := by
  unfold Memory.wf Map.wfD at w
  rw [Bool.and_eq_true] at w
  unfold mapBytes
  rw [bytesFrom_eq_map (risingFrom_dropWhile a w.1)]
  refine List.map_congr_left fun i _ => ?_
  rw [Map.getD, find?_dropWhile (Nat.le_add_right a i), Map.getD]

/-- Settles O7: extensionality of the canonical form, reads after a store, byte order, reads of several bytes. -/
theorem memoryBytes : Obligations.MemoryBytes :=
  ⟨fun _ _ wm wn h => Map.eq_of_getD_eq wm wn h, getD_mapPut, leNat_leBytes, fun _ a n w => mapBytes_eq_map w a n⟩

end Sys2Proof.Machine
end

section
/-! PROOFS. The reset state (R5, R34, R37). -/

namespace Sys2Proof.Machine

/-- The management registers are legal at reset: step 6, no demand, no ceiling, the cap at 2,400 W. -/
theorem reset_mg_ok : Mgmt.reset.ok := by
  refine ⟨?_, ?_, ?_, ?_, ?_, ?_, rfl, rfl, rfl⟩ <;> decide

/-- Settles O5: every byte store is empty and the management registers hold their reset values. -/
theorem resetInvariant : Obligations.ResetInvariant := ⟨rfl, rfl, rfl, reset_mg_ok, rfl⟩

end Sys2Proof.Machine
end

section
/-! PROOFS. The string instructions (R295). -/

namespace Sys2Proof.Machine

/-- An instruction whose body is `alu` writes its destination with the value of each active lane and goes on. -/
theorem completes_of_alu {i : Instr} {f : RRR} {s : State} {c : Ctx} {w : Nat} {fn : Nat → Nat → Nat → Nat}
    {val : Nat → Nat} (hx : exec i s = issue (shapeOf i) s (alu f w fn)) (hw : w = 1 ∨ w = 2)
    (hv : ∀ l, fn (opA f c w l) (opB f c w l) (opC f c w l) = val l) (h : Runs i s c) :
    Completes i s c (toD f c w val) := by
  obtain rfl : (fun l => fn (opA f c w l) (opB f c w l) (opC f c w l)) = val := funext hv
  refine ⟨onGang (counted s c) c.gk (fun g => putD g f.sd f.d w c.act _), ?_, putD_writes (runs_gang h) f.sd f.d w c.act _ hw⟩
  rw [hx, issue_runs h]
  rfl

theorem iw_cases (t : BitVec 4) : iw t = 1 ∨ iw t = 2 := by
  unfold iw
  split
  · exact .inr rfl
  · exact .inl rfl

/-! ### Byte strings -/

theorem byteN_lt (x i : Nat) : byteN x i < 256 := Nat.mod_lt _ (by decide)

/-- The `n` bytes of `x` from byte `i` on as a number with the first byte most significant: strings compare like these numbers. -/
def strNum (x : Nat) : Nat → Nat → Nat
  | 0, _ => 0
  | n + 1, i => byteN x i * 256 ^ n + strNum x n (i + 1)

theorem strNum_lt (x n i : Nat) : strNum x n i < 256 ^ n := by
  induction n generalizing i with
  | zero => simp [strNum]
  | succ n ih =>
    calc strNum x (n + 1) i < (byteN x i + 1) * 256 ^ n := by rw [strNum, Nat.succ_mul]; exact Nat.add_lt_add_left (ih _) _
      _ ≤ 256 * 256 ^ n := Nat.mul_le_mul_right _ (byteN_lt x i)
      _ = 256 ^ (n + 1) := (Nat.pow_succ').symm

/-- A smaller first byte makes the smaller string, whatever follows. -/
theorem strNum_lt_of_byteN_lt {a b i : Nat} (n : Nat) (h : byteN a i < byteN b i) :
    strNum a (n + 1) i < strNum b (n + 1) i := by
  have head : (byteN a i + 1) * 256 ^ n ≤ byteN b i * 256 ^ n := Nat.mul_le_mul_right _ h
  have tail := strNum_lt a n (i + 1)
  rw [Nat.succ_mul] at head
  simp only [strNum]
  omega

/-- The order of two strings is the order of their numbers. -/
theorem scmpVal_eq (a b n i : Nat) :
    scmpVal a b n i = if strNum a n i < strNum b n i then -1 else if strNum b n i < strNum a n i then 1 else 0 := by
  induction n generalizing i with
  | zero => simp [scmpVal, strNum]
  | succ n ih =>
    rcases Nat.lt_trichotomy (byteN a i) (byteN b i) with hlt | heq | hgt
    · simp [scmpVal, hlt, strNum_lt_of_byteN_lt n hlt]
    · simp [scmpVal, strNum, heq, ih]
    · have hab := strNum_lt_of_byteN_lt n hgt
      simp [scmpVal, hgt, hab, Nat.lt_asymm hgt, Nat.lt_asymm hab]

theorem strNum_four (x : Nat) :
    strNum x 4 0 = byteN x 0 * 2 ^ 24 + byteN x 1 * 2 ^ 16 + byteN x 2 * 2 ^ 8 + byteN x 3 := by
  simp only [strNum, Nat.reduceAdd]
  omega

/-- SCMP's value as a register holds it: −1 is all ones. -/
theorem wrapI_scmpVal (a b : Nat) :
    wrapI 32 (scmpVal a b 4 0) =
      if strNum a 4 0 < strNum b 4 0 then 2 ^ 32 - 1 else if strNum b 4 0 < strNum a 4 0 then 1 else 0 := by
  rw [scmpVal_eq, apply_ite (wrapI 32), apply_ite (wrapI 32)]
  rfl

/-- One bit per equal byte. -/
theorem joinE_equal_bytes (p : Nat → Prop) [DecidablePred p] :
    joinE 1 ((List.range 4).map (fun i => if p i then 1 else 0)) =
      (if p 0 then 2 ^ 0 else 0) + (if p 1 then 2 ^ 1 else 0) + (if p 2 then 2 ^ 2 else 0) + (if p 3 then 2 ^ 3 else 0) := by
  have bit (i : Nat) : (if p i then 2 ^ i else 0) = 2 ^ i * (if p i then 1 else 0) := by
    split
    · rw [Nat.mul_one]
    · rw [Nat.mul_zero]
  have hr : List.range 4 = [0, 1, 2, 3] := rfl
  simp only [hr, List.map_cons, List.map_nil, joinE]
  rw [bit 0, bit 1, bit 2, bit 3]
  omega

/-- The lowest of four bytes at which `p` holds, or 4. -/
theorem find?_range_four (p : Nat → Prop) [DecidablePred p] :
    ((List.range 4).find? (fun i => decide (p i))).getD 4 =
      if p 0 then 0 else if p 1 then 1 else if p 2 then 2 else if p 3 then 3 else 4 := by
  have hr : List.range 4 = [0, 1, 2, 3] := rfl
  rw [hr]
  by_cases h0 : p 0
  · simp [h0]
  by_cases h1 : p 1
  · simp [h0, h1]
  by_cases h2 : p 2
  · simp [h0, h1, h2]
  by_cases h3 : p 3 <;> simp [h0, h1, h2, h3]

theorem leNat_eq_joinE (bs : List Byte) : leNat bs = joinE 8 (bs.map BitVec.toNat) := by
  induction bs with
  | nil => rfl
  | cons b bs ih => simp [leNat, joinE, ih]

theorem leBytes_toNat (n x : Nat) : (leBytes n x).map BitVec.toNat = (List.range n).map (byteN x) := by
  induction n generalizing x with
  | zero => rfl
  | succ n ih =>
    rw [List.range_succ_eq_map, List.map_cons, List.map_map, leBytes, List.map_cons, ih]
    congr 1
    · simp [byteN]
    · refine List.map_congr_left fun i _ => ?_
      simp only [byteN, Function.comp, Nat.succ_eq_add_one, Nat.pow_succ', Nat.div_div_eq_div_mul]

/-- Bytes joined in reverse order are the number of the bytes in reverse. -/
theorem joinE_reverse_bytes (n x : Nat) : joinE 8 ((List.range n).map (byteN x)).reverse = leNat (leBytes n x).reverse := by
  rw [leNat_eq_joinE, List.map_reverse, leBytes_toNat]

/-! ### The instructions -/

theorem exec_scmp (f : RRR) (s : State) : exec (.scmp f) s =
    issue (shapeOf (.scmp f)) s (alu f 1 (fun a b c => if c ≠ 0 then c else wrapI 32 (scmpVal a b 4 0))) := rfl
theorem exec_seqb (f : RRR) (s : State) : exec (.seqb f) s = issue (shapeOf (.seqb f)) s
    (alu f 1 (fun a b _ => joinE 1 ((List.range 4).map (fun i => if byteN a i = byteN b i then 1 else 0)))) := rfl
theorem exec_sfind (f : RRR) (s : State) : exec (.sfind f) s = issue (shapeOf (.sfind f)) s
    (alu f 1 (fun a b _ => ((List.range 4).find? (fun i => byteN a i == b % 256)).getD 4)) := rfl
theorem exec_bswap (f : RRR) (s : State) : exec (.bswap f) s = issue (shapeOf (.bswap f)) s
    (alu f (iw f.type) (fun a _ _ => perElem (ityOf f.type) (fun i =>
      joinE 8 ((List.range ((ityOf f.type).w / 8)).map (byteN (elemU (ityOf f.type) a i))).reverse))) := rfl

/-- Settles O23: each string instruction is an `alu` body whose value is the one stated. -/
theorem stringInstructions : Obligations.StringInstructions := by
  intro f s c
  dsimp only
  refine ⟨completes_of_alu (exec_scmp f s) (.inl rfl) fun l => ?_, completes_of_alu (exec_seqb f s) (.inl rfl) fun l => ?_,
    completes_of_alu (exec_sfind f s) (.inl rfl) fun l => ?_,
    completes_of_alu (exec_bswap f s) (iw_cases f.type) fun l => ?_⟩
  · rw [wrapI_scmpVal, strNum_four, strNum_four]
  · exact joinE_equal_bytes (fun i => byteN (opA f c 1 l) i = byteN (opB f c 1 l) i)
  · exact find?_range_four (fun i => byteN (opA f c 1 l) i = opB f c 1 l % 256)
  · simp only [joinE_reverse_bytes]

end Sys2Proof.Machine
end

section
/-! PROOFS. Which management registers the part's own writes change: the note of the ports that accesses took (R42) and the
NEXT counts of the two rings (R103), and no other. Ending every run comes down to such writes (R36, R60). -/

namespace Sys2Proof.Machine

/-! ### Operations that leave the management registers alone -/

theorem OnlyCtrs.mg_eq {s u : State} (h : OnlyCtrs s u) : u.mg = s.mg := by rw [h]

theorem foldl_mg {α : Type} (xs : List α) (f : State → α → State) (h : ∀ t x, (f t x).mg = t.mg) (s : State) :
    (xs.foldl f s).mg = s.mg := by
  induction xs generalizing s with
  | nil => rfl
  | cons x xs ih => rw [List.foldl_cons, ih, h]

theorem foldlM_mg {α : Type} (xs : List α) (f : State → α → Option State) (h : ∀ t x u, f t x = some u → u.mg = t.mg)
    {s t : State} (e : xs.foldlM f s = some t) : t.mg = s.mg := by
  induction xs generalizing s with
  | nil => cases e; rfl
  | cons x xs ih =>
    simp only [List.foldlM_cons, Option.bind_eq_bind, Option.bind_eq_some_iff] at e
    obtain ⟨u, hu, ht⟩ := e
    rw [ih ht, h _ _ _ hu]

@[simp] theorem bumpDie_mg (s : State) (die code n : Nat) : (bumpDie s die code n).mg = s.mg := (bumpDie_ctrs s die code n).mg_eq
@[simp] theorem bumpCore_mg (s : State) (core q code n : Nat) : (bumpCore s core q code n).mg = s.mg :=
  (bumpCore_ctrs s core q code n).mg_eq

@[simp] theorem writeByte_mg (s : State) (b : Byte) (l : Loc) : (writeByte s b l).mg = s.mg := by
  unfold writeByte dropRel
  split <;> cases l <;> rfl

@[simp] theorem storeBytes_mg (s : State) (w : Who) (a : Nat) (bs : List Byte) : (storeBytes s w a bs).mg = s.mg := by
  induction bs generalizing s a with
  | nil => rfl
  | cons b bs ih => rw [storeBytes, ih, writeByte_mg]

@[simp] theorem setPoison_mg (s : State) (b : Bool) (l : Loc) : (setPoison s b l).mg = s.mg := by cases l <;> rfl

@[simp] theorem touch_mg (s : State) (w : Who) (a : Nat) (write : Bool) : (touch s w a write).mg = s.mg := by
  unfold touch
  extract_lets id page known noted
  have hnoted : noted.mg = s.mg := by
    unfold noted
    split
    · rfl
    · split
      · exact bumpDie_mg ..
      · rfl
  split
  · split
    · exact bumpCore_mg ..
    · rfl
  · split
    · rfl
    · split <;> exact hnoted

@[simp] theorem engStore_mg (s : State) (w : Who) (a : Nat) (bs : List Byte) : (engStore s w a bs).mg = s.mg := by
  unfold engStore
  dsimp only
  rw [foldl_mg _ _ (fun t i => by split <;> simp), foldl_mg _ _ (fun t i => by split <;> simp), storeBytes_mg]

theorem engPage_mg {s t : State} {w : Who} {a : Nat} (h : engPage s w a = some t) : t.mg = s.mg := by
  unfold engPage at h
  split at h
  · split at h
    · cases h; rfl
    · cases h
  · cases h; rfl

theorem engPages_mg {s t : State} {w : Who} {a n : Nat} (h : engPages s w a n = some t) : t.mg = s.mg := by
  unfold engPages at h
  split at h
  · cases h; rfl
  · exact foldlM_mg _ _ (fun _ _ _ e => engPage_mg e) h

@[simp] theorem devRel_mg (s : State) (rs : Map Rel) (d : DevPut) (peer : Bool) : (devRel s rs d peer).mg = s.mg := by
  unfold devRel
  dsimp only
  split
  · rfl
  · split <;> rfl

theorem putHere_mg {s t : State} {d : DevPut} {rs : Map Rel} (h : putHere s d rs = some t) : t.mg = s.mg := by
  obtain ⟨u, hu, rfl⟩ := Option.map_eq_some_iff.mp h
  rw [devRel_mg, engStore_mg, engPages_mg hu]

@[simp] theorem flushDirty_mg (s : State) (sel : Dirty → Bool) : (flushDirty s sel).mg = s.mg := by
  unfold flushDirty
  rw [foldl_mg]
  intro t d
  unfold flushPage
  dsimp only
  split
  · rfl
  · exact memPut_mg ..

@[simp] theorem sendFlit_mg (s : State) (p kind : Nat) (body : List Byte) : (sendFlit s p kind body).mg = s.mg := bumpDie_mg ..

@[simp] theorem sendMsg_mg (s : State) (p : Nat) (m : Msg) : (sendMsg s p m).mg = s.mg :=
  foldl_mg _ _ (fun _ _ => sendFlit_mg ..) s

@[simp] theorem lastWrites_mg (s : State) : (lastWrites s).mg = s.mg := by
  unfold lastWrites
  refine foldl_mg _ _ (fun t d => ?_) s
  split
  · rfl
  · cases h : putHere t d t.rels with
    | none => rfl
    | some u => exact putHere_mg h

/-! ### Operations that the part's writes consist of -/

/-- `n` is `m` but for the note of the ports that accesses took and the NEXT counts of the rings. -/
def SameRegs (m n : Mgmt) : Prop := n = { m with spread := n.spread, markNext := n.markNext, lensNext := n.lensNext }

/-- The management registers of `u` are those of `s` but for what the part's own writes change. -/
def KeepsRegs (s u : State) : Prop := SameRegs s.mg u.mg

theorem KeepsRegs.of_mg {s u : State} (h : u.mg = s.mg) : KeepsRegs s u := by unfold KeepsRegs; rw [h]; rfl
theorem KeepsRegs.refl (s : State) : KeepsRegs s s := .of_mg rfl
theorem KeepsRegs.trans {s t u : State} (h : KeepsRegs s t) (k : KeepsRegs t u) : KeepsRegs s u := by
  unfold KeepsRegs SameRegs at *
  rw [k, h]

/-- What waits to be written is no management register. -/
theorem KeepsRegs.of_devQ {s u : State} {q : List DevPut} (h : KeepsRegs { s with devQ := q } u) : KeepsRegs s u := h

theorem KeepsRegs.foldl {α : Type} (xs : List α) (f : State → α → State) (h : ∀ t x, KeepsRegs t (f t x)) (s : State) :
    KeepsRegs s (xs.foldl f s) := by
  induction xs generalizing s with
  | nil => exact .refl s
  | cons x xs ih => exact (h s x).trans (ih _)

theorem markDone_keepsRegs (s : State) (m : DevMark) : KeepsRegs s (markDone s m) := by cases m <;> rfl

theorem askPeer_keepsRegs (s : State) (e : ObjEnt) (port op : Nat) (owner : PeerFor) (a n : Nat) (data : List Byte) :
    KeepsRegs s (askPeer s e port op owner a n data) := by
  unfold askPeer askWith
  split
  · exact .refl s
  · exact KeepsRegs.trans (t := noteSpread s e.peer a port) rfl (.of_mg (sendMsg_mg ..))

theorem putFirst_keepsRegs {s t : State} (h : putFirst s = some t) : KeepsRegs s t := by
  unfold putFirst at h
  split at h
  next => cases h
  next d ds _ =>
    dsimp only at h
    split at h
    next => cases h
    next =>
      split at h
      next mark _ => cases h; exact markDone_keepsRegs { s with devQ := ds } mark
      next =>
        split at h
        next e _ =>
          split at h
          next => cases h; rfl
          next p _ =>
            split at h
            next => cases h
            next =>
              split at h
              next => cases h; exact .of_devQ ((askPeer_keepsRegs ..).trans (.of_mg (devRel_mg ..)))
              next => cases h; exact .of_devQ ((askPeer_keepsRegs ..).trans (.of_mg (devRel_mg ..)))
        next => exact .of_mg (by rw [putHere_mg h])

theorem pumpDev_keepsRegs (s : State) : KeepsRegs s (pumpDev s) := by
  unfold pumpDev
  refine KeepsRegs.foldl _ _ (fun t _ => ?_) { s with peerOps := _ }
  cases h : putFirst t with
  | none => exact .refl t
  | some u => exact putFirst_keepsRegs h

theorem devPut_keepsRegs (s : State) (d : DevPut) : KeepsRegs s (devPut s d) := pumpDev_keepsRegs { s with devQ := _ }

theorem addCount_keepsRegs (s : State) (oid d : Nat) (rel : Option Nat) : KeepsRegs s (addCount s oid d rel) := by
  unfold addCount
  split
  · exact .refl s
  · exact devPut_keepsRegs ..

theorem complete_keepsRegs (s : State) (compl status : Nat) (tag : Word) (retired : Nat) (tFirst tLast : DWord)
    (killed code : Nat) : KeepsRegs s (complete s compl status tag retired tFirst tLast killed code) := by
  unfold complete
  split
  · exact .refl s
  · exact (devPut_keepsRegs ..).trans (devPut_keepsRegs ..)

theorem pollWait_keepsRegs (rk : Nat) (s : State) (oid : Nat) : KeepsRegs s (pollWait rk s oid) := by
  unfold pollWait
  split
  next => split <;> rfl
  next e _ =>
    split
    next =>
      split
      next =>
        split
        · exact askPeer_keepsRegs ..
        · exact .refl s
      next => exact .refl s
    next =>
      split
      · exact .refl s
      · dsimp only
        split <;> rfl

theorem pollWaits_keepsRegs (s : State) : KeepsRegs s (pollWaits s) := by
  refine KeepsRegs.foldl _ _ (fun t e => ?_) s
  split
  · exact .refl t
  · exact KeepsRegs.foldl _ _ (fun u oid => pollWait_keepsRegs e.1 u oid) t

/-! ### Ending every run -/

theorem finishRun_keepsRegs (s : State) (rk status : Nat) : KeepsRegs s (finishRun s rk status) := by
  unfold finishRun
  extract_lets r flushed completed counted
  have hcounted : KeepsRegs s counted :=
    (KeepsRegs.of_mg (flushDirty_mg ..)).trans ((complete_keepsRegs ..).trans (addCount_keepsRegs ..))
  refine hcounted.trans (KeepsRegs.trans ?_ (pollWaits_keepsRegs _))
  split
  · rfl
  · exact devPut_keepsRegs ..

theorem abortRecord_keepsRegs (status : Nat) (s : State) (bs : List Byte) : KeepsRegs s (abortRecord status s bs) := by
  unfold abortRecord
  dsimp only
  split
  · exact complete_keepsRegs ..
  · exact .refl s

theorem abortRuns_keepsRegs (s : State) (status : Nat) : KeepsRegs s (abortRuns s status) := by
  refine KeepsRegs.trans (KeepsRegs.foldl _ _ (fun t rk => ?_) s) (KeepsRegs.foldl _ _ (abortRecord_keepsRegs status) _)
  split
  · exact .refl t
  · exact finishRun_keepsRegs ..

/-- Without a live run and without a record that waits there is nothing to end. -/
theorem abortRuns_idle {s : State} (runs : s.runs = []) (ports : ∀ p < 4, lqAt s p = [] ∧ spillAt s p = [])
    (stalled : s.stalled = []) (status : Nat) : abortRuns s status = s := by
  have waiting : (List.range 4).flatMap (fun p => lqAt s p ++ spillAt s p) = [] := by
    rw [List.flatMap_eq_nil_iff]
    intro p hp
    obtain ⟨hl, hs⟩ := ports p (List.mem_range.mp hp)
    rw [hl, hs, List.nil_append]
  simp [abortRuns, runs, waiting, stalled]

theorem lastWrites_idle {s : State} (h : s.devQ = []) : lastWrites s = s := by simp [lastWrites, h]

end Sys2Proof.Machine
end

section
/-! PROOFS. Losing every link while nothing waits to be written (R36, R44). -/

namespace Sys2Proof.Machine

/-- `u` is `s` after the links of the ports `ps` are lost: ports, engine operations and requests alone differ, no engine operation
appears, and a listed port that is up is none of `ps` and stands as before. -/
structure Unlinked (ps : List Nat) (s u : State) : Prop where
  state : u = { s with zports := u.zports, eng := u.eng, peerOps := u.peerOps }
  eng : s.eng = [] → u.eng = []
  ports : ∀ q z, Map.find? u.zports q = some z → z.up = false ∨ (q ∉ ps ∧ Map.find? s.zports q = some z)

theorem Unlinked.trans {ps qs : List Nat} {s t u : State} (h : Unlinked ps s t) (k : Unlinked qs t u) :
    Unlinked (ps ++ qs) s u := by
  refine ⟨by rw [k.state, h.state], fun he => k.eng (h.eng he), fun q z hz => ?_⟩
  rcases k.ports q z hz with down | ⟨hq, hz'⟩
  · exact .inl down
  · rcases h.ports q z hz' with down | ⟨hp, hz''⟩
    · exact .inl down
    · exact .inr ⟨by simp [hp, hq], hz''⟩

theorem Unlinked.devQ {ps : List Nat} {s u : State} (h : Unlinked ps s u) : u.devQ = s.devQ := by rw [h.state]

/-- An answer changes the requests in flight alone. -/
theorem takeAnswer_eq (s : State) (p : Nat) (m : Msg) :
    takeAnswer s p m = { s with peerOps := (takeAnswer s p m).peerOps } := by
  unfold takeAnswer
  split <;> rfl

theorem foldl_takeAnswer_eq (ms : List Msg) (p : Nat) (s : State) :
    ∃ ops, ms.foldl (fun t m => if isAnswer t p m then takeAnswer t p m else t) s = { s with peerOps := ops } := by
  induction ms generalizing s with
  | nil => exact ⟨s.peerOps, rfl⟩
  | cons m ms ih =>
    obtain ⟨ops, h⟩ := ih (if isAnswer s p m then takeAnswer s p m else s)
    refine ⟨ops, ?_⟩
    rw [List.foldl_cons, h]
    split
    · rw [takeAnswer_eq]
    · rfl

/-- With nothing to write the part only lets go of the requests that are done with. -/
theorem pumpDev_idle {s : State} (h : s.devQ = []) : ∃ ops, pumpDev s = { s with peerOps := ops } := by
  unfold pumpDev
  rw [h]
  exact ⟨_, rfl⟩

theorem Unlinked.pumpDev {ps : List Nat} {s u : State} (h : Unlinked ps s u) (idle : s.devQ = []) :
    Unlinked ps s (pumpDev u) := by
  obtain ⟨ops, hu⟩ := pumpDev_idle (h.devQ.trans idle)
  rw [hu]
  exact ⟨by rw [h.state], h.eng, h.ports⟩

theorem dropLink_unlinked {s : State} (idle : s.devQ = []) (p : Nat) : Unlinked [p] s (dropLink s p) := by
  unfold dropLink
  split
  next up =>
    refine ⟨rfl, id, fun q z hz => ?_⟩
    by_cases hq : q = p
    · subst hq
      left
      simpa [zportAt, Map.getD, hz] using up
    · exact .inr ⟨by simpa using hq, hz⟩
  next =>
    obtain ⟨ops, hfold⟩ := foldl_takeAnswer_eq (zportAt s p).rx p s
    rw [hfold]
    refine Unlinked.pumpDev ⟨rfl, fun he => ?_, fun q z hz => ?_⟩ idle
    · simp [onPort, he]
    · by_cases hq : q = p
      · subst hq
        have blank : _ = z := Option.some.inj ((Map.find?_put ..).symm.trans hz)
        exact .inl (blank ▸ rfl)
      · exact .inr ⟨by simpa using hq, (Map.find?_put_ne _ _ hq).symm.trans hz⟩

theorem foldl_dropLink_unlinked (ps : List Nat) {s : State} (idle : s.devQ = []) : Unlinked ps s (ps.foldl dropLink s) := by
  induction ps generalizing s with
  | nil => exact ⟨rfl, id, fun _ _ hz => .inr ⟨List.not_mem_nil, hz⟩⟩
  | cons p ps ih =>
    have first := dropLink_unlinked idle p
    exact first.trans (ih (first.devQ.trans idle))

/-- Once the link of every listed port is lost, no port is up. -/
theorem links_down {s u : State} (h : Unlinked (s.zports.map (·.1)) s u) {p : Nat} {z : ZPort}
    (hz : Map.find? u.zports p = some z) : z.up = false := by
  rcases h.ports p z hz with down | ⟨unlisted, listed⟩
  · exact down
  · exact absurd (List.mem_map_of_mem (Map.mem_of_find? listed)) unlisted

end Sys2Proof.Machine
end

section
/-! PROOFS. Clock, power, temperature, rails, firmware, training and resets (R5, R32, R34 to R37, R54 to R56, R65 to R67). -/

namespace Sys2Proof.Machine

/-! ### Events -/

/-- What an event answers while the device has not tripped. -/
theorem next_of_event {o : Host.Outcome State Fault Refusal} {s : State} {f : State → State} (e : o = event s f)
    (live : s.mg.tripped = false) : o = .next (f s) := by
  simp [e, event, always, live]

/-- An event whose condition does not hold changes nothing, whatever the device's condition. -/
theorem next_of_fixed {o : Host.Outcome State Fault Refusal} {s : State} {f : State → State} (e : o = event s f)
    (h : f s = s) : o = .next s := by
  simp only [e, event, always, h, ite_self]

theorem next_of_hostEvent {o : Host.Outcome State Fault Refusal} {s : State} {f : State → State} (e : o = hostEvent s f)
    (live : s.mg.tripped = false) (here : arrives s = true) : o = .next (f s) :=
  (next_of_event e live).trans (congrArg _ (if_pos here))

/-- An access of the host that does not arrive, or that the device ignores, changes nothing. -/
theorem next_of_fixed_hostEvent {o : Host.Outcome State Fault Refusal} {s : State} {f : State → State}
    (e : o = hostEvent s f) (h : arrives s = false ∨ f s = s) : o = .next s :=
  next_of_fixed e (by
    rcases h with away | same
    · simp [away]
    · simp [same])

/-! ### Clock and power demands (R34) -/

theorem exec_clockStepChange {s : State} (live : s.mg.tripped = false) :
    exec .clockStepChange s = .next { s with mg := { s.mg with
      clkStep := if s.mg.clkStep < topDemand s then s.mg.clkStep + 1
        else if topDemand s < s.mg.clkStep then s.mg.clkStep - 1 else s.mg.clkStep } } :=
  next_of_event (o := execClockStepChange s) rfl live

/-- The clock moves one step toward the largest demand. -/
theorem clock_moves {s : State} (live : s.mg.tripped = false) :
    (s.mg.clkStep < topDemand s →
      exec .clockStepChange s = .next { s with mg := { s.mg with clkStep := s.mg.clkStep + 1 } }) ∧
    (topDemand s < s.mg.clkStep →
      exec .clockStepChange s = .next { s with mg := { s.mg with clkStep := s.mg.clkStep - 1 } }) ∧
    (s.mg.clkStep = topDemand s → exec .clockStepChange s = .next s) := by
  rw [exec_clockStepChange live]
  refine ⟨fun up => ?_, fun down => ?_, fun same => ?_⟩
  · rw [if_pos up]
  · rw [if_neg (Nat.lt_asymm down), if_pos down]
  · rw [if_neg (Nat.not_lt.mpr (Nat.le_of_eq same.symm)), if_neg (Nat.not_lt.mpr (Nat.le_of_eq same))]

/-- The thermal demand rises at 95 °C and falls below 90 °C; TEMPMAX takes the reading either way. -/
theorem thermal_demands {s : State} (live : s.mg.tripped = false) (degc die : Nat) :
    let r := { s.mg with tempDegc := min degc 255, tempDie := die % 10 }
    (95 ≤ degc → exec (.thermalDemandRise degc die) s =
      .next { s with mg := { r with demThermal := min 6 (s.mg.demThermal + 1) } }) ∧
    (degc < 95 → exec (.thermalDemandRise degc die) s = .next { s with mg := r }) ∧
    (degc < 90 → exec (.thermalDemandFall degc die) s =
      .next { s with mg := { r with demThermal := s.mg.demThermal - 1 } }) ∧
    (90 ≤ degc → exec (.thermalDemandFall degc die) s = .next { s with mg := r }) := by
  have rise : execThermalDemandRise degc die s = event s _ := rfl
  have fall : execThermalDemandFall degc die s = event s _ := rfl
  refine ⟨fun hot => ?_, fun warm => ?_, fun cool => ?_, fun warm => ?_⟩
  · exact (next_of_event rise live).trans (congrArg _ (if_pos hot))
  · exact (next_of_event rise live).trans (congrArg _ (if_neg (Nat.not_le.mpr warm)))
  · exact (next_of_event fall live).trans (congrArg _ (if_pos cool))
  · exact (next_of_event fall live).trans (congrArg _ (if_neg (Nat.not_lt.mpr warm)))

/-- The power demand rises above the cap and falls below 95 % of it. -/
theorem power_demands {s : State} (live : s.mg.tripped = false) (watts : Nat) :
    (s.mg.pwrCap < watts →
      exec (.powerDemandRise watts) s = .next { s with mg := { s.mg with demPower := min 6 (s.mg.demPower + 1) } }) ∧
    (watts ≤ s.mg.pwrCap → exec (.powerDemandRise watts) s = .next s) ∧
    (100 * watts < 95 * s.mg.pwrCap →
      exec (.powerDemandFall watts) s = .next { s with mg := { s.mg with demPower := s.mg.demPower - 1 } }) ∧
    (95 * s.mg.pwrCap ≤ 100 * watts → exec (.powerDemandFall watts) s = .next s) := by
  have rise : execPowerDemandRise watts s = event s _ := rfl
  have fall : execPowerDemandFall watts s = event s _ := rfl
  refine ⟨fun high => ?_, fun under => ?_, fun below => ?_, fun above => ?_⟩
  · exact (next_of_event rise live).trans (congrArg _ (if_pos high))
  · exact next_of_fixed rise (if_neg (Nat.not_lt.mpr under))
  · exact (next_of_event fall live).trans (congrArg _ (if_pos below))
  · exact next_of_fixed fall (if_neg (Nat.not_lt.mpr above))

/-! ### Thermal trip (R36) -/

/-- The management registers as a trip leaves them before the cores are stopped. -/
def tripRegs (s : State) (degc die : Nat) : State :=
  onMg (reading s degc die) (fun m => { m with
    tempTrips := min 255 (m.tempTrips + 1)
    tripped := true
    tripSaved := s.mg.ckptBusy && !s.mg.ckptGo.2.1
    ckptBusy := s.mg.ckptBusy && !s.mg.ckptGo.2.1
    ckptFail := m.ckptFail || (s.mg.ckptBusy && s.mg.ckptGo.2.1) })

/-- The state once every run has been ended and every crew is gone. -/
def tripStopped (s : State) (degc die : Nat) : State := stopCores (lastWrites (abortRuns (tripRegs s degc die) 0x12))

/-- What trips: 110 °C at any step, 105 °C at step 6. -/
def Hot (s : State) (degc : Nat) : Prop := 110 ≤ degc ∨ (105 ≤ degc ∧ s.mg.clkStep = 6)

theorem hot_iff (s : State) (degc : Nat) :
    (decide (110 ≤ degc) || (decide (105 ≤ degc) && s.mg.clkStep == 6)) = true ↔ Hot s degc := by
  simp only [Hot, Bool.or_eq_true, Bool.and_eq_true, decide_eq_true_eq, beq_iff_eq]

theorem exec_thermalTrip_hot {s : State} {degc die : Nat} (live : s.mg.tripped = false) (hot : Hot s degc) :
    exec (.thermalTrip degc die) s = .next (signal
      (((tripStopped s degc die).zports.map (·.1)).foldl dropLink (tripStopped s degc die)) 0) := by
  have trips : ¬ (s.mg.tripped = true ∨ (!(decide (110 ≤ degc) || (decide (105 ≤ degc) && s.mg.clkStep == 6))) = true) := by
    rw [live, (hot_iff s degc).mpr hot]
    decide
  have e : execThermalTrip degc die s = event s _ := rfl
  refine (next_of_event e live).trans ?_
  rw [if_neg trips]
  rfl

theorem exec_thermalTrip_cool {s : State} {degc die : Nat} (h : s.mg.tripped = true ∨ ¬ Hot s degc) :
    exec (.thermalTrip degc die) s = .next s := by
  have e : execThermalTrip degc die s = event s _ := rfl
  refine next_of_fixed e (if_pos (h.imp_right fun cool => ?_))
  rw [Bool.eq_false_iff.mpr (mt (hot_iff s degc).mp cool), Bool.not_false]

theorem tripStopped_keepsRegs (s : State) (degc die : Nat) : KeepsRegs (tripRegs s degc die) (tripStopped s degc die) :=
  (abortRuns_keepsRegs (tripRegs s degc die) 0x12).trans (.of_mg (lastWrites_mg _))

/-- A trip empties the cores and the queues, takes every link down, counts itself and signals vector 0. -/
theorem thermalTrip_hot {s : State} {degc die : Nat} (live : s.mg.tripped = false) (hot : Hot s degc) :
    ∃ t, exec (.thermalTrip degc die) s = .next t ∧ t.mg.tripped = true ∧
      t.mg.tempTrips = min 255 (s.mg.tempTrips + 1) ∧ t.mg.tempDegc = min degc 255 ∧ t.mg.tempDie = die % 10 ∧
      t.paths = [] ∧ t.gangs = [] ∧ t.crews = [] ∧ t.runs = [] ∧ t.pre = [] ∧ t.eng = [] ∧ t.lq = [] ∧ t.spill = [] ∧
      t.stalled = [] ∧ (∀ p z, Map.find? t.zports p = some z → z.up = false) ∧
      Map.getD t.mg.msix 0 0 = Map.getD s.mg.msix 0 0 + 1 := by
  have unlinked : Unlinked _ (tripStopped s degc die) _ := foldl_dropLink_unlinked ((tripStopped s degc die).zports.map (·.1)) rfl
  refine ⟨_, exec_thermalTrip_hot live hot, ?_⟩
  generalize ((tripStopped s degc die).zports.map (·.1)).foldl dropLink (tripStopped s degc die) = u at unlinked ⊢
  have regs : KeepsRegs (tripRegs s degc die) u := by
    have hu : u.mg = (tripStopped s degc die).mg := by rw [unlinked.state]
    exact (tripStopped_keepsRegs s degc die).trans (.of_mg hu)
  have down : ∀ p z, Map.find? u.zports p = some z → z.up = false := fun p z hz => links_down unlinked hz
  have eng : u.eng = [] := unlinked.eng rfl
  unfold KeepsRegs SameRegs at regs
  have hu := unlinked.state
  simp only [signal, onMg]
  rw [regs, hu]
  exact ⟨rfl, rfl, rfl, rfl, rfl, rfl, rfl, rfl, rfl, eng, rfl, rfl, rfl, down, by simp [Map.getD, tripRegs, reading]⟩

/-! ### Rails and resets (R5, R32, R36) -/

theorem exec_railsGood (s : State) :
    exec .railsGood s = .next { s with mg := { s.mg with railMain := true, railAux := true, pgood := true } } := rfl

/-- What every reset keeps of the management registers. -/
def keptRegs (m : Mgmt) : Mgmt := { State.reset.mg with
  railMain := m.railMain
  railAux := m.railAux
  pgood := m.pgood
  msix := m.msix
  fabricNo := m.fabricNo
  routes := m.routes
  removed := m.removed
  apertureSize := m.apertureSize
  streamCap := m.streamCap
  flash := m.flash }

/-- The state after a reset that keeps no device memory. -/
def coldState (s : State) (m : Mgmt) : State := { State.reset with
  tape := s.tape
  tick := s.tick
  free := s.free
  hostMem := s.hostMem
  ckpt := s.ckpt
  mg := m }

theorem resetKeep_cold (s : State) : resetKeep s true = coldState s (keptRegs s.mg) := by
  simp [resetKeep, coldState, keptRegs, State.reset]

theorem exec_coldReset (s : State) : exec .coldReset s = .next (coldState s (keptRegs s.mg)) :=
  congrArg Host.Outcome.next (resetKeep_cold s)

theorem exec_railRemoved (rail : Nat) (s : State) :
    exec (.railRemoved rail) s = .next (coldState s { keptRegs s.mg with
      railMain := s.mg.railMain && rail != 0, railAux := s.mg.railAux && rail == 0, pgood := false }) := by
  have e : exec (.railRemoved rail) s = .next (onMg (resetKeep s true) _) := rfl
  rw [e, resetKeep_cold]
  rfl

/-- What a host reset finds: launches not yet complete have reported RESET, unless a trip has ended them. -/
def beforeHostReset (s : State) : State := if s.mg.tripped then s else lastWrites (abortRuns s 0x13)

theorem exec_hostReset (s : State) : exec .hostReset s = .next (resetKeep (beforeHostReset s) false) := rfl

theorem beforeHostReset_keepsRegs (s : State) : KeepsRegs s (beforeHostReset s) := by
  unfold beforeHostReset
  split
  · exact .refl s
  · exact (abortRuns_keepsRegs s 0x13).trans (.of_mg (lastWrites_mg _))

theorem beforeHostReset_idle {s : State} (runs : s.runs = []) (ports : ∀ p < 4, lqAt s p = [] ∧ spillAt s p = [])
    (stalled : s.stalled = []) (devQ : s.devQ = []) : beforeHostReset s = s := by
  unfold beforeHostReset
  rw [abortRuns_idle runs ports stalled, lastWrites_idle devQ, ite_self]

/-- A host reset empties the cores and keeps the counts that stand until a cold reset, and outside a trip device memory. -/
theorem hostReset_keeps (s : State) :
    ∃ t, exec .hostReset s = .next t ∧ t.paths = [] ∧ t.gangs = [] ∧ t.crews = [] ∧ t.runs = [] ∧ t.plain = [] ∧
      t.mg = { keptRegs s.mg with
        tempTrips := s.mg.tempTrips
        apErr := s.mg.apErr
        lpErr := s.mg.lpErr
        errRing := s.mg.errRing
        errCnt := s.mg.errCnt } ∧
      (s.mg.tripped = true → t.mem = []) ∧
      (s.mg.tripped = false → s.runs = [] → (∀ p < 4, lqAt s p = [] ∧ spillAt s p = []) → s.stalled = [] → s.devQ = [] →
        t.mem = s.mem ∧ t.poison = s.poison) := by
  have regs := beforeHostReset_keepsRegs s
  unfold KeepsRegs SameRegs at regs
  refine ⟨_, exec_hostReset s, rfl, rfl, rfl, rfl, rfl, ?_, fun tripped => ?_, fun live runs ports stalled devQ => ?_⟩
  · simp only [resetKeep]
    rw [regs]
    rfl
  · simp only [resetKeep]
    rw [regs]
    simp [tripped]
  · rw [beforeHostReset_idle runs ports stalled devQ]
    simp [resetKeep, live]

end Sys2Proof.Machine
end

section
/-! PROOFS. Firmware and its checks (R65 to R67), readiness (R54), training of dies (R55, R56). -/

namespace Sys2Proof.Machine

/-! ### What every change of the firmware's state does -/

/-- Only management registers differ, and vector 0 has been signalled once more. -/
def Tells (s t : State) : Prop := t = { s with mg := t.mg } ∧ Map.getD t.mg.msix 0 0 = Map.getD s.mg.msix 0 0 + 1

/-- The image runs: state, version, and the measurement of header and body. -/
def RunsImage (s t : State) (img : Map Byte) (rec' : Bool) : Prop :=
  t.mg.fwState = 1 ∧ t.mg.fwSvn = imageSvn img ∧ t.mg.fwRec = rec' ∧ t.mg.m1 = measure s.mg.m1 (sha512 (imageBytes img))

/-- What a change of FWSTAT does: its STATE and REASON, vector 0, and nothing else. -/
structure FwstatChange (s t : State) (st reason : Nat) : Prop where
  only : t = { s with mg := t.mg }
  state : t.mg.fwState = st
  reason : t.mg.fwReason = reason
  msix : t.mg.msix = Map.put s.mg.msix 0 (Map.getD s.mg.msix 0 0 + 1)
  m0 : t.mg.m0 = s.mg.m0
  m1 : t.mg.m1 = s.mg.m1
  svn : t.mg.fwSvn = s.mg.fwSvn
  recovered : t.mg.fwRec = s.mg.fwRec
  toFlash : t.mg.fwToFlash = s.mg.fwToFlash
  staging : t.mg.staging = s.mg.staging
  flash : t.mg.flash = s.mg.flash
  copy : t.mg.fwCopy = s.mg.fwCopy

theorem fwGoes_change (s : State) (st reason : Nat) : FwstatChange s (fwGoes s st reason) st reason :=
  ⟨rfl, rfl, rfl, rfl, rfl, rfl, rfl, rfl, rfl, rfl, rfl, rfl⟩

/-- A change of FWSTAT after a change of management registers that signals nothing. -/
theorem FwstatChange.tells {s t : State} {m : Mgmt} {st reason : Nat} (g : FwstatChange { s with mg := m } t st reason)
    (h : m.msix = s.mg.msix) : Tells s t := by
  refine ⟨g.only, ?_⟩
  rw [g.msix]
  simp [Map.getD, h]

/-- The state with the measurement, version and recovery bit of an image. -/
def withImage (s : State) (x : BitVec 512) (v : Word) (rec' : Bool) : State :=
  { s with mg := { s.mg with m1 := x, fwSvn := v, fwRec := rec' } }

theorem withImage_regs (s : State) (x : BitVec 512) (v : Word) (rec' : Bool) :
    (withImage s x v rec').mg.m1 = x ∧ (withImage s x v rec').mg.fwSvn = v ∧ (withImage s x v rec').mg.fwRec = rec' ∧
      (withImage s x v rec').mg.msix = s.mg.msix ∧ (withImage s x v rec').mg.m0 = s.mg.m0 ∧
      (withImage s x v rec').mg.flash = s.mg.flash := ⟨rfl, rfl, rfl, rfl, rfl, rfl⟩

theorem fwStart_eq (s : State) (img : Map Byte) (rec' : Bool) (reason : Nat) : fwStart s img rec' reason =
    fwGoes (withImage s (measure s.mg.m1 (sha512 (imageBytes img))) (imageSvn img) rec') 1 reason := rfl

/-- What the start of an image does, after a change of management registers that leaves M1 and the vectors alone. -/
theorem fwStart_starts {s : State} {m : Mgmt} (m1 : m.m1 = s.mg.m1) (msix : m.msix = s.mg.msix) (img : Map Byte)
    (rec' : Bool) (reason : Nat) :
    let t := fwStart { s with mg := m } img rec' reason
    Tells s t ∧ RunsImage s t img rec' ∧ t.mg.fwReason = reason ∧ t.mg.m0 = m.m0 ∧ t.mg.flash = m.flash := by
  intro t
  have ht : t = fwGoes (withImage { s with mg := m } (measure m.m1 (sha512 (imageBytes img))) (imageSvn img) rec') 1 reason :=
    fwStart_eq ..
  clear_value t
  rw [m1] at ht
  unfold RunsImage
  generalize measure s.mg.m1 (sha512 (imageBytes img)) = x at ht ⊢
  generalize imageSvn img = v at ht ⊢
  have g := fwGoes_change (withImage { s with mg := m } x v rec') 1 reason
  rw [← ht] at g
  obtain ⟨hx, hv, hr, hmsix, hm0, hflash⟩ := withImage_regs { s with mg := m } x v rec'
  exact ⟨g.tells (s := s) (hmsix.trans msix), ⟨g.state, g.svn.trans hv, g.recovered.trans hr, g.m1.trans hx⟩, g.reason,
    g.m0.trans hm0, g.flash.trans hflash⟩

/-! ### The check of the image in flash -/

/-- The boot check acts only once power is good and before firmware has been checked. -/
theorem bootImageCheck_fixed {s : State} (h : s.mg.pgood = false ∨ s.mg.fwState ≠ 0) (reason : Nat) (svn : BitVec 32) :
    exec (.bootImageCheck reason svn) s = .next s := by
  have e : execBootImageCheck reason svn s = event s _ := rfl
  exact next_of_fixed e (if_pos (h.imp_left fun off => by rw [off]; rfl))

/-- The state with a measurement in M0. -/
def withM0 (s : State) (x : BitVec 512) : State := { s with mg := { s.mg with m0 := x } }

theorem withM0_regs (s : State) (x : BitVec 512) :
    (withM0 s x).mg.m0 = x ∧ (withM0 s x).mg.m1 = s.mg.m1 ∧ (withM0 s x).mg.msix = s.mg.msix ∧
      (withM0 s x).mg.flash = s.mg.flash := ⟨rfl, rfl, rfl, rfl⟩

theorem romMeasured_eq (s : State) : onMg s (fun m => { m with m0 := measure m.m0 Config.romDigest }) =
    withM0 s (measure s.mg.m0 Config.romDigest) := rfl

theorem bootImageCheck_runs {s : State} {reason : Nat} {svn : BitVec 32} (live : s.mg.tripped = false)
    (power : s.mg.pgood = true) (unchecked : s.mg.fwState = 0)
    (version : imageReason s.mg.flash reason = 0 → svn = imageSvn s.mg.flash) :
    exec (.bootImageCheck reason svn) s = .next (if imageReason s.mg.flash reason = 0
      then fwStart (withM0 s (measure s.mg.m0 Config.romDigest)) s.mg.flash false 0
      else fwGoes (withM0 s (measure s.mg.m0 Config.romDigest)) 2 (imageReason s.mg.flash reason)) := by
  have e : execBootImageCheck reason svn s = event s _ := rfl
  have acts : ¬ ((!s.mg.pgood) = true ∨ s.mg.fwState ≠ 0) := by simp [power, unchecked]
  have versionOk : ¬ (imageReason s.mg.flash reason = 0 ∧ svn ≠ imageSvn s.mg.flash) := fun ⟨h, bad⟩ => bad (version h)
  have run := next_of_event e live
  dsimp only at run
  rw [if_neg acts, if_neg versionOk, romMeasured_eq, (withM0_regs ..).2.2.2] at run
  exact run

/-- The image in flash starts, or the first reason that applies is reported; M0 takes the digest of the ROM. -/
theorem bootImageCheck_checks {s : State} {reason : Nat} {svn : BitVec 32} (live : s.mg.tripped = false)
    (power : s.mg.pgood = true) (unchecked : s.mg.fwState = 0)
    (version : imageReason s.mg.flash reason = 0 → svn = imageSvn s.mg.flash) :
    ∃ t, exec (.bootImageCheck reason svn) s = .next t ∧ Tells s t ∧ t.mg.m0 = measure s.mg.m0 Config.romDigest ∧
      (imageReason s.mg.flash reason = 0 → RunsImage s t s.mg.flash false ∧ t.mg.fwReason = 0) ∧
      (imageReason s.mg.flash reason ≠ 0 →
        t.mg.fwState = 2 ∧ t.mg.fwReason = imageReason s.mg.flash reason ∧ t.mg.m1 = s.mg.m1) := by
  rw [bootImageCheck_runs live power unchecked version]
  generalize measure s.mg.m0 Config.romDigest = x
  generalize imageReason s.mg.flash reason = why
  obtain ⟨hx, hm1, hmsix, -⟩ := withM0_regs s x
  by_cases good : why = 0
  · rw [if_pos good]
    obtain ⟨tells, runs, noReason, m0, -⟩ := fwStart_starts (s := s) hm1 hmsix s.mg.flash false 0
    exact ⟨_, rfl, tells, m0.trans hx, fun _ => ⟨runs, noReason⟩, fun bad => absurd good bad⟩
  · rw [if_neg good]
    have g := fwGoes_change (withM0 s x) 2 why
    exact ⟨_, rfl, g.tells hmsix, g.m0.trans hx, fun h => absurd h good, fun _ => ⟨g.state, g.reason, g.m1.trans hm1⟩⟩

/-! ### The check of a staged image -/

theorem fwCheckDone_fixed {s : State} (checking : s.mg.fwState ≠ 3) (writing : s.mg.fwState ≠ 5) (reason : Nat)
    (svn : BitVec 32) : exec (.fwCheckDone reason svn) s = .next s := by
  have e : execFwCheckDone reason svn s = event s _ := rfl
  exact next_of_fixed e ((if_neg checking).trans (if_neg writing))

/-- A staged image is refused with the first reason that applies, or starts, or is copied to be written to flash. -/
theorem fwCheckDone_checks {s : State} {reason : Nat} {svn : BitVec 32} (live : s.mg.tripped = false)
    (checking : s.mg.fwState = 3) (version : imageReason s.mg.staging reason = 0 → svn = imageSvn s.mg.staging) :
    ∃ t, exec (.fwCheckDone reason svn) s = .next t ∧ Tells s t ∧ t.mg.flash = s.mg.flash ∧
      (imageReason s.mg.staging reason ≠ 0 → t.mg.fwState = 4 ∧ t.mg.fwReason = imageReason s.mg.staging reason) ∧
      (imageReason s.mg.staging reason = 0 → t.mg.fwReason = 0 ∧
        if s.mg.fwToFlash then t.mg.fwState = 5 ∧ t.mg.fwCopy = s.mg.staging else RunsImage s t s.mg.staging true) := by
  have e : execFwCheckDone reason svn s = event s _ := rfl
  have run := next_of_event e live
  dsimp only at run
  rw [if_pos checking] at run
  by_cases good : imageReason s.mg.staging reason = 0
  · rw [if_neg (fun bad => bad good), if_neg (fun bad => bad (version good))] at run
    cases copy : s.mg.fwToFlash with
    | true =>
      rw [if_pos copy] at run
      have g := fwGoes_change (onMg s (fun m => { m with fwCopy := m.staging })) 5 0
      exact ⟨_, run, g.tells rfl, g.flash, fun bad => absurd good bad, fun _ => ⟨g.reason, g.state, g.copy⟩⟩
    | false =>
      rw [if_neg (by simp [copy])] at run
      obtain ⟨tells, runs, noReason, -, flash⟩ := fwStart_starts (s := s) (m := s.mg) rfl rfl s.mg.staging true 0
      exact ⟨_, run, tells, flash, fun bad => absurd good bad, fun _ => ⟨noReason, runs⟩⟩
  · rw [if_pos good] at run
    generalize imageReason s.mg.staging reason = why at run good ⊢
    have g := fwGoes_change s 4 why
    exact ⟨_, run, g.tells (m := s.mg) rfl, g.flash, fun _ => ⟨g.state, g.reason⟩, fun h => absurd h good⟩

theorem flashWritten_eq (s : State) (failed : Bool) : onMg s (fun m => { m with flash := flashAfter s m.fwCopy failed }) =
    { s with mg := { s.mg with flash := flashAfter s s.mg.fwCopy failed } } := rfl

/-- The verified copy starts once the write has ended; the flash holds it unless the write failed. -/
theorem fwCheckDone_written {s : State} (live : s.mg.tripped = false) (writing : s.mg.fwState = 5) (reason : Nat)
    (svn : BitVec 32) :
    ∃ t, exec (.fwCheckDone reason svn) s = .next t ∧ Tells s t ∧ RunsImage s t s.mg.fwCopy true ∧
      t.mg.fwReason = (if reason = 6 then 6 else 0) ∧ (reason ≠ 6 → t.mg.flash = s.mg.fwCopy) := by
  have e : execFwCheckDone reason svn s = event s _ := rfl
  have run := next_of_event e live
  dsimp only at run
  rw [if_neg (by simp [writing]), if_pos writing, flashWritten_eq] at run
  have written (ok : reason ≠ 6) : flashAfter s s.mg.fwCopy (reason == 6) = s.mg.fwCopy := if_neg (by simpa using ok)
  generalize flashAfter s s.mg.fwCopy (reason == 6) = flash at run written
  obtain ⟨tells, runs, why, -, hflash⟩ := fwStart_starts (s := s) (m := { s.mg with flash := flash }) rfl rfl s.mg.fwCopy true
    (if reason = 6 then 6 else 0)
  exact ⟨_, run, tells, runs, why, fun ok => hflash.trans (written ok)⟩

/-! ### FWLOAD and readiness -/

/-- A load command that finds the firmware waiting or refused starts a check, with or without a write of the flash. -/
theorem writeFwload_starts {s : State} (waits : s.mg.fwState = 2 ∨ s.mg.fwState = 4) {cmd : Nat} (h : cmd = 1 ∨ cmd = 3) :
    writeFwload s cmd = fwGoes (onMg s (fun m => { m with fwToFlash := cmd == 3 })) 3 s.mg.fwReason := if_pos ⟨waits, h⟩

theorem writeFwload_ignored {s : State} (h : s.mg.fwState ≠ 2 ∧ s.mg.fwState ≠ 4) (cmd : Nat) : writeFwload s cmd = s :=
  if_neg fun ⟨waits, _⟩ => waits.elim h.1 h.2

/-- Both load commands as one: the command and whether the flash is to be written. -/
theorem fwload_starts {s : State} {i : Instr} {cmd : Nat} (e : exec i s = hostEvent s (fun s => writeFwload s cmd))
    (h : cmd = 1 ∨ cmd = 3) :
    (s.mg.tripped = false → arrives s = true → (s.mg.fwState = 2 ∨ s.mg.fwState = 4) → ∃ t, exec i s = .next t ∧
      t = { s with mg := t.mg } ∧ t.mg.fwState = 3 ∧ t.mg.fwToFlash = (cmd == 3) ∧ t.mg.fwReason = s.mg.fwReason ∧
      t.mg.staging = s.mg.staging) ∧
    (arrives s = false ∨ (s.mg.fwState ≠ 2 ∧ s.mg.fwState ≠ 4) → exec i s = .next s) := by
  constructor
  · intro live here waits
    rw [next_of_hostEvent e live here, writeFwload_starts waits h]
    generalize (cmd == 3) = b
    have g := fwGoes_change (onMg s (fun m => { m with fwToFlash := b })) 3 s.mg.fwReason
    exact ⟨_, rfl, g.only, g.state, g.toFlash, g.reason, g.staging⟩
  · intro stays
    exact next_of_fixed_hostEvent e (stays.imp_right (writeFwload_ignored · cmd))

/-- The function becomes ready once power is good and firmware has been checked. -/
theorem perstDeassert_ready {s : State} (live : s.mg.tripped = false) (power : s.mg.pgood = true) (checked : s.mg.fwState ≠ 0) :
    exec .perstDeassert s = .next { s with mg := { s.mg with hostReady := true } } := by
  have e : execPerstDeassert s = event s _ := rfl
  exact (next_of_event e live).trans (congrArg _ (if_pos ⟨power, checked⟩))

theorem perstDeassert_fixed {s : State} (h : s.mg.pgood = false ∨ s.mg.fwState = 0) : exec .perstDeassert s = .next s := by
  have e : execPerstDeassert s = event s _ := rfl
  refine next_of_fixed e (if_neg fun ⟨power, checked⟩ => ?_)
  rcases h with off | unchecked
  · simp [off] at power
  · exact checked unchecked

/-! ### Training of dies -/

theorem training_fixed {s : State} {d : Nat} (h : s.mg.fwState ≠ 1 ∨ nextDie s ≠ some d) :
    exec (.dieTrained d) s = .next s ∧ exec (.dieTrainFail d) s = .next s := by
  have trained : execDieTrained d s = event s _ := rfl
  have failed : execDieTrainFail d s = event s _ := rfl
  exact ⟨next_of_fixed trained (if_pos h), next_of_fixed failed (if_pos h)⟩

/-- Dies train in order: the next is the first that is neither trained nor failed. -/
theorem nextDie_of_first {s : State} {d : Nat} (hd : d < 8) (untrained : s.mg.dieTrained.getLsbD d = false)
    (sound : s.mg.dieFail.getLsbD d = false)
    (before : ∀ j < d, s.mg.dieTrained.getLsbD j = true ∨ s.mg.dieFail.getLsbD j = true) : nextDie s = some d := by
  unfold nextDie
  rw [List.find?_range_eq_some]
  refine ⟨by simp [untrained, sound], List.mem_range.mpr hd, fun j hj => ?_⟩
  rcases before j hj with h | h <;> simp [h]

theorem firstDeal_mg (s : State) : (firstDeal s).mg = s.mg := by
  unfold firstDeal
  split <;> rfl

theorem firstDeal_of_dealt {s : State} (h : s.deal ≠ []) : firstDeal s = s := if_neg (by simpa using h)

/-- The first deal takes the cores that have not left service. -/
theorem mem_firstDeal {s : State} (h : s.deal = []) (c : Nat) :
    c ∈ (firstDeal s).deal ↔ c < 128 ∧ c ∉ s.mg.removed ∧ s.mg.dieFail.getLsbD (c / 16) = false := by
  simp [firstDeal, h]

theorem getLsbD_or_one_shiftLeft (x : BitVec 8) {d j : Nat} (hj : j < 8) :
    (x ||| (1#8 <<< d)).getLsbD j = (x.getLsbD j || j == d) := by
  rcases Nat.lt_trichotomy j d with hlt | heq | hgt
  · simp [hj, hlt, Nat.ne_of_lt hlt]
  · subst heq
    simp [hj]
  · have : j - d ≠ 0 := by omega
    simp [hj, Nat.ne_of_gt hgt, this]

theorem dieTrained_trains {s : State} {d : Nat} (live : s.mg.tripped = false) (runs : s.mg.fwState = 1)
    (turn : nextDie s = some d) :
    ∃ t, exec (.dieTrained d) s = .next t ∧ t.mg.svcRed = true ∧
      (∀ j < 8, t.mg.dieTrained.getLsbD j = (s.mg.dieTrained.getLsbD j || j == d)) ∧
      t.mg.dieFail = s.mg.dieFail ∧ Map.find? t.pool (d * 2 ^ 20) = some Config.framesPerDie ∧
      (s.deal ≠ [] → t.deal = s.deal) ∧ (s.deal = [] → ∀ c, c ∈ t.deal ↔ c < 128 ∧ c ∉ s.mg.removed ∧
        s.mg.dieFail.getLsbD (c / 16) = false) := by
  have e : execDieTrained d s = event s _ := rfl
  have trains : ¬ (s.mg.fwState ≠ 1 ∨ nextDie s ≠ some d) := by simp [runs, turn]
  have run := next_of_event e live
  dsimp only at run
  rw [if_neg trains] at run
  refine ⟨_, run, rfl, fun j hj => ?_, ?_, Map.find?_put .., fun dealt => ?_, fun fresh c => mem_firstDeal fresh c⟩
  · simp only [onMg, firstDeal_mg]
    exact getLsbD_or_one_shiftLeft _ hj
  · simp only [onMg, firstDeal_mg]
  · simp only [onMg, firstDeal_of_dealt dealt]

theorem redeal_mg (s : State) : (redeal s).mg = s.mg := by
  unfold redeal
  split <;> rfl

/-- A failure of training is counted; the third marks the die. -/
theorem dieTrainFail_counts {s : State} {d : Nat} (live : s.mg.tripped = false) (runs : s.mg.fwState = 1)
    (turn : nextDie s = some d) :
    ∃ t, exec (.dieTrainFail d) s = .next t ∧ Map.getD t.mg.trainTries d 0 = Map.getD s.mg.trainTries d 0 + 1 ∧
      t.mg.dieTrained = s.mg.dieTrained ∧
      ∀ j < 8, t.mg.dieFail.getLsbD j = (s.mg.dieFail.getLsbD j || (j == d && decide (2 ≤ Map.getD s.mg.trainTries d 0))) := by
  have e : execDieTrainFail d s = event s _ := rfl
  have fails : ¬ (s.mg.fwState ≠ 1 ∨ nextDie s ≠ some d) := by simp [runs, turn]
  have run := next_of_event e live
  dsimp only at run
  rw [if_neg fails] at run
  have tries : Map.getD (firstDeal s).mg.trainTries d 0 = Map.getD s.mg.trainTries d 0 := by rw [firstDeal_mg]
  by_cases few : Map.getD s.mg.trainTries d 0 + 1 < 3
  · rw [if_pos (by rw [tries]; exact few)] at run
    refine ⟨_, run, ?_, ?_, fun j hj => ?_⟩
    · simp [onMg, firstDeal_mg, Map.getD]
    · simp only [onMg, firstDeal_mg]
    · have : ¬ 2 ≤ Map.getD s.mg.trainTries d 0 := by omega
      simp [onMg, firstDeal_mg, this]
  · rw [if_neg (by rw [tries]; exact few)] at run
    refine ⟨_, run, ?_, ?_, fun j hj => ?_⟩
    · simp [redeal_mg, onMg, firstDeal_mg, Map.getD]
    · simp only [redeal_mg, onMg, firstDeal_mg]
    · have : 2 ≤ Map.getD s.mg.trainTries d 0 := by omega
      simp only [redeal_mg, onMg, firstDeal_mg, this, decide_true, Bool.and_true]
      exact getLsbD_or_one_shiftLeft _ hj

/-! ### The statement -/

/-- Settles O58: demands, trip, rails, resets, firmware and training, each as the lemmas above say it. -/
theorem powerAndBringup : Obligations.PowerAndBringup := by
  refine ⟨fun s degc die watts => ?_, fun s reason svn => ?_, fun s d => training_fixed, ?_⟩
  · refine ⟨fun live => ?_, ⟨exec_thermalTrip_cool, thermalTrip_hot⟩, exec_railsGood s,
      exec_coldReset s, ?_, ?_, hostReset_keeps s⟩
    · obtain ⟨up, down, same⟩ := clock_moves live
      obtain ⟨rise, noRise, fall, noFall⟩ := thermal_demands live degc die
      exact ⟨up, down, same, rise, noRise, fall, noFall, power_demands live watts⟩
    · rw [exec_railRemoved]; simp [coldState, keptRegs]
    · rw [exec_railRemoved]; simp [coldState, keptRegs]
  · refine ⟨fun h => bootImageCheck_fixed h reason svn, bootImageCheck_checks,
      ⟨fun checking writing => fwCheckDone_fixed checking writing reason svn, fwCheckDone_checks,
        fun live writing => fwCheckDone_written live writing reason svn⟩, ?_, perstDeassert_ready, perstDeassert_fixed⟩
    intro x hx
    simp only [List.mem_cons, List.not_mem_nil, or_false] at hx
    rcases hx with rfl | rfl
    · exact fwload_starts (cmd := 1) rfl (.inl rfl)
    · exact fwload_starts (cmd := 3) rfl (.inr rfl)
  · intro s d live runs hd untrained sound before
    have turn := nextDie_of_first hd untrained sound before
    exact ⟨dieTrained_trains live runs turn, dieTrainFail_counts live runs turn⟩

end Sys2Proof.Machine
end

section
/-! PROOFS. Elements of packed registers: residues, values with their sign, clamping and joining (R15, R220, R221). -/

namespace Sys2Proof.Machine

/-- The ends of a type's range. -/
def ITy.lo (t : ITy) : Int := if t.sg then -(2 ^ (t.w - 1) : Nat) else 0
def ITy.hi (t : ITy) : Int := if t.sg then (2 ^ (t.w - 1) : Nat) - 1 else (2 ^ t.w : Nat) - 1

/-! ### Values of a pattern -/

theorem testBit_top_iff {w y : Nat} (hw : 0 < w) (hy : y < 2 ^ w) : y.testBit (w - 1) = true ↔ 2 ^ (w - 1) ≤ y := by
  obtain ⟨v, rfl⟩ : ∃ v, w = v + 1 := ⟨w - 1, by omega⟩
  rw [Nat.add_sub_cancel]
  refine ⟨Nat.ge_two_pow_of_testBit, fun h => ?_⟩
  exact Nat.testBit_of_two_pow_le_and_two_pow_add_one_gt h hy

theorem two_pow_eq_add_half {w : Nat} (hw : 0 < w) : 2 ^ w = 2 ^ (w - 1) + 2 ^ (w - 1) := by
  rw [← Nat.two_mul, ← Nat.pow_succ', Nat.succ_eq_add_one, Nat.sub_add_cancel hw]

/-- The pattern itself below half of the range, less 2^w from there on. -/
theorem sext_of_lt {w y : Nat} (hw : 0 < w) (hy : y < 2 ^ w) :
    sext w y = if 2 ^ (w - 1) ≤ y then (y : Int) - (2 ^ w : Nat) else y := by
  simp only [sext, testBit_top_iff hw hy, Nat.mod_eq_of_lt hy]

theorem valOf_mod {w y : Nat} (sg : Bool) (hw : 0 < w) (hy : y < 2 ^ w) : valOf sg w y % (2 ^ w : Nat) = (y : Int) := by
  have small : (y : Int) % (2 ^ w : Nat) = y := Int.emod_eq_of_lt (by omega) (by omega)
  cases sg with
  | false => simpa [valOf, Nat.mod_eq_of_lt hy] using small
  | true =>
    simp only [valOf, if_true, sext_of_lt hw hy]
    split
    · rw [Int.sub_emod_right, small]
    · exact small

theorem valOf_range {t : ITy} {y : Nat} (hw : 0 < t.w) (hy : y < 2 ^ t.w) :
    t.lo ≤ valOf t.sg t.w y ∧ valOf t.sg t.w y ≤ t.hi := by
  have half := two_pow_eq_add_half hw
  cases hsg : t.sg with
  | false =>
    simp only [ITy.lo, ITy.hi, valOf, hsg, Nat.mod_eq_of_lt hy, Bool.false_eq_true, if_false]
    omega
  | true =>
    simp only [ITy.lo, ITy.hi, valOf, hsg, if_true, sext_of_lt hw hy]
    split <;> omega

/-! ### Wrapping and clamping -/

theorem wrapI_cast (w : Nat) (r : Int) : (wrapI w r : Int) = r % (2 ^ w : Nat) :=
  Int.toNat_of_nonneg (Int.emod_nonneg r (by have := Nat.two_pow_pos w; omega))

theorem ITy.lo_le_hi (t : ITy) : t.lo ≤ t.hi := by
  have half := Nat.two_pow_pos (t.w - 1)
  have whole := Nat.two_pow_pos t.w
  unfold ITy.lo ITy.hi
  split <;> omega

theorem clampI_eq (t : ITy) (r : Int) : clampI t.sg t.w r = if r < t.lo then t.lo else if t.hi < r then t.hi else r := rfl

theorem clampI_cases (t : ITy) (r : Int) :
    (t.lo ≤ r → r ≤ t.hi → clampI t.sg t.w r = r) ∧ (r < t.lo → clampI t.sg t.w r = t.lo) ∧
      (t.hi < r → clampI t.sg t.w r = t.hi) := by
  have ends := t.lo_le_hi
  rw [clampI_eq]
  refine ⟨fun low high => ?_, fun low => if_pos low, fun high => ?_⟩
  · rw [if_neg (by omega), if_neg (by omega)]
  · rw [if_neg (by omega), if_pos high]

/-! ### Elements that are joined -/

/-- Element `i` of joined elements is the one joined at that place. -/
theorem joinE_element {w : Nat} (xs : List Nat) (small : ∀ x ∈ xs, x < 2 ^ w) (i : Nat) (hi : i < xs.length) :
    joinE w xs / 2 ^ (w * i) % 2 ^ w = xs[i] := by
  induction xs generalizing i with
  | nil => exact absurd hi (Nat.not_lt_zero i)
  | cons x xs ih =>
    have hx : x < 2 ^ w := small x (List.mem_cons_self ..)
    cases i with
    | zero => simp [joinE, Nat.mod_eq_of_lt hx]
    | succ i =>
      have tail : (x + 2 ^ w * joinE w xs) / 2 ^ w = joinE w xs := by
        rw [Nat.add_mul_div_left _ _ (Nat.two_pow_pos w), Nat.div_eq_of_lt hx, Nat.zero_add]
      rw [joinE, Nat.mul_succ, Nat.add_comm (w * i), Nat.pow_add, ← Nat.div_div_eq_div_mul, tail]
      exact ih (fun y hy => small y (List.mem_cons_of_mem _ hy)) i (Nat.lt_of_succ_lt_succ hi)

theorem elemU_perElem (t : ITy) (f : Nat → Nat) (small : ∀ j, f j < 2 ^ t.w) {i : Nat} (hi : i < t.n) :
    elemU t (perElem t f) i = f i := by
  have len : i < ((List.range t.n).map f).length := by simpa using hi
  rw [elemU, perElem, joinE_element _ (by simpa using fun j _ => small j) i len]
  simp

/-! ### The types -/

theorem ityOf_w_pos (code : BitVec 4) : 0 < (ityOf code).w := by revert code; decide
/-- The elements of a type fill its registers. -/
theorem ityOf_fills (code : BitVec 4) : (ityOf code).w * (ityOf code).n = 32 * iw code := by revert code; decide

/-- Settles O20: an element is a residue modulo 2^w, its value the residue's representative in the type's range; the rest are the
lemmas on wrapping, clamping and joining. -/
theorem elementValues : Obligations.ElementValues := by
  intro code
  have hw := ityOf_w_pos code
  refine ⟨fun x i => ?_, wrapI_cast _, clampI_cases _, fun f i small => elemU_perElem _ f small, ityOf_fills code⟩
  have residue : elemU (ityOf code) x i < 2 ^ (ityOf code).w := Nat.mod_lt _ (Nat.two_pow_pos _)
  obtain ⟨low, high⟩ := valOf_range hw residue
  exact ⟨residue, low, high, valOf_mod _ hw residue⟩

end Sys2Proof.Machine
end

section
/-! PROOFS. A step and the instruction or event it runs (R20, R75, R85, R100, R254, R269). -/

namespace Sys2Proof.Machine

/-! ### The choice of a step -/

/-- The state in which a step chooses: the tick counted, the records of ended tags written, time passed (R76, R100). -/
def atChoice (s : State) : State := elapse { lensSettle s with tick := s.tick + 1 }

theorem step_of_run {s t : State} {i : Instr} (h : choose s = .run i t) : step s = exec i t := by rw [step, h]

theorem choose_issue {s : State} {q : Nat} {rest : List Move} (h : (atChoice s).tape = .issue q :: rest) :
    choose s = issueQuad { atChoice s with tape := rest } q := by
  unfold atChoice at h ⊢
  simp only [choose, h]

theorem choose_event {s : State} {i : Instr} {rest : List Move} (h : (atChoice s).tape = .event i :: rest)
    (he : encode i = none) : choose s = .run i { atChoice s with tape := rest } := by
  unfold atChoice at h ⊢
  simp only [choose, h, isEvent, he, Option.isNone_none, if_true]

/-- A quadrant whose selected path stands at a word runs the instruction the word decodes to. -/
theorem issueQuad_of_word {s : State} {q pk : Nat} {p : Path} {cl : Clause} {w : DWord} {i : Instr}
    (hq : selected s q = some pk) (hp : Map.find? s.paths pk = some p) (hc : p.clause = some cl)
    (hw : cl.words[cl.slot]? = some (.word w)) (hi : decode w = some i) :
    issueQuad s q =
      .run i (landEarly (lensTry { setPath s pk { p with urgent := none } with cur := pk } pk p w.toNat) p.gang) := by
  simp only [issueQuad, hq, issuePath, hp, hc, hw, hi]

/-! ### Time and tags -/

theorem elapse_of_disabled {s : State} (h : ∀ e ∈ s.ctrs, e.2.evsel.getLsbD 31 = false) : elapse s = s := by
  have none_on : s.ctrs.filter (fun e => e.2.evsel.getLsbD 31) = [] := by
    rw [List.filter_eq_nil_iff]
    intro e he
    rw [h e he]
    exact Bool.false_ne_true
  rw [elapse, none_on]
  rfl

theorem lensSettle_of_untagged {s : State} (h : s.lensTags = []) : lensSettle s = s := by rw [lensSettle, h]

theorem lensTry_state (s : State) (pk : Nat) (p : Path) (w : Nat) :
    lensTry s pk p w = { s with lensTags := (lensTry s pk p w).lensTags, free := (lensTry s pk p w).free } := by
  unfold lensTry
  split <;> rfl

theorem lensTry_of_untagged {s : State} (h : s.lensTags = []) (pk : Nat) (p : Path) (w : Nat) : lensTry s pk p w = s := by
  rw [lensTry, h]
  rfl

/-! ### Register writes that are seen already -/

/-- `w` is a register write of an outstanding operation of `g` (R20). -/
def DueWrite (g : Gang) (w : RegWrite) : Prop := ∃ o ∈ g.ops, ∃ ws, o.body = .writes ws ∧ w ∈ ws

/-- `h` is `g` after some of the register writes of `due`: every V and S register and predicate reads as before or as one of them
says, and nothing else differs. -/
structure LandsFrom (due : RegWrite → Prop) (g h : Gang) : Prop where
  rest : h = { g with v := h.v, s := h.s, p := h.p }
  vs : ∀ n l, l < 32 → rv h n l = rv g n l ∨ ∃ x, due (.v n l x) ∧ rv h n l = x.toNat
  ss : ∀ n, rs h n = rs g n ∨ ∃ x, due (.s n x) ∧ rs h n = x.toNat
  ps : ∀ n l, l < 32 → rp h n l = rp g n l ∨ ∃ b, due (.p n l b) ∧ rp h n l = b

theorem LandsFrom.refl (due : RegWrite → Prop) (g : Gang) : LandsFrom due g g :=
  ⟨rfl, fun _ _ _ => .inl rfl, fun _ => .inl rfl, fun _ _ _ => .inl rfl⟩

theorem LandsFrom.trans {due : RegWrite → Prop} {g h k : Gang} (a : LandsFrom due g h) (b : LandsFrom due h k) :
    LandsFrom due g k where
  rest := by rw [b.rest, a.rest]
  vs n l hl := (b.vs n l hl).elim (fun e => e ▸ a.vs n l hl) .inr
  ss n := (b.ss n).elim (fun e => e ▸ a.ss n) .inr
  ps n l hl := (b.ps n l hl).elim (fun e => e ▸ a.ps n l hl) .inr

/-- One register write changes the register it names alone; a lane that has exited discards it (R276). -/
theorem regWrite_lands {due : RegWrite → Prop} (g : Gang) {w : RegWrite} (hw : due w) : LandsFrom due g (regWrite g w) := by
  cases w with
  | v n l x =>
    rw [regWrite]
    split
    case isFalse => exact .refl due g
    case isTrue live =>
      refine ⟨rfl, fun n' l' hl' => ?_, fun _ => .inl rfl, fun _ _ _ => .inl rfl⟩
      rw [rv_wv g n l x.toNat n' l' (BitVec.lt_of_getLsbD live) hl']
      split
      case isTrue here =>
        obtain ⟨rfl, rfl⟩ := here
        exact .inr ⟨x, hw, Nat.mod_eq_of_lt x.isLt⟩
      case isFalse => exact .inl rfl
  | s n x =>
    rw [regWrite]
    split
    case isTrue => exact .refl due g
    case isFalse =>
      refine ⟨rfl, fun _ _ _ => .inl rfl, fun n' => ?_, fun _ _ _ => .inl rfl⟩
      rw [rs_ws]
      split
      case isTrue here =>
        subst here
        exact .inr ⟨x, hw, Nat.mod_eq_of_lt x.isLt⟩
      case isFalse => exact .inl rfl
  | p n l b =>
    rw [regWrite]
    split
    case isFalse => exact .refl due g
    case isTrue live =>
      refine ⟨rfl, fun _ _ _ => .inl rfl, fun _ => .inl rfl, fun n' l' hl' => ?_⟩
      rw [rp_wp g n l b n' l' (BitVec.lt_of_getLsbD live) hl']
      split
      case isTrue here =>
        obtain ⟨rfl, rfl⟩ := here
        exact .inr ⟨b, hw, rfl⟩
      case isFalse => exact .inl rfl

theorem foldl_regWrite_lands {due : RegWrite → Prop} (ws : List (Nat × RegWrite)) (hw : ∀ x ∈ ws, due x.2) (g : Gang) :
    LandsFrom due g (ws.foldl (fun g x => regWrite g x.2) g) := by
  induction ws generalizing g with
  | nil => exact .refl due g
  | cons w ws ih =>
    exact (regWrite_lands g (hw w (List.mem_cons_self ..))).trans (ih (fun x hx => hw x (List.mem_cons_of_mem _ hx)) _)

/-- Nothing lands, or some of the outstanding writes do, in their order. -/
theorem landEarly_cases (s : State) (k : Nat) :
    landEarly s k = s ∨ ∃ ws : List (Nat × RegWrite), (∀ x ∈ ws, DueWrite (gangAt s k) x.2) ∧
      landEarly s k = useFree (onGang s k (fun g => ws.foldl (fun g x => regWrite g x.2) g)) := by
  unfold landEarly
  split
  case h_1 => exact .inl rfl
  case h_2 w ws outstanding =>
    refine .inr ⟨_, fun x hx => ?_, rfl⟩
    have listed := (List.mem_filter.mp hx).1
    rw [← outstanding] at listed
    obtain ⟨o, ho, hx⟩ := List.mem_flatMap.mp listed
    split at hx
    case h_1 ws hb =>
      obtain ⟨w, hw, rfl⟩ := List.mem_map.mp hx
      exact ⟨o, ho, ws, hb, hw⟩
    case h_2 => exact absurd hx List.not_mem_nil

theorem gangAt_onGang_lands {due : RegWrite → Prop} {s : State} {k : Nat} {f : Gang → Gang} (h : ∀ g, LandsFrom due g (f g)) :
    LandsFrom due (gangAt s k) (gangAt (onGang s k f) k) := by
  simp only [gangAt, onGang_gangs, Map.find?_adjust_self]
  cases Map.find? s.gangs k with
  | none => exact .refl due _
  | some g => exact h g

theorem landEarly_lands (s : State) (k : Nat) :
    LandsFrom (DueWrite (gangAt s k)) (gangAt s k) (gangAt (landEarly s k) k) := by
  obtain same | ⟨ws, hws, lands⟩ := landEarly_cases s k
  · rw [same]; exact .refl _ _
  · rw [lands]; exact gangAt_onGang_lands (foldl_regWrite_lands ws hws)

/-- Nothing but the gang and the count of free values differs. -/
theorem landEarly_only (s : State) (k : Nat) :
    landEarly s k = { s with gangs := (landEarly s k).gangs, free := (landEarly s k).free } ∧
      ∀ j, j ≠ k → Map.find? (landEarly s k).gangs j = Map.find? s.gangs j := by
  obtain same | ⟨ws, -, lands⟩ := landEarly_cases s k
  · rw [same]; exact ⟨rfl, fun _ _ => rfl⟩
  · rw [lands]; exact ⟨rfl, fun j hj => Map.find?_adjust_ne _ _ hj⟩

/-- Settles O8: `choose` runs the selected path's instruction or the tape's event; what it does to the state before that is said of
time, tags and outstanding writes apart. -/
theorem stepRunsInstruction : Obligations.StepRunsInstruction := by
  refine ⟨fun s q pk rest p cl w i hq hsel hp hc hw hi => ?_, fun s i rest h he => step_of_run (choose_event h he),
    fun s tags off => ?_, fun s pk p w => ⟨_, rfl, lensTry_state s pk p w, fun h => lensTry_of_untagged h pk p w⟩,
    fun s k => ⟨_, rfl, (landEarly_only s k).1, (landEarly_only s k).2, ?_⟩⟩
  · exact step_of_run ((choose_issue hq).trans (issueQuad_of_word hsel hp hc hw hi))
  · rw [lensSettle_of_untagged tags]
    exact elapse_of_disabled off
  · obtain ⟨rest, vs, ss, ps⟩ := landEarly_lands s k
    exact ⟨rest, vs, ss, ps⟩

end Sys2Proof.Machine
end

section
/-! PROOFS. CALLX in a path table whose keys do not rise (R273, R275): remembering what its reads met can list the path once
more, and take the last free entry. -/

namespace Sys2Proof.Machine

/-! ### A transfer changes no gang -/

theorem bumpCore_gangs (s : State) (core q code n : Nat) : (bumpCore s core q code n).gangs = s.gangs := by
  rw [bumpCore_ctrs s core q code n]

theorem takeSides_gangs (s : State) (pk : Nat) (ds : List Side) : (takeSides s pk ds).gangs = s.gangs := by
  induction ds generalizing s with
  | nil => rfl
  | cons d ds ih =>
    simp only [takeSides]
    split
    · rw [ih, setPath_gangs, bumpCore_gangs]
    · rw [ih, setPath_gangs, bumpCore_gangs, bumpCore_gangs]

theorem split_gangs (s : State) (pk : Nat) (sides : List Side) : (split s pk sides).gangs = s.gangs := by
  simp only [split]
  generalize (if sides.length ≤ 1 then sides else forkSides s.nextUid sides) = ds
  cases ds with
  | nil => rfl
  | cons d ds => exact takeSides_gangs _ pk ds

/-- Without a RETT the end of a clause is its path's alone. -/
theorem endClause_gangs {s : State} {pk : Nat} (h : (pathAt s pk).rett = none) : (endClause s pk).gangs = s.gangs := by
  unfold endClause
  split
  case h_1 => rfl
  case h_2 p hp =>
    have hr : p.rett = none := by simpa [pathAt, hp] using h
    rw [hr]
    split <;> rfl

/-- A transfer that no RETT replaces moves lanes between paths and kills none (R271). -/
theorem transfer_gangs {s : State} {c : Ctx} (h : (pathAt s c.pk).rett = none) (fallFirst : Bool) (ts : List (Nat × Target)) :
    (transfer s c fallFirst ts).gangs = s.gangs := by
  simp only [transfer]
  split
  · rw [onPath_gangs, endClause_gangs h]
  · rw [split_gangs, setPath_gangs]

/-- Writing registers kills no lane. -/
theorem writes_killed {s u : State} {c : Ctx} {e : Effect} (h : Writes s u c e) : (gangAt u c.gk).killed = c.g.killed := by
  obtain ⟨_, _, _, _, _, there⟩ := h.rest
  rw [gangAt, there]
  rfl

/-! ### The counterexample -/

/-- `callx v20:v21, v3, s6:s7`. -/
def callxFields : RRR :=
  { g := { gp := 15, gn := false }, d := 20, a := 3, b := 6, c := 0, type := 0, rnd := 0, sat := false, sa := false, sb := true,
    sc := false, func := 0, sd := false }
def callxWord : DWord := 0x0100000603140F04

/-- A path of two lanes at the CALLX, which lane 0 alone executes, with both deferred sides taken. -/
def callxPath : Path :=
  { readyPath callxWord with mask := 3, limit := some 1, defer := [sideOf (readyPath callxWord), sideOf (readyPath callxWord)] }

/-- The peer's answer to lane 0's read of its entry: target address 0. -/
def callxAnswer : PeerOp :=
  { tag := 0, port := 0, op := 1, owner := .lane 0 0 0 0, addr := 0, n := 8, answer := some (leBytes 8 0), fail := none,
    sofar := [], stream := false, segs := [] }

/-- The path stands last, behind 510 others of a greater key, in a table of 512 entries; the first byte of its TARGETS entry
belongs to a release sequence (R244), which the read will remember. -/
def callxState : State :=
  { fetchReady State.reset callxWord with
    paths := List.replicate 510 (1, { readyPath callxWord with gang := 1 }) ++ [(0, callxPath)]
    peerOps := [callxAnswer]
    rels := [(3, { heads := [], now := [{ scope := 0, path := 0, gang := 0, crew := 0, cluster := 0 }] })] }

def callxCtx : Ctx :=
  { pk := 0, p := callxPath, gk := 0, g := readyGang, ck := 0, run := 0, lr := readyLaunch, act := 1,
    cl := { hdr := BitVec.ofNat 64 (addrOf 0x10 0), n := 0, cls := 0, yld := 0, sets := [], words := [.word callxWord], slot := 0,
            uid := 0 } }

theorem callx_runs : Runs (.callx callxFields) callxState callxCtx where
  stands := by decide +kernel
  checks := by decide +kernel
  together h := absurd h (by decide)
  uniform := by decide
  written := by decide

theorem callx_answered : peerOpOf (counted callxState callxCtx) callxCtx 0 = some callxAnswer := by decide +kernel

/-- The sides fit where the instruction finds the table, but not once the read is remembered: the path takes PATH_LIMIT, which
without a handler kills its lanes (R118, R142). -/
theorem callx_kills {t : State} (h : exec (.callx callxFields) callxState = .next t) : (gangAt t callxCtx.gk).killed = 3 := by
  have run : (match exec (.callx callxFields) callxState with
      | .next t => (gangAt t callxCtx.gk).killed
      | _ => 0) = 3 := by decide +kernel
  rwa [h] at run

/-- Refutes O40: where the sides of a CALLX find room in the path table as the instruction finds it, the transfer is claimed, but
`transferVia` looks for room after the reads. In a table whose keys rise that is the same; `callxState` lists its path behind greater
keys, which `Inv` does not forbid, so that `onPath` lists it a second time, no entry is left, and the path takes PATH_LIMIT. -/
theorem not_indexedBranches : ¬ Obligations.IndexedBranches := by
  intro h
  obtain ⟨-, transfers, -⟩ := h callxFields callxState callxCtx
  have lane {l : Nat} (hl : l ∈ lanes callxCtx.act) : l = 0 := by
    rw [show lanes callxCtx.act = [0] by decide] at hl
    exact List.mem_singleton.mp hl
  obtain ⟨t, v, run, ⟨-, ⟨g, hg⟩, -⟩, writes⟩ := transfers callx_runs
    (fun l hl => by
      simp only [lane hl, callx_answered]
      exact ⟨.inl rfl, rfl⟩)
    (by decide) (.inr (by decide +kernel))
  have unreturned : (pathAt v callxCtx.pk).rett = none := by
    rw [writes.only.state, pathAt, hg]
    rfl
  have killed := callx_kills run
  rw [gangAt, transfer_gangs unreturned] at killed
  exact absurd ((writes_killed writes).symm.trans killed) (by decide)

end Sys2Proof.Machine
end
